-- ==== Sys2Proof/Word.lean ====
section
/-! DEFINITION. The word types of the Oxlon P48 and their plainest arithmetic (spec 00, R4). -/

namespace Sys2Proof

/-- A register lane or memory word: 32 bits. -/
abbrev Word := BitVec 32

/-- A doubleword: a pair of registers, an address, a system register. -/
abbrev Dword := BitVec 64

/-- One byte of memory. -/
abbrev Byte := BitVec 8

/-- The pair whose low half is `lo` (R4: a pair dN holds its low half in vN). -/
abbrev joinWords (lo hi : Word) : Dword := hi ++ lo

/-- The low half of a doubleword. -/
abbrev loWord (d : Dword) : Word := d.setWidth 32

/-- The high half of a doubleword. -/
abbrev hiWord (d : Dword) : Word := (d >>> 32).setWidth 32

end Sys2Proof
end

