-- ==== Sys2Proof/Config.lean ====
section
/-! DEFINITION. What an implementation fixes, and the free values: constants that the manual leaves
open. An opaque constant has no value that a proof can see. -/

namespace Sys2Proof.Config

/-- Free word number n: a value the manual leaves open (assumption 2, DESIGN CHOICE). -/
opaque freeWord : Nat → Word

/-- Free digest, signature or key material number n: 384 bits the manual leaves open (assumption 2, DESIGN CHOICE). -/
opaque freeDigest : Nat → BitVec 384

/-- Digests of the firmware of reeve n, and of the context trap handler image (R401; assumption 2, DESIGN CHOICE). -/
opaque reeveDigest : Nat → BitVec 384
opaque handlerDigest : BitVec 384

/-- The Renide root, the device key of reeve n, the alias key that a device key and four digests give, the certificate of a
key, and the signature with a key over an island's digests, site, INC and nonce (R401, R402; assumption 2, DESIGN CHOICE). -/
opaque renideRoot : BitVec 384
opaque reeveKey : Nat → BitVec 384
opaque aliasKey : BitVec 384 → List (BitVec 384) → BitVec 384
opaque certificate : BitVec 384 → BitVec 384
opaque signed : BitVec 384 → List (BitVec 384) → Nat → Word → BitVec 256 → BitVec 384

/-- Bytes of HBM4E on a compute island, 384 GiB (00, "Units of hardware"). -/
def computeHbmBytes : Nat := 384 * 1073741824

/-- Bytes of HBM4E on a granary island, 576 GiB (00, "Units of hardware"). -/
def granaryHbmBytes : Nat := 576 * 1073741824

/-- Island-physical base of the control window (R217). -/
def windowBase : Nat := 0x0800000000000000

/-- Core cycles after which the Cellar acts for the oldest frame waiter (R155). -/
def cellarCycles : Nat := 16384

/-- Cycles an agent may be ready without issuing before it is aged (R316). -/
def agedCycles : Nat := 512

/-- Remote operations a core may have in flight (R379). -/
def remoteOpsPerCore : Nat := 1024

/-- Entries of a copy channel's queue (R286). -/
def channelEntries : Nat := 128

/-- The largest byte count of a copy or a remote transfer (R289, R378). -/
def copyLimit : Nat := 16777216

/-- Granules of a physical quarter's pool (R161). -/
def poolGranules : Nat := 256

/-- A-operand latches of a core (R273). -/
def latchCount : Nat := 32

/-- Cycles from the opening of a pass to its closing, and cycles that it occupies the array (R272). -/
def passGather : Nat := 4
def passCycles : Nat := 16

/-- Lines of 128 bytes that the L2 of a die holds: 96 MiB (R210). -/
def l2Lines : Nat := 786432

/-- Lines of 128 bytes that L3 holds: 768 MiB (R210). -/
def l3Lines : Nat := 6291456

/-- Entries of the TLB of a core, of a cluster and of a die (R223). -/
def coreTlb : Nat := 128
def clusterTlb : Nat := 2048
def dieTlb : Nat := 32768

/-- Bytes of the Commons of an island: 256 banks of 256 KiB; and the boundary on which a quota begins (R215). -/
def commonsBytes : Nat := 67108864
def commonsUnit : Nat := 16384

/-- Flits that a link key is used for at most (R407). -/
def keyFlits : Nat := 2 ^ 48

/-- Accumulator tiles, named barriers and shape-table slots of a core (R190, R261, R262). -/
def coreTiles : Nat := 256
def coreBarriers : Nat := 256
def coreShapes : Nat := 4

end Sys2Proof.Config
end

