-- ==== Sys2Proof/Syntax.lean ====
section
/-! DEFINITION. The instructions and machine steps of spec/opcode_table.json, one constructor of
`Instr` per row: 175 gang instructions, 43 short-A and 17 short-B forms, and 121 steps of the
machine's other agents (spec 95). -/

namespace Sys2Proof

/-- An operand code (R11, R14). `w k` is window slot k+1; `rsv` is the reserved code 0xFE. -/
inductive Opnd where
  | v (n : Fin 240) | z | w (k : Fin 8) | lid | gix | xm | wgx | gw | rsv | lit
  deriving DecidableEq, Repr

/-- What every long or extended instruction carries besides its own fields: the literal word of the
extended form, the guard operand, GN and NW (R32, R33, R36, R37). -/
structure Hdr where
  lit : Option Word
  g : Opnd
  gn : Bool
  nw : Bool
  deriving DecidableEq, Repr

/-- The header of an unguarded long instruction. -/
def Hdr.plain : Hdr := ⟨none, .z, false, false⟩

/-- Element width of the INT class (R39). -/
inductive IntW where | w32 | w16x2 | w8x4 | w64 deriving DecidableEq, Repr
/-- M of an INT instruction: width, sign, saturation (R39, R96). -/
structure IntMod where
  w : IntW
  s : Bool
  sat : Bool
  deriving DecidableEq, Repr
/-- Condition of ICMP and DCMP (R101). -/
inductive Cond where | eq | ne | lt | le | gt | ge deriving DecidableEq, Repr
/-- Condition of FCMP (R115). -/
inductive FCond where | eq | ne | lt | le | gt | ge | ord | unord deriving DecidableEq, Repr
/-- Element width of the BIT shifts (R106). -/
inductive ShW where | w32 | w16x2 | w8x4 deriving DecidableEq, Repr
/-- Rounding modes (R76). -/
inductive RMode where | rne | rz | ru | rd | ro deriving DecidableEq, Repr
/-- Mode and saturation of FPA and FPS (R39). -/
structure FpMod where
  mode : RMode
  sat : Bool
  deriving DecidableEq, Repr
/-- Element type of FPA and FPS (R39). -/
inductive FTy where | f32 | f16x2 | bf16x2 deriving DecidableEq, Repr
/-- Format codes (R40). -/
inductive Fmt where
  | f32 | f16 | bf16 | e4m3 | e5m2 | e2m1 | e8m0
  | s32 | n32 | s16 | n16 | s8 | n8 | s64 | n64
  deriving DecidableEq, Repr
/-- Sub-group width of the XLN class (R39, R180). -/
inductive SubW where | w2 | w4 | w8 | w16 | w32 deriving DecidableEq, Repr
/-- SHFL mode (R183). -/
inductive ShflMode where | idx | up | down | xorm deriving DecidableEq, Repr
/-- VOTE kind (R185). -/
inductive VoteKind where | any | all | ballot | same deriving DecidableEq, Repr
/-- REDG and SCAN operation (R39, R181). -/
inductive RedOp where
  | addi | mins | maxs | minn | maxn | andb | orb | xorb | addf | minf | maxf
  deriving DecidableEq, Repr
/-- JMP form (R131). -/
inductive JmpKind where | always | nz | z deriving DecidableEq, Repr
/-- MSKWR action (R151). -/
inductive MskOp where | write | push | pop | target deriving DecidableEq, Repr
/-- MEM access size (R39). -/
inductive MemSize where | b8 | b16 | b32 | b64 | b128 | s8 | s16 deriving DecidableEq, Repr
/-- Cache policy of LD and ST (R212). -/
inductive Policy where | normal | stream | keepL3 | noL1 deriving DecidableEq, Repr
/-- Scopes (R7). -/
inductive Scope where | gang | group | die | island | panel deriving DecidableEq, Repr
/-- Address spaces an instruction may name (R205). -/
inductive Space where | global | scratch | commons deriving DecidableEq, Repr
/-- CCTL operation (R225). -/
inductive CctlOp where | wb | inv | evict deriving DecidableEq, Repr
/-- Atomic operations, the pk forms included (R227). -/
inductive AtomOp where
  | add | sub | minS | maxS | minN | maxN | andb | orb | xorb | xchg | inc | dec
  | fadd | faddF16x2 | fmin | fmax | add64 | faddBf16x2
  deriving DecidableEq, Repr
/-- Width of a compare-and-swap (R226). -/
inductive CasW where | b32 | b64 deriving DecidableEq, Repr
/-- A formats of MMQ (R263). -/
inductive AFmt where | bf16 | f16 | e4m3 | e5m2 | mxe4m3 | mxe5m2 | mxe2m1 deriving DecidableEq, Repr
/-- B formats of MMQ (R263). -/
inductive BFmt where | bf16 | f16 | e4m3 | e5m2 | mxe4m3 | mxe5m2 | mxe2m1 | qc deriving DecidableEq, Repr
/-- ACCRD mode (R275). -/
inductive AccMode where | val | fp | part | cnt deriving DecidableEq, Repr

/-- A core: on a compute die, the steward of an island, or one of the reeves (R16, R18). -/
inductive CoreRef where
  | compute (site die core : Nat)
  | steward (site : Nat)
  | reeve (r : Nat)
  deriving DecidableEq, Repr

/-- An agent: a slice of the gang in a slot of a core; slice 0 stands for a joined gang (R247). -/
structure AgentRef where
  core : CoreRef
  slot : Nat
  slice : Nat
  deriving DecidableEq, Repr

/-- Who waits for the service of a page fault: an agent, its Cellar access too, or a remote operation at its target (R156,
R224, R379). -/
inductive Faulter where
  | agent (ag : AgentRef)
  | op (n : Nat)
  deriving DecidableEq, Repr

/-- Kinds of module (R374). -/
inductive ModuleKind where | none | compute | granary deriving DecidableEq, Repr

/-- A module as it is seated: its kind, the device key of its trust die, and the digests of its firmware (R401 to R403). -/
structure ModuleDesc where
  kind : ModuleKind
  device : BitVec 384
  digests : List (BitVec 384)
  deriving DecidableEq, Repr

/-- A work-list binding of a context descriptor: list number and capacity (R298). -/
structure ListBinding where
  list : Nat
  capacity : Nat
  deriving DecidableEq, Repr

/-- What the host writes for a context on one island (R164, R208, R221, R298, R311, R332, R348, R394): `frames` are the
runs of frames it gives the context, first frame and count; `clusters` those of the context's partition there; `entries` the
page-table doublewords it writes, by island-physical address; `key` the key that the trust die receives for it (R404). -/
structure IslandDesc where
  site : Nat
  root : Nat
  tvec : Dword
  pol : Dword
  cellar : Dword
  quota : Nat
  watchdog : Nat
  mapFrame : Nat
  frames : List (Nat × Nat)
  lists : List ListBinding
  clusters : List Nat
  entries : List (Nat × Dword)
  key : Nat
  deriving DecidableEq, Repr

/-- A collective group as the host defines it (R395). -/
structure GroupDesc where
  group : Nat
  mem : BitVec 48
  set : BitVec 48
  deriving DecidableEq, Repr

/-- A launch queue of a new context: ring base and size code (R305). -/
structure QueueDesc where
  base : Dword
  qsz : Nat
  deriving DecidableEq, Repr

/-- A context descriptor (R22, R207, R208, R298, R305, R348, R354, R395, R413). -/
structure ContextDesc where
  number : Nat
  iface : Nat
  psn : Bool
  twin : Bool
  debugged : Bool
  capture : Bool
  heapBase : Nat
  heapSize : Nat
  islands : List IslandDesc
  queues : List QueueDesc
  groups : List GroupDesc
  deriving DecidableEq, Repr

/-- A control-window register that a write reaches without behaviour of its own (R217, R318, R351, R370). -/
inductive WindowReg where
  | region (entry : Nat) (hi : Bool)
  | generation
  | route (entry : Nat) (hi : Bool)
  | sls (die : Nat)
  | slw (die : Nat)
  | breakpoint (core : CoreRef) (index ctx : Nat)
  deriving DecidableEq, Repr

/-- A host TLP to a device interface: a BAR0 access or a write into device memory (R398, R400); on a physical function, what
the operator asks of the presiding reeve: capture for a context, the digests approved for a plot (R397, R403, R413). -/
inductive Tlp where
  | barRead (offset : Nat)
  | barWrite (offset : Nat) (value : Word)
  | memWrite (ctx site : Nat) (address : Dword) (data : List Word)
  | capture (ctx : Nat) (on : Bool)
  | approve (plot : Nat) (digests : List (BitVec 384))
  deriving DecidableEq, Repr

/-- A header lost to an uncorrectable error: the device interface it names, and the link (site and port that send) where a
flit carried it (R347). -/
structure FailedHeader where
  iface : Nat
  hop : Option (Nat × Nat)
  deriving DecidableEq, Repr

/-- A direction of a link: the site and port that send (R369, R407). -/
structure LinkDir where
  site : Nat
  port : Nat
  deriving DecidableEq, Repr

/-- The instructions and steps of the table, one constructor a row. -/
inductive Instr where
  -- INT (05, R97)
  | iadd (h : Hdr) (md : IntMod) (d a b : Opnd)
  | isub (h : Hdr) (md : IntMod) (d a b : Opnd)
  | imul (h : Hdr) (md : IntMod) (d a b : Opnd)
  | imulh (h : Hdr) (md : IntMod) (d a b : Opnd)
  | imad (h : Hdr) (md : IntMod) (d a b c : Opnd)
  | imin (h : Hdr) (md : IntMod) (d a b : Opnd)
  | imax (h : Hdr) (md : IntMod) (d a b : Opnd)
  | iabs (h : Hdr) (md : IntMod) (d a : Opnd)
  | idiv (h : Hdr) (md : IntMod) (d a b : Opnd)
  | irem (h : Hdr) (md : IntMod) (d a b : Opnd)
  | icmp (h : Hdr) (md : IntMod) (cond : Cond) (one : Bool) (d a b : Opnd)
  | isel (h : Hdr) (md : IntMod) (d a b c : Opnd)
  | dadd (h : Hdr) (md : IntMod) (d a b : Opnd)
  | dsub (h : Hdr) (md : IntMod) (d a b : Opnd)
  | lea (h : Hdr) (sh : BitVec 3) (sb : Bool) (d a b : Opnd)
  | dcmp (h : Hdr) (md : IntMod) (cond : Cond) (one : Bool) (d a b : Opnd)
  | dot4 (h : Hdr) (md : IntMod) (d a b c : Opnd)
  | dot2 (h : Hdr) (md : IntMod) (d a b c : Opnd)
  | isad (h : Hdr) (md : IntMod) (d a b c : Opnd)
  -- BIT (05, R105)
  | mov (h : Hdr) (d a : Opnd)
  | andI (h : Hdr) (d a b : Opnd)
  | orI (h : Hdr) (d a b : Opnd)
  | xorI (h : Hdr) (d a b : Opnd)
  | andn (h : Hdr) (d a b : Opnd)
  | notI (h : Hdr) (d a : Opnd)
  | shl (h : Hdr) (w : ShW) (d a b : Opnd)
  | shr (h : Hdr) (w : ShW) (d a b : Opnd)
  | sha (h : Hdr) (w : ShW) (d a b : Opnd)
  | rot (h : Hdr) (w : ShW) (d a b : Opnd)
  | bfe (h : Hdr) (s : Bool) (d a b : Opnd)
  | bfi (h : Hdr) (d a b c : Opnd)
  | popc (h : Hdr) (d a : Opnd)
  | clz (h : Hdr) (d a : Opnd)
  | ffs (h : Hdr) (d a : Opnd)
  | brev (h : Hdr) (d a : Opnd)
  | permb (h : Hdr) (top : BitVec 4) (sel : BitVec 8) (d a b : Opnd)
  | lop3 (h : Hdr) (table : BitVec 8) (d a b c : Opnd)
  | dshl (h : Hdr) (d a b : Opnd)
  | dshr (h : Hdr) (s : Bool) (d a b : Opnd)
  | movd (h : Hdr) (d a : Opnd)
  -- FPA (05, R112)
  | fadd (h : Hdr) (fm : FpMod) (ty : FTy) (na nb : Bool) (d a b : Opnd)
  | fsub (h : Hdr) (fm : FpMod) (ty : FTy) (na nb : Bool) (d a b : Opnd)
  | fmul (h : Hdr) (fm : FpMod) (ty : FTy) (na nb : Bool) (d a b : Opnd)
  | ffma (h : Hdr) (fm : FpMod) (ty : FTy) (na nb nc : Bool) (d a b c : Opnd)
  | fmin (h : Hdr) (fm : FpMod) (ty : FTy) (d a b : Opnd)
  | fmax (h : Hdr) (fm : FpMod) (ty : FTy) (d a b : Opnd)
  | fcmp (h : Hdr) (fm : FpMod) (ty : FTy) (cond : FCond) (d a b : Opnd)
  | fdot2 (h : Hdr) (fm : FpMod) (ty : FTy) (d a b c : Opnd)
  | fscale (h : Hdr) (fm : FpMod) (ty : FTy) (d a b : Opnd)
  | ffract (h : Hdr) (fm : FpMod) (ty : FTy) (d a : Opnd)
  | frnd (h : Hdr) (fm : FpMod) (ty : FTy) (d a : Opnd)
  | fclass (h : Hdr) (fm : FpMod) (ty : FTy) (d a : Opnd)
  -- FPS (05, R120, R121)
  | frcp (h : Hdr) (fm : FpMod) (ty : FTy) (d a : Opnd)
  | frsq (h : Hdr) (fm : FpMod) (ty : FTy) (d a : Opnd)
  | fsqrt (h : Hdr) (fm : FpMod) (ty : FTy) (d a : Opnd)
  | fdiv (h : Hdr) (fm : FpMod) (ty : FTy) (d a b : Opnd)
  | fexp2 (h : Hdr) (fm : FpMod) (ty : FTy) (d a : Opnd)
  | flog2 (h : Hdr) (fm : FpMod) (ty : FTy) (d a : Opnd)
  | fsin (h : Hdr) (fm : FpMod) (ty : FTy) (d a : Opnd)
  | fcos (h : Hdr) (fm : FpMod) (ty : FTy) (d a : Opnd)
  | ftanh (h : Hdr) (fm : FpMod) (ty : FTy) (d a : Opnd)
  | cvtff (h : Hdr) (fm : FpMod) (src dst : Fmt) (d a : Opnd)
  | cvtfi (h : Hdr) (fm : FpMod) (src dst : Fmt) (d a : Opnd)
  | cvtif (h : Hdr) (fm : FpMod) (src dst : Fmt) (d a : Opnd)
  | fpack (h : Hdr) (fm : FpMod) (src dst : Fmt) (d a b : Opnd)
  | funpk (h : Hdr) (fm : FpMod) (src dst : Fmt) (d a : Opnd)
  | mxenc (h : Hdr) (fm : FpMod) (src dst : Fmt) (d a : Opnd)
  | mxdec (h : Hdr) (fm : FpMod) (src dst : Fmt) (d a b : Opnd)
  -- XLN (08, R181)
  | shfl (h : Hdr) (sw : SubW) (mode : ShflMode) (edge : Bool) (d a b : Opnd)
  | vote (h : Hdr) (sw : SubW) (kind : VoteKind) (cnt : Bool) (d a : Opnd)
  | matchI (h : Hdr) (sw : SubW) (f : Bool) (d a : Opnd)
  | redg (h : Hdr) (sw : SubW) (op : RedOp) (d a : Opnd)
  | scan (h : Hdr) (sw : SubW) (op : RedOp) (excl : Bool) (d a : Opnd)
  | bcast (h : Hdr) (sw : SubW) (d a b : Opnd)
  | elect (h : Hdr) (sw : SubW) (d : Opnd)
  -- CTL (06, R131; 07, R168)
  | ifI (h : Hdr) (inv : Bool) (a : Opnd) (off : BitVec 16)
  | elseI (h : Hdr) (off : BitVec 16)
  | endif (h : Hdr)
  | loop (h : Hdr) (off : BitVec 16)
  | endl (h : Hdr) (off : BitVec 16)
  | breakI (h : Hdr) (inv : Bool) (n : BitVec 5) (a : Opnd) (off : BitVec 16)
  | cont (h : Hdr) (inv : Bool) (n : BitVec 5) (a : Opnd) (off : BitVec 16)
  | jmp (h : Hdr) (kind : JmpKind) (a : Opnd) (off : BitVec 16)
  | call (h : Hdr) (demand : BitVec 5) (d : Opnd) (off : BitVec 16)
  | calli (h : Hdr) (demand : BitVec 5) (d a : Opnd)
  | ret (h : Hdr)
  | mark (h : Hdr) (clr : Bool) (id : BitVec 8) (off : BitVec 16)
  | unwind (h : Hdr) (id : BitVec 8)
  | part (h : Hdr)
  | regang (h : Hdr) (id : BitVec 8)
  | exit (h : Hdr)
  | yield (h : Hdr)
  | nop (h : Hdr)
  | brk (h : Hdr)
  | rgn (h : Hdr)
  -- STA (06, R148)
  | qdef (h : Hdr) (dm1 km1 : BitVec 3) (d : Opnd)
  | qclr (h : Hdr) (d : Opnd)
  | qocc (h : Hdr) (d a : Opnd)
  | qrd (h : Hdr) (e : BitVec 3) (d a : Opnd)
  | qwr (h : Hdr) (e : BitVec 3) (d a : Opnd)
  | winrd (h : Hdr) (k : Fin 9) (d : Opnd)
  | winwr (h : Hdr) (k : Fin 9) (d : Opnd)
  | mskrd (h : Hdr) (tgt : Bool) (e : BitVec 5) (d : Opnd)
  | mskwr (h : Hdr) (op : MskOp) (e : BitVec 5) (d : Opnd)
  | frmq (h : Hdr) (dw : Fin 5) (d a : Opnd)
  | frmrd (h : Hdr) (d a b : Opnd)
  -- MEM (10, R225)
  | ld (h : Hdr) (size : MemSize) (pol : Policy) (hint : Option Bool) (d a b : Opnd)
  | st (h : Hdr) (size : MemSize) (pz : Bool) (pol : Policy) (hint : Option Bool) (d a b : Opnd)
  | ldl (h : Hdr) (size : MemSize) (d a b : Opnd)
  | stl (h : Hdr) (size : MemSize) (pz : Bool) (d a b : Opnd)
  | ldc (h : Hdr) (size : MemSize) (d a b : Opnd)
  | stc (h : Hdr) (size : MemSize) (pz : Bool) (d a b : Opnd)
  | ldk (h : Hdr) (size : MemSize) (d a b : Opnd)
  | ldacq (h : Hdr) (size : MemSize) (scope : Scope) (space : Space) (d a b : Opnd)
  | strel (h : Hdr) (size : MemSize) (scope : Scope) (space : Space) (pz : Bool) (d a b : Opnd)
  | cctl (h : Hdr) (op : CctlOp) (a b : Opnd)
  -- ATM (10, R226)
  | atom (h : Hdr) (op : AtomOp) (scope : Scope) (ret : Bool) (d a b c : Opnd)
  | acas (h : Hdr) (w : CasW) (scope : Scope) (ret : Bool) (d a b c : Opnd)
  | atoml (h : Hdr) (op : AtomOp) (scope : Scope) (ret : Bool) (d a b c : Opnd)
  | acasl (h : Hdr) (w : CasW) (scope : Scope) (ret : Bool) (d a b c : Opnd)
  | atomc (h : Hdr) (op : AtomOp) (scope : Scope) (ret : Bool) (d a b c : Opnd)
  | acasc (h : Hdr) (w : CasW) (scope : Scope) (ret : Bool) (d a b c : Opnd)
  | bankop (h : Hdr) (op : AtomOp) (scope : Scope) (a b c : Opnd)
  | bankred (h : Hdr) (op : AtomOp) (scope : Scope) (ret : Bool) (d a b c : Opnd)
  -- ASY (13, R287)
  | cpy (h : Hdr) (dsp ssp : Space) (ch : BitVec 3) (d a b : Opnd)
  | cpys (h : Hdr) (dsp ssp : Space) (ch : BitVec 3) (d a b c : Opnd)
  | seal (h : Hdr) (d : Opnd)
  | bwait (h : Hdr) (a : Opnd)
  | cpwp (h : Hdr) (issued : Bool) (d a : Opnd)
  | cpwait (h : Hdr) (a b : Opnd)
  | wlput (h : Hdr) (a b : Opnd)
  | wltake (h : Hdr) (d a : Opnd)
  | wldone (h : Hdr) (hold : Bool)
  | wlquiet (h : Hdr) (d : Opnd)
  -- RMT (17, R377)
  | put (h : Hdr) (sp : Space) (nt : Bool) (d a b c : Opnd)
  | putn (h : Hdr) (sp : Space) (nt : Bool) (d a b c : Opnd)
  | get (h : Hdr) (sp : Space) (nt : Bool) (d a b c : Opnd)
  | ratom (h : Hdr) (op : AtomOp) (nt ret : Bool) (d a b c : Opnd)
  | rcas (h : Hdr) (w : CasW) (nt ret : Bool) (d a b c : Opnd)
  | notify (h : Hdr) (nt : Bool) (d a : Opnd)
  | nwait (h : Hdr) (a b : Opnd)
  | nrd (h : Hdr) (d a : Opnd)
  | rfence (h : Hdr)
  | rquiet (h : Hdr) (nt : Bool) (d : Opnd)
  -- SYN (08, R191, R200; 10, R244; 16, R361)
  | bar (h : Hdr) (mx : Bool) (a : Opnd)
  | bara (h : Hdr) (d a : Opnd)
  | barw (h : Hdr) (mx : Bool) (a b : Opnd)
  | barinit (h : Hdr) (a b : Opnd)
  | barrd (h : Hdr) (live : Bool) (s : Bool) (d a : Opnd)
  | barwr (h : Hdr) (s : Bool) (d a : Opnd)
  | fence (h : Hdr) (paths : BitVec 4) (scope : Scope)
  | mon (h : Hdr) (space : Space) (a : Opnd)
  | mwait (h : Hdr) (d a : Opnd)
  | clock (h : Hdr) (d : Opnd)
  -- MTX (12, R263, R275)
  | mmq (h : Hdr) (keep : Bool) (af : AFmt) (bf : BFmt) (commons : Bool) (d a b c : Opnd)
  | accz (h : Hdr) (d : Opnd)
  | accrd (h : Hdr) (mode : AccMode) (d a : Opnd)
  | accwr (h : Hdr) (mode : AccMode) (d a : Opnd)
  | accpro (h : Hdr) (d : Opnd)
  | mxset (h : Hdr) (a : Opnd)
  | cbload (h : Hdr) (space : Space) (a b : Opnd)
  | cbrd (h : Hdr) (d a : Opnd)
  | mxwait (h : Hdr)
  -- PSN (15, R335)
  | pchk (h : Hdr) (tr one : Bool) (d a : Opnd)
  | pset (h : Hdr) (d a : Opnd)
  | pclr (h : Hdr) (d a : Opnd)
  | porg (h : Hdr) (f : BitVec 2) (d a : Opnd)
  -- SYS (15, R328)
  | srd (h : Hdr) (d a : Opnd)
  | swr (h : Hdr) (d a : Opnd)
  | trap (h : Hdr) (code : BitVec 8)
  | tret (h : Hdr)
  | savedone (h : Hdr)
  | icinv (h : Hdr)
  | wfi (h : Hdr)
  | halt (h : Hdr)
  -- short-A (02, R42)
  | iaddS32ShortA (d a b : Opnd)
  | isubS32ShortA (d a b : Opnd)
  | imulS32ShortA (d a b : Opnd)
  | iminS32ShortA (d a b : Opnd)
  | imaxS32ShortA (d a b : Opnd)
  | iminN32ShortA (d a b : Opnd)
  | imaxN32ShortA (d a b : Opnd)
  | andShortA (d a b : Opnd)
  | orShortA (d a b : Opnd)
  | xorShortA (d a b : Opnd)
  | andnShortA (d a b : Opnd)
  | shlShortA (d a b : Opnd)
  | shrShortA (d a b : Opnd)
  | shaShortA (d a b : Opnd)
  | movShortA (d a : Opnd)
  | daddShortA (d a b : Opnd)
  | faddF32ShortA (d a b : Opnd)
  | fsubF32ShortA (d a b : Opnd)
  | fmulF32ShortA (d a b : Opnd)
  | fminF32ShortA (d a b : Opnd)
  | fmaxF32ShortA (d a b : Opnd)
  | faddF16x2ShortA (d a b : Opnd)
  | fmulF16x2ShortA (d a b : Opnd)
  | faddBf16x2ShortA (d a b : Opnd)
  | fmulBf16x2ShortA (d a b : Opnd)
  | icmpEqShortA (d a b : Opnd)
  | icmpLtS32ShortA (d a b : Opnd)
  | icmpLtN32ShortA (d a b : Opnd)
  | fcmpLtShortA (d a b : Opnd)
  | fcmpEqShortA (d a b : Opnd)
  | frcpShortA (d a : Opnd)
  | frsqShortA (d a : Opnd)
  | popcShortA (d a : Opnd)
  | clzShortA (d a : Opnd)
  | shflIdxShortA (d a b : Opnd)
  | shflXorShortA (d a b : Opnd)
  | voteBallotShortA (d a : Opnd)
  | bcastShortA (d a b : Opnd)
  | leaShortA (d a b : Opnd)
  | ldlB32ShortA (d a b : Opnd)
  | stlB32ShortA (d a b : Opnd)
  | ldcB32ShortA (d a b : Opnd)
  | stcB32ShortA (d a b : Opnd)
  -- short-B (02, R43)
  | iaddShortB (d a : Opnd) (imm : BitVec 8)
  | isubShortB (d a : Opnd) (imm : BitVec 8)
  | andShortB (d a : Opnd) (imm : BitVec 8)
  | orShortB (d a : Opnd) (imm : BitVec 8)
  | xorShortB (d a : Opnd) (imm : BitVec 8)
  | shlShortB (d a : Opnd) (imm : BitVec 5)
  | shrShortB (d a : Opnd) (imm : BitVec 5)
  | shaShortB (d a : Opnd) (imm : BitVec 5)
  | movShortB (d : Opnd) (imm : BitVec 8)
  | icmpEqShortB (d a : Opnd) (imm : BitVec 8)
  | icmpLtS32ShortB (d a : Opnd) (imm : BitVec 8)
  | shflXorShortB (d a : Opnd) (imm : BitVec 5)
  | shflUpShortB (d a : Opnd) (imm : BitVec 5)
  | shflDownShortB (d a : Opnd) (imm : BitVec 5)
  | ldlB32ShortB (d a : Opnd) (imm : BitVec 8)
  | stlB32ShortB (d a : Opnd) (imm : BitVec 8)
  | ldkB32ShortB (d : Opnd) (imm : BitVec 8)
  -- traps, waits and engines (06, 08, 09, 12, 13, 15)
  | trapEntry (ag : AgentRef)
  | machineTrapEntry (ag : AgentRef)
  | pendingCauseTaken (ag : AgentRef)
  | barrierWaitEnd (ag : AgentRef)
  | sluiceReleaseDelay (ag : AgentRef)
  | frameWait (core : CoreRef)
  | handlerFrameGrant (core : CoreRef)
  | cellarTimeout (core : CoreRef)
  | cellarSpill (core : CoreRef)
  | tlbWalkDone (ag : AgentRef)
  | pageFaultServiced (who : Faulter) (writes : List (Nat × Dword))
  | pageFaultRefused (who : Faulter)
  | mwaitWake (ag : AgentRef)
  | mwaitTimeout (ag : AgentRef)
  | copyEntryGrant (core : CoreRef) (ch : Nat)
  | copyPerform (core : CoreRef) (ch : Nat)
  | bwaitWake (ag : AgentRef)
  | cpwaitWake (ag : AgentRef)
  | wlputAppend (site ctx index : Nat)
  | wltakeWake (ag : AgentRef)
  | matrixPassClose (core : CoreRef)
  | matrixPassStart (core : CoreRef)
  | matrixPassEnd (core : CoreRef)
  | mxwaitWake (ag : AgentRef)
  | accrdWake (ag : AgentRef)
  | regionReplay (ag : AgentRef)
  | scrubUe (site address : Nat)
  | l1WriteOnward (core : CoreRef) (sector : Nat)
  | l2WriteToL3 (site die : Nat)
  -- remote operations (17)
  | remoteSlotGrant (core : CoreRef)
  | remoteWriteArrival (op : Nat)
  | putnIncrement (op : Nat)
  | getDataArrival (op : Nat)
  | remoteAtomicAtTarget (op : Nat)
  | remoteReplyArrival (op : Nat)
  | notifyIncrement (op : Nat)
  | remoteOpFail (op : Nat)
  | nwaitWake (ag : AgentRef)
  | rquietWake (ag : AgentRef)
  | voteCount (site ctx group : Nat)
  -- launching (14)
  | launchQueueDoorbell (ctx queue : Nat) (qwr : Word)
  | queueRestart (ctx queue : Nat)
  | launchPacket (ctx queue : Nat)
  | gridRelease (site grid : Nat)
  | gridComplete (site grid : Nat)
  | workgroupAdmit (core : CoreRef) (grid : Nat)
  | barterRequest (site cluster grid : Nat)
  | carveChange (core : CoreRef)
  | operatingPointStable (site die domain level : Nat)
  | agedPromotion (ag : AgentRef)
  | watchdog (site grid : Nat)
  -- pre-emption (16)
  | vacateRequest (site count grid : Nat)
  | coreVacated (core : CoreRef)
  | restoreEntry (ag : AgentRef)
  | restoreTretRelease (core : CoreRef) (wg : Nat)
  -- containment (15)
  | contextKill (ctx : Nat)
  | headerUe (lost : FailedHeader)
  | mcStateUe (ag : AgentRef)
  -- firmware (01, 09, 18)
  | fwLaunchRegister (core : CoreRef) (value : Dword)
  | regionTableRewrite (site : Nat) (entries : List (Nat × Dword × Dword))
  | tlbInvalidate (site ctx : Nat) (address : Dword)
  | controlWindowWrite (site : Nat) (reg : WindowReg) (value : Dword)
  -- plots and topology (17)
  | mapPublish (site ctx : Nat)
  | presenceDetected (plot : Nat) (m : ModuleDesc)
  | presenceLost (plot : Nat)
  | powerGood (plot : Nat)
  | resetStepRelease (plot : Nat)
  | measurementRefused (plot : Nat)
  | trainingFailed (plot : Nat)
  | portsTrained (plot : Nat) (pup : BitVec 8)
  | plotAdmit (plot : Nat)
  | firstBind (plot ctx : Nat)
  | drainRequest (plot : Nat)
  | serviceRequest (plot : Nat)
  | heartbeatMiss (plot : Nat)
  | fatalIslandError (plot : Nat)
  | plotLoss (plot : Nat)
  | contextCreate (desc : ContextDesc)
  | contextWithdraw (ctx site : Nat)
  | contextRebind (ctx : Nat) (desc : IslandDesc)
  -- links and keys (18)
  | flitTagFail (link : LinkDir)
  | keyInstall (link : LinkDir) (key : Nat)
  | keyAck (link : LinkDir) (sender : Bool)
  | oldKeyRetire (link : LinkDir)
  -- reeves, host, SPDM, TDISP (18)
  | heartbeat (reeve sender : Nat) (term : Word)
  | presidencyClaim (reeve : Nat)
  | getVersion (iface : Nat)
  | getCapabilities (iface : Nat)
  | negotiateAlgorithms (iface : Nat)
  | getDigests (iface : Nat)
  | getCertificate (iface : Nat)
  | challenge (iface : Nat) (nonce : BitVec 256)
  | getMeasurements (iface : Nat) (index : Nat) (nonce : BitVec 256)
  | keyExchange (iface : Nat) (key : Nat)
  | finish (iface : Nat)
  | keyUpdate (iface : Nat)
  | endSession (iface : Nat)
  | ideKm (iface : Nat) (key : Nat)
  | stopInterfaceRequest (iface : Nat)
  | hostConfigWrite (iface : Nat) (offset : Nat) (value : Word)
  | hostTlp (iface : Nat) (ide poisoned : Bool) (tlp : Tlp)
  | keySlotRetire (site slot : Nat)
  -- optical lanes (18, R415)
  | olLaser (site lane : Nat) (on : Bool)
  | olTrainStart (site lane : Nat) (slot : Nat)
  | olAct (site lane : Nat) (on : Bool)
  | olLockWrite (site lane : Nat) (value : Word)
  | olMapWrite (site lane : Nat) (hi : Bool) (value : Word)
  | olRingWrite (site lane slot : Nat) (value : Word)
  | olRingRead (site lane slot : Nat)
  | olTrainingDone (site lane : Nat) (eyeOk : Bool)
  | olLaserStable (site lane : Nat)
  -- core events, debugger, power (15, 18)
  | wfiEvent (core : CoreRef)
  | coreReset (core : CoreRef)
  | debugResume (ag : AgentRef)
  | reeveFailure (reeve : Nat)
  | lockInterfaceRequest (iface : Nat)
  | startInterfaceRequest (iface : Nat)
  | debuggerCoreStop (core : CoreRef)
  | panelPowerOn
  | getTargetRead (op : Nat)
  | dropMeasurement (site lane slot : Nat) (drop : BitVec 16)
  deriving DecidableEq, Repr

end Sys2Proof
end

