-- ==== Sys2Proof/WellFormed.lean ====
section
/-! DEFINITION. The static checks of an instruction (R13 to R15, R34 to R40, R44): which operand
fields it has and in what role, whether it takes a guard and gives a result, and which modifier
values it accepts. One table, `Instr.info`, serves the checks here, the decoder and the machine. -/

namespace Sys2Proof

/-- The role of an operand field: how many registers it names and what it may name. -/
inductive Role where
  | src (n : Nat)    -- a source of 1, 2 or 4 registers (R14, R15)
  | dst (n : Nat)    -- a destination of 1, 2 or 4 registers (R14, R15)
  | dst8             -- the eight registers of FUNPK from e2m1 (R124)
  | dst16            -- the sixteen registers of ACCRD (R277)
  | src16            -- the sixteen registers of MMQ's A and ACCWR (R265)
  | base             -- CALL's argument base: a register or z (R137)
  | queue            -- a register that names a queue (R146)
  deriving DecidableEq, Repr

/-- Registers the role reaches over. -/
def Role.span : Role → Nat
  | .src n | .dst n => n
  | .dst8 => 8
  | .dst16 | .src16 => 16
  | .base | .queue => 1

/-- The alignment the role asks of a register number (R13, R124, R265, R277). -/
def Role.align : Role → Nat
  | .src n | .dst n => n
  | .dst8 => 8
  | .dst16 | .src16 => 4
  | .base | .queue => 1

/-- Whether the role writes its operand. -/
def Role.isDst : Role → Bool
  | .dst _ | .dst8 | .dst16 => true
  | _ => false

/-- Whether an operand code may stand in a role; `ext` is the extended form (R13, R14, R15). A special code as
the queue of QDEF or QCLR raises BAD_OPERAND (assumption 93, DESIGN CHOICE). -/
def Role.ok (ext : Bool) (r : Role) (o : Opnd) : Bool :=
  match r, o with
  | _, .rsv => false
  | r, .v n => n.val % r.align == 0
  | .src 1, .lit => ext
  | .src 1, _ => true
  | .src 2, .lit => ext
  | .src 2, .z => true
  | .src 2, .w k => k.val < 7
  | .src _, .z => true
  | .src _, _ => false
  | .queue, _ => false
  | _, .z => true
  | _, _ => false

/-- What the checks and the machine need to know of an instruction besides its meaning. -/
structure Info where
  h : Hdr
  guard : Bool
  result : Bool
  mod : Bool
  ops : List (Opnd × Role)
  deriving DecidableEq, Repr

/-- A row of the table for an instruction with a guard and a result. -/
def Info.res (h : Hdr) (mod : Bool) (ops : List (Opnd × Role)) : Info := ⟨h, true, true, mod, ops⟩
/-- A row for an instruction with a guard and no result. -/
def Info.eff (h : Hdr) (mod : Bool) (ops : List (Opnd × Role)) : Info := ⟨h, true, false, mod, ops⟩
/-- A row for an instruction that acts on the gang as a whole and has no result (R36). -/
def Info.gang (h : Hdr) (mod : Bool) (ops : List (Opnd × Role)) : Info := ⟨h, false, false, mod, ops⟩
/-- A row for an instruction that acts on the gang as a whole and has a result (R36). -/
def Info.gangRes (h : Hdr) (mod : Bool) (ops : List (Opnd × Role)) : Info := ⟨h, false, true, mod, ops⟩

/-- Three single registers D, A, B. -/
def ops3 (d a b : Opnd) : List (Opnd × Role) := [(d, .dst 1), (a, .src 1), (b, .src 1)]
/-- Two single registers D, A. -/
def ops2 (d a : Opnd) : List (Opnd × Role) := [(d, .dst 1), (a, .src 1)]
/-- Four single registers D, A, B, C. -/
def ops4 (d a b c : Opnd) : List (Opnd × Role) := ops3 d a b ++ [(c, .src 1)]

/-- Registers of a value of an INT width: a pair at 64 (R97). -/
def IntW.regs : IntW → Nat
  | .w64 => 2
  | _ => 1

/-- Registers of a memory access (R228). -/
def MemSize.regs : MemSize → Nat
  | .b64 => 2
  | .b128 => 4
  | _ => 1

/-- A size a store accepts (R225). -/
def MemSize.storeOk : MemSize → Bool
  | .s8 | .s16 => false
  | _ => true

/-- Registers of an atomic's operand and old value (R226). -/
def AtomOp.regs : AtomOp → Nat
  | .add64 => 2
  | _ => 1

/-- Operations ATOMC and BANKOP accept (R227). -/
def AtomOp.bankOk : AtomOp → Bool
  | .sub | .inc | .dec | .add64 => false
  | _ => true

/-- Operations BANKRED accepts (R227). -/
def AtomOp.redOk (op : AtomOp) : Bool := op.bankOk && op != .xchg

/-- Registers of a swap's old value (R226). -/
def CasW.regs : CasW → Nat
  | .b32 => 1
  | .b64 => 2

/-- Registers of an address in a space (R49, R225). -/
def Space.regs : Space → Nat
  | .global => 2
  | _ => 1

/-- Registers of a conversion's value of a format (R122). -/
def Fmt.regs : Fmt → Nat
  | .s64 | .n64 => 2
  | _ => 1

def Fmt.isFloat : Fmt → Bool
  | .f32 | .f16 | .bf16 | .e4m3 | .e5m2 | .e2m1 | .e8m0 => true
  | _ => false

def Fmt.isWide : Fmt → Bool
  | .f32 | .f16 | .bf16 => true
  | _ => false

/-- Source registers of each of FPACK's A and B (R123). -/
def Fmt.packRegs : Fmt → Nat
  | .f16 | .bf16 => 1
  | .e4m3 | .e5m2 => 2
  | _ => 4

/-- Destination role of FUNPK (R124). -/
def Fmt.unpackRole : Fmt → Role
  | .f16 | .bf16 => .dst 2
  | .e4m3 | .e5m2 => .dst 4
  | _ => .dst8

def Fmt.isMxElem : Fmt → Bool
  | .e4m3 | .e5m2 | .e2m1 => true
  | _ => false

/-- A format FPACK writes and FUNPK reads (R121). -/
def Fmt.packOk : Fmt → Bool
  | .f16 | .bf16 | .e4m3 | .e5m2 | .e2m1 => true
  | _ => false

def FpMod.rneOnly (fm : FpMod) : Bool := fm.mode == .rne

/-- An MX A format reads scales from C (R263). -/
def AFmt.isMx : AFmt → Bool
  | .mxe4m3 | .mxe5m2 | .mxe2m1 => true
  | _ => false

/-- The long instruction a short-A or short-B form stands for (R42, R43). The immediate of a short-B
form is the literal its operand reads. The machine never executes this instruction in place of the
short one; its checks are the short form's checks. -/
def Instr.core : Instr → Instr
  | .iaddS32ShortA d a b => .iadd .plain ⟨.w32, true, false⟩ d a b
  | .isubS32ShortA d a b => .isub .plain ⟨.w32, true, false⟩ d a b
  | .imulS32ShortA d a b => .imul .plain ⟨.w32, true, false⟩ d a b
  | .iminS32ShortA d a b => .imin .plain ⟨.w32, true, false⟩ d a b
  | .imaxS32ShortA d a b => .imax .plain ⟨.w32, true, false⟩ d a b
  | .iminN32ShortA d a b => .imin .plain ⟨.w32, false, false⟩ d a b
  | .imaxN32ShortA d a b => .imax .plain ⟨.w32, false, false⟩ d a b
  | .andShortA d a b => .andI .plain d a b
  | .orShortA d a b => .orI .plain d a b
  | .xorShortA d a b => .xorI .plain d a b
  | .andnShortA d a b => .andn .plain d a b
  | .shlShortA d a b => .shl .plain .w32 d a b
  | .shrShortA d a b => .shr .plain .w32 d a b
  | .shaShortA d a b => .sha .plain .w32 d a b
  | .movShortA d a => .mov .plain d a
  | .daddShortA d a b => .dadd .plain ⟨.w64, false, false⟩ d a b
  | .faddF32ShortA d a b => .fadd .plain ⟨.rne, false⟩ .f32 false false d a b
  | .fsubF32ShortA d a b => .fsub .plain ⟨.rne, false⟩ .f32 false false d a b
  | .fmulF32ShortA d a b => .fmul .plain ⟨.rne, false⟩ .f32 false false d a b
  | .fminF32ShortA d a b => .fmin .plain ⟨.rne, false⟩ .f32 d a b
  | .fmaxF32ShortA d a b => .fmax .plain ⟨.rne, false⟩ .f32 d a b
  | .faddF16x2ShortA d a b => .fadd .plain ⟨.rne, false⟩ .f16x2 false false d a b
  | .fmulF16x2ShortA d a b => .fmul .plain ⟨.rne, false⟩ .f16x2 false false d a b
  | .faddBf16x2ShortA d a b => .fadd .plain ⟨.rne, false⟩ .bf16x2 false false d a b
  | .fmulBf16x2ShortA d a b => .fmul .plain ⟨.rne, false⟩ .bf16x2 false false d a b
  | .icmpEqShortA d a b => .icmp .plain ⟨.w32, false, false⟩ .eq false d a b
  | .icmpLtS32ShortA d a b => .icmp .plain ⟨.w32, true, false⟩ .lt false d a b
  | .icmpLtN32ShortA d a b => .icmp .plain ⟨.w32, false, false⟩ .lt false d a b
  | .fcmpLtShortA d a b => .fcmp .plain ⟨.rne, false⟩ .f32 .lt d a b
  | .fcmpEqShortA d a b => .fcmp .plain ⟨.rne, false⟩ .f32 .eq d a b
  | .frcpShortA d a => .frcp .plain ⟨.rne, false⟩ .f32 d a
  | .frsqShortA d a => .frsq .plain ⟨.rne, false⟩ .f32 d a
  | .popcShortA d a => .popc .plain d a
  | .clzShortA d a => .clz .plain d a
  | .shflIdxShortA d a b => .shfl .plain .w32 .idx false d a b
  | .shflXorShortA d a b => .shfl .plain .w32 .xorm false d a b
  | .voteBallotShortA d a => .vote .plain .w32 .ballot false d a
  | .bcastShortA d a b => .bcast .plain .w32 d a b
  | .leaShortA d a b => .lea .plain 0 false d a b
  | .ldlB32ShortA d a b => .ldl .plain .b32 d a b
  | .stlB32ShortA d a b => .stl .plain .b32 false d a b
  | .ldcB32ShortA d a b => .ldc .plain .b32 d a b
  | .stcB32ShortA d a b => .stc .plain .b32 false d a b
  | .iaddShortB d a i => .iadd ⟨some (i.signExtend 32), .z, false, false⟩ ⟨.w32, false, false⟩ d a .lit
  | .isubShortB d a i => .isub ⟨some (i.signExtend 32), .z, false, false⟩ ⟨.w32, false, false⟩ d a .lit
  | .andShortB d a i => .andI ⟨some (i.setWidth 32), .z, false, false⟩ d a .lit
  | .orShortB d a i => .orI ⟨some (i.setWidth 32), .z, false, false⟩ d a .lit
  | .xorShortB d a i => .xorI ⟨some (i.setWidth 32), .z, false, false⟩ d a .lit
  | .shlShortB d a i => .shl ⟨some (i.setWidth 32), .z, false, false⟩ .w32 d a .lit
  | .shrShortB d a i => .shr ⟨some (i.setWidth 32), .z, false, false⟩ .w32 d a .lit
  | .shaShortB d a i => .sha ⟨some (i.setWidth 32), .z, false, false⟩ .w32 d a .lit
  | .movShortB d i => .mov ⟨some (i.signExtend 32), .z, false, false⟩ d .lit
  | .icmpEqShortB d a i => .icmp ⟨some (i.signExtend 32), .z, false, false⟩ ⟨.w32, false, false⟩ .eq false d a .lit
  | .icmpLtS32ShortB d a i => .icmp ⟨some (i.signExtend 32), .z, false, false⟩ ⟨.w32, true, false⟩ .lt false d a .lit
  | .shflXorShortB d a i => .shfl ⟨some (i.setWidth 32), .z, false, false⟩ .w32 .xorm false d a .lit
  | .shflUpShortB d a i => .shfl ⟨some (i.setWidth 32), .z, false, false⟩ .w32 .up false d a .lit
  | .shflDownShortB d a i => .shfl ⟨some (i.setWidth 32), .z, false, false⟩ .w32 .down false d a .lit
  | .ldlB32ShortB d a i => .ldl ⟨some (i.setWidth 32 * 4), .z, false, false⟩ .b32 d a .lit
  | .stlB32ShortB d a i => .stl ⟨some (i.setWidth 32 * 4), .z, false, false⟩ .b32 false d a .lit
  | .ldkB32ShortB d i => .ldk ⟨some (i.setWidth 32 * 4), .z, false, false⟩ .b32 d .z .lit
  | i => i

/-- The table for the long forms: header, guard, result, accepted modifiers, operand roles. The
operand order is D, A, B, C. None for the steps of other agents. -/
def Instr.longInfo : Instr → Option Info
  | .iadd h md d a b | .isub h md d a b => some (.res h (md.w != .w64) (ops3 d a b))
  | .imul h md d a b =>
    some (.res h true [(d, .dst md.w.regs), (a, .src md.w.regs), (b, .src md.w.regs)])
  | .imulh h md d a b =>
    some (.res h (!md.sat) [(d, .dst md.w.regs), (a, .src md.w.regs), (b, .src md.w.regs)])
  | .imad h md d a b c =>
    some (.res h true [(d, .dst md.w.regs), (a, .src 1), (b, .src 1), (c, .src md.w.regs)])
  | .imin h md d a b | .imax h md d a b => some (.res h (md.w != .w64 && !md.sat) (ops3 d a b))
  | .iabs h md d a => some (.res h (md.w != .w64 && md.s) (ops2 d a))
  | .idiv h md d a b =>
    some (.res h (md.w == .w32 || md.w == .w64)
      [(d, .dst md.w.regs), (a, .src md.w.regs), (b, .src md.w.regs)])
  | .irem h md d a b =>
    some (.res h ((md.w == .w32 || md.w == .w64) && !md.sat)
      [(d, .dst md.w.regs), (a, .src md.w.regs), (b, .src md.w.regs)])
  | .icmp h md _ _ d a b => some (.res h (md.w != .w64 && !md.sat) (ops3 d a b))
  | .isel h md d a b c =>
    some (.res h ((md.w == .w32 || md.w == .w64) && !md.s && !md.sat)
      [(d, .dst md.w.regs), (a, .src md.w.regs), (b, .src md.w.regs), (c, .src 1)])
  | .dadd h md d a b | .dsub h md d a b =>
    some (.res h (md.w == .w64) [(d, .dst 2), (a, .src 2), (b, .src 2)])
  | .lea h _ _ d a b => some (.res h true [(d, .dst 2), (a, .src 2), (b, .src 1)])
  | .dcmp h md _ _ d a b =>
    some (.res h (md.w == .w64 && !md.sat) [(d, .dst 1), (a, .src 2), (b, .src 2)])
  | .dot4 h md d a b c => some (.res h (md.w == .w8x4) (ops4 d a b c))
  | .dot2 h md d a b c => some (.res h (md.w == .w16x2) (ops4 d a b c))
  | .isad h md d a b c => some (.res h (md.w != .w64) (ops4 d a b c))
  | .mov h d a | .notI h d a | .popc h d a | .clz h d a | .ffs h d a | .brev h d a =>
    some (.res h true (ops2 d a))
  | .andI h d a b | .orI h d a b | .xorI h d a b | .andn h d a b => some (.res h true (ops3 d a b))
  | .shl h _ d a b | .shr h _ d a b | .sha h _ d a b | .rot h _ d a b =>
    some (.res h true (ops3 d a b))
  | .bfe h _ d a b => some (.res h true (ops3 d a b))
  | .bfi h d a b c => some (.res h true (ops4 d a b c))
  | .permb h _ _ d a b => some (.res h true (ops3 d a b))
  | .lop3 h _ d a b c => some (.res h true (ops4 d a b c))
  | .dshl h d a b | .dshr h _ d a b => some (.res h true [(d, .dst 2), (a, .src 2), (b, .src 1)])
  | .movd h d a => some (.res h true [(d, .dst 2), (a, .src 2)])
  | .fadd h _ _ _ _ d a b | .fsub h _ _ _ _ d a b | .fmul h _ _ _ _ d a b =>
    some (.res h true (ops3 d a b))
  | .ffma h _ _ _ _ _ d a b c => some (.res h true (ops4 d a b c))
  | .fmin h fm _ d a b | .fmax h fm _ d a b => some (.res h fm.rneOnly (ops3 d a b))
  | .fcmp h fm _ _ d a b => some (.res h (fm.rneOnly && !fm.sat) (ops3 d a b))
  | .fdot2 h _ ty d a b c => some (.res h (ty != .f32) (ops4 d a b c))
  | .fscale h _ _ d a b => some (.res h true (ops3 d a b))
  | .ffract h _ _ d a | .frnd h _ _ d a => some (.res h true (ops2 d a))
  | .fclass h fm _ d a => some (.res h (fm.rneOnly && !fm.sat) (ops2 d a))
  | .frcp h _ _ d a | .frsq h _ _ d a | .fsqrt h _ _ d a => some (.res h true (ops2 d a))
  | .fdiv h _ _ d a b => some (.res h true (ops3 d a b))
  | .fexp2 h fm _ d a | .flog2 h fm _ d a | .fsin h fm _ d a | .fcos h fm _ d a | .ftanh h fm _ d a =>
    some (.res h fm.rneOnly (ops2 d a))
  | .cvtff h _ s t d a => some (.res h (s.isFloat && t.isFloat && s != t) (ops2 d a))
  | .cvtfi h _ s t d a => some (.res h (s.isWide && !t.isFloat) [(d, .dst t.regs), (a, .src 1)])
  | .cvtif h _ s t d a => some (.res h (!s.isFloat && t.isWide) [(d, .dst 1), (a, .src s.regs)])
  | .fpack h _ s t d a b =>
    some (.res h (s == .f32 && t.packOk) [(d, .dst 1), (a, .src t.packRegs), (b, .src t.packRegs)])
  | .funpk h fm s t d a =>
    some (.res h (fm.rneOnly && !fm.sat && s.packOk && t == .f32) [(d, s.unpackRole), (a, .src 1)])
  | .mxenc h fm s t d a =>
    some (.res h (!fm.sat && s == .f32 && t.isMxElem) [(d, .dst 2), (a, .src 4)])
  | .mxdec h _ s t d a b =>
    some (.res h (s.isMxElem && t == .f32) [(d, .dst 4), (a, .src 1), (b, .src 1)])
  | .shfl h _ _ _ d a b | .bcast h _ d a b => some (.res h true (ops3 d a b))
  | .vote h _ _ _ d a | .matchI h _ _ d a | .redg h _ _ d a | .scan h _ _ _ d a =>
    some (.res h true (ops2 d a))
  | .elect h _ d => some (.res h true [(d, .dst 1)])
  | .ifI h _ a _ | .breakI h _ _ a _ | .cont h _ _ a _ => some (.gang h true [(a, .src 1)])
  | .jmp h k a _ => some (.gang h true (if k == .always then [] else [(a, .src 1)]))
  | .elseI h _ | .loop h _ | .endl h _ => some (.gang h true [])
  | .endif h | .ret h | .part h | .exit h | .yield h | .nop h | .brk h | .rgn h =>
    some (.gang h true [])
  | .call h _ d _ => some (.gang h true [(d, .base)])
  | .calli h _ d a => some (.gang h true [(d, .base), (a, .src 2)])
  | .mark h clr id off => some (.gang h (!clr || (id == 0 && off == 0xF0F0)) [])
  | .unwind h _ | .regang h _ => some (.gang h true [])
  | .qdef h _ _ d | .qclr h d => some (.gang h true [(d, .queue)])
  | .qocc h d a | .qrd h _ d a => some (.res h true (ops2 d a))
  | .qwr h _ d a => some (.eff h true [(d, .src 1), (a, .src 1)])
  | .winrd h _ d | .mskrd h _ _ d => some (.res h true [(d, .dst 1)])
  | .winwr h _ d | .mskwr h _ _ d => some (.eff h true [(d, .src 1)])
  | .frmq h _ d a => some (.res h true [(d, .dst 2), (a, .src 1)])
  | .frmrd h d a b => some (.res h true (ops3 d a b))
  | .ld h sz _ _ d a b => some (.res h true [(d, .dst sz.regs), (a, .src 2), (b, .src 1)])
  | .st h sz _ _ _ d a b => some (.eff h sz.storeOk [(d, .src sz.regs), (a, .src 2), (b, .src 1)])
  | .ldl h sz d a b | .ldc h sz d a b | .ldk h sz d a b =>
    some (.res h true [(d, .dst sz.regs), (a, .src 1), (b, .src 1)])
  | .stl h sz _ d a b | .stc h sz _ d a b =>
    some (.eff h sz.storeOk [(d, .src sz.regs), (a, .src 1), (b, .src 1)])
  | .ldacq h sz _ sp d a b =>
    some (.res h (sz != .b128) [(d, .dst sz.regs), (a, .src sp.regs), (b, .src 1)])
  | .strel h sz _ sp _ d a b =>
    some (.eff h (sz.storeOk && sz != .b128) [(d, .src sz.regs), (a, .src sp.regs), (b, .src 1)])
  | .cctl h _ a b => some (.eff h true [(a, .src 2), (b, .src 1)])
  | .atom h op _ r d a b c =>
    some ⟨h, true, r, true, (if r then [(d, .dst op.regs)] else []) ++
      [(a, .src 2), (b, .src 1), (c, .src op.regs)]⟩
  | .atoml h op _ r d a b c =>
    some ⟨h, true, r, true, (if r then [(d, .dst op.regs)] else []) ++
      [(a, .src 1), (b, .src 1), (c, .src op.regs)]⟩
  | .atomc h op _ r d a b c =>
    some ⟨h, true, r, op.bankOk, (if r then [(d, .dst 1)] else []) ++
      [(a, .src 1), (b, .src 1), (c, .src 1)]⟩
  | .acas h w _ r d a b c =>
    some ⟨h, true, r, true, (if r then [(d, .dst w.regs)] else []) ++
      [(a, .src 2), (b, .src 1), (c, .src (2 * w.regs))]⟩
  | .acasl h w _ r d a b c =>
    some ⟨h, true, r, true, (if r then [(d, .dst w.regs)] else []) ++
      [(a, .src 1), (b, .src 1), (c, .src (2 * w.regs))]⟩
  | .acasc h w _ r d a b c =>
    some ⟨h, true, r, w == .b32, (if r then [(d, .dst 1)] else []) ++
      [(a, .src 1), (b, .src 1), (c, .src 2)]⟩
  | .bankop h op _ a b c => some (.eff h op.bankOk [(a, .src 1), (b, .src 1), (c, .src 1)])
  | .bankred h op _ r d a b c =>
    some ⟨h, true, r, op.redOk, (if r then [(d, .dst 4)] else []) ++
      [(a, .src 1), (b, .src 1), (c, .src 1)]⟩
  | .cpy h t f _ d a b => some (.eff h true [(d, .src t.regs), (a, .src f.regs), (b, .src 1)])
  | .cpys h t f _ d a b c =>
    some (.eff h true [(d, .src t.regs), (a, .src f.regs), (b, .src 1), (c, .src 2)])
  | .seal h d | .wlquiet h d => some (.gangRes h true [(d, .dst 1)])
  | .bwait h a => some (.gang h true [(a, .src 1)])
  | .cpwp h _ d a => some (.res h true (ops2 d a))
  | .cpwait h a b => some (.gang h true [(a, .src 1), (b, .src 1)])
  | .wlput h a b => some (.eff h true [(a, .src 1), (b, .src 1)])
  | .wltake h d a => some (.res h true [(d, .dst 2), (a, .src 1)])
  | .wldone h _ => some (.eff h true [])
  | .put h sp _ d a b c | .putn h sp _ d a b c | .get h sp _ d a b c =>
    some (.eff h true [(d, .src 2), (a, .src 2), (b, .src 1), (c, .src sp.regs)])
  | .ratom h op _ r d a b c =>
    some ⟨h, true, r, true, (if r then [(d, .dst op.regs)] else []) ++
      [(a, .src 2), (b, .src 2), (c, .src op.regs)]⟩
  | .rcas h w _ r d a b c =>
    some ⟨h, true, r, true, (if r then [(d, .dst w.regs)] else []) ++
      [(a, .src 2), (b, .src 2), (c, .src (2 * w.regs))]⟩
  | .notify h _ d a => some (.eff h true [(d, .src 2), (a, .src 1)])
  | .nwait h a b => some (.eff h true [(a, .src 1), (b, .src 2)])
  | .nrd h d a => some (.res h true [(d, .dst 2), (a, .src 1)])
  | .rfence h => some (.gang h true [])
  | .rquiet h nt d => some ⟨h, false, nt, true, if nt then [(d, .dst 2)] else []⟩
  | .bar h _ a => some (.gang h true [(a, .src 1)])
  | .bara h d a => some (.gangRes h true (ops2 d a))
  | .barw h _ a b | .barinit h a b => some (.gang h true [(a, .src 1), (b, .src 1)])
  | .barrd h live _ d a =>
    some (.res h true ((d, .dst 2) :: (if live then [] else [(a, .src 1)])))
  | .barwr h _ d a => some (.eff h true [(d, .src 2), (a, .src 1)])
  | .fence h p _ => some (.gang h (p != 0) [])
  | .mon h sp a => some (.eff h true [(a, .src sp.regs)])
  | .mwait h d a => some (.gangRes h true (ops2 d a))
  | .clock h d => some (.res h true [(d, .dst 2)])
  | .mmq h _ af _ _ d a b c =>
    some (.eff h true ([(d, .src 1), (a, .src16), (b, .src 1)] ++ if af.isMx then [(c, .src 1)] else []))
  | .accz h d | .accpro h d => some (.eff h true [(d, .src 1)])
  | .accrd h m d a => some (.res h true [(d, if m == .cnt then .dst 1 else .dst16), (a, .src 1)])
  | .accwr h m d a =>
    some (.eff h (m != .fp) [(d, .src 1), (a, if m == .cnt then .src 1 else .src16)])
  | .mxset h a => some (.gang h true [(a, .src 1)])
  | .cbload h sp a b => some (.eff h true [(a, .src sp.regs), (b, .src 1)])
  | .cbrd h d a => some (.res h true (ops2 d a))
  | .mxwait h => some (.gang h true [])
  | .pchk h _ _ d a | .pset h d a | .pclr h d a => some (.res h true (ops2 d a))
  | .porg h _ d a => some (.res h true [(d, .dst 2), (a, .src 1)])
  | .srd h d a => some (.res h true [(d, .dst 2), (a, .src 1)])
  | .swr h d a => some (.eff h true [(d, .src 2), (a, .src 1)])
  | .trap h _ | .tret h | .savedone h | .icinv h | .wfi h | .halt h => some (.gang h true [])
  | _ => none

/-- The table: a short form takes the row of the instruction it stands for (R42, R43). -/
def Instr.info (i : Instr) : Option Info := i.core.longInfo

/-- Whether the row is a step of an agent other than a gang: no word encodes it. -/
def Instr.isEvent (i : Instr) : Bool := i.info.isNone

/-- Every operand, the guard included, may stand in its role. -/
def Info.opsOk (n : Info) : Bool :=
  Role.ok n.h.lit.isSome (.src 1) n.h.g && n.ops.all fun p => Role.ok n.h.lit.isSome p.2 p.1

/-- The operand fields of a short-B form hold no 0xFF: only the operand that the immediate replaces reads it
(R14, R43). -/
def Instr.litOk : Instr → Bool
  | .iaddShortB _ a _ | .isubShortB _ a _ | .andShortB _ a _ | .orShortB _ a _ | .xorShortB _ a _ => a != .lit
  | .shlShortB _ a _ | .shrShortB _ a _ | .shaShortB _ a _ => a != .lit
  | .icmpEqShortB _ a _ | .icmpLtS32ShortB _ a _ | .ldlB32ShortB _ a _ => a != .lit
  | .shflXorShortB _ a _ | .shflUpShortB _ a _ | .shflDownShortB _ a _ => a != .lit
  | .stlB32ShortB d a _ => d != .lit && a != .lit
  | _ => true

/-- The header flags are allowed: a guard only where one is taken, GN only with a guard, NW only with a
result (R36, R37). -/
def Info.hdrOk (n : Info) : Bool :=
  (n.guard || n.h.g == .z) && (!n.h.gn || n.h.g != .z) && (n.result || !n.h.nw)

/-- The fields of an instruction that its form leaves unused hold z (R34): D of an atomic without .ret,
A of an always-jump, C of an MMQ without an MX A, A of BARRD.live, D of RQUIET without .nt. -/
def Instr.unusedOk : Instr → Bool
  | .jmp _ k a _ => k != .always || a == .z
  | .atom _ _ _ r d _ _ _ | .atoml _ _ _ r d _ _ _ | .atomc _ _ _ r d _ _ _ => r || d == .z
  | .acas _ _ _ r d _ _ _ | .acasl _ _ _ r d _ _ _ | .acasc _ _ _ r d _ _ _ => r || d == .z
  | .bankred _ _ _ r d _ _ _ | .ratom _ _ _ r d _ _ _ | .rcas _ _ _ r d _ _ _ => r || d == .z
  | .mmq _ _ af _ _ _ _ _ c => af.isMx || c == .z
  | .barrd _ live s _ a => !live || (a == .z && !s)
  | .rquiet _ nt d => nt || d == .z
  | _ => true

/-- An instruction that a word of the architecture encodes and no static check refuses. -/
def Instr.wf (i : Instr) : Bool :=
  match i.info with
  | none => false
  | some n => n.hdrOk && i.unusedOk && n.mod && (n.opsOk && i.litOk)

end Sys2Proof
end

