-- ==== Sys2Proof/Decode.lean ====
section
/-! DEFINITION. The decoder of the Quarun instruction formats (spec 02, R28 to R45), total on any
words and rejecting by name, and after it an encoder written from the same tables. -/

namespace Sys2Proof

/-- Why words are no instruction, in the order of R45; `tooShort` when a word is missing. -/
inductive DecodeErr where
  | tooShort | illegalOpcode | reservedField | badModifier | badOperand
  deriving DecidableEq, Repr

/-- One bit as a vector. -/
def bit (b : Bool) : BitVec 1 := if b then 1#1 else 0#1

/-- The operand an 8-bit code selects (R11, R14). -/
def Opnd.ofCode (c : BitVec 8) : Opnd :=
  if h : c.toNat < 240 then .v ⟨c.toNat, h⟩
  else if c == 0xF0 then .z
  else if h : c.toNat - 0xF1 < 8 then .w ⟨c.toNat - 0xF1, h⟩
  else if c == 0xF9 then .lid
  else if c == 0xFA then .gix
  else if c == 0xFB then .xm
  else if c == 0xFC then .wgx
  else if c == 0xFD then .gw
  else if c == 0xFE then .rsv
  else .lit

/-- The code of an operand (R11, R14). -/
def Opnd.code : Opnd → BitVec 8
  | .v n => BitVec.ofNat 8 n.val
  | .z => 0xF0
  | .w k => BitVec.ofNat 8 (0xF1 + k.val)
  | .lid => 0xF9
  | .gix => 0xFA
  | .xm => 0xFB
  | .wgx => 0xFC
  | .gw => 0xFD
  | .rsv => 0xFE
  | .lit => 0xFF

/-- Code of the field (R39, ICMP cond). -/
def Cond.code : Cond → Nat
  | .eq => 0
  | .ne => 1
  | .lt => 2
  | .le => 3
  | .gt => 4
  | .ge => 5

/-- The value a code names, none where the field gives it no meaning (R39, ICMP cond). -/
def Cond.ofField : Nat → Option Cond
  | 0 => some .eq
  | 1 => some .ne
  | 2 => some .lt
  | 3 => some .le
  | 4 => some .gt
  | 5 => some .ge
  | _ => none

/-- Code of the field (R39, FCMP cond). -/
def FCond.code : FCond → Nat
  | .eq => 0
  | .ne => 1
  | .lt => 2
  | .le => 3
  | .gt => 4
  | .ge => 5
  | .ord => 6
  | .unord => 7

/-- The value a code names, none where the field gives it no meaning (R39, FCMP cond). -/
def FCond.ofField : Nat → Option FCond
  | 0 => some .eq
  | 1 => some .ne
  | 2 => some .lt
  | 3 => some .le
  | 4 => some .gt
  | 5 => some .ge
  | 6 => some .ord
  | 7 => some .unord
  | _ => none

/-- Code of the field (R39, shift width). -/
def ShW.code : ShW → Nat
  | .w32 => 0
  | .w16x2 => 1
  | .w8x4 => 2

/-- The value a code names, none where the field gives it no meaning (R39, shift width). -/
def ShW.ofField : Nat → Option ShW
  | 0 => some .w32
  | 1 => some .w16x2
  | 2 => some .w8x4
  | _ => none

/-- Code of the field (R76). -/
def RMode.code : RMode → Nat
  | .rne => 0
  | .rz => 1
  | .ru => 2
  | .rd => 3
  | .ro => 4

/-- The value a code names, none where the field gives it no meaning (R76). -/
def RMode.ofField : Nat → Option RMode
  | 0 => some .rne
  | 1 => some .rz
  | 2 => some .ru
  | 3 => some .rd
  | 4 => some .ro
  | _ => none

/-- Code of the field (R39, type). -/
def FTy.code : FTy → Nat
  | .f32 => 0
  | .f16x2 => 1
  | .bf16x2 => 2

/-- The value a code names, none where the field gives it no meaning (R39, type). -/
def FTy.ofField : Nat → Option FTy
  | 0 => some .f32
  | 1 => some .f16x2
  | 2 => some .bf16x2
  | _ => none

/-- Code of the field (R39, SHFL mode). -/
def ShflMode.code : ShflMode → Nat
  | .idx => 0
  | .up => 1
  | .down => 2
  | .xorm => 3

/-- The value a code names, none where the field gives it no meaning (R39, SHFL mode). -/
def ShflMode.ofField : Nat → Option ShflMode
  | 0 => some .idx
  | 1 => some .up
  | 2 => some .down
  | 3 => some .xorm
  | _ => none

/-- Code of the field (R39, VOTE kind). -/
def VoteKind.code : VoteKind → Nat
  | .any => 0
  | .all => 1
  | .ballot => 2
  | .same => 3

/-- The value a code names, none where the field gives it no meaning (R39, VOTE kind). -/
def VoteKind.ofField : Nat → Option VoteKind
  | 0 => some .any
  | 1 => some .all
  | 2 => some .ballot
  | 3 => some .same
  | _ => none

/-- Code of the field (R39, REDG op). -/
def RedOp.code : RedOp → Nat
  | .addi => 0
  | .mins => 1
  | .maxs => 2
  | .minn => 3
  | .maxn => 4
  | .andb => 5
  | .orb => 6
  | .xorb => 7
  | .addf => 8
  | .minf => 9
  | .maxf => 10

/-- The value a code names, none where the field gives it no meaning (R39, REDG op). -/
def RedOp.ofField : Nat → Option RedOp
  | 0 => some .addi
  | 1 => some .mins
  | 2 => some .maxs
  | 3 => some .minn
  | 4 => some .maxn
  | 5 => some .andb
  | 6 => some .orb
  | 7 => some .xorb
  | 8 => some .addf
  | 9 => some .minf
  | 10 => some .maxf
  | _ => none

/-- Code of the field (R131). -/
def JmpKind.code : JmpKind → Nat
  | .always => 0
  | .nz => 1
  | .z => 2

/-- The value a code names, none where the field gives it no meaning (R131). -/
def JmpKind.ofField : Nat → Option JmpKind
  | 0 => some .always
  | 1 => some .nz
  | 2 => some .z
  | _ => none

/-- Code of the field (R151). -/
def MskOp.code : MskOp → Nat
  | .write => 0
  | .push => 1
  | .pop => 2
  | .target => 3

/-- The value a code names, none where the field gives it no meaning (R151). -/
def MskOp.ofField : Nat → Option MskOp
  | 0 => some .write
  | 1 => some .push
  | 2 => some .pop
  | 3 => some .target
  | _ => none

/-- Code of the field (R39, size). -/
def MemSize.code : MemSize → Nat
  | .b8 => 0
  | .b16 => 1
  | .b32 => 2
  | .b64 => 3
  | .b128 => 4
  | .s8 => 5
  | .s16 => 6

/-- The value a code names, none where the field gives it no meaning (R39, size). -/
def MemSize.ofField : Nat → Option MemSize
  | 0 => some .b8
  | 1 => some .b16
  | 2 => some .b32
  | 3 => some .b64
  | 4 => some .b128
  | 5 => some .s8
  | 6 => some .s16
  | _ => none

/-- Code of the field (R39, policy). -/
def Policy.code : Policy → Nat
  | .normal => 0
  | .stream => 1
  | .keepL3 => 2
  | .noL1 => 3

/-- The value a code names, none where the field gives it no meaning (R39, policy). -/
def Policy.ofField : Nat → Option Policy
  | 0 => some .normal
  | 1 => some .stream
  | 2 => some .keepL3
  | 3 => some .noL1
  | _ => none

/-- Code of the field (R39, scope). -/
def Scope.code : Scope → Nat
  | .gang => 0
  | .group => 1
  | .die => 2
  | .island => 3
  | .panel => 4

/-- The value a code names, none where the field gives it no meaning (R39, scope). -/
def Scope.ofField : Nat → Option Scope
  | 0 => some .gang
  | 1 => some .group
  | 2 => some .die
  | 3 => some .island
  | 4 => some .panel
  | _ => none

/-- Code of the field (R225, R287, R377). -/
def Space.code : Space → Nat
  | .global => 0
  | .scratch => 1
  | .commons => 2

/-- The value a code names, none where the field gives it no meaning (R225, R287, R377). -/
def Space.ofField : Nat → Option Space
  | 0 => some .global
  | 1 => some .scratch
  | 2 => some .commons
  | _ => none

/-- Code of the field (R225). -/
def CctlOp.code : CctlOp → Nat
  | .wb => 0
  | .inv => 1
  | .evict => 2

/-- The value a code names, none where the field gives it no meaning (R225). -/
def CctlOp.ofField : Nat → Option CctlOp
  | 0 => some .wb
  | 1 => some .inv
  | 2 => some .evict
  | _ => none

/-- Code of the field (R39, afmt). -/
def AFmt.code : AFmt → Nat
  | .bf16 => 0
  | .f16 => 1
  | .e4m3 => 2
  | .e5m2 => 3
  | .mxe4m3 => 4
  | .mxe5m2 => 5
  | .mxe2m1 => 6

/-- The value a code names, none where the field gives it no meaning (R39, afmt). -/
def AFmt.ofField : Nat → Option AFmt
  | 0 => some .bf16
  | 1 => some .f16
  | 2 => some .e4m3
  | 3 => some .e5m2
  | 4 => some .mxe4m3
  | 5 => some .mxe5m2
  | 6 => some .mxe2m1
  | _ => none

/-- Code of the field (R39, bfmt). -/
def BFmt.code : BFmt → Nat
  | .bf16 => 0
  | .f16 => 1
  | .e4m3 => 2
  | .e5m2 => 3
  | .mxe4m3 => 4
  | .mxe5m2 => 5
  | .mxe2m1 => 6
  | .qc => 7

/-- The value a code names, none where the field gives it no meaning (R39, bfmt). -/
def BFmt.ofField : Nat → Option BFmt
  | 0 => some .bf16
  | 1 => some .f16
  | 2 => some .e4m3
  | 3 => some .e5m2
  | 4 => some .mxe4m3
  | 5 => some .mxe5m2
  | 6 => some .mxe2m1
  | 7 => some .qc
  | _ => none

/-- Code of the field (R275). -/
def AccMode.code : AccMode → Nat
  | .val => 0
  | .fp => 1
  | .part => 2
  | .cnt => 3

/-- The value a code names, none where the field gives it no meaning (R275). -/
def AccMode.ofField : Nat → Option AccMode
  | 0 => some .val
  | 1 => some .fp
  | 2 => some .part
  | 3 => some .cnt
  | _ => none

/-- Code of the field (R39, sub). -/
def SubW.code : SubW → Nat
  | .w2 => 1
  | .w4 => 2
  | .w8 => 3
  | .w16 => 4
  | .w32 => 5

/-- The value a code names, none where the field gives it no meaning (R39, sub). -/
def SubW.ofField : Nat → Option SubW
  | 1 => some .w2
  | 2 => some .w4
  | 3 => some .w8
  | 4 => some .w16
  | 5 => some .w32
  | _ => none

/-- Code of the field (R40). -/
def Fmt.code : Fmt → Nat
  | .f32 => 0
  | .f16 => 1
  | .bf16 => 2
  | .e4m3 => 3
  | .e5m2 => 4
  | .e2m1 => 5
  | .e8m0 => 6
  | .s32 => 8
  | .n32 => 9
  | .s16 => 10
  | .n16 => 11
  | .s8 => 12
  | .n8 => 13
  | .s64 => 14
  | .n64 => 15

/-- The value a code names, none where the field gives it no meaning (R40). -/
def Fmt.ofField : Nat → Option Fmt
  | 0 => some .f32
  | 1 => some .f16
  | 2 => some .bf16
  | 3 => some .e4m3
  | 4 => some .e5m2
  | 5 => some .e2m1
  | 6 => some .e8m0
  | 8 => some .s32
  | 9 => some .n32
  | 10 => some .s16
  | 11 => some .n16
  | 12 => some .s8
  | 13 => some .n8
  | 14 => some .s64
  | 15 => some .n64
  | _ => none

/-- Code of the field (R226). -/
def CasW.code : CasW → Nat
  | .b32 => 9
  | .b64 => 15

/-- The value a code names, none where the field gives it no meaning (R226). -/
def CasW.ofField : Nat → Option CasW
  | 9 => some .b32
  | 15 => some .b64
  | _ => none

/-- Code of the field (R39, width). -/
def IntW.code : IntW → Nat
  | .w32 => 0
  | .w16x2 => 1
  | .w8x4 => 2
  | .w64 => 3

/-- The value a code names, none where the field gives it no meaning (R39, width). -/
def IntW.ofField : Nat → Option IntW
  | 0 => some .w32
  | 1 => some .w16x2
  | 2 => some .w8x4
  | 3 => some .w64
  | _ => none

/-- M of the INT class (R39). -/
def IntMod.ofBits (m : BitVec 4) : IntMod :=
  ⟨match (m.setWidth 2).toNat with
    | 0 => .w32
    | 1 => .w16x2
    | 2 => .w8x4
    | _ => .w64, m.getLsbD 2, m.getLsbD 3⟩

/-- M of the INT class (R39). -/
def IntMod.bits (md : IntMod) : BitVec 4 := bit md.sat ++ bit md.s ++ BitVec.ofNat 2 md.w.code

/-- M of the FPA and FPS classes (R39). -/
def FpMod.ofBits (m : BitVec 4) : Option FpMod := do
  let mode ← RMode.ofField (m.setWidth 3).toNat
  some ⟨mode, m.getLsbD 3⟩

/-- M of the FPA and FPS classes (R39). -/
def FpMod.bits (fm : FpMod) : BitVec 4 := bit fm.sat ++ BitVec.ofNat 3 fm.mode.code

/-- The home-die hint of X 4..3: hd without hv has no meaning (R225). -/
def hintOf (hv hd : Bool) : Option (Option Bool) :=
  if hv then some (some hd) else if hd then none else some none

/-- X 4..3 of a home-die hint (R225). -/
def hintBits : Option Bool → BitVec 2
  | none => 0b00
  | some hd => bit hd ++ 1#1

/-- The operation code of an atomic (R39). -/
def AtomOp.code : AtomOp → Nat
  | .add => 0 | .sub => 1 | .minS => 2 | .maxS => 3 | .minN => 4 | .maxN => 5 | .andb => 6 | .orb => 7
  | .xorb => 8 | .xchg => 9 | .inc => 10 | .dec => 11 | .fadd => 12 | .faddF16x2 => 12 | .fmin => 13
  | .fmax => 14 | .add64 => 15 | .faddBf16x2 => 15

/-- The pk bit of an atomic (R227). -/
def AtomOp.pk : AtomOp → Bool
  | .faddF16x2 | .faddBf16x2 => true
  | _ => false

/-- The operation of M and pk; pk is accepted with codes 12 and 15 only (R227). -/
def AtomOp.ofBits (m : BitVec 4) (pk : Bool) : Option AtomOp :=
  match pk, m.toNat with
  | false, 0 => some .add | false, 1 => some .sub | false, 2 => some .minS | false, 3 => some .maxS
  | false, 4 => some .minN | false, 5 => some .maxN | false, 6 => some .andb | false, 7 => some .orb
  | false, 8 => some .xorb | false, 9 => some .xchg | false, 10 => some .inc | false, 11 => some .dec
  | false, 12 => some .fadd | true, 12 => some .faddF16x2 | false, 13 => some .fmin
  | false, 14 => some .fmax | false, 15 => some .add64 | true, 15 => some .faddBf16x2
  | _, _ => none

/-- The fields of a long or extended instruction (R32, R33). -/
structure Raw where
  cls : BitVec 4
  idx : BitVec 6
  m : BitVec 4
  x : BitVec 5
  kp : Bool
  nw : Bool
  gn : Bool
  dRaw : BitVec 8
  aRaw : BitVec 8
  bRaw : BitVec 8
  cRaw : BitVec 8
  gRaw : BitVec 8
  lit : Option Word
  deriving DecidableEq, Repr

def Raw.d (r : Raw) : Opnd := .ofCode r.dRaw
def Raw.a (r : Raw) : Opnd := .ofCode r.aRaw
def Raw.b (r : Raw) : Opnd := .ofCode r.bRaw
def Raw.c (r : Raw) : Opnd := .ofCode r.cRaw
def Raw.hdr (r : Raw) : Hdr := ⟨r.lit, .ofCode r.gRaw, r.gn, r.nw⟩
/-- The word offset of a control instruction: C high, B low (R35). -/
def Raw.off (r : Raw) : BitVec 16 := r.cRaw ++ r.bRaw

/-- The fields of the two words of a long form and the literal (R32, R33). -/
def Raw.ofWords (w0 w1 : Word) (lit : Option Word) : Raw where
  cls := w0.extractLsb' 8 4
  idx := w0.extractLsb' 2 6
  m := w0.extractLsb' 28 4
  x := w1.extractLsb' 27 5
  kp := w1.getLsbD 26
  nw := w1.getLsbD 25
  gn := w1.getLsbD 24
  dRaw := w0.extractLsb' 12 8
  aRaw := w0.extractLsb' 20 8
  bRaw := w1.extractLsb' 0 8
  cRaw := w1.extractLsb' 8 8
  gRaw := w1.extractLsb' 16 8
  lit := lit

/-- Word 0 of a long form (R32). -/
def Raw.word0 (r : Raw) : Word :=
  r.m ++ r.aRaw ++ r.dRaw ++ r.cls ++ r.idx ++ (if r.lit.isSome then 0b11#2 else 0b10#2)

/-- Word 1 of a long form (R32). -/
def Raw.word1 (r : Raw) : Word :=
  r.x ++ bit r.kp ++ bit r.nw ++ bit r.gn ++ r.gRaw ++ r.cRaw ++ r.bRaw

/-- The words of a long or extended form (R28, R33). -/
def Raw.words (r : Raw) : List Word := [r.word0, r.word1] ++ r.lit.toList

/-- What the reserved-field checks of R34, R36, R37 and R38 need of a row: the M and X bits that have a
meaning, the operand fields in use, whether it takes a guard and gives a result, KP. -/
structure RowUse where
  m : BitVec 4
  x : BitVec 5
  d : Bool
  a : Bool
  b : Bool
  c : Bool
  guard : Bool
  result : Bool
  kp : Bool
  deriving DecidableEq, Repr

/-- No reserved bit or unused field is set (R34, R36, R37, R38, R25). -/
def RowUse.ok (u : RowUse) (r : Raw) : Bool :=
  (r.m &&& ~~~u.m) == 0 && (r.x &&& ~~~u.x) == 0 && (u.d || r.dRaw == 0xF0) && (u.a || r.aRaw == 0xF0) &&
  (u.b || r.bRaw == 0xF0) && (u.c || r.cRaw == 0xF0) && (u.guard || r.gRaw == 0xF0) &&
  (u.result || !r.nw) && (u.kp || !r.kp) && (!r.gn || r.gRaw != 0xF0)

/-- The rows of class 0x0, INT (R41): the fields in use. -/
def intUse (_r : Raw) : Nat → Option RowUse
  | 0x00 => some ⟨15, 0, true, true, true, false, true, true, false⟩  -- IADD
  | 0x01 => some ⟨15, 0, true, true, true, false, true, true, false⟩  -- ISUB
  | 0x02 => some ⟨15, 0, true, true, true, false, true, true, false⟩  -- IMUL
  | 0x03 => some ⟨15, 0, true, true, true, false, true, true, false⟩  -- IMULH
  | 0x04 => some ⟨15, 0, true, true, true, true, true, true, false⟩  -- IMAD
  | 0x05 => some ⟨15, 0, true, true, true, false, true, true, false⟩  -- IMIN
  | 0x06 => some ⟨15, 0, true, true, true, false, true, true, false⟩  -- IMAX
  | 0x07 => some ⟨15, 0, true, true, false, false, true, true, false⟩  -- IABS
  | 0x08 => some ⟨15, 0, true, true, true, false, true, true, false⟩  -- IDIV
  | 0x09 => some ⟨15, 0, true, true, true, false, true, true, false⟩  -- IREM
  | 0x0A => some ⟨15, 15, true, true, true, false, true, true, false⟩  -- ICMP
  | 0x0B => some ⟨15, 0, true, true, true, true, true, true, false⟩  -- ISEL
  | 0x0C => some ⟨15, 0, true, true, true, false, true, true, false⟩  -- DADD
  | 0x0D => some ⟨15, 0, true, true, true, false, true, true, false⟩  -- DSUB
  | 0x0E => some ⟨15, 15, true, true, true, false, true, true, false⟩  -- LEA
  | 0x0F => some ⟨15, 15, true, true, true, false, true, true, false⟩  -- DCMP
  | 0x10 => some ⟨15, 0, true, true, true, true, true, true, false⟩  -- DOT4
  | 0x11 => some ⟨15, 0, true, true, true, true, true, true, false⟩  -- DOT2
  | 0x12 => some ⟨15, 0, true, true, true, true, true, true, false⟩  -- ISAD
  | _ => none

/-- The rows of class 0x0, INT (R41): the instruction, none for a modifier code without a meaning. -/
def intBuild (r : Raw) : Nat → Option Instr
  | 0x00 => some (.iadd r.hdr (IntMod.ofBits r.m) r.d r.a r.b)
  | 0x01 => some (.isub r.hdr (IntMod.ofBits r.m) r.d r.a r.b)
  | 0x02 => some (.imul r.hdr (IntMod.ofBits r.m) r.d r.a r.b)
  | 0x03 => some (.imulh r.hdr (IntMod.ofBits r.m) r.d r.a r.b)
  | 0x04 => some (.imad r.hdr (IntMod.ofBits r.m) r.d r.a r.b r.c)
  | 0x05 => some (.imin r.hdr (IntMod.ofBits r.m) r.d r.a r.b)
  | 0x06 => some (.imax r.hdr (IntMod.ofBits r.m) r.d r.a r.b)
  | 0x07 => some (.iabs r.hdr (IntMod.ofBits r.m) r.d r.a)
  | 0x08 => some (.idiv r.hdr (IntMod.ofBits r.m) r.d r.a r.b)
  | 0x09 => some (.irem r.hdr (IntMod.ofBits r.m) r.d r.a r.b)
  | 0x0A => do
      let cond ← Cond.ofField (r.x.setWidth 3).toNat
      some (.icmp r.hdr (IntMod.ofBits r.m) cond (r.x.getLsbD 3) r.d r.a r.b)
  | 0x0B => some (.isel r.hdr (IntMod.ofBits r.m) r.d r.a r.b r.c)
  | 0x0C => some (.dadd r.hdr (IntMod.ofBits r.m) r.d r.a r.b)
  | 0x0D => some (.dsub r.hdr (IntMod.ofBits r.m) r.d r.a r.b)
  | 0x0E => if r.m == 0 then some (.lea r.hdr (r.x.setWidth 3) (r.x.getLsbD 3) r.d r.a r.b) else none
  | 0x0F => do
      let cond ← Cond.ofField (r.x.setWidth 3).toNat
      some (.dcmp r.hdr (IntMod.ofBits r.m) cond (r.x.getLsbD 3) r.d r.a r.b)
  | 0x10 => some (.dot4 r.hdr (IntMod.ofBits r.m) r.d r.a r.b r.c)
  | 0x11 => some (.dot2 r.hdr (IntMod.ofBits r.m) r.d r.a r.b r.c)
  | 0x12 => some (.isad r.hdr (IntMod.ofBits r.m) r.d r.a r.b r.c)
  | _ => none

/-- The rows of class 0x1, BIT (R41): the fields in use. -/
def bitUse (_r : Raw) : Nat → Option RowUse
  | 0x00 => some ⟨0, 0, true, true, false, false, true, true, false⟩  -- MOV
  | 0x01 => some ⟨0, 0, true, true, true, false, true, true, false⟩  -- AND
  | 0x02 => some ⟨0, 0, true, true, true, false, true, true, false⟩  -- OR
  | 0x03 => some ⟨0, 0, true, true, true, false, true, true, false⟩  -- XOR
  | 0x04 => some ⟨0, 0, true, true, true, false, true, true, false⟩  -- ANDN
  | 0x05 => some ⟨0, 0, true, true, false, false, true, true, false⟩  -- NOT
  | 0x06 => some ⟨3, 0, true, true, true, false, true, true, false⟩  -- SHL
  | 0x07 => some ⟨3, 0, true, true, true, false, true, true, false⟩  -- SHR
  | 0x08 => some ⟨3, 0, true, true, true, false, true, true, false⟩  -- SHA
  | 0x09 => some ⟨3, 0, true, true, true, false, true, true, false⟩  -- ROT
  | 0x0A => some ⟨0, 1, true, true, true, false, true, true, false⟩  -- BFE
  | 0x0B => some ⟨0, 0, true, true, true, true, true, true, false⟩  -- BFI
  | 0x0C => some ⟨0, 0, true, true, false, false, true, true, false⟩  -- POPC
  | 0x0D => some ⟨0, 0, true, true, false, false, true, true, false⟩  -- CLZ
  | 0x0E => some ⟨0, 0, true, true, false, false, true, true, false⟩  -- FFS
  | 0x0F => some ⟨0, 0, true, true, false, false, true, true, false⟩  -- BREV
  | 0x10 => some ⟨0, 15, true, true, true, true, true, true, false⟩  -- PERMB
  | 0x11 => some ⟨15, 15, true, true, true, true, true, true, false⟩  -- LOP3
  | 0x12 => some ⟨0, 0, true, true, true, false, true, true, false⟩  -- DSHL
  | 0x13 => some ⟨0, 1, true, true, true, false, true, true, false⟩  -- DSHR
  | 0x14 => some ⟨0, 0, true, true, false, false, true, true, false⟩  -- MOVD
  | _ => none

/-- The rows of class 0x1, BIT (R41): the instruction, none for a modifier code without a meaning. -/
def bitBuild (r : Raw) : Nat → Option Instr
  | 0x00 => some (.mov r.hdr r.d r.a)
  | 0x01 => some (.andI r.hdr r.d r.a r.b)
  | 0x02 => some (.orI r.hdr r.d r.a r.b)
  | 0x03 => some (.xorI r.hdr r.d r.a r.b)
  | 0x04 => some (.andn r.hdr r.d r.a r.b)
  | 0x05 => some (.notI r.hdr r.d r.a)
  | 0x06 => do
      let w ← ShW.ofField (r.m.setWidth 2).toNat
      some (.shl r.hdr w r.d r.a r.b)
  | 0x07 => do
      let w ← ShW.ofField (r.m.setWidth 2).toNat
      some (.shr r.hdr w r.d r.a r.b)
  | 0x08 => do
      let w ← ShW.ofField (r.m.setWidth 2).toNat
      some (.sha r.hdr w r.d r.a r.b)
  | 0x09 => do
      let w ← ShW.ofField (r.m.setWidth 2).toNat
      some (.rot r.hdr w r.d r.a r.b)
  | 0x0A => some (.bfe r.hdr (r.x.getLsbD 0) r.d r.a r.b)
  | 0x0B => some (.bfi r.hdr r.d r.a r.b r.c)
  | 0x0C => some (.popc r.hdr r.d r.a)
  | 0x0D => some (.clz r.hdr r.d r.a)
  | 0x0E => some (.ffs r.hdr r.d r.a)
  | 0x0F => some (.brev r.hdr r.d r.a)
  | 0x10 => some (.permb r.hdr (r.x.setWidth 4) r.cRaw r.d r.a r.b)
  | 0x11 => some (.lop3 r.hdr (r.m ++ r.x.setWidth 4) r.d r.a r.b r.c)
  | 0x12 => some (.dshl r.hdr r.d r.a r.b)
  | 0x13 => some (.dshr r.hdr (r.x.getLsbD 0) r.d r.a r.b)
  | 0x14 => some (.movd r.hdr r.d r.a)
  | _ => none

/-- The rows of class 0x2, FPA (R41): the fields in use. -/
def fpaUse (_r : Raw) : Nat → Option RowUse
  | 0x00 => some ⟨15, 31, true, true, true, false, true, true, false⟩  -- FADD
  | 0x01 => some ⟨15, 31, true, true, true, false, true, true, false⟩  -- FSUB
  | 0x02 => some ⟨15, 31, true, true, true, false, true, true, false⟩  -- FMUL
  | 0x03 => some ⟨15, 31, true, true, true, true, true, true, false⟩  -- FFMA
  | 0x04 => some ⟨15, 3, true, true, true, false, true, true, false⟩  -- FMIN
  | 0x05 => some ⟨15, 3, true, true, true, false, true, true, false⟩  -- FMAX
  | 0x06 => some ⟨15, 31, true, true, true, false, true, true, false⟩  -- FCMP
  | 0x07 => some ⟨15, 3, true, true, true, true, true, true, false⟩  -- FDOT2
  | 0x08 => some ⟨15, 3, true, true, true, false, true, true, false⟩  -- FSCALE
  | 0x09 => some ⟨15, 3, true, true, false, false, true, true, false⟩  -- FFRACT
  | 0x0A => some ⟨15, 3, true, true, false, false, true, true, false⟩  -- FRND
  | 0x0B => some ⟨15, 3, true, true, false, false, true, true, false⟩  -- FCLASS
  | _ => none

/-- The rows of class 0x2, FPA (R41): the instruction, none for a modifier code without a meaning. -/
def fpaBuild (r : Raw) : Nat → Option Instr
  | 0x00 => do
      let fm ← FpMod.ofBits r.m
      let ty ← FTy.ofField (r.x.setWidth 2).toNat
      if r.x.getLsbD 4 then none else
      some (.fadd r.hdr fm ty (r.x.getLsbD 2) (r.x.getLsbD 3) r.d r.a r.b)
  | 0x01 => do
      let fm ← FpMod.ofBits r.m
      let ty ← FTy.ofField (r.x.setWidth 2).toNat
      if r.x.getLsbD 4 then none else
      some (.fsub r.hdr fm ty (r.x.getLsbD 2) (r.x.getLsbD 3) r.d r.a r.b)
  | 0x02 => do
      let fm ← FpMod.ofBits r.m
      let ty ← FTy.ofField (r.x.setWidth 2).toNat
      if r.x.getLsbD 4 then none else
      some (.fmul r.hdr fm ty (r.x.getLsbD 2) (r.x.getLsbD 3) r.d r.a r.b)
  | 0x03 => do
      let fm ← FpMod.ofBits r.m
      let ty ← FTy.ofField (r.x.setWidth 2).toNat
      some (.ffma r.hdr fm ty (r.x.getLsbD 2) (r.x.getLsbD 3) (r.x.getLsbD 4) r.d r.a r.b r.c)
  | 0x04 => do
      let fm ← FpMod.ofBits r.m
      let ty ← FTy.ofField (r.x.setWidth 2).toNat
      some (.fmin r.hdr fm ty r.d r.a r.b)
  | 0x05 => do
      let fm ← FpMod.ofBits r.m
      let ty ← FTy.ofField (r.x.setWidth 2).toNat
      some (.fmax r.hdr fm ty r.d r.a r.b)
  | 0x06 => do
      let fm ← FpMod.ofBits r.m
      let ty ← FTy.ofField (r.x.setWidth 2).toNat
      let cond ← FCond.ofField (r.x.extractLsb' 2 3).toNat
      some (.fcmp r.hdr fm ty cond r.d r.a r.b)
  | 0x07 => do
      let fm ← FpMod.ofBits r.m
      let ty ← FTy.ofField (r.x.setWidth 2).toNat
      some (.fdot2 r.hdr fm ty r.d r.a r.b r.c)
  | 0x08 => do
      let fm ← FpMod.ofBits r.m
      let ty ← FTy.ofField (r.x.setWidth 2).toNat
      some (.fscale r.hdr fm ty r.d r.a r.b)
  | 0x09 => do
      let fm ← FpMod.ofBits r.m
      let ty ← FTy.ofField (r.x.setWidth 2).toNat
      some (.ffract r.hdr fm ty r.d r.a)
  | 0x0A => do
      let fm ← FpMod.ofBits r.m
      let ty ← FTy.ofField (r.x.setWidth 2).toNat
      some (.frnd r.hdr fm ty r.d r.a)
  | 0x0B => do
      let fm ← FpMod.ofBits r.m
      let ty ← FTy.ofField (r.x.setWidth 2).toNat
      some (.fclass r.hdr fm ty r.d r.a)
  | _ => none

/-- The rows of class 0x3, FPS (R41): the fields in use. -/
def fpsUse (_r : Raw) : Nat → Option RowUse
  | 0x00 => some ⟨15, 3, true, true, false, false, true, true, false⟩  -- FRCP
  | 0x01 => some ⟨15, 3, true, true, false, false, true, true, false⟩  -- FRSQ
  | 0x02 => some ⟨15, 3, true, true, false, false, true, true, false⟩  -- FSQRT
  | 0x03 => some ⟨15, 3, true, true, true, false, true, true, false⟩  -- FDIV
  | 0x04 => some ⟨15, 3, true, true, false, false, true, true, false⟩  -- FEXP2
  | 0x05 => some ⟨15, 3, true, true, false, false, true, true, false⟩  -- FLOG2
  | 0x06 => some ⟨15, 3, true, true, false, false, true, true, false⟩  -- FSIN
  | 0x07 => some ⟨15, 3, true, true, false, false, true, true, false⟩  -- FCOS
  | 0x08 => some ⟨15, 3, true, true, false, false, true, true, false⟩  -- FTANH
  | 0x09 => some ⟨15, 15, true, true, false, true, true, true, false⟩  -- CVTFF
  | 0x0A => some ⟨15, 15, true, true, false, true, true, true, false⟩  -- CVTFI
  | 0x0B => some ⟨15, 15, true, true, false, true, true, true, false⟩  -- CVTIF
  | 0x0C => some ⟨15, 15, true, true, true, true, true, true, false⟩  -- FPACK
  | 0x0D => some ⟨15, 15, true, true, false, true, true, true, false⟩  -- FUNPK
  | 0x0E => some ⟨15, 15, true, true, false, true, true, true, false⟩  -- MXENC
  | 0x0F => some ⟨15, 15, true, true, true, true, true, true, false⟩  -- MXDEC
  | _ => none

/-- The rows of class 0x3, FPS (R41): the instruction, none for a modifier code without a meaning. -/
def fpsBuild (r : Raw) : Nat → Option Instr
  | 0x00 => do
      let fm ← FpMod.ofBits r.m
      let ty ← FTy.ofField (r.x.setWidth 2).toNat
      some (.frcp r.hdr fm ty r.d r.a)
  | 0x01 => do
      let fm ← FpMod.ofBits r.m
      let ty ← FTy.ofField (r.x.setWidth 2).toNat
      some (.frsq r.hdr fm ty r.d r.a)
  | 0x02 => do
      let fm ← FpMod.ofBits r.m
      let ty ← FTy.ofField (r.x.setWidth 2).toNat
      some (.fsqrt r.hdr fm ty r.d r.a)
  | 0x03 => do
      let fm ← FpMod.ofBits r.m
      let ty ← FTy.ofField (r.x.setWidth 2).toNat
      some (.fdiv r.hdr fm ty r.d r.a r.b)
  | 0x04 => do
      let fm ← FpMod.ofBits r.m
      let ty ← FTy.ofField (r.x.setWidth 2).toNat
      some (.fexp2 r.hdr fm ty r.d r.a)
  | 0x05 => do
      let fm ← FpMod.ofBits r.m
      let ty ← FTy.ofField (r.x.setWidth 2).toNat
      some (.flog2 r.hdr fm ty r.d r.a)
  | 0x06 => do
      let fm ← FpMod.ofBits r.m
      let ty ← FTy.ofField (r.x.setWidth 2).toNat
      some (.fsin r.hdr fm ty r.d r.a)
  | 0x07 => do
      let fm ← FpMod.ofBits r.m
      let ty ← FTy.ofField (r.x.setWidth 2).toNat
      some (.fcos r.hdr fm ty r.d r.a)
  | 0x08 => do
      let fm ← FpMod.ofBits r.m
      let ty ← FTy.ofField (r.x.setWidth 2).toNat
      some (.ftanh r.hdr fm ty r.d r.a)
  | 0x09 => do
      let fm ← FpMod.ofBits r.m
      let s ← Fmt.ofField (r.x.setWidth 4).toNat
      let t ← Fmt.ofField r.cRaw.toNat
      some (.cvtff r.hdr fm s t r.d r.a)
  | 0x0A => do
      let fm ← FpMod.ofBits r.m
      let s ← Fmt.ofField (r.x.setWidth 4).toNat
      let t ← Fmt.ofField r.cRaw.toNat
      some (.cvtfi r.hdr fm s t r.d r.a)
  | 0x0B => do
      let fm ← FpMod.ofBits r.m
      let s ← Fmt.ofField (r.x.setWidth 4).toNat
      let t ← Fmt.ofField r.cRaw.toNat
      some (.cvtif r.hdr fm s t r.d r.a)
  | 0x0C => do
      let fm ← FpMod.ofBits r.m
      let s ← Fmt.ofField (r.x.setWidth 4).toNat
      let t ← Fmt.ofField r.cRaw.toNat
      some (.fpack r.hdr fm s t r.d r.a r.b)
  | 0x0D => do
      let fm ← FpMod.ofBits r.m
      let s ← Fmt.ofField (r.x.setWidth 4).toNat
      let t ← Fmt.ofField r.cRaw.toNat
      some (.funpk r.hdr fm s t r.d r.a)
  | 0x0E => do
      let fm ← FpMod.ofBits r.m
      let s ← Fmt.ofField (r.x.setWidth 4).toNat
      let t ← Fmt.ofField r.cRaw.toNat
      some (.mxenc r.hdr fm s t r.d r.a)
  | 0x0F => do
      let fm ← FpMod.ofBits r.m
      let s ← Fmt.ofField (r.x.setWidth 4).toNat
      let t ← Fmt.ofField r.cRaw.toNat
      some (.mxdec r.hdr fm s t r.d r.a r.b)
  | _ => none

/-- The rows of class 0x4, XLN (R41): the fields in use. -/
def xlnUse (_r : Raw) : Nat → Option RowUse
  | 0x00 => some ⟨7, 7, true, true, true, false, true, true, false⟩  -- SHFL
  | 0x01 => some ⟨7, 7, true, true, false, false, true, true, false⟩  -- VOTE
  | 0x02 => some ⟨7, 1, true, true, false, false, true, true, false⟩  -- MATCH
  | 0x03 => some ⟨7, 15, true, true, false, false, true, true, false⟩  -- REDG
  | 0x04 => some ⟨7, 31, true, true, false, false, true, true, false⟩  -- SCAN
  | 0x05 => some ⟨7, 0, true, true, true, false, true, true, false⟩  -- BCAST
  | 0x06 => some ⟨7, 0, true, false, false, false, true, true, false⟩  -- ELECT
  | _ => none

/-- The rows of class 0x4, XLN (R41): the instruction, none for a modifier code without a meaning. -/
def xlnBuild (r : Raw) : Nat → Option Instr
  | 0x00 => do
      let sw ← SubW.ofField (r.m.setWidth 3).toNat
      let mode ← ShflMode.ofField (r.x.setWidth 2).toNat
      some (.shfl r.hdr sw mode (r.x.getLsbD 2) r.d r.a r.b)
  | 0x01 => do
      let sw ← SubW.ofField (r.m.setWidth 3).toNat
      let kind ← VoteKind.ofField (r.x.setWidth 2).toNat
      some (.vote r.hdr sw kind (r.x.getLsbD 2) r.d r.a)
  | 0x02 => do
      let sw ← SubW.ofField (r.m.setWidth 3).toNat
      some (.matchI r.hdr sw (r.x.getLsbD 0) r.d r.a)
  | 0x03 => do
      let sw ← SubW.ofField (r.m.setWidth 3).toNat
      let op ← RedOp.ofField (r.x.setWidth 4).toNat
      some (.redg r.hdr sw op r.d r.a)
  | 0x04 => do
      let sw ← SubW.ofField (r.m.setWidth 3).toNat
      let op ← RedOp.ofField (r.x.setWidth 4).toNat
      some (.scan r.hdr sw op (r.x.getLsbD 4) r.d r.a)
  | 0x05 => do
      let sw ← SubW.ofField (r.m.setWidth 3).toNat
      some (.bcast r.hdr sw r.d r.a r.b)
  | 0x06 => do
      let sw ← SubW.ofField (r.m.setWidth 3).toNat
      some (.elect r.hdr sw r.d)
  | _ => none

/-- The rows of class 0x5, CTL (R41): the fields in use. -/
def ctlUse (r : Raw) : Nat → Option RowUse
  | 0x00 => some ⟨1, 0, false, true, true, true, false, false, false⟩  -- IF
  | 0x01 => some ⟨0, 0, false, false, true, true, false, false, false⟩  -- ELSE
  | 0x02 => some ⟨0, 0, false, false, false, false, false, false, false⟩  -- ENDIF
  | 0x03 => some ⟨0, 0, false, false, true, true, false, false, false⟩  -- LOOP
  | 0x04 => some ⟨0, 0, false, false, true, true, false, false, false⟩  -- ENDL
  | 0x05 => some ⟨1, 31, false, true, true, true, false, false, false⟩  -- BREAK
  | 0x06 => some ⟨1, 31, false, true, true, true, false, false, false⟩  -- CONT
  | 0x07 => some ⟨3, 0, false, (r.m.setWidth 2) != 0, true, true, false, false, false⟩  -- JMP
  | 0x08 => some ⟨15, 1, true, false, true, true, false, false, false⟩  -- CALL
  | 0x09 => some ⟨15, 1, true, true, false, false, false, false, false⟩  -- CALLI
  | 0x0A => some ⟨0, 0, false, false, false, false, false, false, false⟩  -- RET
  | 0x0B =>  -- MARK; .clr is reserved with a D other than 0x00 (R131)
    let clr := r.m.getLsbD 0
    some ⟨if clr && r.dRaw != 0 then 0 else 1, 0, true, false, !clr, !clr, false, false, false⟩
  | 0x0C => some ⟨0, 0, true, false, false, false, false, false, false⟩  -- UNWIND
  | 0x0D => some ⟨0, 0, false, false, false, false, false, false, false⟩  -- PART
  | 0x0E => some ⟨0, 0, true, false, false, false, false, false, false⟩  -- REGANG
  | 0x0F => some ⟨0, 0, false, false, false, false, false, false, false⟩  -- EXIT
  | 0x10 => some ⟨0, 0, false, false, false, false, false, false, false⟩  -- YIELD
  | 0x11 => some ⟨0, 0, false, false, false, false, false, false, false⟩  -- NOP
  | 0x12 => some ⟨0, 0, false, false, false, false, false, false, false⟩  -- BRK
  | 0x13 => some ⟨0, 0, false, false, false, false, false, false, false⟩  -- RGN
  | _ => none

/-- The rows of class 0x5, CTL (R41): the instruction, none for a modifier code without a meaning. -/
def ctlBuild (r : Raw) : Nat → Option Instr
  | 0x00 => some (.ifI r.hdr (r.m.getLsbD 0) r.a r.off)
  | 0x01 => some (.elseI r.hdr r.off)
  | 0x02 => some (.endif r.hdr)
  | 0x03 => some (.loop r.hdr r.off)
  | 0x04 => some (.endl r.hdr r.off)
  | 0x05 => some (.breakI r.hdr (r.m.getLsbD 0) r.x r.a r.off)
  | 0x06 => some (.cont r.hdr (r.m.getLsbD 0) r.x r.a r.off)
  | 0x07 => do
      let kind ← JmpKind.ofField (r.m.setWidth 2).toNat
      some (.jmp r.hdr kind r.a r.off)
  | 0x08 => some (.call r.hdr (bit (r.x.getLsbD 0) ++ r.m) r.d r.off)
  | 0x09 => some (.calli r.hdr (bit (r.x.getLsbD 0) ++ r.m) r.d r.a)
  | 0x0A => some (.ret r.hdr)
  | 0x0B => some (.mark r.hdr (r.m.getLsbD 0) r.dRaw r.off)
  | 0x0C => some (.unwind r.hdr r.dRaw)
  | 0x0D => some (.part r.hdr)
  | 0x0E => some (.regang r.hdr r.dRaw)
  | 0x0F => some (.exit r.hdr)
  | 0x10 => some (.yield r.hdr)
  | 0x11 => some (.nop r.hdr)
  | 0x12 => some (.brk r.hdr)
  | 0x13 => some (.rgn r.hdr)
  | _ => none

/-- The rows of class 0x6, STA (R41): the fields in use. -/
def staUse (_r : Raw) : Nat → Option RowUse
  | 0x00 => some ⟨7, 7, true, false, false, false, false, false, false⟩  -- QDEF
  | 0x01 => some ⟨0, 0, true, false, false, false, false, false, false⟩  -- QCLR
  | 0x02 => some ⟨0, 0, true, true, false, false, true, true, false⟩  -- QOCC
  | 0x03 => some ⟨0, 7, true, true, false, false, true, true, false⟩  -- QRD
  | 0x04 => some ⟨0, 7, true, true, false, false, true, false, false⟩  -- QWR
  | 0x05 => some ⟨0, 15, true, false, false, false, true, true, false⟩  -- WINRD
  | 0x06 => some ⟨0, 15, true, false, false, false, true, false, false⟩  -- WINWR
  | 0x07 => some ⟨1, 31, true, false, false, false, true, true, false⟩  -- MSKRD
  | 0x08 => some ⟨3, 31, true, false, false, false, true, false, false⟩  -- MSKWR
  | 0x09 => some ⟨0, 7, true, true, false, false, true, true, false⟩  -- FRMQ
  | 0x0A => some ⟨0, 0, true, true, true, false, true, true, false⟩  -- FRMRD
  | _ => none

/-- The rows of class 0x6, STA (R41): the instruction, none for a modifier code without a meaning. -/
def staBuild (r : Raw) : Nat → Option Instr
  | 0x00 => some (.qdef r.hdr (r.m.setWidth 3) (r.x.setWidth 3) r.d)
  | 0x01 => some (.qclr r.hdr r.d)
  | 0x02 => some (.qocc r.hdr r.d r.a)
  | 0x03 => some (.qrd r.hdr (r.x.setWidth 3) r.d r.a)
  | 0x04 => some (.qwr r.hdr (r.x.setWidth 3) r.d r.a)
  | 0x05 => 
      let k := (r.x.setWidth 4).toNat
      if hk : k < 9 then some (.winrd r.hdr ⟨k, hk⟩ r.d) else none
  | 0x06 => 
      let k := (r.x.setWidth 4).toNat
      if hk : k < 9 then some (.winwr r.hdr ⟨k, hk⟩ r.d) else none
  | 0x07 => some (.mskrd r.hdr (r.m.getLsbD 0) r.x r.d)
  | 0x08 => do
      let op ← MskOp.ofField (r.m.setWidth 2).toNat
      some (.mskwr r.hdr op r.x r.d)
  | 0x09 => 
      let k := (r.x.setWidth 3).toNat
      if hk : k < 5 then some (.frmq r.hdr ⟨k, hk⟩ r.d r.a) else none
  | 0x0A => some (.frmrd r.hdr r.d r.a r.b)
  | _ => none

/-- The rows of class 0x7, MEM (R41): the fields in use. -/
def memUse (_r : Raw) : Nat → Option RowUse
  | 0x00 => some ⟨7, 27, true, true, true, false, true, true, false⟩  -- LD
  | 0x01 => some ⟨15, 27, true, true, true, false, true, false, false⟩  -- ST
  | 0x02 => some ⟨7, 0, true, true, true, false, true, true, false⟩  -- LDL
  | 0x03 => some ⟨15, 0, true, true, true, false, true, false, false⟩  -- STL
  | 0x04 => some ⟨7, 0, true, true, true, false, true, true, false⟩  -- LDC
  | 0x05 => some ⟨15, 0, true, true, true, false, true, false, false⟩  -- STC
  | 0x06 => some ⟨7, 0, true, true, true, false, true, true, false⟩  -- LDK
  | 0x07 => some ⟨7, 31, true, true, true, false, true, true, false⟩  -- LDACQ
  | 0x08 => some ⟨15, 31, true, true, true, false, true, false, false⟩  -- STREL
  | 0x09 => some ⟨3, 0, false, true, true, false, true, false, false⟩  -- CCTL
  | _ => none

/-- The rows of class 0x7, MEM (R41): the instruction, none for a modifier code without a meaning. -/
def memBuild (r : Raw) : Nat → Option Instr
  | 0x00 => do
      let sz ← MemSize.ofField (r.m.setWidth 3).toNat
      let pol ← Policy.ofField (r.x.setWidth 2).toNat
      let hint ← hintOf (r.x.getLsbD 3) (r.x.getLsbD 4)
      some (.ld r.hdr sz pol hint r.d r.a r.b)
  | 0x01 => do
      let sz ← MemSize.ofField (r.m.setWidth 3).toNat
      let pol ← Policy.ofField (r.x.setWidth 2).toNat
      let hint ← hintOf (r.x.getLsbD 3) (r.x.getLsbD 4)
      some (.st r.hdr sz (r.m.getLsbD 3) pol hint r.d r.a r.b)
  | 0x02 => do
      let sz ← MemSize.ofField (r.m.setWidth 3).toNat
      some (.ldl r.hdr sz r.d r.a r.b)
  | 0x03 => do
      let sz ← MemSize.ofField (r.m.setWidth 3).toNat
      some (.stl r.hdr sz (r.m.getLsbD 3) r.d r.a r.b)
  | 0x04 => do
      let sz ← MemSize.ofField (r.m.setWidth 3).toNat
      some (.ldc r.hdr sz r.d r.a r.b)
  | 0x05 => do
      let sz ← MemSize.ofField (r.m.setWidth 3).toNat
      some (.stc r.hdr sz (r.m.getLsbD 3) r.d r.a r.b)
  | 0x06 => do
      let sz ← MemSize.ofField (r.m.setWidth 3).toNat
      some (.ldk r.hdr sz r.d r.a r.b)
  | 0x07 => do
      let sz ← MemSize.ofField (r.m.setWidth 3).toNat
      let sc ← Scope.ofField (r.x.setWidth 3).toNat
      let sp ← Space.ofField (r.x.extractLsb' 3 2).toNat
      some (.ldacq r.hdr sz sc sp r.d r.a r.b)
  | 0x08 => do
      let sz ← MemSize.ofField (r.m.setWidth 3).toNat
      let sc ← Scope.ofField (r.x.setWidth 3).toNat
      let sp ← Space.ofField (r.x.extractLsb' 3 2).toNat
      some (.strel r.hdr sz sc sp (r.m.getLsbD 3) r.d r.a r.b)
  | 0x09 => do
      let op ← CctlOp.ofField (r.m.setWidth 2).toNat
      some (.cctl r.hdr op r.a r.b)
  | _ => none

/-- The rows of class 0x8, ATM (R41): the fields in use. -/
def atmUse (r : Raw) : Nat → Option RowUse
  | 0x00 => some ⟨15, 31, r.x.getLsbD 3, true, true, true, true, r.x.getLsbD 3, false⟩  -- ATOM
  | 0x01 => some ⟨15, 15, r.x.getLsbD 3, true, true, true, true, r.x.getLsbD 3, false⟩  -- ACAS
  | 0x02 => some ⟨15, 31, r.x.getLsbD 3, true, true, true, true, r.x.getLsbD 3, false⟩  -- ATOML
  | 0x03 => some ⟨15, 15, r.x.getLsbD 3, true, true, true, true, r.x.getLsbD 3, false⟩  -- ACASL
  | 0x04 => some ⟨15, 31, r.x.getLsbD 3, true, true, true, true, r.x.getLsbD 3, false⟩  -- ATOMC
  | 0x05 => some ⟨15, 15, r.x.getLsbD 3, true, true, true, true, r.x.getLsbD 3, false⟩  -- ACASC
  | 0x06 => some ⟨15, 31, false, true, true, true, true, false, false⟩  -- BANKOP
  | 0x07 => some ⟨15, 31, r.x.getLsbD 3, true, true, true, true, r.x.getLsbD 3, false⟩  -- BANKRED
  | _ => none

/-- The rows of class 0x8, ATM (R41): the instruction, none for a modifier code without a meaning. -/
def atmBuild (r : Raw) : Nat → Option Instr
  | 0x00 => do
      let op ← AtomOp.ofBits r.m (r.x.getLsbD 4)
      let sc ← Scope.ofField (r.x.setWidth 3).toNat
      some (.atom r.hdr op sc (r.x.getLsbD 3) r.d r.a r.b r.c)
  | 0x01 => do
      let w ← CasW.ofField r.m.toNat
      let sc ← Scope.ofField (r.x.setWidth 3).toNat
      some (.acas r.hdr w sc (r.x.getLsbD 3) r.d r.a r.b r.c)
  | 0x02 => do
      let op ← AtomOp.ofBits r.m (r.x.getLsbD 4)
      let sc ← Scope.ofField (r.x.setWidth 3).toNat
      some (.atoml r.hdr op sc (r.x.getLsbD 3) r.d r.a r.b r.c)
  | 0x03 => do
      let w ← CasW.ofField r.m.toNat
      let sc ← Scope.ofField (r.x.setWidth 3).toNat
      some (.acasl r.hdr w sc (r.x.getLsbD 3) r.d r.a r.b r.c)
  | 0x04 => do
      let op ← AtomOp.ofBits r.m (r.x.getLsbD 4)
      let sc ← Scope.ofField (r.x.setWidth 3).toNat
      some (.atomc r.hdr op sc (r.x.getLsbD 3) r.d r.a r.b r.c)
  | 0x05 => do
      let w ← CasW.ofField r.m.toNat
      let sc ← Scope.ofField (r.x.setWidth 3).toNat
      some (.acasc r.hdr w sc (r.x.getLsbD 3) r.d r.a r.b r.c)
  | 0x06 => do
      let op ← AtomOp.ofBits r.m (r.x.getLsbD 4)
      let sc ← Scope.ofField (r.x.setWidth 3).toNat
      if r.x.getLsbD 3 then none else
      some (.bankop r.hdr op sc r.a r.b r.c)
  | 0x07 => do
      let op ← AtomOp.ofBits r.m (r.x.getLsbD 4)
      let sc ← Scope.ofField (r.x.setWidth 3).toNat
      some (.bankred r.hdr op sc (r.x.getLsbD 3) r.d r.a r.b r.c)
  | _ => none

/-- The rows of class 0x9, ASY (R41): the fields in use. -/
def asyUse (_r : Raw) : Nat → Option RowUse
  | 0x00 => some ⟨15, 7, true, true, true, false, true, false, false⟩  -- CPY
  | 0x01 => some ⟨15, 7, true, true, true, true, true, false, false⟩  -- CPYS
  | 0x02 => some ⟨0, 0, true, false, false, false, false, true, false⟩  -- SEAL
  | 0x03 => some ⟨0, 0, false, true, false, false, false, false, false⟩  -- BWAIT
  | 0x04 => some ⟨1, 0, true, true, false, false, true, true, false⟩  -- CPWP
  | 0x05 => some ⟨0, 0, false, true, true, false, false, false, false⟩  -- CPWAIT
  | 0x06 => some ⟨0, 0, false, true, true, false, true, false, false⟩  -- WLPUT
  | 0x07 => some ⟨0, 0, true, true, false, false, true, true, false⟩  -- WLTAKE
  | 0x08 => some ⟨1, 0, false, false, false, false, true, false, false⟩  -- WLDONE
  | 0x09 => some ⟨0, 0, true, false, false, false, false, true, false⟩  -- WLQUIET
  | _ => none

/-- The rows of class 0x9, ASY (R41): the instruction, none for a modifier code without a meaning. -/
def asyBuild (r : Raw) : Nat → Option Instr
  | 0x00 => do
      let t ← Space.ofField (r.m.setWidth 2).toNat
      let f ← Space.ofField (r.m.extractLsb' 2 2).toNat
      some (.cpy r.hdr t f (r.x.setWidth 3) r.d r.a r.b)
  | 0x01 => do
      let t ← Space.ofField (r.m.setWidth 2).toNat
      let f ← Space.ofField (r.m.extractLsb' 2 2).toNat
      some (.cpys r.hdr t f (r.x.setWidth 3) r.d r.a r.b r.c)
  | 0x02 => some (.seal r.hdr r.d)
  | 0x03 => some (.bwait r.hdr r.a)
  | 0x04 => some (.cpwp r.hdr (r.m.getLsbD 0) r.d r.a)
  | 0x05 => some (.cpwait r.hdr r.a r.b)
  | 0x06 => some (.wlput r.hdr r.a r.b)
  | 0x07 => some (.wltake r.hdr r.d r.a)
  | 0x08 => some (.wldone r.hdr (r.m.getLsbD 0))
  | 0x09 => some (.wlquiet r.hdr r.d)
  | _ => none

/-- The rows of class 0xA, RMT (R41): the fields in use. -/
def rmtUse (r : Raw) : Nat → Option RowUse
  | 0x00 => some ⟨3, 1, true, true, true, true, true, false, false⟩  -- PUT
  | 0x01 => some ⟨3, 1, true, true, true, true, true, false, false⟩  -- PUTN
  | 0x02 => some ⟨3, 1, true, true, true, true, true, false, false⟩  -- GET
  | 0x03 => some ⟨15, 25, r.x.getLsbD 3, true, true, true, true, r.x.getLsbD 3, false⟩  -- RATOM
  | 0x04 => some ⟨15, 9, r.x.getLsbD 3, true, true, true, true, r.x.getLsbD 3, false⟩  -- RCAS
  | 0x05 => some ⟨0, 1, true, true, false, false, true, false, false⟩  -- NOTIFY
  | 0x06 => some ⟨0, 0, false, true, true, false, true, false, false⟩  -- NWAIT
  | 0x07 => some ⟨0, 0, true, true, false, false, true, true, false⟩  -- NRD
  | 0x08 => some ⟨0, 0, false, false, false, false, false, false, false⟩  -- RFENCE
  | 0x09 => some ⟨0, 1, r.x.getLsbD 0, false, false, false, false, r.x.getLsbD 0, false⟩  -- RQUIET
  | _ => none

/-- The rows of class 0xA, RMT (R41): the instruction, none for a modifier code without a meaning. -/
def rmtBuild (r : Raw) : Nat → Option Instr
  | 0x00 => do
      let sp ← Space.ofField (r.m.setWidth 2).toNat
      some (.put r.hdr sp (r.x.getLsbD 0) r.d r.a r.b r.c)
  | 0x01 => do
      let sp ← Space.ofField (r.m.setWidth 2).toNat
      some (.putn r.hdr sp (r.x.getLsbD 0) r.d r.a r.b r.c)
  | 0x02 => do
      let sp ← Space.ofField (r.m.setWidth 2).toNat
      some (.get r.hdr sp (r.x.getLsbD 0) r.d r.a r.b r.c)
  | 0x03 => do
      let op ← AtomOp.ofBits r.m (r.x.getLsbD 4)
      some (.ratom r.hdr op (r.x.getLsbD 0) (r.x.getLsbD 3) r.d r.a r.b r.c)
  | 0x04 => do
      let w ← CasW.ofField r.m.toNat
      some (.rcas r.hdr w (r.x.getLsbD 0) (r.x.getLsbD 3) r.d r.a r.b r.c)
  | 0x05 => some (.notify r.hdr (r.x.getLsbD 0) r.d r.a)
  | 0x06 => some (.nwait r.hdr r.a r.b)
  | 0x07 => some (.nrd r.hdr r.d r.a)
  | 0x08 => some (.rfence r.hdr)
  | 0x09 => some (.rquiet r.hdr (r.x.getLsbD 0) r.d)
  | _ => none

/-- The rows of class 0xB, SYN (R41): the fields in use. -/
def synUse (r : Raw) : Nat → Option RowUse
  | 0x00 => some ⟨1, 0, false, true, false, false, false, false, false⟩  -- BAR
  | 0x01 => some ⟨0, 0, true, true, false, false, false, true, false⟩  -- BARA
  | 0x02 => some ⟨1, 0, false, true, true, false, false, false, false⟩  -- BARW
  | 0x03 => some ⟨0, 0, false, true, true, false, false, false, false⟩  -- BARINIT
  | 0x04 => some ⟨1, (if r.m.getLsbD 0 then 0 else 1), true, !r.m.getLsbD 0, false, false, true, true, false⟩  -- BARRD
  | 0x05 => some ⟨0, 1, true, true, false, false, true, false, false⟩  -- BARWR
  | 0x06 => some ⟨15, 7, false, false, false, false, false, false, false⟩  -- FENCE
  | 0x07 => some ⟨3, 0, false, true, false, false, true, false, false⟩  -- MON
  | 0x08 => some ⟨0, 0, true, true, false, false, false, true, false⟩  -- MWAIT
  | 0x09 => some ⟨0, 0, true, false, false, false, true, true, false⟩  -- CLOCK
  | _ => none

/-- The rows of class 0xB, SYN (R41): the instruction, none for a modifier code without a meaning. -/
def synBuild (r : Raw) : Nat → Option Instr
  | 0x00 => some (.bar r.hdr (r.m.getLsbD 0) r.a)
  | 0x01 => some (.bara r.hdr r.d r.a)
  | 0x02 => some (.barw r.hdr (r.m.getLsbD 0) r.a r.b)
  | 0x03 => some (.barinit r.hdr r.a r.b)
  | 0x04 => some (.barrd r.hdr (r.m.getLsbD 0) (r.x.getLsbD 0) r.d r.a)
  | 0x05 => some (.barwr r.hdr (r.x.getLsbD 0) r.d r.a)
  | 0x06 => do
      let sc ← Scope.ofField (r.x.setWidth 3).toNat
      some (.fence r.hdr r.m sc)
  | 0x07 => do
      let sp ← Space.ofField (r.m.setWidth 2).toNat
      some (.mon r.hdr sp r.a)
  | 0x08 => some (.mwait r.hdr r.d r.a)
  | 0x09 => some (.clock r.hdr r.d)
  | _ => none

/-- The rows of class 0xC, MTX (R41): the fields in use. -/
def mtxUse (r : Raw) : Nat → Option RowUse
  | 0x00 => some ⟨7, 15, true, true, true, 3 < (r.m.setWidth 3).toNat && (r.m.setWidth 3).toNat < 7, true, false, true⟩  -- MMQ
  | 0x01 => some ⟨0, 0, true, false, false, false, true, false, false⟩  -- ACCZ
  | 0x02 => some ⟨3, 0, true, true, false, false, true, true, false⟩  -- ACCRD
  | 0x03 => some ⟨3, 0, true, true, false, false, true, false, false⟩  -- ACCWR
  | 0x04 => some ⟨0, 0, true, false, false, false, true, false, false⟩  -- ACCPRO
  | 0x05 => some ⟨0, 0, false, true, false, false, false, false, false⟩  -- MXSET
  | 0x06 => some ⟨3, 0, false, true, true, false, true, false, false⟩  -- CBLOAD
  | 0x07 => some ⟨0, 0, true, true, false, false, true, true, false⟩  -- CBRD
  | 0x08 => some ⟨0, 0, false, false, false, false, false, false, false⟩  -- MXWAIT
  | _ => none

/-- The rows of class 0xC, MTX (R41): the instruction, none for a modifier code without a meaning. -/
def mtxBuild (r : Raw) : Nat → Option Instr
  | 0x00 => do
      let af ← AFmt.ofField (r.m.setWidth 3).toNat
      let bf ← BFmt.ofField (r.x.setWidth 3).toNat
      some (.mmq r.hdr r.kp af bf (r.x.getLsbD 3) r.d r.a r.b r.c)
  | 0x01 => some (.accz r.hdr r.d)
  | 0x02 => do
      let mode ← AccMode.ofField (r.m.setWidth 2).toNat
      some (.accrd r.hdr mode r.d r.a)
  | 0x03 => do
      let mode ← AccMode.ofField (r.m.setWidth 2).toNat
      some (.accwr r.hdr mode r.d r.a)
  | 0x04 => some (.accpro r.hdr r.d)
  | 0x05 => some (.mxset r.hdr r.a)
  | 0x06 => do
      let sp ← Space.ofField (r.m.setWidth 2).toNat
      some (.cbload r.hdr sp r.a r.b)
  | 0x07 => some (.cbrd r.hdr r.d r.a)
  | 0x08 => some (.mxwait r.hdr)
  | _ => none

/-- The rows of class 0xD, PSN (R41): the fields in use. -/
def psnUse (_r : Raw) : Nat → Option RowUse
  | 0x00 => some ⟨1, 1, true, true, false, false, true, true, false⟩  -- PCHK
  | 0x01 => some ⟨0, 0, true, true, false, false, true, true, false⟩  -- PSET
  | 0x02 => some ⟨0, 0, true, true, false, false, true, true, false⟩  -- PCLR
  | 0x03 => some ⟨0, 3, true, true, false, false, true, true, false⟩  -- PORG
  | _ => none

/-- The rows of class 0xD, PSN (R41): the instruction, none for a modifier code without a meaning. -/
def psnBuild (r : Raw) : Nat → Option Instr
  | 0x00 => some (.pchk r.hdr (r.m.getLsbD 0) (r.x.getLsbD 0) r.d r.a)
  | 0x01 => some (.pset r.hdr r.d r.a)
  | 0x02 => some (.pclr r.hdr r.d r.a)
  | 0x03 => some (.porg r.hdr (r.x.setWidth 2) r.d r.a)
  | _ => none

/-- The rows of class 0xE, SYS (R41): the fields in use. -/
def sysUse (_r : Raw) : Nat → Option RowUse
  | 0x00 => some ⟨0, 0, true, true, false, false, true, true, false⟩  -- SRD
  | 0x01 => some ⟨0, 0, true, true, false, false, true, false, false⟩  -- SWR
  | 0x02 => some ⟨0, 0, true, false, false, false, false, false, false⟩  -- TRAP
  | 0x03 => some ⟨0, 0, false, false, false, false, false, false, false⟩  -- TRET
  | 0x04 => some ⟨0, 0, false, false, false, false, false, false, false⟩  -- SAVEDONE
  | 0x05 => some ⟨0, 0, false, false, false, false, false, false, false⟩  -- ICINV
  | 0x06 => some ⟨0, 0, false, false, false, false, false, false, false⟩  -- WFI
  | 0x07 => some ⟨0, 0, false, false, false, false, false, false, false⟩  -- HALT
  | _ => none

/-- The rows of class 0xE, SYS (R41): the instruction, none for a modifier code without a meaning. -/
def sysBuild (r : Raw) : Nat → Option Instr
  | 0x00 => some (.srd r.hdr r.d r.a)
  | 0x01 => some (.swr r.hdr r.d r.a)
  | 0x02 => some (.trap r.hdr r.dRaw)
  | 0x03 => some (.tret r.hdr)
  | 0x04 => some (.savedone r.hdr)
  | 0x05 => some (.icinv r.hdr)
  | 0x06 => some (.wfi r.hdr)
  | 0x07 => some (.halt r.hdr)
  | _ => none

/-- The row of a class and index; an unassigned one has none (R41). -/
def rowUse (r : Raw) : Option RowUse :=
  match r.cls.toNat with
  | 0 => intUse r r.idx.toNat
  | 1 => bitUse r r.idx.toNat
  | 2 => fpaUse r r.idx.toNat
  | 3 => fpsUse r r.idx.toNat
  | 4 => xlnUse r r.idx.toNat
  | 5 => ctlUse r r.idx.toNat
  | 6 => staUse r r.idx.toNat
  | 7 => memUse r r.idx.toNat
  | 8 => atmUse r r.idx.toNat
  | 9 => asyUse r r.idx.toNat
  | 10 => rmtUse r r.idx.toNat
  | 11 => synUse r r.idx.toNat
  | 12 => mtxUse r r.idx.toNat
  | 13 => psnUse r r.idx.toNat
  | 14 => sysUse r r.idx.toNat
  | _ => none

/-- The instruction of a class and index (R41). -/
def rowBuild (r : Raw) : Option Instr :=
  match r.cls.toNat with
  | 0 => intBuild r r.idx.toNat
  | 1 => bitBuild r r.idx.toNat
  | 2 => fpaBuild r r.idx.toNat
  | 3 => fpsBuild r r.idx.toNat
  | 4 => xlnBuild r r.idx.toNat
  | 5 => ctlBuild r r.idx.toNat
  | 6 => staBuild r r.idx.toNat
  | 7 => memBuild r r.idx.toNat
  | 8 => atmBuild r r.idx.toNat
  | 9 => asyBuild r r.idx.toNat
  | 10 => rmtBuild r r.idx.toNat
  | 11 => synBuild r r.idx.toNat
  | 12 => mtxBuild r r.idx.toNat
  | 13 => psnBuild r r.idx.toNat
  | 14 => sysBuild r r.idx.toNat
  | _ => none

/-- The modifier and operand checks of an instruction read from its fields (R38, R44, R45). -/
def Instr.checked (i : Instr) : Except DecodeErr Instr :=
  match i.info with
  | none => .error .illegalOpcode
  | some n => if !n.mod then .error .badModifier else if !(n.opsOk && i.litOk) then .error .badOperand else .ok i

/-- A long or extended instruction (R32, R33, R41, R44, R45). -/
def decodeLong (r : Raw) : Except DecodeErr Instr :=
  match rowUse r with
  | none => .error .illegalOpcode
  | some u =>
    if !u.ok r then .error .reservedField
    else match rowBuild r with
      | none => .error .badModifier
      | some i => i.checked

/-- The short-A map: the instruction of a sop, and whether its B must hold 0xF0 (R42). -/
def shortAOf (d a b : Opnd) : Nat → Option (Bool × Instr)
  | 0x00 => some (false, .iaddS32ShortA d a b)
  | 0x01 => some (false, .isubS32ShortA d a b)
  | 0x02 => some (false, .imulS32ShortA d a b)
  | 0x03 => some (false, .iminS32ShortA d a b)
  | 0x04 => some (false, .imaxS32ShortA d a b)
  | 0x05 => some (false, .iminN32ShortA d a b)
  | 0x06 => some (false, .imaxN32ShortA d a b)
  | 0x07 => some (false, .andShortA d a b)
  | 0x08 => some (false, .orShortA d a b)
  | 0x09 => some (false, .xorShortA d a b)
  | 0x0A => some (false, .andnShortA d a b)
  | 0x0B => some (false, .shlShortA d a b)
  | 0x0C => some (false, .shrShortA d a b)
  | 0x0D => some (false, .shaShortA d a b)
  | 0x0E => some (true, .movShortA d a)
  | 0x0F => some (false, .daddShortA d a b)
  | 0x10 => some (false, .faddF32ShortA d a b)
  | 0x11 => some (false, .fsubF32ShortA d a b)
  | 0x12 => some (false, .fmulF32ShortA d a b)
  | 0x13 => some (false, .fminF32ShortA d a b)
  | 0x14 => some (false, .fmaxF32ShortA d a b)
  | 0x15 => some (false, .faddF16x2ShortA d a b)
  | 0x16 => some (false, .fmulF16x2ShortA d a b)
  | 0x17 => some (false, .faddBf16x2ShortA d a b)
  | 0x18 => some (false, .fmulBf16x2ShortA d a b)
  | 0x19 => some (false, .icmpEqShortA d a b)
  | 0x1A => some (false, .icmpLtS32ShortA d a b)
  | 0x1B => some (false, .icmpLtN32ShortA d a b)
  | 0x1C => some (false, .fcmpLtShortA d a b)
  | 0x1D => some (false, .fcmpEqShortA d a b)
  | 0x1E => some (true, .frcpShortA d a)
  | 0x1F => some (true, .frsqShortA d a)
  | 0x20 => some (true, .popcShortA d a)
  | 0x21 => some (true, .clzShortA d a)
  | 0x22 => some (false, .shflIdxShortA d a b)
  | 0x23 => some (false, .shflXorShortA d a b)
  | 0x24 => some (true, .voteBallotShortA d a)
  | 0x25 => some (false, .bcastShortA d a b)
  | 0x26 => some (false, .leaShortA d a b)
  | 0x27 => some (false, .ldlB32ShortA d a b)
  | 0x28 => some (false, .stlB32ShortA d a b)
  | 0x29 => some (false, .ldcB32ShortA d a b)
  | 0x2A => some (false, .stcB32ShortA d a b)
  | _ => none

/-- The short-B map: whether imm8 is limited to 0 to 31, whether A must hold 0xF0, the instruction (R43). -/
def shortBOf (d a : Opnd) (imm : BitVec 8) : Nat → Option (Bool × Bool × Instr)
  | 0x00 => some (false, false, .iaddShortB d a imm)
  | 0x01 => some (false, false, .isubShortB d a imm)
  | 0x02 => some (false, false, .andShortB d a imm)
  | 0x03 => some (false, false, .orShortB d a imm)
  | 0x04 => some (false, false, .xorShortB d a imm)
  | 0x05 => some (true, false, .shlShortB d a (imm.setWidth 5))
  | 0x06 => some (true, false, .shrShortB d a (imm.setWidth 5))
  | 0x07 => some (true, false, .shaShortB d a (imm.setWidth 5))
  | 0x08 => some (false, true, .movShortB d imm)
  | 0x09 => some (false, false, .icmpEqShortB d a imm)
  | 0x0A => some (false, false, .icmpLtS32ShortB d a imm)
  | 0x0B => some (true, false, .shflXorShortB d a (imm.setWidth 5))
  | 0x0C => some (true, false, .shflUpShortB d a (imm.setWidth 5))
  | 0x0D => some (true, false, .shflDownShortB d a (imm.setWidth 5))
  | 0x0E => some (false, false, .ldlB32ShortB d a imm)
  | 0x0F => some (false, false, .stlB32ShortB d a imm)
  | 0x10 => some (false, true, .ldkB32ShortB d imm)
  | _ => none

/-- A short-A instruction (R30, R42). -/
def decodeShortA (w : Word) : Except DecodeErr Instr :=
  let b := w.extractLsb' 24 8
  match shortAOf (.ofCode (w.extractLsb' 8 8)) (.ofCode (w.extractLsb' 16 8)) (.ofCode b)
      (w.extractLsb' 2 6).toNat with
  | none => .error .illegalOpcode
  | some (bz, i) => if bz && b != 0xF0 then .error .reservedField else i.checked

/-- A short-B instruction (R31, R43). -/
def decodeShortB (w : Word) : Except DecodeErr Instr :=
  let imm := w.extractLsb' 24 8
  let a := w.extractLsb' 16 8
  match shortBOf (.ofCode (w.extractLsb' 8 8)) (.ofCode a) imm (w.extractLsb' 2 6).toNat with
  | none => .error .illegalOpcode
  | some (lim, az, i) =>
    if (lim && imm.extractLsb' 5 3 != 0) || (az && a != 0xF0) then .error .reservedField else i.checked

/-- Words of an instruction, from bits 1..0 of word 0 (R28). -/
def formWords (w0 : Word) : Nat :=
  match (w0.extractLsb' 0 2).toNat with
  | 2 => 2
  | 3 => 3
  | _ => 1

/-- The instruction that words stored at ascending addresses hold (R28). Words past its length are
ignored. -/
def decodeWords : List Word → Except DecodeErr Instr
  | [] => .error .tooShort
  | w0 :: rest =>
    match (w0.extractLsb' 0 2).toNat, rest with
    | 0, _ => decodeShortA w0
    | 1, _ => decodeShortB w0
    | 2, w1 :: _ => decodeLong (.ofWords w0 w1 none)
    | 3, w1 :: l :: _ => decodeLong (.ofWords w0 w1 (some l))
    | _, _ => .error .tooShort

/-- The little-endian word of four bytes (R4, R28). -/
def wordOfBytes (b0 b1 b2 b3 : Byte) : Word := b3 ++ b2 ++ b1 ++ b0

/-- The words of a byte string, a rest of under four bytes dropped. -/
def wordsOfBytes : List Byte → List Word
  | b0 :: b1 :: b2 :: b3 :: rest => wordOfBytes b0 b1 b2 b3 :: wordsOfBytes rest
  | _ => []

/-- The instruction at the head of a byte string (R28). -/
def decodeBytes (bs : List Byte) : Except DecodeErr Instr := decodeWords (wordsOfBytes bs)

/-- The bytes of a number, least significant first. -/
def bytesOfNat : Nat → Nat → List Byte
  | 0, _ => []
  | n + 1, w => BitVec.ofNat 8 w :: bytesOfNat n (w / 256)

/-- The instruction whose bits are w, as spec/opcode_table.json numbers them; the bits above nbits up to
the longest instruction, 96 bits, are 0 (R28). -/
def decodeTableWord (nbits w : Nat) : Option Instr :=
  match decodeBytes (bytesOfNat 12 (w % 2 ^ nbits)) with
  | .ok i => some i
  | .error _ => none

/-- A long or extended encoding from its fields (R32, R33). -/
def encLong (h : Hdr) (cls : BitVec 4) (idx : BitVec 6) (m : BitVec 4) (x : BitVec 5)
    (d a b c : BitVec 8) (kp : Bool := false) : List Word :=
  Raw.words ⟨cls, idx, m, x, kp, h.nw, h.gn, d, a, b, c, h.g.code, h.lit⟩

/-- A short-A encoding (R30). -/
def encA (sop : BitVec 6) (d a b : Opnd) : List Word := [b.code ++ a.code ++ d.code ++ sop ++ 0b00#2]

/-- A short-B encoding (R31). -/
def encB (sop : BitVec 6) (d a : Opnd) (imm : BitVec 8) : List Word :=
  [imm ++ a.code ++ d.code ++ sop ++ 0b01#2]

/-- The words of an instruction; none for a step of another agent (R28 to R43). -/
def encode : Instr → List Word
  | .iadd h md d a b =>
    encLong h 0x0 0x00 md.bits 0 d.code a.code b.code 0xF0
  | .isub h md d a b =>
    encLong h 0x0 0x01 md.bits 0 d.code a.code b.code 0xF0
  | .imul h md d a b =>
    encLong h 0x0 0x02 md.bits 0 d.code a.code b.code 0xF0
  | .imulh h md d a b =>
    encLong h 0x0 0x03 md.bits 0 d.code a.code b.code 0xF0
  | .imin h md d a b =>
    encLong h 0x0 0x05 md.bits 0 d.code a.code b.code 0xF0
  | .imax h md d a b =>
    encLong h 0x0 0x06 md.bits 0 d.code a.code b.code 0xF0
  | .idiv h md d a b =>
    encLong h 0x0 0x08 md.bits 0 d.code a.code b.code 0xF0
  | .irem h md d a b =>
    encLong h 0x0 0x09 md.bits 0 d.code a.code b.code 0xF0
  | .dadd h md d a b =>
    encLong h 0x0 0x0C md.bits 0 d.code a.code b.code 0xF0
  | .dsub h md d a b =>
    encLong h 0x0 0x0D md.bits 0 d.code a.code b.code 0xF0
  | .imad h md d a b c =>
    encLong h 0x0 0x04 md.bits 0 d.code a.code b.code c.code
  | .isel h md d a b c =>
    encLong h 0x0 0x0B md.bits 0 d.code a.code b.code c.code
  | .dot4 h md d a b c =>
    encLong h 0x0 0x10 md.bits 0 d.code a.code b.code c.code
  | .dot2 h md d a b c =>
    encLong h 0x0 0x11 md.bits 0 d.code a.code b.code c.code
  | .isad h md d a b c =>
    encLong h 0x0 0x12 md.bits 0 d.code a.code b.code c.code
  | .iabs h md d a =>
    encLong h 0x0 0x07 md.bits 0 d.code a.code 0xF0 0xF0
  | .icmp h md cond one d a b =>
    encLong h 0x0 0x0A md.bits (0#1 ++ bit one ++ BitVec.ofNat 3 cond.code) d.code a.code b.code 0xF0
  | .dcmp h md cond one d a b =>
    encLong h 0x0 0x0F md.bits (0#1 ++ bit one ++ BitVec.ofNat 3 cond.code) d.code a.code b.code 0xF0
  | .lea h sh sb d a b =>
    encLong h 0x0 0x0E 0 (0#1 ++ bit sb ++ sh) d.code a.code b.code 0xF0
  | .mov h d a =>
    encLong h 0x1 0x00 0 0 d.code a.code 0xF0 0xF0
  | .andI h d a b =>
    encLong h 0x1 0x01 0 0 d.code a.code b.code 0xF0
  | .orI h d a b =>
    encLong h 0x1 0x02 0 0 d.code a.code b.code 0xF0
  | .xorI h d a b =>
    encLong h 0x1 0x03 0 0 d.code a.code b.code 0xF0
  | .andn h d a b =>
    encLong h 0x1 0x04 0 0 d.code a.code b.code 0xF0
  | .notI h d a =>
    encLong h 0x1 0x05 0 0 d.code a.code 0xF0 0xF0
  | .shl h w d a b =>
    encLong h 0x1 0x06 (BitVec.ofNat 4 w.code) 0 d.code a.code b.code 0xF0
  | .shr h w d a b =>
    encLong h 0x1 0x07 (BitVec.ofNat 4 w.code) 0 d.code a.code b.code 0xF0
  | .sha h w d a b =>
    encLong h 0x1 0x08 (BitVec.ofNat 4 w.code) 0 d.code a.code b.code 0xF0
  | .rot h w d a b =>
    encLong h 0x1 0x09 (BitVec.ofNat 4 w.code) 0 d.code a.code b.code 0xF0
  | .bfe h s d a b =>
    encLong h 0x1 0x0A 0 (0#4 ++ bit s) d.code a.code b.code 0xF0
  | .bfi h d a b c =>
    encLong h 0x1 0x0B 0 0 d.code a.code b.code c.code
  | .popc h d a =>
    encLong h 0x1 0x0C 0 0 d.code a.code 0xF0 0xF0
  | .clz h d a =>
    encLong h 0x1 0x0D 0 0 d.code a.code 0xF0 0xF0
  | .ffs h d a =>
    encLong h 0x1 0x0E 0 0 d.code a.code 0xF0 0xF0
  | .brev h d a =>
    encLong h 0x1 0x0F 0 0 d.code a.code 0xF0 0xF0
  | .permb h top sel d a b =>
    encLong h 0x1 0x10 0 (0#1 ++ top) d.code a.code b.code sel
  | .lop3 h table d a b c =>
    encLong h 0x1 0x11 (table.extractLsb' 4 4) (0#1 ++ table.extractLsb' 0 4) d.code a.code b.code c.code
  | .dshl h d a b =>
    encLong h 0x1 0x12 0 0 d.code a.code b.code 0xF0
  | .dshr h s d a b =>
    encLong h 0x1 0x13 0 (0#4 ++ bit s) d.code a.code b.code 0xF0
  | .movd h d a =>
    encLong h 0x1 0x14 0 0 d.code a.code 0xF0 0xF0
  | .fadd h fm ty na nb d a b =>
    encLong h 0x2 0x00 fm.bits (0#1 ++ bit nb ++ bit na ++ BitVec.ofNat 2 ty.code) d.code a.code b.code 0xF0
  | .fsub h fm ty na nb d a b =>
    encLong h 0x2 0x01 fm.bits (0#1 ++ bit nb ++ bit na ++ BitVec.ofNat 2 ty.code) d.code a.code b.code 0xF0
  | .fmul h fm ty na nb d a b =>
    encLong h 0x2 0x02 fm.bits (0#1 ++ bit nb ++ bit na ++ BitVec.ofNat 2 ty.code) d.code a.code b.code 0xF0
  | .ffma h fm ty na nb nc d a b c =>
    encLong h 0x2 0x03 fm.bits (bit nc ++ bit nb ++ bit na ++ BitVec.ofNat 2 ty.code) d.code a.code b.code c.code
  | .fmin h fm ty d a b =>
    encLong h 0x2 0x04 fm.bits (0#3 ++ BitVec.ofNat 2 ty.code) d.code a.code b.code 0xF0
  | .fmax h fm ty d a b =>
    encLong h 0x2 0x05 fm.bits (0#3 ++ BitVec.ofNat 2 ty.code) d.code a.code b.code 0xF0
  | .fcmp h fm ty cond d a b =>
    encLong h 0x2 0x06 fm.bits (BitVec.ofNat 3 cond.code ++ BitVec.ofNat 2 ty.code) d.code a.code b.code 0xF0
  | .fdot2 h fm ty d a b c =>
    encLong h 0x2 0x07 fm.bits (0#3 ++ BitVec.ofNat 2 ty.code) d.code a.code b.code c.code
  | .fscale h fm ty d a b =>
    encLong h 0x2 0x08 fm.bits (0#3 ++ BitVec.ofNat 2 ty.code) d.code a.code b.code 0xF0
  | .ffract h fm ty d a =>
    encLong h 0x2 0x09 fm.bits (0#3 ++ BitVec.ofNat 2 ty.code) d.code a.code 0xF0 0xF0
  | .frnd h fm ty d a =>
    encLong h 0x2 0x0A fm.bits (0#3 ++ BitVec.ofNat 2 ty.code) d.code a.code 0xF0 0xF0
  | .fclass h fm ty d a =>
    encLong h 0x2 0x0B fm.bits (0#3 ++ BitVec.ofNat 2 ty.code) d.code a.code 0xF0 0xF0
  | .frcp h fm ty d a =>
    encLong h 0x3 0x00 fm.bits (0#3 ++ BitVec.ofNat 2 ty.code) d.code a.code 0xF0 0xF0
  | .frsq h fm ty d a =>
    encLong h 0x3 0x01 fm.bits (0#3 ++ BitVec.ofNat 2 ty.code) d.code a.code 0xF0 0xF0
  | .fsqrt h fm ty d a =>
    encLong h 0x3 0x02 fm.bits (0#3 ++ BitVec.ofNat 2 ty.code) d.code a.code 0xF0 0xF0
  | .fdiv h fm ty d a b =>
    encLong h 0x3 0x03 fm.bits (0#3 ++ BitVec.ofNat 2 ty.code) d.code a.code b.code 0xF0
  | .fexp2 h fm ty d a =>
    encLong h 0x3 0x04 fm.bits (0#3 ++ BitVec.ofNat 2 ty.code) d.code a.code 0xF0 0xF0
  | .flog2 h fm ty d a =>
    encLong h 0x3 0x05 fm.bits (0#3 ++ BitVec.ofNat 2 ty.code) d.code a.code 0xF0 0xF0
  | .fsin h fm ty d a =>
    encLong h 0x3 0x06 fm.bits (0#3 ++ BitVec.ofNat 2 ty.code) d.code a.code 0xF0 0xF0
  | .fcos h fm ty d a =>
    encLong h 0x3 0x07 fm.bits (0#3 ++ BitVec.ofNat 2 ty.code) d.code a.code 0xF0 0xF0
  | .ftanh h fm ty d a =>
    encLong h 0x3 0x08 fm.bits (0#3 ++ BitVec.ofNat 2 ty.code) d.code a.code 0xF0 0xF0
  | .cvtff h fm s t d a =>
    encLong h 0x3 0x09 fm.bits (BitVec.ofNat 5 s.code) d.code a.code 0xF0 ((BitVec.ofNat 8 t.code))
  | .cvtfi h fm s t d a =>
    encLong h 0x3 0x0A fm.bits (BitVec.ofNat 5 s.code) d.code a.code 0xF0 ((BitVec.ofNat 8 t.code))
  | .cvtif h fm s t d a =>
    encLong h 0x3 0x0B fm.bits (BitVec.ofNat 5 s.code) d.code a.code 0xF0 ((BitVec.ofNat 8 t.code))
  | .fpack h fm s t d a b =>
    encLong h 0x3 0x0C fm.bits (BitVec.ofNat 5 s.code) d.code a.code b.code ((BitVec.ofNat 8 t.code))
  | .funpk h fm s t d a =>
    encLong h 0x3 0x0D fm.bits (BitVec.ofNat 5 s.code) d.code a.code 0xF0 ((BitVec.ofNat 8 t.code))
  | .mxenc h fm s t d a =>
    encLong h 0x3 0x0E fm.bits (BitVec.ofNat 5 s.code) d.code a.code 0xF0 ((BitVec.ofNat 8 t.code))
  | .mxdec h fm s t d a b =>
    encLong h 0x3 0x0F fm.bits (BitVec.ofNat 5 s.code) d.code a.code b.code ((BitVec.ofNat 8 t.code))
  | .shfl h sw mode edge d a b =>
    encLong h 0x4 0x00 (BitVec.ofNat 4 sw.code) (0#2 ++ bit edge ++ BitVec.ofNat 2 mode.code) d.code a.code b.code 0xF0
  | .vote h sw kind cnt d a =>
    encLong h 0x4 0x01 (BitVec.ofNat 4 sw.code) (0#2 ++ bit cnt ++ BitVec.ofNat 2 kind.code) d.code a.code 0xF0 0xF0
  | .matchI h sw f d a =>
    encLong h 0x4 0x02 (BitVec.ofNat 4 sw.code) (0#4 ++ bit f) d.code a.code 0xF0 0xF0
  | .redg h sw op d a =>
    encLong h 0x4 0x03 (BitVec.ofNat 4 sw.code) (BitVec.ofNat 5 op.code) d.code a.code 0xF0 0xF0
  | .scan h sw op excl d a =>
    encLong h 0x4 0x04 (BitVec.ofNat 4 sw.code) (bit excl ++ BitVec.ofNat 4 op.code) d.code a.code 0xF0 0xF0
  | .bcast h sw d a b =>
    encLong h 0x4 0x05 (BitVec.ofNat 4 sw.code) 0 d.code a.code b.code 0xF0
  | .elect h sw d =>
    encLong h 0x4 0x06 (BitVec.ofNat 4 sw.code) 0 d.code 0xF0 0xF0 0xF0
  | .ifI h inv a off =>
    encLong h 0x5 0x00 (0#3 ++ bit inv) 0 0xF0 a.code ((off.extractLsb' 0 8)) ((off.extractLsb' 8 8))
  | .elseI h off =>
    encLong h 0x5 0x01 0 0 0xF0 0xF0 ((off.extractLsb' 0 8)) ((off.extractLsb' 8 8))
  | .endif h =>
    encLong h 0x5 0x02 0 0 0xF0 0xF0 0xF0 0xF0
  | .loop h off =>
    encLong h 0x5 0x03 0 0 0xF0 0xF0 ((off.extractLsb' 0 8)) ((off.extractLsb' 8 8))
  | .endl h off =>
    encLong h 0x5 0x04 0 0 0xF0 0xF0 ((off.extractLsb' 0 8)) ((off.extractLsb' 8 8))
  | .breakI h inv n a off =>
    encLong h 0x5 0x05 (0#3 ++ bit inv) n 0xF0 a.code ((off.extractLsb' 0 8)) ((off.extractLsb' 8 8))
  | .cont h inv n a off =>
    encLong h 0x5 0x06 (0#3 ++ bit inv) n 0xF0 a.code ((off.extractLsb' 0 8)) ((off.extractLsb' 8 8))
  | .jmp h kind a off =>
    encLong h 0x5 0x07 (BitVec.ofNat 4 kind.code) 0 0xF0 a.code ((off.extractLsb' 0 8)) ((off.extractLsb' 8 8))
  | .call h demand d off =>
    encLong h 0x5 0x08 (demand.extractLsb' 0 4) (0#4 ++ demand.extractLsb' 4 1) d.code 0xF0 ((off.extractLsb' 0 8)) ((off.extractLsb' 8 8))
  | .calli h demand d a =>
    encLong h 0x5 0x09 (demand.extractLsb' 0 4) (0#4 ++ demand.extractLsb' 4 1) d.code a.code 0xF0 0xF0
  | .ret h =>
    encLong h 0x5 0x0A 0 0 0xF0 0xF0 0xF0 0xF0
  | .mark h clr id off =>
    encLong h 0x5 0x0B (0#3 ++ bit clr) 0 id 0xF0 ((off.extractLsb' 0 8)) ((off.extractLsb' 8 8))
  | .unwind h id =>
    encLong h 0x5 0x0C 0 0 id 0xF0 0xF0 0xF0
  | .part h =>
    encLong h 0x5 0x0D 0 0 0xF0 0xF0 0xF0 0xF0
  | .regang h id =>
    encLong h 0x5 0x0E 0 0 id 0xF0 0xF0 0xF0
  | .exit h =>
    encLong h 0x5 0x0F 0 0 0xF0 0xF0 0xF0 0xF0
  | .yield h =>
    encLong h 0x5 0x10 0 0 0xF0 0xF0 0xF0 0xF0
  | .nop h =>
    encLong h 0x5 0x11 0 0 0xF0 0xF0 0xF0 0xF0
  | .brk h =>
    encLong h 0x5 0x12 0 0 0xF0 0xF0 0xF0 0xF0
  | .rgn h =>
    encLong h 0x5 0x13 0 0 0xF0 0xF0 0xF0 0xF0
  | .qdef h dm1 km1 d =>
    encLong h 0x6 0x00 (0#1 ++ dm1) (0#2 ++ km1) d.code 0xF0 0xF0 0xF0
  | .qclr h d =>
    encLong h 0x6 0x01 0 0 d.code 0xF0 0xF0 0xF0
  | .qocc h d a =>
    encLong h 0x6 0x02 0 0 d.code a.code 0xF0 0xF0
  | .qrd h e d a =>
    encLong h 0x6 0x03 0 (0#2 ++ e) d.code a.code 0xF0 0xF0
  | .qwr h e d a =>
    encLong h 0x6 0x04 0 (0#2 ++ e) d.code a.code 0xF0 0xF0
  | .winrd h k d =>
    encLong h 0x6 0x05 0 (BitVec.ofNat 5 k.val) d.code 0xF0 0xF0 0xF0
  | .winwr h k d =>
    encLong h 0x6 0x06 0 (BitVec.ofNat 5 k.val) d.code 0xF0 0xF0 0xF0
  | .mskrd h tgt e d =>
    encLong h 0x6 0x07 (0#3 ++ bit tgt) e d.code 0xF0 0xF0 0xF0
  | .mskwr h op e d =>
    encLong h 0x6 0x08 (BitVec.ofNat 4 op.code) e d.code 0xF0 0xF0 0xF0
  | .frmq h dw d a =>
    encLong h 0x6 0x09 0 (BitVec.ofNat 5 dw.val) d.code a.code 0xF0 0xF0
  | .frmrd h d a b =>
    encLong h 0x6 0x0A 0 0 d.code a.code b.code 0xF0
  | .ld h sz pol hint d a b =>
    encLong h 0x7 0x00 (BitVec.ofNat 4 sz.code) (hintBits hint ++ 0#1 ++ BitVec.ofNat 2 pol.code) d.code a.code b.code 0xF0
  | .st h sz pz pol hint d a b =>
    encLong h 0x7 0x01 (bit pz ++ BitVec.ofNat 3 sz.code) (hintBits hint ++ 0#1 ++ BitVec.ofNat 2 pol.code) d.code a.code b.code 0xF0
  | .ldl h sz d a b =>
    encLong h 0x7 0x02 (BitVec.ofNat 4 sz.code) 0 d.code a.code b.code 0xF0
  | .ldc h sz d a b =>
    encLong h 0x7 0x04 (BitVec.ofNat 4 sz.code) 0 d.code a.code b.code 0xF0
  | .ldk h sz d a b =>
    encLong h 0x7 0x06 (BitVec.ofNat 4 sz.code) 0 d.code a.code b.code 0xF0
  | .stl h sz pz d a b =>
    encLong h 0x7 0x03 (bit pz ++ BitVec.ofNat 3 sz.code) 0 d.code a.code b.code 0xF0
  | .stc h sz pz d a b =>
    encLong h 0x7 0x05 (bit pz ++ BitVec.ofNat 3 sz.code) 0 d.code a.code b.code 0xF0
  | .ldacq h sz sc sp d a b =>
    encLong h 0x7 0x07 (BitVec.ofNat 4 sz.code) (BitVec.ofNat 2 sp.code ++ BitVec.ofNat 3 sc.code) d.code a.code b.code 0xF0
  | .strel h sz sc sp pz d a b =>
    encLong h 0x7 0x08 (bit pz ++ BitVec.ofNat 3 sz.code) (BitVec.ofNat 2 sp.code ++ BitVec.ofNat 3 sc.code) d.code a.code b.code 0xF0
  | .cctl h op a b =>
    encLong h 0x7 0x09 (BitVec.ofNat 4 op.code) 0 0xF0 a.code b.code 0xF0
  | .atom h op sc ret d a b c =>
    encLong h 0x8 0x00 (BitVec.ofNat 4 op.code) (bit op.pk ++ bit ret ++ BitVec.ofNat 3 sc.code) d.code a.code b.code c.code
  | .atoml h op sc ret d a b c =>
    encLong h 0x8 0x02 (BitVec.ofNat 4 op.code) (bit op.pk ++ bit ret ++ BitVec.ofNat 3 sc.code) d.code a.code b.code c.code
  | .atomc h op sc ret d a b c =>
    encLong h 0x8 0x04 (BitVec.ofNat 4 op.code) (bit op.pk ++ bit ret ++ BitVec.ofNat 3 sc.code) d.code a.code b.code c.code
  | .bankred h op sc ret d a b c =>
    encLong h 0x8 0x07 (BitVec.ofNat 4 op.code) (bit op.pk ++ bit ret ++ BitVec.ofNat 3 sc.code) d.code a.code b.code c.code
  | .acas h w sc ret d a b c =>
    encLong h 0x8 0x01 (BitVec.ofNat 4 w.code) (0#1 ++ bit ret ++ BitVec.ofNat 3 sc.code) d.code a.code b.code c.code
  | .acasl h w sc ret d a b c =>
    encLong h 0x8 0x03 (BitVec.ofNat 4 w.code) (0#1 ++ bit ret ++ BitVec.ofNat 3 sc.code) d.code a.code b.code c.code
  | .acasc h w sc ret d a b c =>
    encLong h 0x8 0x05 (BitVec.ofNat 4 w.code) (0#1 ++ bit ret ++ BitVec.ofNat 3 sc.code) d.code a.code b.code c.code
  | .bankop h op sc a b c =>
    encLong h 0x8 0x06 (BitVec.ofNat 4 op.code) (bit op.pk ++ 0#1 ++ BitVec.ofNat 3 sc.code) 0xF0 a.code b.code c.code
  | .cpy h t f ch d a b =>
    encLong h 0x9 0x00 (BitVec.ofNat 2 f.code ++ BitVec.ofNat 2 t.code) (0#2 ++ ch) d.code a.code b.code 0xF0
  | .cpys h t f ch d a b c =>
    encLong h 0x9 0x01 (BitVec.ofNat 2 f.code ++ BitVec.ofNat 2 t.code) (0#2 ++ ch) d.code a.code b.code c.code
  | .seal h d =>
    encLong h 0x9 0x02 0 0 d.code 0xF0 0xF0 0xF0
  | .bwait h a =>
    encLong h 0x9 0x03 0 0 0xF0 a.code 0xF0 0xF0
  | .cpwp h issued d a =>
    encLong h 0x9 0x04 (0#3 ++ bit issued) 0 d.code a.code 0xF0 0xF0
  | .cpwait h a b =>
    encLong h 0x9 0x05 0 0 0xF0 a.code b.code 0xF0
  | .wlput h a b =>
    encLong h 0x9 0x06 0 0 0xF0 a.code b.code 0xF0
  | .wltake h d a =>
    encLong h 0x9 0x07 0 0 d.code a.code 0xF0 0xF0
  | .wldone h hold =>
    encLong h 0x9 0x08 (0#3 ++ bit hold) 0 0xF0 0xF0 0xF0 0xF0
  | .wlquiet h d =>
    encLong h 0x9 0x09 0 0 d.code 0xF0 0xF0 0xF0
  | .put h sp nt d a b c =>
    encLong h 0xA 0x00 (BitVec.ofNat 4 sp.code) (0#4 ++ bit nt) d.code a.code b.code c.code
  | .putn h sp nt d a b c =>
    encLong h 0xA 0x01 (BitVec.ofNat 4 sp.code) (0#4 ++ bit nt) d.code a.code b.code c.code
  | .get h sp nt d a b c =>
    encLong h 0xA 0x02 (BitVec.ofNat 4 sp.code) (0#4 ++ bit nt) d.code a.code b.code c.code
  | .ratom h op nt ret d a b c =>
    encLong h 0xA 0x03 (BitVec.ofNat 4 op.code) (bit op.pk ++ bit ret ++ 0#2 ++ bit nt) d.code a.code b.code c.code
  | .rcas h w nt ret d a b c =>
    encLong h 0xA 0x04 (BitVec.ofNat 4 w.code) (0#1 ++ bit ret ++ 0#2 ++ bit nt) d.code a.code b.code c.code
  | .notify h nt d a =>
    encLong h 0xA 0x05 0 (0#4 ++ bit nt) d.code a.code 0xF0 0xF0
  | .nwait h a b =>
    encLong h 0xA 0x06 0 0 0xF0 a.code b.code 0xF0
  | .nrd h d a =>
    encLong h 0xA 0x07 0 0 d.code a.code 0xF0 0xF0
  | .rfence h =>
    encLong h 0xA 0x08 0 0 0xF0 0xF0 0xF0 0xF0
  | .rquiet h nt d =>
    encLong h 0xA 0x09 0 (0#4 ++ bit nt) d.code 0xF0 0xF0 0xF0
  | .bar h mx a =>
    encLong h 0xB 0x00 (0#3 ++ bit mx) 0 0xF0 a.code 0xF0 0xF0
  | .bara h d a =>
    encLong h 0xB 0x01 0 0 d.code a.code 0xF0 0xF0
  | .barw h mx a b =>
    encLong h 0xB 0x02 (0#3 ++ bit mx) 0 0xF0 a.code b.code 0xF0
  | .barinit h a b =>
    encLong h 0xB 0x03 0 0 0xF0 a.code b.code 0xF0
  | .barrd h live s d a =>
    encLong h 0xB 0x04 (0#3 ++ bit live) (0#4 ++ bit s) d.code a.code 0xF0 0xF0
  | .barwr h s d a =>
    encLong h 0xB 0x05 0 (0#4 ++ bit s) d.code a.code 0xF0 0xF0
  | .fence h paths sc =>
    encLong h 0xB 0x06 paths (BitVec.ofNat 5 sc.code) 0xF0 0xF0 0xF0 0xF0
  | .mon h sp a =>
    encLong h 0xB 0x07 (BitVec.ofNat 4 sp.code) 0 0xF0 a.code 0xF0 0xF0
  | .mwait h d a =>
    encLong h 0xB 0x08 0 0 d.code a.code 0xF0 0xF0
  | .clock h d =>
    encLong h 0xB 0x09 0 0 d.code 0xF0 0xF0 0xF0
  | .mmq h keep af bf cm d a b c =>
    encLong h 0xC 0x00 (BitVec.ofNat 4 af.code) (0#1 ++ bit cm ++ BitVec.ofNat 3 bf.code) d.code a.code b.code c.code keep
  | .accz h d =>
    encLong h 0xC 0x01 0 0 d.code 0xF0 0xF0 0xF0
  | .accrd h mode d a =>
    encLong h 0xC 0x02 (BitVec.ofNat 4 mode.code) 0 d.code a.code 0xF0 0xF0
  | .accwr h mode d a =>
    encLong h 0xC 0x03 (BitVec.ofNat 4 mode.code) 0 d.code a.code 0xF0 0xF0
  | .accpro h d =>
    encLong h 0xC 0x04 0 0 d.code 0xF0 0xF0 0xF0
  | .mxset h a =>
    encLong h 0xC 0x05 0 0 0xF0 a.code 0xF0 0xF0
  | .cbload h sp a b =>
    encLong h 0xC 0x06 (BitVec.ofNat 4 sp.code) 0 0xF0 a.code b.code 0xF0
  | .cbrd h d a =>
    encLong h 0xC 0x07 0 0 d.code a.code 0xF0 0xF0
  | .mxwait h =>
    encLong h 0xC 0x08 0 0 0xF0 0xF0 0xF0 0xF0
  | .pchk h tr one d a =>
    encLong h 0xD 0x00 (0#3 ++ bit tr) (0#4 ++ bit one) d.code a.code 0xF0 0xF0
  | .pset h d a =>
    encLong h 0xD 0x01 0 0 d.code a.code 0xF0 0xF0
  | .pclr h d a =>
    encLong h 0xD 0x02 0 0 d.code a.code 0xF0 0xF0
  | .porg h f d a =>
    encLong h 0xD 0x03 0 (0#3 ++ f) d.code a.code 0xF0 0xF0
  | .srd h d a =>
    encLong h 0xE 0x00 0 0 d.code a.code 0xF0 0xF0
  | .swr h d a =>
    encLong h 0xE 0x01 0 0 d.code a.code 0xF0 0xF0
  | .trap h code =>
    encLong h 0xE 0x02 0 0 code 0xF0 0xF0 0xF0
  | .tret h =>
    encLong h 0xE 0x03 0 0 0xF0 0xF0 0xF0 0xF0
  | .savedone h =>
    encLong h 0xE 0x04 0 0 0xF0 0xF0 0xF0 0xF0
  | .icinv h =>
    encLong h 0xE 0x05 0 0 0xF0 0xF0 0xF0 0xF0
  | .wfi h =>
    encLong h 0xE 0x06 0 0 0xF0 0xF0 0xF0 0xF0
  | .halt h =>
    encLong h 0xE 0x07 0 0 0xF0 0xF0 0xF0 0xF0
  | .iaddS32ShortA d a b => encA 0x00 d a b
  | .isubS32ShortA d a b => encA 0x01 d a b
  | .imulS32ShortA d a b => encA 0x02 d a b
  | .iminS32ShortA d a b => encA 0x03 d a b
  | .imaxS32ShortA d a b => encA 0x04 d a b
  | .iminN32ShortA d a b => encA 0x05 d a b
  | .imaxN32ShortA d a b => encA 0x06 d a b
  | .andShortA d a b => encA 0x07 d a b
  | .orShortA d a b => encA 0x08 d a b
  | .xorShortA d a b => encA 0x09 d a b
  | .andnShortA d a b => encA 0x0A d a b
  | .shlShortA d a b => encA 0x0B d a b
  | .shrShortA d a b => encA 0x0C d a b
  | .shaShortA d a b => encA 0x0D d a b
  | .movShortA d a => encA 0x0E d a .z
  | .daddShortA d a b => encA 0x0F d a b
  | .faddF32ShortA d a b => encA 0x10 d a b
  | .fsubF32ShortA d a b => encA 0x11 d a b
  | .fmulF32ShortA d a b => encA 0x12 d a b
  | .fminF32ShortA d a b => encA 0x13 d a b
  | .fmaxF32ShortA d a b => encA 0x14 d a b
  | .faddF16x2ShortA d a b => encA 0x15 d a b
  | .fmulF16x2ShortA d a b => encA 0x16 d a b
  | .faddBf16x2ShortA d a b => encA 0x17 d a b
  | .fmulBf16x2ShortA d a b => encA 0x18 d a b
  | .icmpEqShortA d a b => encA 0x19 d a b
  | .icmpLtS32ShortA d a b => encA 0x1A d a b
  | .icmpLtN32ShortA d a b => encA 0x1B d a b
  | .fcmpLtShortA d a b => encA 0x1C d a b
  | .fcmpEqShortA d a b => encA 0x1D d a b
  | .frcpShortA d a => encA 0x1E d a .z
  | .frsqShortA d a => encA 0x1F d a .z
  | .popcShortA d a => encA 0x20 d a .z
  | .clzShortA d a => encA 0x21 d a .z
  | .shflIdxShortA d a b => encA 0x22 d a b
  | .shflXorShortA d a b => encA 0x23 d a b
  | .voteBallotShortA d a => encA 0x24 d a .z
  | .bcastShortA d a b => encA 0x25 d a b
  | .leaShortA d a b => encA 0x26 d a b
  | .ldlB32ShortA d a b => encA 0x27 d a b
  | .stlB32ShortA d a b => encA 0x28 d a b
  | .ldcB32ShortA d a b => encA 0x29 d a b
  | .stcB32ShortA d a b => encA 0x2A d a b
  | .iaddShortB d a imm => encB 0x00 d a imm
  | .isubShortB d a imm => encB 0x01 d a imm
  | .andShortB d a imm => encB 0x02 d a imm
  | .orShortB d a imm => encB 0x03 d a imm
  | .xorShortB d a imm => encB 0x04 d a imm
  | .shlShortB d a imm => encB 0x05 d a (imm.setWidth 8)
  | .shrShortB d a imm => encB 0x06 d a (imm.setWidth 8)
  | .shaShortB d a imm => encB 0x07 d a (imm.setWidth 8)
  | .movShortB d imm => encB 0x08 d .z imm
  | .icmpEqShortB d a imm => encB 0x09 d a imm
  | .icmpLtS32ShortB d a imm => encB 0x0A d a imm
  | .shflXorShortB d a imm => encB 0x0B d a (imm.setWidth 8)
  | .shflUpShortB d a imm => encB 0x0C d a (imm.setWidth 8)
  | .shflDownShortB d a imm => encB 0x0D d a (imm.setWidth 8)
  | .ldlB32ShortB d a imm => encB 0x0E d a imm
  | .stlB32ShortB d a imm => encB 0x0F d a imm
  | .ldkB32ShortB d imm => encB 0x10 d .z imm
  | _ => []

/-- Bytes of an instruction (R28). -/
def Instr.len (i : Instr) : Nat := 4 * (encode i).length

/-- What a decode trap records in sy.tval: word 0 low, word 1 high, 0 for a short form (R45). -/
def wordsTval : List Word → Dword
  | [] => 0
  | [w0] => w0.setWidth 64
  | w0 :: w1 :: _ => joinWords w0 w1

end Sys2Proof
end

