-- ==== Sys2Proof/Machine/State.lean ====
section
/-! DEFINITION. The state of a P48 panel as plain data: gangs, workgroups, cores, islands, plots,
contexts, interfaces, reeves and the engines that act on their own, with the state after reset.
Every list keyed by a number or name is sparse: what it does not list stands at its reset value. -/

namespace Sys2Proof.Machine

/-- A 32-bit value with its poison tag P (R12), or a memory word with its poison bit (R209). -/
structure LV where
  v : Word
  p : Bool
  deriving DecidableEq, Repr, Inhabited

/-- One value per lane of a gang, lane 0 first (R11). -/
abbrev Lanes := List LV

/-- Memory: bytes in canonical form (addresses rising, no zero byte listed: an unlisted byte reads 0,
assumption 1, DESIGN CHOICE) and the rising list of word numbers whose poison bit is set (R209). -/
structure Mem where
  bytes : List Host.Cell
  poison : List Nat
  deriving DecidableEq, Repr, Inhabited

/-- Memory with nothing listed. -/
def Mem.empty : Mem := ⟨[], []⟩

/-- Privilege levels (R16). -/
inductive Level where | u | s | m deriving DecidableEq, Repr, Inhabited

/-- The trap causes of R320. -/
inductive Cause where
  | illegalOpcode | reservedField | badOperand | badModifier | privileged | pcMisaligned
  | maskOverflow | maskUnderflow | unmatchedControl | jmpDivergent | regangMismatch | unwindNoMark
  | frameDepth | frameAlign | frameDemand | retEmpty
  | windowEmpty | queueUnderflow | queueOverflow | queueStorage | queueDef
  | addrMisaligned | scratchRange | commonsRange | argsRange | noncanonical
  | pageNotPresent | pageRead | pageWrite | pageExec | pageQuarantined
  | cpyRange | batchLimit | channelInvalid | worklistFull | wldoneUnderflow
  | matrixFormat | accTileRange | cbSlot
  | poisonStore | poisonBranch | poisonAddress | poisonLaneIndex
  | barrierBroken | barrierCount | notifyRange
  | siteLost | remoteHole | routeInvalid
  | mcTwinPersist | mcHeaderUe | mcArrayResidue | mcStateUe
  | breakpoint | singleStep | softwareTrap | preempt | vacate | watchdog
  deriving DecidableEq, Repr, Inhabited

/-- A queue definition of a frame with the occupancy of its queues (R136, R146). -/
structure QDef where
  base : Nat
  depth : Nat
  count : Nat
  occ : List Nat
  deriving DecidableEq, Repr, Inhabited

/-- A frame record (R136). SP is derived from the residence of the visible granules. `abase` 31 means
that nothing is shared with the caller. -/
structure Frame where
  rpc : Dword
  hpc : Dword
  ord : Nat
  mid : BitVec 8
  mv : Bool
  mmsd : Nat
  msb : Nat
  abase : Nat
  ngr : Nat
  qd0 : Option QDef
  qd1 : Option QDef
  deriving DecidableEq, Repr, Inhabited

/-- A granule: 8 rows of one value per lane, and whether it is in the register pool or in the Cellar
(R154, R156). -/
structure Granule where
  rows : List Lanes
  resident : Bool
  deriving DecidableEq, Repr, Inhabited

/-- One slot of the result window: full, and its lanes (R144). -/
structure Slot where
  full : Bool
  lanes : Lanes
  deriving DecidableEq, Repr, Inhabited

/-- A monitor (R201, R203): the space, the 128-byte line, the trigger and the restored mark. A global
line is island-physical. -/
structure Monitor where
  space : Space
  line : Nat
  trigger : Bool
  restored : Bool
  deriving DecidableEq, Repr

/-- What a waiting agent waits for (R177). -/
inductive Wait where
  | bar (b : Nat) (phase : Word) (mx : Bool)   -- R192: the phase the arrival was made in
  | barw (b : Nat) (token : Word)              -- R192
  | bwait | cpwait | nwait | wltake | mxwait | accrd | rquiet
  | mwait (deadline : Option Dword)            -- R202
  | regang (id : BitVec 8)                     -- R172
  | copyEntry                                  -- R290
  | remoteSlot                                 -- R379
  | reply                                      -- R381: replies of the instruction's remote atomics
  | savedone                                   -- R363
  | restoreTret                                -- R365
  | storeHold                                  -- R270
  | ringRead                                   -- R416
  | wfi                                        -- R330
  deriving DecidableEq, Repr

/-- The kind of access that parked an agent (R224); control is CCTL's, which raises no page cause (R246). -/
inductive Access where | read | write | atomic | fetch | control deriving DecidableEq, Repr, Inhabited

/-- A parked access: the address, its kind, the level it was made at, the lane, and whether the walk
has ended and host service is awaited, with the cause of a refusal (R224). -/
structure Park where
  va : Dword
  access : Access
  lane : Nat
  fault : Option Cause
  deriving DecidableEq, Repr, Inhabited

/-- What an agent is doing (R177). -/
inductive Run where
  | ready
  | wait (w : Wait) (i : Instr)
  | frameWait (need : Nat) (call : Option Instr)   -- a CALL, or a refill when none (R138, R140)
  | parked (p : Park)
  | replay                                         -- R340: tile operations settle first
  | ended                                          -- a slice with no live lane (R171)
  deriving DecidableEq, Repr

/-- The state an agent has of its own: a joined gang has one flow, a parted gang one per slice (R169).
`stack` is the mask stack, newest entry first. `due` delays the end of a barrier wait (R318).
`readyFor` counts the cycles ready without issuing (R316); `passBp` lets the first fetch after a TRET pass a
breakpoint (R351); `behind` numbers the remote operations that the agent's RFENCEs put before its next ones (R386); `noLeaf` are the
pages for which a CCTL that has not completed found no leaf (R246). -/
structure Flow where
  pc : Dword
  xm : Word
  stack : List Word
  win : List Slot
  mon : Option Monitor
  run : Run
  due : Option Nat
  readyFor : Nat
  aged : Bool
  passBp : Bool
  behind : List Nat
  noLeaf : List Nat
  deriving DecidableEq, Repr

/-- An MMQ that no other completed instruction of its gang follows: the number its tile operations carry, how many it
made, its address, and the queue entries that it popped, in order (R356). -/
structure Trail where
  instr : Nat
  parts : Nat
  pc : Dword
  popped : List (Bool × Nat × Lanes)
  deriving DecidableEq, Repr

/-- Frames (current first), granules by cellar ordinal, flows, the parted state and the trailing MMQs of a gang or of
its handler (R10, R169, R323, R356). -/
structure Body where
  frames : List Frame
  grans : List Granule
  flows : List Flow
  parted : Bool
  pmsd : Nat
  trail : List Trail
  deriving DecidableEq, Repr

/-- How a gang came into its handler (R323, R326, R364). -/
inductive HandlerKind where | context | machine | restore deriving DecidableEq, Repr, Inhabited

/-- A gang in its handler: the kind, the cause that was taken, the flow it was taken from, the handler's own body, and
whether the cause was pending and taken at a boundary (R324). -/
structure Handler where
  kind : HandlerKind
  cause : Cause
  flow : Nat
  body : Body
  pended : Bool
  deriving DecidableEq, Repr

/-- A trap that waits for its handler frame; `pended` as of the handler (R159, R323). -/
structure TrapReq where
  kind : HandlerKind
  cause : Cause
  lane : Nat
  epc : Dword
  tval : Dword
  flow : Nat
  pended : Bool
  deriving DecidableEq, Repr

/-- A pending asynchronous cause (R324). -/
structure Pending where
  cause : Cause
  tval : Dword
  deriving DecidableEq, Repr

/-- An open region (R337, R341): entry PC, frame depth, mask state, queues of the current frame with
their rows, the replays charged, and a number that no other region has. -/
structure Region where
  id : Nat
  entry : Dword
  depth : Nat
  xm : Word
  stack : List Word
  qd0 : Option QDef
  qd1 : Option QDef
  rows : List (Nat × Lanes)
  replays : Nat
  deriving DecidableEq, Repr

/-- A held A-operand latch (R273): the quarter, the register numbers it was filled from, the frame depth, and whether an
instruction has written one of those registers since. The values an MMQ uses are always the current register contents, so the
latch holds none. -/
structure Latch where
  quarter : Nat
  a : Opnd
  c : Opnd
  depth : Nat
  stale : Bool
  deriving DecidableEq, Repr

/-- A pending failure of a remote operation (R384). -/
structure Failure where
  cause : Cause
  tval : Dword
  batch : Option (BitVec 16)
  deriving DecidableEq, Repr

/-- A Cellar access that waits for service (R156). -/
structure CellarWait where
  ordinal : Nat
  spill : Bool
  va : Dword
  cause : Cause
  deriving DecidableEq, Repr

/-- A gang in its slot (R10, R19, R160, R161). `uid` numbers gangs over all time; `restore` is the save area
of a gang that has not yet made restore entry (R364); `dbgHeld` is the flow whose breakpoint or step has the debugger hold
the gang (R354); `reissue` is the address of the earliest MMQ that a freeze returned while the gang was in a handler or
waited for one (R356); `filled` counts the granules that restore entry has filled (R364);
`owed` lists registers, as ordinal, row and lanes, that a completed MWAIT has written while their granule was in the Cellar (R203); `freed` are the quarters whose latch was released and has
not been filled again (R274). -/
structure Gang where
  uid : Nat
  slot : Nat
  width : Nat
  base : Nat
  gix : Nat
  wgx : Word
  wg : Nat
  ctx : Option Nat
  prio : Nat
  framemax : Nat
  body : Body
  hand : Option Handler
  trapReq : Option TrapReq
  pend : List Pending
  pl : Level
  ppl : Level
  sstep : Bool
  twin : Bool
  psn : Bool
  cause : Dword
  epc : Dword
  tval : Dword
  syTwin : Dword
  mxp : Nat
  sysWg : Dword
  sysGrid : Dword
  cluster : Nat
  regionPc : Dword
  region : Option Region
  twinPc : Option Dword
  latches : List Latch
  freed : List Nat
  nextBatch : BitVec 16
  openBatches : List (BitVec 16)
  failMask : BitVec 48
  failure : Option Failure
  cellarWait : Option CellarWait
  restore : Option Dword
  filled : Nat
  owed : List (Nat × Nat × Word)
  dbgHeld : Option Nat
  reissue : Option Dword
  deriving DecidableEq, Repr

/-- One row of an accumulator tile: 16 values T, 16 partials S and the group counter (R261). -/
structure TileRow where
  t : Lanes
  s : List Word
  g : Nat
  deriving DecidableEq, Repr, Inhabited

/-- A tile of 8 rows (R261). -/
abbrev Tile := List TileRow

/-- A named barrier (R190). -/
structure Barrier where
  arr : Word
  mbr : Word
  bkn : Bool
  phase : Word
  deriving DecidableEq, Repr, Inhabited

/-- A gang that SAVEDONE has saved, as the dispatcher keeps it (R363, R384). -/
structure SavedGang where
  gix : Nat
  area : Dword
  failMask : BitVec 48
  failure : Option Failure
  deriving DecidableEq, Repr

/-- A resident workgroup (R162): its place in the grid, sizes, scratch, tiles, barriers, shape-table
slot, channel pointers Q and W, argument copy, the gangs that have not ended, the gangs saved. -/
structure Wg where
  id : Nat
  wgx : Word
  grid : Option Nat
  ctx : Option Nat
  gangs : Nat
  localBytes : Nat
  localBase : Nat
  acc : Nat
  scratch : Mem
  tiles : List (Nat × Tile)
  barriers : List Barrier
  cb : Option Lanes
  chanQ : List Word
  chanW : List Word
  args : Mem
  argBytes : Nat
  live : Word
  saved : List SavedGang
  deriving DecidableEq, Repr

/-- One word of an L1 sector: value, poison bit, dirty bytes, and whether a whole-word store has decided
the bit since the word was clean (R209, R210). -/
structure CWord where
  lv : LV
  dirty : BitVec 4
  whole : Bool
  deriving DecidableEq, Repr, Inhabited

/-- A 32-byte sector of L1 (R210); `idx` is the island-physical address divided by 32. -/
structure Sector where
  idx : Nat
  words : List CWord
  deriving DecidableEq, Repr, Inhabited

/-- A write that has been performed at D and not yet at I (R252): the word number, the bytes. `tie`: it is performed at I
together with the next one (R232, R233). -/
structure DWrite where
  word : Nat
  lv : LV
  mask : BitVec 4
  whole : Bool
  tie : Bool
  deriving DecidableEq, Repr, Inhabited

/-- A translation (R221 to R223): the virtual page, whether it is of 512 MiB, and the leaf. -/
structure TlbEntry where
  ctx : Nat
  page : Nat
  large : Bool
  frame : Nat
  cp : Bool
  q : Bool
  u : Bool
  x : Bool
  w : Bool
  r : Bool
  deriving DecidableEq, Repr, Inhabited

/-- The agent a poison entry is charged to (R427): its context, the site that makes the entry, core, slot,
lane, PC and poison mode; no core for entries charged to no gang. -/
structure Charge where
  ctx : Option Nat
  site : Nat
  core : Option CoreRef
  slot : Nat
  lane : Nat
  pc : Dword
  psn : Bool
  deriving DecidableEq, Repr

/-- A copy in a channel queue (R286, R288, R291): extents, the translations it checked, and the words
performed. -/
structure Copy where
  uid : Nat
  gang : Nat
  wg : Nat
  grid : Option Nat
  batch : BitVec 16
  charge : Charge
  dsp : Space
  ssp : Space
  dst : Dword
  src : Dword
  segWords : Nat
  count : Nat
  ds : Dword
  ss : Dword
  pages : List TlbEntry
  done : Nat
  deriving DecidableEq, Repr

/-- The A operand of an MMQ row: the 16 registers and the scale register (R265). -/
structure ARow where
  a : Lanes
  c : LV
  deriving DecidableEq, Repr

/-- What a tile operation does (R268, R276, R278). -/
inductive TileAct where
  | mmq (af : AFmt) (bf : BFmt) (commons : Bool) (b0 : Nat) (rows : List (Option ARow))
  | accz
  | accpro
  | accwr (mode : AccMode) (rows : List (Option Lanes))
  deriving DecidableEq, Repr

/-- A tile operation in flight, one quarter's (R271). `b` is the B operand and slot that its pass has read,
`done` says that its pass has ended; `instr` numbers its instruction, which has made `parts` operations. -/
structure TileOp where
  id : Nat
  gang : Nat
  wg : Nat
  quarter : Nat
  tile : Nat
  mxp : Nat
  charge : Charge
  region : Option Nat
  act : TileAct
  b : Option (Lanes × Lanes)
  done : Bool
  instr : Nat
  parts : Nat
  deriving DecidableEq, Repr

/-- The state of a pass (R272). -/
inductive PassState where
  | gathering (opened : Nat) | closed | running (started : Nat)
  deriving DecidableEq, Repr

/-- A pass of the matrix array: the operations it holds (R272). -/
structure Pass where
  ops : List Nat
  st : PassState
  deriving DecidableEq, Repr

/-- A PC breakpoint (R351). -/
structure Breakpoint where
  index : Nat
  ctx : Nat
  pc : Dword
  deriving DecidableEq, Repr

/-- A core (R160 to R162, R210, R286). Free granules are derived from the gangs that hold them. `passEnd` is the
cycle at which the array's last pass ended, `askedBy` the launch for which the core was vacated (R357), `idleStart` that of its last start after 16 idle cycles (R318); `noted` are stall causes met
in the current cycle that no wait shows (R319). -/
structure Core where
  ref : CoreRef
  gangs : List Gang
  wgs : List Wg
  waiters : List (Nat × Nat × Nat)      -- frame waiters, oldest first: slot, slice, entry cycle (R138)
  handReqs : List Nat                   -- slots that wait for a handler frame (R159)
  l1 : List Sector
  icache : List (Nat × Word)
  tlb : List TlbEntry
  chans : List (Nat × List Copy)        -- by channel, head first
  copyWaits : List (Nat × AgentRef)     -- channel, waiting agent, oldest first (R290)
  remoteWaits : List AgentRef           -- R379
  tops : List TileOp                    -- tile operations in issue order
  passes : List Pass
  frozen : Bool
  carve : Nat
  carveWant : Option Nat
  admission : Bool
  vacated : Bool
  askedBy : Option Nat
  stalls : List (Nat × Dword)
  mtvec : Dword
  tvec : Dword
  ctxReg : Dword
  pol : Dword
  polhead : Nat
  cellar : Dword
  fullSeen : Bool
  bps : List Breakpoint
  noted : List Nat
  halted : Bool
  stopped : Bool
  passEnd : Option Nat
  idleStart : Option Nat
  cycle : Nat
  deriving DecidableEq, Repr

/-- A work list of a context (R298). -/
structure WorkList where
  num : Nat
  capacity : Nat
  items : Lanes
  deriving DecidableEq, Repr

/-- A WLPUT issued and not yet appended (R299). -/
structure WlPut where
  list : Nat
  items : Lanes
  deriving DecidableEq, Repr

/-- Where the binding of a context on an island stands (R393, R406). -/
inductive Binding where
  | bound
  | leaving    -- withdrawn, its gangs and transfers still ending
  | unbound    -- its key slot is still to be retired
  deriving DecidableEq, Repr, Inhabited

/-- An update of a topology map (R375): the doublewords still to be written, by offset. `odd`: its first step has made GEN odd;
`paths`: it changes a plot's PUP, OUP or STATE (R371). -/
structure MapJob where
  words : List (Nat × Dword)
  odd : Bool
  paths : Bool
  deriving DecidableEq, Repr

/-- A context on one island (R298, R332, R348, R378, R387, R404). `holes` is the fabric interface's record
for it; `ballots` are the groups with a vote made here and not yet counted (R396); `frames` are the runs of frames
that the host gave it: first frame, count; `commonsBase` is where its quota begins in the Commons (R215); `maps` are the updates
of its map, the one in progress first (R375). -/
structure CtxIsland where
  ctx : Nat
  site : Nat
  root : Nat
  tvec : Dword
  pol : Dword
  polhead : Nat
  fullSeen : Bool
  lostPol : Nat
  cellar : Dword
  quota : Nat
  commonsBase : Nat
  commons : Mem
  counters : List (Nat × Dword)
  lists : List WorkList
  puts : List WlPut
  takers : List (Nat × AgentRef)        -- list number, waiting agent, oldest first (R300)
  out : Nat
  qt : Bool
  ep : Nat
  mapFrame : Nat
  maps : List MapJob
  frames : List (Nat × Nat)
  keySlot : Nat
  holes : BitVec 48
  clusters : List Nat
  watchdog : Nat
  ballots : List Nat
  binding : Binding
  deriving DecidableEq, Repr

/-- A launch queue block (R305). -/
structure LaunchQueue where
  qbase : Dword
  qsz : Nat
  qrd : Word
  qwr : Word
  qei : Word
  qerr : BitVec 8
  deriving DecidableEq, Repr

/-- A collective group of a context (R395, R396): the maps' fields, the votes counted, and the sites whose VOTEg a boundary
increments once its membership is published. -/
structure Group where
  num : Nat
  mem : BitVec 48
  next : BitVec 48
  set : BitVec 48
  mg : Word
  votes : BitVec 48
  owed : BitVec 48
  deriving DecidableEq, Repr

/-- A context of the panel (R22, R208, R305, R354, R413). `heals` are the sites whose HEAL is incremented once the map shows
them bound (R394); `ring` holds the words of its capture records, and `records` counts them. -/
structure Context where
  num : Nat
  iface : Nat
  psn : Bool
  twin : Bool
  debugged : Bool
  capture : Bool
  heapBase : Nat
  heapSize : Nat
  queues : List LaunchQueue
  groups : List Group
  heals : List Nat
  ring : List Word
  records : Nat
  killed : Bool
  deriving DecidableEq, Repr

/-- A kernel descriptor (R62). -/
structure Desc where
  width : Nat
  gangs : Nat
  frame : Nat
  framemax : Nat
  cbslot : Bool
  localBytes : Nat
  commons : Nat
  args : Nat
  acc : Nat
  bars : Nat
  entry : Dword
  deriving DecidableEq, Repr

/-- An unstarted or saved workgroup in a cluster queue (R312, R357). -/
structure Unstarted where
  wgx : Nat
  saved : Option (List SavedGang × List Word × List Word × Word)
  deriving DecidableEq, Repr

/-- A cluster's queue for one grid (R312), the cluster numbered 8 × die + cluster, and the last victim of
its barter requests, and whether the dispatcher enlarges its cores' carves for the grid (R313). -/
structure ClusterQueue where
  cluster : Nat
  grid : Nat
  items : List Unstarted
  victim : Nat
  enlarge : Bool
  deriving DecidableEq, Repr

/-- A grid on an island (R164, R307 to R310). `remaining` counts workgroups that have not ended;
`met` says that its dependences have held at one moment; `released` is the island clock at its release; `dealt` counts the workgroups dealt; `label` is what sy.grid reads in its
gangs. -/
structure Grid where
  num : Nat
  ctx : Nat
  prio : Nat
  pcls : Nat
  vfh : Nat
  count : Nat
  desc : Desc
  args : Mem
  die : Nat
  aff : Nat
  brt : Nat
  cmpl : Option Nat
  deps : List (Nat × Dword)
  met : Bool
  released : Option Dword
  remaining : Nat
  complete : Bool
  dropped : Bool
  watched : Bool
  dealt : Nat
  label : Dword
  deriving DecidableEq, Repr

/-- An off-panel lane (R415): ctl without its TRN bit, the stat bits, lock, maps, ring heater codes and
drops, rings with a measurement outstanding, training in progress. -/
structure OlLane where
  slotField : Nat
  act : Bool
  len : Bool
  up : Bool
  merr : Bool
  eyeok : Bool
  tdone : Bool
  lrdy : Bool
  lock : Nat
  maplo : Word
  maphi : Nat
  htr : List (Nat × Nat)
  drop : List (Nat × BitVec 16)
  unmeasured : List Nat
  training : Option Nat
  deriving DecidableEq, Repr

/-- A key slot in use: the context it is given to, none for the firmware's, and its key (R404). -/
structure KeySlot where
  slot : Nat
  ctx : Option Nat
  key : Nat
  deriving DecidableEq, Repr

/-- A core-band domain's report that its operating point is stable for a hint level, and the greatest VFH among its grids at
that moment, none for the firmware's default (R315). -/
structure OpPoint where
  die : Nat
  domain : Nat
  level : Nat
  hint : Option Nat
  deriving DecidableEq, Repr

/-- An island (R367, R217, R370, R318, R403). -/
structure Island where
  site : Nat
  granary : Bool
  mem : Mem
  l2 : List (Nat × List DWrite)         -- by die: writes performed at D and not at I, oldest first
  l3 : List Nat                         -- lines that L3 holds dirty, newest first (R210)
  retain : List (Nat × Bool)            -- lines that L3 holds ahead of others, true, or with the lowest retention (R212, R246)
  clusterTlb : List (Nat × List TlbEntry)  -- by cluster, numbered 8 × die + cluster, oldest first (R223)
  dieTlb : List (Nat × List TlbEntry)   -- by die, oldest first (R223)
  regions : List (Nat × Dword × Dword)
  generation : BitVec 16
  routes : List (Nat × Dword × Dword)
  sls : List (Nat × Nat)
  slw : List (Nat × Nat)
  lanes : List (Nat × OlLane)
  clock : Dword
  clockOn : Bool
  resetStep : Nat
  fwEntry : Dword
  oppoints : List OpPoint
  ctxs : List CtxIsland
  grids : List Grid
  cqueues : List ClusterQueue
  savedWgs : List (CoreRef × Nat × Unstarted)  -- core that saved it, grid (R357, R363)
  seen : List (Nat × Nat × Word)        -- context, queue, last packet received (R411)
  keySlots : List KeySlot
  digests : List (BitVec 384)           -- as the trust die has recorded them
  device : BitVec 384                   -- device key of the trust die (R402)
  aliasOf : Option (BitVec 384)         -- alias key of this reset
  corrected : Nat                       -- corrected errors that the steward has counted (R349)
  deriving DecidableEq, Repr

/-- The plot states of R389. -/
inductive PlotSt where
  | vacant | seated | powered | measured | trained | admitted | serving | draining | released | lost
  | fenced
  deriving DecidableEq, Repr, Inhabited

/-- A plot (R374, R389): `device` and `digests` are those of the module seated there, `approved` what the operator has approved
(R403); `lossOf` lists the contexts that a loss took from it, once its containment has begun, and `was` is the state that the
loss found it in (R390). -/
structure Plot where
  site : Nat
  st : PlotSt
  kind : ModuleKind
  inc : Word
  pup : BitVec 8
  oup : BitVec 2
  device : BitVec 384
  digests : List (BitVec 384)
  approved : List (BitVec 384)
  lossOf : Option (List Nat)
  was : PlotSt
  deriving DecidableEq, Repr

/-- TDISP states of an interface (R399). -/
inductive Tdisp where | unlocked | locked | run | error deriving DecidableEq, Repr, Inhabited

/-- The algorithms that SPDM negotiates (R401). -/
inductive Algorithm where | ecdsaP384 | sha384 | ecdheP384 | aes256Gcm deriving DecidableEq, Repr

/-- The signed record of one island, with its alias certificate (R402). -/
structure EvidenceRec where
  site : Nat
  inc : Word
  digests : List (BitVec 384)
  nonce : BitVec 256
  signature : BitVec 384
  certificate : BitVec 384
  deriving DecidableEq, Repr

/-- Messages the device sends: SPDM and TLP completions, reports to the host (R326, R345, R400, R401).
Their signatures and key material are free values (assumption 2, DESIGN CHOICE). -/
inductive Message where
  | version | capabilities
  | algorithms (l : List Algorithm)
  | digests (chain : BitVec 384)
  | certificate (chain : List (BitVec 384))
  | challengeAuth (nonce : BitVec 256) (signature : BitVec 384)
  | measurement (index : Nat) (digest : Option (BitVec 384))
  | evidence (records : List EvidenceRec) (signature : BitVec 384)
  | keyExchange (signature : BitVec 384) | finished | keyUpdated | ended | keyProgrammed
  | refusedRequest
  | completion (value : Word) | unsupported | accepted
  | gangKilled (cause : Cause) (epc : Dword) | contextKilled (ctx : Nat) | interfaceError
  | lostEntries (count : Nat)
  | fault (va : Dword) (cause : Cause) | held (cause : Cause) (epc : Dword)
  deriving DecidableEq, Repr

/-- A device interface (R397, R399 to R401). `stopping`: a STOP_INTERFACE_REQUEST waits for the key slots of its
partition to be retired. -/
structure Iface where
  num : Nat
  reeve : Nat
  st : Tdisp
  ideKey : Option Nat
  sessionKey : Option Nat
  established : Bool
  stopping : Bool
  out : List Message
  deriving DecidableEq, Repr

/-- A reeve (R410, R412) with its own memory. -/
structure Reeve where
  num : Nat
  failed : Bool
  presiding : Bool
  term : Word
  mem : Mem
  deriving DecidableEq, Repr

/-- Key state of a link direction (R407, R408): slots, the index in use, the step of a rotation, the
acknowledgements, the failed retries of the flit in hand; `counter` is the flit counter of the key in use, `flight` the flight
time F measured at training and reported to the reeve. -/
structure Link where
  dir : LinkDir
  key0 : Option Nat
  key1 : Option Nat
  active : Bool
  epoch : Word
  counter : Dword
  installing : Bool
  ackSender : Bool
  ackReceiver : Bool
  retries : Nat
  flight : Word
  deriving DecidableEq, Repr

/-- A partition: its interface, and the clusters of each site that are assigned to it (R165, R311, R397). -/
structure Partition where
  iface : Nat
  clusters : List (Nat × List Nat)
  deriving DecidableEq, Repr

/-- Kinds of remote operation (R377). -/
inductive RopKind where
  | put | putn | get | ratom (op : AtomOp) | rcas (w : CasW) | notify
  deriving DecidableEq, Repr

/-- Where a remote operation stands (R371, R380, R381). -/
inductive RopSt where
  | held       -- no path yet (R371)
  | flying     -- on its way to the target, or words left to perform
  | returning  -- data or reply on its way back
  | incrementing
  | answered     -- the reply of an atomic has arrived, and its instruction waits for other lanes
  deriving DecidableEq, Repr

/-- A remote operation in flight (R378 to R383). `data` are words read and not yet written at the other
end: the target's words of a GET, the old value of an atomic. `solo` is the slice that issued it while parted; `behind` numbers
the operations that an RFENCE puts before it (R386); `serve` is the cause of a fault at the target that waits for its steward and
the host, and `refused` says that they have refused it (R379, R384). -/
structure Rop where
  id : Nat
  gang : Nat
  grid : Option Nat
  ag : AgentRef
  charge : Charge
  site : Nat
  kind : RopKind
  target : Nat
  route : Nat
  desc : Dword
  remote : Dword
  bytes : Nat
  sp : Space
  localAddr : Dword
  wg : Nat
  pages : List TlbEntry
  operand : Lanes
  nt : Bool
  ret : Bool
  lane : Nat
  solo : Option Nat
  batch : Option (BitVec 16)
  st : RopSt
  done : Nat
  data : Lanes
  behind : List Nat
  serve : Option Cause
  refused : Bool
  path : List (Nat × Nat)
  deriving DecidableEq, Repr

/-- Physical errors to come (R231, R283, R291, R342, R349, R380): the next matching operation meets the error. -/
inductive Phys where
  | operandUe (op reg lane : Nat)                   -- a register or window slot read as operand op, R349
  | guardUe (lane : Nat)                            -- a register or window slot read as a guard, R349
  | storedUe (lane : Nat)                           -- a value that QRD, WINRD, FRMRD, SAVEDONE or a spill reads, R349
  | tileUe (tile row col : Nat)                     -- a value T of a tile's row, R349
  | partUe (tile row col : Nat)                     -- a partial S of a tile's row, R349
  | corrected (site : Nat)                          -- an error that some check of an island corrects, R349
  | slotUe (word : Nat)                             -- a word of a shape-table slot, R349
  | readUe (kind : Nat) (sp : Space) (word : Nat)   -- kind 3, 5, 6 or 10 at a word of a space; 0: corrected
  | twin (lane : Nat)
  | residue
  | copyUe
  | linkUe (op : Nat) (word : Nat)
  deriving DecidableEq, Repr

/-- A turn that the agenda gives: a step of another agent, or an instruction of the agent that a core's issue
selector picks (R316). -/
inductive Turn where
  | event (i : Instr)
  | issue (core : CoreRef)
  deriving DecidableEq, Repr

/-- The whole panel. `agenda` lists the turns to be taken first, which interleave the agents in any order that
the manual allows; when it is empty, `cur` is the agent whose turn it is; `freeCtr` numbers the free values used; `uid` the records created. -/
structure State where
  panel : BitVec 21
  cores : List Core
  islands : List Island
  plots : List Plot
  contexts : List Context
  partitions : List Partition
  ifaces : List Iface
  reeves : List Reeve
  links : List Link
  rops : List Rop
  phys : List Phys
  agenda : List Turn
  cur : AgentRef
  freeCtr : Nat
  uid : Nat
  deriving DecidableEq, Repr

/-- Why the machine stops. Stopping where the hardware goes on is safe. -/
inductive Fault where
  /-- Raised by an access or a fetch at M level that names an island-physical address to which the spec gives neither installed
  memory nor, for this access, a control window (log entry 8). Safe. -/
  | physicalHole (address : Nat)
  deriving DecidableEq, Repr

/-- Why a step has no meaning in the state it is tried in. -/
inductive Refusal where
  /-- Raised by an arm of exec for an instruction without a meaning. Safe. -/
  | notModelled (mnemonic : String)
  /-- Raised by a step of another agent when its condition does not hold: such a step does not happen.
  Safe. -/
  | notEnabled (name : String)
  /-- Raised by a gang instruction when the agent whose turn it is does not exist or cannot issue: such an
  instruction is not executed. Safe. -/
  | noAgent
  deriving DecidableEq, Repr

/-- An outcome of this machine. -/
abbrev Res := Host.Outcome State Fault Refusal

/-- The cause code of R320. -/
def Cause.code : Cause → Nat
  | .illegalOpcode => 0x00 | .reservedField => 0x01 | .badOperand => 0x02 | .badModifier => 0x03
  | .privileged => 0x04 | .pcMisaligned => 0x05
  | .maskOverflow => 0x10 | .maskUnderflow => 0x11 | .unmatchedControl => 0x12 | .jmpDivergent => 0x13
  | .regangMismatch => 0x14 | .unwindNoMark => 0x15 | .frameDepth => 0x16 | .frameAlign => 0x17
  | .frameDemand => 0x18 | .retEmpty => 0x19
  | .windowEmpty => 0x20 | .queueUnderflow => 0x21 | .queueOverflow => 0x22 | .queueStorage => 0x23
  | .queueDef => 0x24
  | .addrMisaligned => 0x30 | .scratchRange => 0x31 | .commonsRange => 0x32 | .argsRange => 0x33
  | .noncanonical => 0x34 | .pageNotPresent => 0x35 | .pageRead => 0x36 | .pageWrite => 0x37
  | .pageExec => 0x38 | .pageQuarantined => 0x39
  | .cpyRange => 0x50 | .batchLimit => 0x51 | .channelInvalid => 0x52 | .worklistFull => 0x53
  | .wldoneUnderflow => 0x54
  | .matrixFormat => 0x60 | .accTileRange => 0x61 | .cbSlot => 0x62
  | .poisonStore => 0x70 | .poisonBranch => 0x71 | .poisonAddress => 0x72 | .poisonLaneIndex => 0x73
  | .barrierBroken => 0x80 | .barrierCount => 0x81 | .notifyRange => 0x82
  | .siteLost => 0x90 | .remoteHole => 0x91 | .routeInvalid => 0x92
  | .mcTwinPersist => 0xA0 | .mcHeaderUe => 0xA1 | .mcArrayResidue => 0xA2 | .mcStateUe => 0xA3
  | .breakpoint => 0xB0 | .singleStep => 0xB1 | .softwareTrap => 0xB2 | .preempt => 0xB3
  | .vacate => 0xB4 | .watchdog => 0xB5

/-- Causes that cannot be returned from (R320). -/
def Cause.fatal : Cause → Bool
  | .mcHeaderUe | .mcStateUe | .vacate => true
  | _ => false

/-- Causes a replay may cure (R339): the poison causes. -/
def Cause.isPoison : Cause → Bool
  | .poisonStore | .poisonBranch | .poisonAddress | .poisonLaneIndex => true
  | _ => false

/-- A row of zeros for a gang of width w. -/
def zeroLanes (w : Nat) : Lanes := List.replicate w ⟨0, false⟩

/-- A granule of zeros (R10, R137). -/
def zeroGranule (w : Nat) : Granule := ⟨List.replicate 8 (zeroLanes w), true⟩

/-- A window with every slot empty and zero (R144). -/
def emptyWin (w : Nat) : List Slot := List.replicate 8 ⟨false, zeroLanes w⟩

/-- The mask of lanes 0 to w - 1. -/
def maskOf (w : Nat) : Word := BitVec.ofNat 32 (2 ^ w - 1)

/-- A flow that starts at a PC with every lane of the gang (R10). -/
def Flow.start (w : Nat) (pc : Dword) : Flow := ⟨pc, maskOf w, [], emptyWin w, none, .ready, none, 0, false, false, [], []⟩

/-- The frame record of a launch or handler frame (R136). -/
def Frame.launch (n : Nat) : Frame := ⟨0, 0, 0, 0, false, 0, 0, 31, n, none, none⟩

/-- A body with one frame of n granules that starts at a PC. -/
def Body.start (w n : Nat) (pc : Dword) : Body :=
  ⟨[.launch n], List.replicate n (zeroGranule w), [.start w pc], false, 0, []⟩

/-- An M-level gang at its launch (R10, R18, R428). -/
def Gang.firmware (uid slot width base wg n framemax : Nat) (pc : Dword) : Gang where
  uid := uid
  slot := slot
  width := width
  base := base
  gix := 0
  wgx := 0
  wg := wg
  ctx := none
  prio := 0
  framemax := framemax
  body := .start width n pc
  hand := none
  trapReq := none
  pend := []
  pl := .m
  ppl := .m
  sstep := false
  twin := false
  psn := false
  cause := 0
  epc := 0
  tval := 0
  syTwin := 0
  mxp := 16
  sysWg := 0
  sysGrid := 0
  cluster := 0
  regionPc := 0
  region := none
  twinPc := none
  latches := []
  freed := []
  nextBatch := 0
  openBatches := []
  failMask := 0
  failure := none
  cellarWait := none
  restore := none
  filled := 0
  owed := []
  dbgHeld := none
  reissue := none

/-- The workgroup of one gang that an M-level gang makes (R18). -/
def Wg.firmware (id : Nat) : Wg :=
  ⟨id, 0, none, none, 1, 0, 0, 0, .empty, [], [], none, List.replicate 8 0, List.replicate 8 0, .empty, 0, 1, []⟩

/-- A core with no gang. -/
def Core.idle (r : CoreRef) : Core where
  ref := r
  gangs := []
  wgs := []
  waiters := []
  handReqs := []
  l1 := []
  icache := []
  tlb := []
  chans := []
  copyWaits := []
  remoteWaits := []
  tops := []
  passes := []
  frozen := false
  carve := 0
  carveWant := none
  admission := true
  vacated := false
  askedBy := none
  stalls := []
  mtvec := 0
  tvec := 0
  ctxReg := 0
  pol := 0
  polhead := 0
  cellar := 0
  fullSeen := false
  bps := []
  noted := []
  halted := false
  stopped := false
  passEnd := none
  idleStart := none
  cycle := 0

/-- A core whose boot ROM has started its first M-level gang: width 8, 4 granules (R18). The .framemax of
that gang, which no descriptor gives, is the pool's 256 (assumption 12, DESIGN CHOICE). -/
def Core.booted (r : CoreRef) (uid : Nat) (entry : Dword) : Core :=
  let c := Core.idle r
  { c with gangs := [.firmware uid 0 8 0 0 4 256 entry], wgs := [.firmware 0] }

/-- A plot before anything is seated (R389). -/
def Plot.vacant (site : Nat) : Plot := ⟨site, .vacant, .none, 0, 0, 0, 0, [], [], none, .vacant⟩

/-- The panel right after power-on (R412, R18): three reeves, each with its first M-level gang, reeve 0
presiding in term 0 (assumption 12, DESIGN CHOICE), every plot vacant (assumption 3, DESIGN CHOICE). -/
def State.reset : State where
  panel := 0
  cores := [.booted (.reeve 0) 0 0, .booted (.reeve 1) 1 0, .booted (.reeve 2) 2 0]
  islands := []
  plots := []
  contexts := []
  partitions := []
  ifaces := []
  reeves := [⟨0, false, true, 0, .empty⟩, ⟨1, false, false, 0, .empty⟩, ⟨2, false, false, 0, .empty⟩]
  links := []
  rops := []
  phys := []
  agenda := []
  cur := ⟨.reeve 0, 0, 0⟩
  freeCtr := 0
  uid := 3

end Sys2Proof.Machine
end

