-- ==== Sys2Proof/Machine/Access.lean ====
section
/-! DEFINITION. How the parts of the state are read and updated: cores, gangs, flows, workgroups,
islands, contexts, and the rows, queues and window of a frame (spec 01, 06, 07). -/

namespace Sys2Proof

/-- The site of a core, none for a reeve core. -/
def CoreRef.site : CoreRef → Option Nat
  | .compute s _ _ | .steward s => some s
  | .reeve _ => none

/-- The compute die of a core (R19, sy.die); 0 for steward and reeve cores. -/
def CoreRef.die : CoreRef → Nat
  | .compute _ d _ => d
  | _ => 0

/-- The position of a core on its die; 0 for steward and reeve cores. -/
def CoreRef.pos : CoreRef → Nat
  | .compute _ _ c => c
  | _ => 0

/-- The cluster of a compute core, numbered 8 × die + cluster. -/
def CoreRef.cluster (r : CoreRef) : Nat := 8 * r.die + r.pos / 8

/-- Whether gangs of a core belong to contexts (R18). -/
def CoreRef.isCompute : CoreRef → Bool
  | .compute _ _ _ => true
  | _ => false

end Sys2Proof

namespace Sys2Proof.Machine

/-- Updates the entries a test picks out. -/
def modify {α : Type} (p : α → Bool) (f : α → α) (l : List α) : List α := l.map fun x => if p x then f x else x

/-- Replaces the first entry a test picks out, or appends. -/
def upsert {α : Type} (p : α → Bool) (x : α) : List α → List α
  | [] => [x]
  | y :: ys => if p y then x :: ys else y :: upsert p x ys

/-- The value a sparse list gives a number. -/
def lookupD {α : Type} (k : Nat) (d : α) : List (Nat × α) → α
  | [] => d
  | (j, x) :: r => if j == k then x else lookupD k d r

/-- Sets the value of a number in a sparse list. -/
def setAt {α : Type} (k : Nat) (x : α) (l : List (Nat × α)) : List (Nat × α) := upsert (fun p => p.1 == k) (k, x) l

/-- Entry n of a list set. -/
def setNth {α : Type} : List α → Nat → α → List α
  | [], _, _ => []
  | _ :: xs, 0, y => y :: xs
  | x :: xs, n + 1, y => x :: setNth xs n y

/-- Entry n of a list updated. -/
def modNth {α : Type} (f : α → α) : List α → Nat → List α
  | [], _ => []
  | x :: xs, 0 => f x :: xs
  | x :: xs, n + 1 => x :: modNth f xs n

/-- Inserts into a list kept rising, once. -/
def insertUp (n : Nat) : List Nat → List Nat
  | [] => [n]
  | m :: r => if n < m then n :: m :: r else if n == m then m :: r else m :: insertUp n r

/-- Removes a number from a list. -/
def remove (n : Nat) (l : List Nat) : List Nat := l.filter (· != n)

/-- 0 to n - 1. -/
def upTo (n : Nat) : List Nat := List.range n

/-- Bit i of a word. -/
def bitOf (x : Word) (i : Nat) : Bool := x.getLsbD i

/-- The word whose only set bit is i. -/
def oneBit (i : Nat) : Word := BitVec.ofNat 32 (2 ^ i)

/-- The word whose bit i is f i. -/
def maskBy (f : Nat → Bool) : Word := (upTo 32).foldl (fun a i => if f i then a ||| oneBit i else a) 0

/-- All ones or zero. -/
def allOnes (b : Bool) : Word := if b then 0xFFFFFFFF else 0

/-- Rounds down to a multiple. -/
def alignDown (n k : Nat) : Nat := n - n % k

/-! ### Cores and gangs -/

def State.core? (s : State) (r : CoreRef) : Option Core := s.cores.find? fun c => c.ref == r
def State.core (s : State) (r : CoreRef) : Core := (s.core? r).getD (.idle r)
/-- Updates a core; a core without an entry stands idle. -/
def State.modCore (s : State) (r : CoreRef) (f : Core → Core) : State :=
  if s.cores.any fun c => c.ref == r then { s with cores := modify (fun c => c.ref == r) f s.cores }
  else { s with cores := s.cores ++ [f (.idle r)] }

def Core.gang? (c : Core) (slot : Nat) : Option Gang := c.gangs.find? fun g => g.slot == slot
def Core.modGang (c : Core) (slot : Nat) (f : Gang → Gang) : Core :=
  { c with gangs := modify (fun g => g.slot == slot) f c.gangs }
def Core.wg? (c : Core) (id : Nat) : Option Wg := c.wgs.find? fun w => w.id == id
def Core.wg (c : Core) (id : Nat) : Wg := (c.wg? id).getD (.firmware id)
def Core.modWg (c : Core) (id : Nat) (f : Wg → Wg) : Core :=
  { c with wgs := modify (fun w => w.id == id) f c.wgs }
def State.gang? (s : State) (r : CoreRef) (slot : Nat) : Option Gang := (s.core? r).bind fun c => c.gang? slot
def State.modGang (s : State) (r : CoreRef) (slot : Nat) (f : Gang → Gang) : State :=
  s.modCore r fun c => c.modGang slot f
def State.modWg (s : State) (r : CoreRef) (id : Nat) (f : Wg → Wg) : State := s.modCore r fun c => c.modWg id f

/-- Adds a gang to a core's list, kept in slot order. -/
def insertGang (g : Gang) : List Gang → List Gang
  | [] => [g]
  | h :: r => if g.slot < h.slot then g :: h :: r else h :: insertGang g r

/-- The body whose instructions issue: the handler's while the gang is in its handler (R323). -/
def Gang.act (g : Gang) : Body :=
  match g.hand with
  | some h => h.body
  | none => g.body

/-- Updates that body. -/
def Gang.modAct (g : Gang) (f : Body → Body) : Gang :=
  match g.hand with
  | some h => { g with hand := some { h with body := f h.body } }
  | none => { g with body := f g.body }

/-- The flow a slice number selects: the only one while joined (R170). -/
def Body.fi (b : Body) (slice : Nat) : Nat := if b.parted then slice else 0

def Body.flow (b : Body) (fi : Nat) : Flow := b.flows.getD fi (.start 8 0)
def Body.modFlow (b : Body) (fi : Nat) (f : Flow → Flow) : Body := { b with flows := modNth f b.flows fi }

/-- Updates the flow of an agent. -/
def State.modFlow (s : State) (ag : AgentRef) (f : Flow → Flow) : State :=
  s.modGang ag.core ag.slot fun g => g.modAct fun b => b.modFlow (b.fi ag.slice) f

/-- The lanes of a flow: four for a slice, else all of the gang (R168, R170). -/
def Body.lanes (b : Body) (w fi : Nat) : List Nat := if b.parted then [4*fi, 4*fi+1, 4*fi+2, 4*fi+3] else upTo w

/-- The live mask: xm or any mask stack entry (R129). -/
def Flow.live (f : Flow) : Word := f.stack.foldl (· ||| ·) f.xm

/-- A dormant agent has xm = 0 and a live mask that is not (R130). -/
def Flow.dormant (f : Flow) : Bool := f.xm == 0 && f.live != 0

/-- Mask stack depth (R129). -/
def Flow.msd (f : Flow) : Nat := f.stack.length

/-! ### Islands, contexts, plots -/

def State.island? (s : State) (site : Nat) : Option Island := s.islands.find? fun x => x.site == site
def State.modIsland (s : State) (site : Nat) (f : Island → Island) : State :=
  { s with islands := modify (fun x => x.site == site) f s.islands }
def Island.ctx? (x : Island) (ctx : Nat) : Option CtxIsland := x.ctxs.find? fun k => k.ctx == ctx
def Island.modCtx (x : Island) (ctx : Nat) (f : CtxIsland → CtxIsland) : Island :=
  { x with ctxs := modify (fun k => k.ctx == ctx) f x.ctxs }
def State.ctxAt? (s : State) (site ctx : Nat) : Option CtxIsland := (s.island? site).bind fun x => x.ctx? ctx
def State.modCtxAt (s : State) (site ctx : Nat) (f : CtxIsland → CtxIsland) : State :=
  s.modIsland site fun x => x.modCtx ctx f
def State.context? (s : State) (ctx : Nat) : Option Context := s.contexts.find? fun k => k.num == ctx
def State.modContext (s : State) (ctx : Nat) (f : Context → Context) : State :=
  { s with contexts := modify (fun k => k.num == ctx) f s.contexts }
def State.plot (s : State) (site : Nat) : Plot := (s.plots.find? fun p => p.site == site).getD (.vacant site)
def State.modPlot (s : State) (site : Nat) (f : Plot → Plot) : State :=
  { s with plots := upsert (fun p => p.site == site) (f (s.plot site)) s.plots }
def State.reeve? (s : State) (n : Nat) : Option Reeve := s.reeves.find? fun r => r.num == n
/-- Interface n, function n % 256 of port n / 256: each reeve has two ports, and function 0 of a port is its physical
function (R397). An unlisted interface stands in CONFIG_UNLOCKED, or in ERROR when its reeve has failed. -/
def State.iface? (s : State) (n : Nat) : Option Iface :=
  if 1536 ≤ n then none
  else match s.ifaces.find? fun i => i.num == n with
    | some i => some i
    | none => some ⟨n, n / 512, if (s.reeve? (n / 512)).any fun r => r.failed then .error else .unlocked, none, none, false, false, []⟩
def State.modIface (s : State) (n : Nat) (f : Iface → Iface) : State :=
  match s.iface? n with
  | some i => { s with ifaces := upsert (fun j => j.num == n) (f i) s.ifaces }
  | none => s
def State.modReeve (s : State) (n : Nat) (f : Reeve → Reeve) : State :=
  { s with reeves := modify (fun r => r.num == n) f s.reeves }
def Island.grid? (x : Island) (n : Nat) : Option Grid := x.grids.find? fun g => g.num == n
def Island.modGrid (x : Island) (n : Nat) (f : Grid → Grid) : Island :=
  { x with grids := modify (fun g => g.num == n) f x.grids }

/-- A message to the host through a context's interface (R326, R345) (assumption 86, DESIGN CHOICE). -/
def State.report (s : State) (ctx : Option Nat) (m : Message) : State :=
  match ctx.bind s.context? with
  | some k => s.modIface k.iface fun i => { i with out := i.out ++ [m] }
  | none => s

/-- A fresh free value: an uninterpreted function of a counter that the step advances (assumption 2, DESIGN CHOICE). -/
def State.free (s : State) : Word × State := (Config.freeWord s.freeCtr, { s with freeCtr := s.freeCtr + 1 })

/-- A number that no earlier record of the model has (assumption 7, DESIGN CHOICE). -/
def State.fresh (s : State) : Nat × State := (s.uid, { s with uid := s.uid + 1 })

/-- Takes the first coming physical error that a test picks out (assumption 6, DESIGN CHOICE). -/
def takePhys (p : Phys → Bool) : List Phys → Option (Phys × List Phys)
  | [] => none
  | x :: r => if p x then some (x, r) else (takePhys p r).map fun q => (q.1, x :: q.2)

/-- The site whose steward counts an error, if it is corrected (R349). -/
def Phys.counts : Phys → Option Nat
  | .corrected n => some n
  | _ => none

/-! ### Rows of a frame (R11, R137, R154) -/

/-- Granules a frame shares with its caller (R137). -/
def Frame.shared (f : Frame) : List Frame → Nat
  | [] => 0
  | c :: _ => if f.abase == 31 then 0 else min f.ngr (c.ngr - f.abase)

/-- The cellar ordinal of granule g of the first frame of a list, current frame first (R137, R154). -/
def granOrd : List Frame → Nat → Nat
  | [], g => g
  | f :: rest, g => if g < f.shared rest then granOrd rest (f.abase + g) else f.ord + (g - f.shared rest)

def Body.frame (b : Body) : Frame := b.frames.headD (.launch 1)
def Body.modFrame (b : Body) (f : Frame → Frame) : Body := { b with frames := modNth f b.frames 0 }

def Body.gran (b : Body) (o : Nat) : Granule := b.grans.getD o ⟨[], true⟩

/-- Row r of the frame at the head of a list of frames. -/
def Body.rowIn (b : Body) (fs : List Frame) (r : Nat) : Lanes := (b.gran (granOrd fs (r / 8))).rows.getD (r % 8) []

/-- Register vr (R11). -/
def Body.row (b : Body) (r : Nat) : Lanes := b.rowIn b.frames r

/-- Writes register vr in every lane. -/
def Body.setRow (b : Body) (r : Nat) (row : Lanes) : Body :=
  let o := granOrd b.frames (r / 8)
  { b with grans := modNth (fun g => { g with rows := setNth g.rows (r % 8) row }) b.grans o }

/-- The lane of a row. -/
def laneAt (l : Lanes) (i : Nat) : LV := l.getD i ⟨0, false⟩

/-- Cellar ordinals of the granules visible in the first frame of a list (R155). -/
def visible : List Frame → List Nat
  | [] => []
  | f :: rest => (upTo f.ngr).map (granOrd (f :: rest))

/-- Visible granules of the current frame that are in the Cellar (R140). -/
def Body.missing (b : Body) : List Nat := (visible b.frames).filter fun o => !(b.gran o).resident

/-- SP of the frame at the head of a list (R136). -/
def Body.spOf (b : Body) (fs : List Frame) : Bool := (visible fs).any fun o => !(b.gran o).resident

/-- Granules a body holds in each quarter it uses, in the pool or in the Cellar (R137). -/
def Body.held (b : Body) : Nat := b.grans.length

/-- Granules resident in the pool (R166). -/
def Body.resident (b : Body) : Nat := b.grans.countP fun g => g.resident

/-- Granules a gang takes from each physical quarter it uses (R166). -/
def Gang.pool (g : Gang) : Nat := g.body.resident + (match g.hand with | some h => h.body.resident | none => 0)

/-- Whether a gang uses a physical quarter (R161). -/
def Gang.uses (g : Gang) (q : Nat) : Bool := g.base ≤ q && q < g.base + g.width / 8

/-- Free granules of a physical quarter (R161, R166). -/
def Core.freeGran (c : Core) (q : Nat) : Nat :=
  Config.poolGranules - (c.gangs.map fun g => if g.uses q then g.pool else 0).sum

/-- Whether n granules are free in every quarter a gang uses (R138, R161). -/
def Core.fits (c : Core) (g : Gang) (n : Nat) : Bool := (upTo 4).all fun q => !g.uses q || n ≤ c.freeGran q

/-! ### Queues (R146, R147) -/

/-- What a register number is to a frame's queue definitions. -/
inductive RegRole where
  | plain
  | name (second : Bool) (j : Nat)
  | storage
  deriving DecidableEq, Repr

def QDef.role (d : QDef) (second : Bool) (r : Nat) : RegRole :=
  if d.base ≤ r && r < d.base + d.count then .name second (r - d.base)
  else if d.base + d.count ≤ r && r < d.base + d.count * d.depth then .storage
  else .plain

def Frame.role (f : Frame) (r : Nat) : RegRole :=
  match (f.qd0.map fun d => d.role false r).getD .plain with
  | .plain => (f.qd1.map fun d => d.role true r).getD .plain
  | x => x

def Frame.qdef (f : Frame) (second : Bool) : Option QDef := if second then f.qd1 else f.qd0
def Frame.setQdef (f : Frame) (second : Bool) (d : Option QDef) : Frame :=
  if second then { f with qd1 := d } else { f with qd0 := d }

/-- The register that holds entry e of queue j (R153: the compact order). -/
def QDef.entryReg (d : QDef) (j e : Nat) : Nat :=
  if e == 0 then d.base + j else d.base + d.count + j * (d.depth - 1) + (e - 1)

def QDef.occOf (d : QDef) (j : Nat) : Nat := d.occ.getD j 0

/-- Moves entries 1 .. n to 0 .. n - 1 and clears entry n. -/
def shiftQueue (d : QDef) (j : Nat) : Nat → Nat → Body → Body
  | 0, e, b => b.setRow (d.entryReg j e) ((b.row (d.entryReg j e)).map fun _ => ⟨0, false⟩)
  | n + 1, e, b => shiftQueue d j n (e + 1) (b.setRow (d.entryReg j e) (b.row (d.entryReg j (e + 1))))

/-- Removes the oldest entry of a queue (R147). Registers beyond the occupancy hold 0. -/
def Body.pop (b : Body) (second : Bool) (j : Nat) : Body :=
  match b.frame.qdef second with
  | none => b
  | some d =>
    let n := d.occOf j
    (shiftQueue d j (n - 1) 0 b).modFrame fun f => f.setQdef second (some { d with occ := setNth d.occ j (n - 1) })

/-- Puts an entry back at the head of a queue, undoing a pop (R356). -/
def Body.unpop (b : Body) (second : Bool) (j : Nat) (row : Lanes) : Body :=
  match b.frame.qdef second with
  | none => b
  | some d =>
    let n := d.occOf j
    let up (b : Body) (e : Nat) : Body := b.setRow (d.entryReg j (e + 1)) (b.row (d.entryReg j e))
    (((upTo n).reverse.foldl up b).setRow (d.entryReg j 0) row).modFrame fun f =>
      f.setQdef second (some { d with occ := setNth d.occ j (n + 1) })

/-- The oldest entry of a queue. -/
def Body.headOf (b : Body) (second : Bool) (j : Nat) : Lanes :=
  match b.frame.qdef second with
  | some d => b.row (d.entryReg j 0)
  | none => []

/-- Appends an entry to a queue: the lanes of the set take the row, the others copy the newest entry, or 0
(R147). -/
def Body.push (b : Body) (second : Bool) (j : Nat) (inSet : Nat → Bool) (row : Lanes) : Body :=
  match b.frame.qdef second with
  | none => b
  | some d =>
    let n := d.occOf j
    let old := if n == 0 then row.map fun _ => ⟨0, false⟩ else b.row (d.entryReg j (n - 1))
    let new := row.mapIdx fun i x => if inSet i then x else laneAt old i
    (b.setRow (d.entryReg j n) new).modFrame fun f => f.setQdef second (some { d with occ := setNth d.occ j (n + 1) })

/-! ### The window (R26, R144) -/

/-- Pushes a row: the lanes outside the set take 0, untagged (R26, R144). -/
def pushWin (win : List Slot) (inSet : Nat → Bool) (row : Lanes) : List Slot :=
  ⟨true, row.mapIdx fun i x => if inSet i then x else ⟨0, false⟩⟩ :: win.take 7

/-- Empties every slot (R144). -/
def resetWin (win : List Slot) : List Slot := win.map fun x => { x with full := false }

end Sys2Proof.Machine
end

