-- ==== Sys2Proof/Machine/Memory.lean ====
section
/-! DEFINITION. Memory: bytes and poison bits, the levels C, D and I of a global access, translation,
monitors, and the poison-origin log (spec 09, 11, and 15 R332, R333). -/

namespace Sys2Proof.Machine

/-! ### Plain memory -/

/-- The byte at an address; an unlisted byte reads 0 (assumption 1, DESIGN CHOICE). -/
def cellAt (a : Nat) : List Host.Cell → Byte
  | [] => 0
  | c :: r => if c.1 == a then c.2 else cellAt a r

/-- Sets a byte, keeping addresses rising and no zero byte listed. -/
def setCell (a : Nat) (b : Byte) : List Host.Cell → List Host.Cell
  | [] => if b == 0 then [] else [(a, b)]
  | c :: r =>
    if a < c.1 then (if b == 0 then c :: r else (a, b) :: c :: r)
    else if a == c.1 then (if b == 0 then r else (a, b) :: r)
    else c :: setCell a b r

def Mem.byte (m : Mem) (a : Nat) : Byte := cellAt a m.bytes
def Mem.setByte (m : Mem) (a : Nat) (b : Byte) : Mem := { m with bytes := setCell a b m.bytes }

/-- Whether addresses rise strictly from a bound and no byte listed is zero. -/
def cellsFrom (lo : Nat) : List Host.Cell → Bool
  | [] => true
  | c :: r => lo ≤ c.1 && c.2 != 0 && cellsFrom (c.1 + 1) r

/-- Whether word numbers rise strictly from a bound. -/
def risingFrom (lo : Nat) : List Nat → Bool
  | [] => true
  | n :: r => lo ≤ n && risingFrom (n + 1) r

/-- The canonical form of a memory. -/
def Mem.wf (m : Mem) : Bool := cellsFrom 0 m.bytes && risingFrom 0 m.poison

/-- Sets or clears the poison bit of a word (R209). -/
def Mem.setPoison (m : Mem) (w : Nat) (p : Bool) : Mem :=
  { m with poison := if p then insertUp w m.poison else remove w m.poison }

/-- A word and its poison bit, little-endian (R4, R209). -/
def Mem.word (m : Mem) (w : Nat) : LV :=
  ⟨wordOfBytes (m.byte (4*w)) (m.byte (4*w+1)) (m.byte (4*w+2)) (m.byte (4*w+3)), m.poison.contains w⟩

/-- Byte k of a word. -/
def byteOf (x : Word) (k : Nat) : Byte := x.extractLsb' (8*k) 8

/-- Writes the bytes of a word that a mask names; a whole-word write decides the poison bit (R209). -/
def Mem.write (m : Mem) (d : DWrite) : Mem :=
  let b := (upTo 4).foldl (fun m k => if d.mask.getLsbD k then m.setByte (4*d.word+k) (byteOf d.lv.v k) else m) m
  if d.whole then b.setPoison d.word d.lv.p else b

/-- A write of a whole word with its poison bit. -/
def wholeWrite (w : Nat) (x : LV) : DWrite := ⟨w, x, 15, true, false⟩

/-- The word after a write. -/
def mergeWord (x : LV) (d : DWrite) : LV :=
  let b (k : Nat) : Byte := if d.mask.getLsbD k then byteOf d.lv.v k else byteOf x.v k
  ⟨wordOfBytes (b 0) (b 1) (b 2) (b 3), if d.whole then d.lv.p else x.p⟩

def Mem.dword (m : Mem) (a : Nat) : Dword := joinWords (m.word (a / 4)).v (m.word (a / 4 + 1)).v

/-- Writes a doubleword at a multiple of 4, poison bits clear. -/
def Mem.setDword (m : Mem) (a : Nat) (x : Dword) : Mem :=
  (m.write (wholeWrite (a / 4) ⟨loWord x, false⟩)).write (wholeWrite (a / 4 + 1) ⟨hiWord x, false⟩)

/-- Removes everything in a range of words. -/
def Mem.clear (m : Mem) (w n : Nat) : Mem :=
  ⟨m.bytes.filter fun c => !(4*w ≤ c.1 && c.1 < 4*(w+n)), m.poison.filter fun k => !(w ≤ k && k < w + n)⟩

/-! ### Installed memory and translation -/

/-- HBM4E bytes of an island (00; R210). -/
def Island.bytes (x : Island) : Nat := if x.granary then Config.granaryHbmBytes else Config.computeHbmBytes

/-- Whether an island-physical byte range is installed on the core's own side: an island's HBM, or a reeve's
memory, whose size the manual does not give (assumption 13, DESIGN CHOICE). -/
def State.installed (s : State) (r : CoreRef) (a n : Nat) : Bool :=
  match r.site with
  | some site => match s.island? site with
    | some x => a + n ≤ x.bytes
    | none => false
  | none => a + n ≤ Config.windowBase

/-- A valid table entry's frame (R222). -/
def tableOf (bytes : Nat) (e : Dword) : Option Nat :=
  let f := (e >>> 20).toNat
  if e.getLsbD 0 && e.extractLsb' 1 19 == 0 && (f + 1) * 65536 ≤ bytes then some f else none

/-- A valid leaf (R222). -/
def leafOf (bytes : Nat) (ctx page : Nat) (large : Bool) (e : Dword) : Option TlbEntry :=
  let f := (e >>> 20).toNat
  let size := if large then 8192 else 1
  if e.getLsbD 0 && e.getLsbD 1 && e.extractLsb' 8 12 == 0 && f % size == 0 && (f + size) * 65536 ≤ bytes then
    some ⟨ctx, page, large, f, e.getLsbD 7, e.getLsbD 6, e.getLsbD 5, e.getLsbD 4, e.getLsbD 3, e.getLsbD 2⟩
  else none

/-- The page number of an address: bits 54..16, or 54..29 for a 512 MiB page (R221). -/
def pageNo (large : Bool) (va : Dword) : Nat := va.toNat % 2^55 / (if large then 2^29 else 2^16)

/-- A table walk at I (R221, R222). A page-table word whose poison bit is set is read as its value (assumption 119, DESIGN
CHOICE). -/
def walk (m : Mem) (bytes root ctx : Nat) (va : Dword) : Option TlbEntry :=
  let a := va.toNat % 2^55
  match tableOf bytes (m.dword (root * 65536 + a / 2^42 * 8)) with
  | none => none
  | some t2 =>
    let e2 := m.dword (t2 * 65536 + a / 2^29 % 8192 * 8)
    match leafOf bytes ctx (pageNo true va) true e2 with
    | some l => some l
    | none =>
      match tableOf bytes e2 with
      | none => none
      | some t3 => leafOf bytes ctx (pageNo false va) false (m.dword (t3 * 65536 + a / 2^16 % 8192 * 8))

/-- The physical address a leaf gives (R221). -/
def TlbEntry.phys (e : TlbEntry) (va : Dword) : Nat :=
  e.frame * 65536 + va.toNat % (if e.large then 2^29 else 2^16)

/-- The TLB entry for an address of a context (R223). -/
def tlbFind (t : List TlbEntry) (ctx : Nat) (va : Dword) : Option TlbEntry :=
  t.find? fun e => e.ctx == ctx && e.page == pageNo e.large va

/-- The refusal cause of an access that a leaf does not permit (R222, R224). The permission that R246 asks of CCTL's page is
taken as R (assumption 31, DESIGN CHOICE). -/
def TlbEntry.denies (e : TlbEntry) (pl : Level) (a : Access) : Option Cause :=
  let noU := pl == .u && !e.u
  match a with
  | .read | .control => if !e.r || noU then some .pageRead else none
  | .write => if !e.w || noU then some .pageWrite else none
  | .atomic => if !e.w || noU then some .pageWrite else if !e.r then some .pageRead else none
  | .fetch => if !e.x || noU then some .pageExec else none

/-- A core with every TLB that serves it: its own, its cluster's and its die's. A hit in any of them parks nothing, and fills none
(R223, R224) (assumption 9, DESIGN CHOICE). -/
def State.withTlbs (s : State) (r : CoreRef) : Core :=
  let c := s.core r
  match r.site.bind s.island? with
  | none => c
  | some x => { c with tlb := c.tlb ++ lookupD r.cluster [] x.clusterTlb ++ lookupD r.die [] x.dieTlb }

/-- What translation gives an access (R224). -/
inductive Tr where
  | ok (pa : Nat) (cp : Bool)
  | miss
  | denied (c : Cause)
  | quarantined
  deriving DecidableEq, Repr

/-- Bits 63..55 equal bit 54 (R205). -/
def canonical (va : Dword) : Bool :=
  va.extractLsb' 54 10 == 0 || va.extractLsb' 54 10 == BitVec.allOnes 10

/-- Translates a global access of a gang; M level is untranslated (R222). -/
def translate (c : Core) (ctx : Option Nat) (pl : Level) (a : Access) (va : Dword) : Tr :=
  match ctx with
  | none => .ok va.toNat false
  | some k =>
    match tlbFind c.tlb k va with
    | none => .miss
    | some e =>
      if e.q then .quarantined
      else match e.denies pl a with
        | some x => .denied x
        | none => .ok (e.phys va) e.cp

/-- A translation made by a walk, for accesses that no TLB serves: the Cellar, the poison-origin log, the
command processor and remote targets (R156, R332, R379). -/
def Island.walkTo (x : Island) (ctx : Nat) (pl : Level) (a : Access) (va : Dword) : Tr :=
  match x.ctx? ctx with
  | none => .denied .pageNotPresent
  | some k =>
    match walk x.mem x.bytes k.root ctx va with
    | none => .denied .pageNotPresent
    | some e =>
      if e.q then .quarantined
      else match e.denies pl a with
        | some z => .denied z
        | none => .ok (e.phys va) e.cp

/-! ### Monitors (R201) -/

/-- Sets the trigger of a monitor on a line. -/
def Flow.trigger (sp : Space) (line : Nat) (f : Flow) : Flow :=
  match f.mon with
  | some m => if m.space == sp && m.line == line && !m.restored then { f with mon := some { m with trigger := true } } else f
  | none => f

def Gang.trigger (sp : Space) (line : Nat) (g : Gang) : Gang :=
  let up (b : Body) : Body := { b with flows := b.flows.map (Flow.trigger sp line) }
  { g with body := up g.body, hand := g.hand.map fun h => { h with body := up h.body } }

/-- A write to a word has taken effect: monitors of the gangs a test picks out see it. -/
def State.trigger (s : State) (onCore : CoreRef → Bool) (onGang : Gang → Bool) (sp : Space) (word : Nat) : State :=
  let f (c : Core) : Core := { c with gangs := modify onGang (Gang.trigger sp (word / 32)) c.gangs }
  { s with cores := modify (fun c => onCore c.ref) f s.cores }

/-! ### Levels C, D and I (R249 to R252) -/

/-- The levels of a global access (R249). -/
inductive Lvl where | c | d | i deriving DecidableEq, Repr

/-- Writes pending at a die's L2 (R252). -/
def Island.queue (x : Island) (die : Nat) : List DWrite := lookupD die [] x.l2

/-- A word as a read at D on a die sees it (R250). -/
def Island.readD (x : Island) (die w : Nat) : LV :=
  (x.queue die).foldl (fun a d => if d.word == w then mergeWord a d else a) (x.mem.word w)

/-- Sets a line's retention in L3: ahead of other lines, or the lowest (R212, R246). -/
def Island.setRetain (x : Island) (line : Nat) (ahead : Bool) : Island := { x with retain := setAt line ahead x.retain }

/-- The dirty line that L3 writes back when it is full: the one dirty longest among those of the lowest retention there are
(R210, R212) (assumption 9, DESIGN CHOICE). -/
def Island.oldest3 (x : Island) : Option Nat :=
  let old := x.l3.reverse
  let kept (n : Nat) : Option Bool := (x.retain.find? fun p => p.1 == n).map fun p => p.2
  (old.find? fun n => kept n == some false) <|> (old.find? fun n => kept n == none) <|> old.head?

/-- Makes a line dirty in L3, which writes another one back when it is full (R210). -/
def Island.dirty3 (x : Island) (n : Nat) : Island :=
  if x.l3.contains n then x
  else if x.l3.length < Config.l3Lines then { x with l3 := n :: x.l3 }
  else match x.oldest3 with
    | some v => { x with l3 := n :: remove v x.l3, retain := x.retain.filter fun p => p.1 != v }
    | none => x

/-- Performs a write at I on an island and lets monitors see it (R201, R252). -/
def State.performI (s : State) (site : Nat) (d : DWrite) : State :=
  (s.modIsland site fun x => { x.dirty3 (d.word / 32) with mem := x.mem.write d }).trigger (fun r => r.site == some site)
    (fun _ => true) .global d.word

/-- Performs the n oldest writes of a die at I, in order (R252). -/
def State.drainDie (s : State) (site die : Nat) : Nat → State
  | 0 => s
  | n + 1 =>
    match (s.island? site).bind fun x => (x.queue die).head? with
    | none => s
    | some d =>
      State.drainDie ((s.performI site d).modIsland site fun x => { x with l2 := setAt die ((x.queue die).drop 1) x.l2 })
        site die n

/-- Writes of a queue up to the last one to a line. -/
def upToLine (line : Nat) (q : List DWrite) : Nat :=
  q.length - (q.reverse.takeWhile fun d => d.word / 32 != line).length

/-- The first n writes of a queue with those that are performed together with them. -/
def withTied (n : Nat) (q : List DWrite) : Nat := if n == 0 then 0 else n + ((q.drop (n - 1)).takeWhile fun d => d.tie).length

/-- Ties the last n writes of a queue: they are performed at I together. -/
def tieLast (n : Nat) (q : List DWrite) : List DWrite :=
  q.mapIdx fun k d => if q.length ≤ k + n && k + 1 < q.length then { d with tie := true } else d

/-- Performs a die's writes at I up to the last to a line (R251), in their order, other cores' too
(assumption 99, DESIGN CHOICE). -/
def State.drainLine (s : State) (site die line : Nat) : State :=
  match s.island? site with
  | none => s
  | some x => s.drainDie site die (withTied (upToLine line (x.queue die)) (x.queue die))

/-- How many of the oldest writes, given by their lines, leave L2 so that the lines of the others and some new ones fit in it. -/
def oldestOver (new : List Nat) : List Nat → Nat
  | [] => 0
  | l :: r => if ((l :: r) ++ new).eraseDups.length ≤ Config.l2Lines then 0 else oldestOver new r + 1

/-- How many of a die's oldest writes are performed at I to make room in its L2 for more lines (R210, R252): none where the writes
are no more than the lines that it holds. -/
def Island.overD (x : Island) (die : Nat) (lines : List Nat) : Nat :=
  if (x.queue die).length + lines.length ≤ Config.l2Lines then 0
  else oldestOver lines ((x.queue die).map fun d => d.word / 32)

/-- Makes room in a die's L2 for writes to some lines: the writes that it has held longest are performed at I (R210, R252)
(assumption 9, DESIGN CHOICE). -/
def State.roomD (s : State) (site die : Nat) (lines : List Nat) : State :=
  match s.island? site with
  | none => s
  | some x => s.drainDie site die (withTied (x.overD die lines) (x.queue die))

/-- Performs writes at D, in order (R252). -/
def State.pushD (s : State) (site die : Nat) (ws : List DWrite) : State :=
  (s.roomD site die (ws.map fun d => d.word / 32)).modIsland site fun x => { x with l2 := setAt die (x.queue die ++ ws) x.l2 }

/-- The dirty words of a sector as writes that go on together. -/
def Sector.dirtyWrites (t : Sector) : List DWrite :=
  let l := (t.words.mapIdx fun k w => (⟨t.idx * 8 + k, w.lv, w.dirty, w.whole, false⟩ : DWrite)).filter fun d => d.mask != 0
  tieLast l.length l

def Sector.clean (t : Sector) : Sector := { t with words := t.words.map fun w => { w with dirty := 0, whole := false } }

/-- Writes the dirty data of the sectors a test picks out onward to D (R252). -/
def State.flushL1 (s : State) (r : CoreRef) (p : Sector → Bool) : State :=
  match r.site with
  | none => s
  | some site =>
    let ws := ((s.core r).l1.filter p).flatMap Sector.dirtyWrites
    let s1 := if ws.isEmpty then s else s.pushD site r.die ws
    s1.modCore r fun c => { c with l1 := modify p Sector.clean c.l1 }

/-- Discards the sectors a test picks out. -/
def State.dropL1 (s : State) (r : CoreRef) (p : Sector → Bool) : State :=
  s.modCore r fun c => { c with l1 := c.l1.filter fun t => !p t }

/-- An access at D or I first writes the core's dirty sectors of the line onward and discards the line
(R251). -/
def State.leaveLine (s : State) (r : CoreRef) (line : Nat) : State :=
  if (s.core r).l1.any fun t => t.idx / 4 == line then
    (s.flushL1 r fun t => t.idx / 4 == line).dropL1 r fun t => t.idx / 4 == line
  else s

/-- Lines of L1: the ways that the carve leaves, 128 KiB each (R213). -/
def Core.l1Lines (c : Core) : Nat := 1024 * (4 - c.carve)

/-- Makes room in L1 for a line: when no line is free, the first of its order, but for lines to be kept, is written onward and
discarded; the order is that in which the lines came, those of the lowest retention before the others (R210, R212)
(assumption 9, DESIGN CHOICE). -/
def State.makeRoom (s : State) (r : CoreRef) (keep : List Nat) (line : Nat) : State :=
  let c := s.core r
  let held := (c.l1.map fun t => t.idx / 4).eraseDups
  if held.contains line || held.length < c.l1Lines then s
  else match held.find? fun n => !keep.contains n with
    | some old => s.leaveLine r old
    | none => s

/-- Fills the sector of a word from D, driving out none of some lines (R250) (assumption 9, DESIGN CHOICE). -/
def State.fill (s : State) (r : CoreRef) (w : Nat) (keep : List Nat := []) : State :=
  if (s.core r).l1.any fun t => t.idx == w / 8 then s
  else
    let s1 := s.makeRoom r keep (w / 32)
    match r.site.bind s1.island? with
    | none => s
    | some x =>
      let ws := (upTo 8).map fun k => (⟨x.readD r.die (w / 8 * 8 + k), 0, false⟩ : CWord)
      s1.modCore r fun c => { c with l1 := c.l1 ++ [⟨w / 8, ws⟩] }

/-- Fills the sectors of some words, no more lines than a gang has lanes: none drives out another, so all of them are in L1 at
the end. -/
def State.fillAll (s : State) (r : CoreRef) (ws : List Nat) : State :=
  ws.foldl (fun s w => s.fill r w (ws.map fun k => k / 32)) s

/-- What the policy of an access says of a line that it has used: a streamed line that it brought into L1 is the first to leave,
L3 gives it the lowest retention or holds it ahead of others; CP = 1 leaves of this the holding ahead (R212). -/
def State.retention (s start : State) (r : CoreRef) (pol : Policy) (cp : Bool) (line : Nat) : State :=
  let mine (t : Sector) : Bool := t.idx / 4 == line
  match pol, cp, r.site with
  | .stream, false, some site =>
    let s1 := if (start.core r).l1.any mine then s
      else s.modCore r fun c => { c with l1 := c.l1.filter mine ++ c.l1.filter fun t => !mine t }
    s1.modIsland site fun x => x.setRetain line false
  | .keepL3, _, some site => s.modIsland site fun x => x.setRetain line true
  | _, _, _ => s

/-- A word as the core's L1 holds it. -/
def Core.l1Word (c : Core) (w : Nat) : LV :=
  match c.l1.find? fun t => t.idx == w / 8 with
  | some t => (t.words.getD (w % 8) ⟨⟨0, false⟩, 0, false⟩).lv
  | none => ⟨0, false⟩

/-- A word at I, seen from a core: its island's memory, or a reeve's. -/
def State.wordI (s : State) (r : CoreRef) (w : Nat) : LV :=
  match r with
  | .reeve n => match s.reeve? n with
    | some v => v.mem.word w
    | none => ⟨0, false⟩
  | _ => match r.site.bind s.island? with
    | some x => x.mem.word w
    | none => ⟨0, false⟩

/-- Performs a write at I, seen from a core. -/
def State.writeI (s : State) (r : CoreRef) (d : DWrite) : State :=
  match r with
  | .reeve n => (s.modReeve n fun v => { v with mem := v.mem.write d }).trigger (fun q => q == r) (fun _ => true) .global d.word
  | _ => match r.site with
    | some site => s.performI site d
    | none => s

/-- Reads a global word at a level (R249, R250). Steward and reeve cores read at I (assumption 14, DEDUCED). -/
def State.readG (s : State) (r : CoreRef) (l : Lvl) (w : Nat) : LV × State :=
  if !r.isCompute then (s.wordI r w, s)
  else match l with
    | .c => let s1 := s.fill r w; ((s1.core r).l1Word w, s1)
    | .d =>
      let s1 := s.leaveLine r (w / 32)
      (((r.site.bind s1.island?).map fun x => x.readD r.die w).getD ⟨0, false⟩, s1)
    | .i =>
      let s1 := (s.leaveLine r (w / 32)).drainLine (r.site.getD 0) r.die (w / 32)
      (s1.wordI r w, s1)

/-- Makes a word of L1 dirty with a write. -/
def Core.writeL1 (c : Core) (d : DWrite) : Core :=
  let f (w : CWord) : CWord := ⟨mergeWord w.lv d, w.dirty ||| d.mask, w.whole || d.whole⟩
  let g (t : Sector) : Sector := { t with words := modNth f t.words (d.word % 8) }
  { c with l1 := modify (fun t => t.idx == d.word / 8) g c.l1 }

/-- Performs a global write first at a level (R249). -/
def State.writeG (s : State) (r : CoreRef) (l : Lvl) (d : DWrite) : State :=
  if !r.isCompute then s.writeI r d
  else match l with
    | .c => (s.fill r d.word).modCore r fun c => c.writeL1 d
    | .d =>
      let s1 := s.leaveLine r (d.word / 32)
      match r.site with
      | none => s1
      | some site => s1.pushD site r.die [d]
    | .i => ((s.leaveLine r (d.word / 32)).drainLine (r.site.getD 0) r.die (d.word / 32)).writeI r d

/-- The level of a scope (R249). -/
def scopeLvl : Scope → Lvl
  | .gang | .group => .c
  | .die => .d
  | .island | .panel => .i

/-- A release: earlier writes reach the level of the scope (R253, R211). -/
def State.release (s : State) (r : CoreRef) (l : Lvl) : State :=
  if !r.isCompute then s
  else match l with
    | .c => s
    | .d => s.flushL1 r fun _ => true
    | .i =>
      let s1 := s.flushL1 r fun _ => true
      match r.site.bind s1.island? with
      | none => s1
      | some x => s1.drainDie (r.site.getD 0) r.die (x.queue r.die).length

/-- An acquire: at die scope or wider the core's L1 is written onward and its clean lines are discarded
(R236, R253; assumption 15, DEDUCED). -/
def State.acquire (s : State) (r : CoreRef) (l : Lvl) : State :=
  if !r.isCompute || l == .c then s else (s.flushL1 r fun _ => true).dropL1 r fun _ => true

/-! ### Spaces (R205) -/

/-- Whose memory an agent's accesses reach: core, workgroup, context. -/
structure Who where
  core : CoreRef
  wg : Nat
  ctx : Option Nat
  deriving DecidableEq, Repr

/-- A word in one of the spaces; a global word is physical, with the level of the access. -/
inductive Loc where
  | global (l : Lvl) (w : Nat)
  | scratch (w : Nat)
  | commons (w : Nat)
  deriving DecidableEq, Repr

/-- The space and word number of a location. -/
def Loc.key : Loc → Space × Nat
  | .global _ w => (.global, w)
  | .scratch w => (.scratch, w)
  | .commons w => (.commons, w)

def Who.site (x : Who) : Nat := x.core.site.getD 0

/-- The Commons of the agent's context (R207). -/
def State.commonsOf (s : State) (x : Who) : Mem :=
  match x.ctx.bind fun c => s.ctxAt? x.site c with
  | some k => k.commons
  | none => .empty

/-- The Commons quota of the agent's context in bytes (R205). -/
def State.quotaOf (s : State) (x : Who) : Nat :=
  match x.ctx.bind fun c => s.ctxAt? x.site c with
  | some k => k.quota
  | none => 0

/-- Reads a word of a space. -/
def State.readLoc (s : State) (x : Who) : Loc → LV × State
  | .global l w => s.readG x.core l w
  | .scratch w => (((s.core x.core).wg x.wg).scratch.word w, s)
  | .commons w => ((s.commonsOf x).word w, s)

/-- Writes a word of a space. -/
def State.writeLoc (s : State) (x : Who) (l : Loc) (lv : LV) (mask : BitVec 4) (whole : Bool) : State :=
  match l with
  | .global l w => s.writeG x.core l ⟨w, lv, mask, whole, false⟩
  | .scratch w =>
    (s.modWg x.core x.wg fun g => { g with scratch := g.scratch.write ⟨w, lv, mask, whole, false⟩ }).trigger
      (fun r => r == x.core) (fun g => g.wg == x.wg) .scratch w
  | .commons w =>
    match x.ctx with
    | none => s
    | some c =>
      (s.modCtxAt x.site c fun k => { k with commons := k.commons.write ⟨w, lv, mask, whole, false⟩ }).trigger
        (fun r => r.site == x.core.site) (fun g => g.ctx == some c) .commons w

/-! ### The poison-origin log (R85, R88, R332, R333) -/

/-- A provenance word (R85). -/
def provWord (origin kind count : Nat) : Word :=
  0x7FE00000 ||| (BitVec.ofNat 13 origin).setWidth 32 <<< 8 ||| (BitVec.ofNat 4 kind).setWidth 32 <<< 4 |||
    (BitVec.ofNat 4 count).setWidth 32

def provKind (w : Word) : Nat := (w.extractLsb' 4 4).toNat
def provOrigin (w : Word) : Nat := (w.extractLsb' 8 13).toNat
def provCount (w : Word) : Nat := (w.extractLsb' 0 4).toNat

/-- Kinds 6, 7 and 9 are transient (R86). -/
def transientKind (k : Nat) : Bool := k == 6 || k == 7 || k == 9

/-- A poisoned memory word as provenance (R230). -/
def forceProv (w : Word) : Word := (w &&& 0x001FFFFF) ||| 0x7FE00000

/-- A word read into a register or an operation, provenance where its poison bit is set (R85, R230). -/
def LV.asProv (x : LV) : LV := if x.p then ⟨forceProv x.v, true⟩ else x

/-- merge() over sources in order, none when no source is poisoned (R87). -/
def merge (l : List LV) : Option Word :=
  match l.filter fun x => x.p with
  | [] => none
  | f :: r => some ((f.v &&& ~~~(15 : Word)) ||| BitVec.ofNat 32 (min 15 (provCount f.v + r.length)))

/-- dw2 of a POL entry (R332, R427): RPL 0 (assumption 54, DESIGN CHOICE). -/
def polDw2 (ch : Charge) (kind : Nat) (fwd : Option (Nat × Nat)) : Dword :=
  let f (v lo : Nat) : Dword := BitVec.ofNat 64 (v * 2^lo)
  let n := ch.core.isSome
  (match fwd with | some (site, org) => f 1 63 ||| f (site % 64) 57 ||| f (org % 8192) 44 | none => 0) |||
  f (ch.site % 64) 38 ||| f (if n then (ch.core.map CoreRef.die).getD 0 else 0) 37 |||
  f (if n then (ch.core.map CoreRef.pos).getD 0 else 0) 31 ||| f (if n then ch.slot % 32 else 0) 26 |||
  f (if n then ch.lane % 32 else 0) 21 ||| f (kind % 16) 0

/-- The island clock of a site (R204). -/
def State.clockAt (s : State) (site : Nat) : Dword :=
  match s.island? site with
  | some x => if x.clockOn then x.clock else 0
  | none => 0

/-- Writes a doubleword of the log at I: translated with S-level write permission for a context, untranslated
at M level; none when the write fails (R332, R428). At M level a write outside installed memory fails, and its entry is lost; a
doubleword whose address is no multiple of 4 lies at the words that hold the address rounded down (assumption 100, DESIGN
CHOICE). -/
def State.polStore (s : State) (ch : Charge) (va x : Dword) : Option State :=
  match ch.ctx with
  | none =>
    match ch.core with
    | none => none
    | some r =>
      if s.installed r va.toNat 8 then
        some ((s.writeI r (wholeWrite (va.toNat / 4) ⟨loWord x, false⟩)).writeI r
          (wholeWrite (va.toNat / 4 + 1) ⟨hiWord x, false⟩))
      else none
  | some c =>
    match s.island? ch.site with
    | none => none
    | some isl =>
      if !canonical va then none
      else match isl.walkTo c .s .write va with
        | .ok pa _ => some ((s.performI ch.site (wholeWrite (pa / 4) ⟨loWord x, false⟩)).performI ch.site
            (wholeWrite (pa / 4 + 1) ⟨hiWord x, false⟩))
        | _ => none

/-- Reads a doubleword of the log at I, with the permission of an access at S level; none when the read fails. The device's own
accesses ask for a store's (R332). An address is rounded down to a word as for a write (assumption 100, DESIGN CHOICE). -/
def State.polLoad (s : State) (ch : Charge) (a : Access) (va : Dword) : Option Dword :=
  match ch.ctx with
  | none => ch.core.bind fun r =>
    if s.installed r va.toNat 8 then some (joinWords (s.wordI r (va.toNat / 4)).v (s.wordI r (va.toNat / 4 + 1)).v)
    else none
  | some c =>
    match s.island? ch.site with
    | none => none
    | some isl => if !canonical va then none else match isl.walkTo c .s a va with
      | .ok pa _ => some (isl.mem.dword pa)
      | _ => none

/-- Base, head and the mark of the current full period of the log a charge goes to (R332, R428). -/
def State.polRegs (s : State) (ch : Charge) : Dword × Nat × Bool :=
  match ch.ctx with
  | none => let c := s.core (ch.core.getD (.steward ch.site)); (c.pol, c.polhead, c.fullSeen)
  | some c => match s.ctxAt? ch.site c with
    | some k => (k.pol, k.polhead, k.fullSeen)
    | none => (0, 8191, true)

/-- Sets the head and the mark. -/
def State.setPolHead (s : State) (ch : Charge) (head : Nat) (seen : Bool) : State :=
  match ch.ctx with
  | none => s.modCore (ch.core.getD (.steward ch.site)) fun c => { c with polhead := head, fullSeen := seen }
  | some c => s.modCtxAt ch.site c fun k => { k with polhead := head, fullSeen := seen }

/-- Counts a lost entry and reports the count to the host (R332). -/
def State.losePol (s : State) (ch : Charge) : State :=
  match ch.ctx with
  | none => s
  | some c =>
    let t := s.modCtxAt ch.site c fun k => { k with lostPol := k.lostPol + 1 }
    t.report (some c) (.lostEntries (((t.ctxAt? ch.site c).map fun k => k.lostPol).getD 0))

/-- Writes the four doublewords of an entry, or counts it lost. -/
def State.polEntry (s : State) (ch : Charge) (e : Nat) (dws : List Dword) : State :=
  let a := (s.polRegs ch).1 + BitVec.ofNat 64 (32 * e)
  let r := dws.foldl (fun (p : Option State × Nat) x =>
    (p.1.bind fun t => t.polStore ch (a + BitVec.ofNat 64 (8 * p.2)) x, p.2 + 1)) (some s, 0)
  match r.1 with
  | some t => t
  | none => s.losePol ch

/-- new_origin with an arriving poison's sender (R88, R333, R334). -/
def State.newOriginFrom (s : State) (ch : Charge) (kind : Nat) (addr : Dword) (fwd : Option (Nat × Nat)) :
    Word × State :=
  let p := s.polRegs ch
  let dw2 := polDw2 ch kind fwd
  let time := s.clockAt ch.site
  if p.2.1 < 8191 then
    let s1 := s.polEntry ch p.2.1 [ch.pc, addr, dw2, time]
    (provWord p.2.1 kind 0, s1.setPolHead ch (p.2.1 + 1) (if p.2.1 + 1 == 8191 then false else p.2.2))
  else if !p.2.2 then
    (provWord 8191 kind 0, (s.polEntry ch 8191 [1, addr, dw2, time]).setPolHead ch 8191 true)
  else
    let a := p.1 + BitVec.ofNat 64 (32 * 8191)
    let n := (s.polLoad ch .write a).getD 0
    (provWord 8191 kind 0, s.polEntry ch 8191 [if n == BitVec.allOnes 64 then n else n + 1])

/-- new_origin(kind, pc, addr) (R88). -/
def State.newOrigin (s : State) (ch : Charge) (kind : Nat) (addr : Dword) : Word × State :=
  s.newOriginFrom ch kind addr none

/-- Adds 1 to RPL of an entry, saturating at 15 (R332, R339). -/
def State.chargeReplay (s : State) (ch : Charge) (origin : Nat) : State :=
  let a := (s.polRegs ch).1 + BitVec.ofNat 64 (32 * origin + 16)
  match s.polLoad ch .write a with
  | none => s
  | some x => if x.extractLsb' 17 4 == 15 then s else (s.polStore ch a (x + 0x20000)).getD s

/-! ### Reads that may meet an uncorrectable error (R231, R349) -/

/-- A row of the register pool or the window as it is read by number, in the lanes that a test picks out: an uncorrectable error
in a lane gives kind 3 in the value read, ADDR 0 (R349) (assumption 6, DESIGN CHOICE). -/
def State.poolRead (s : State) (ch : Nat → Charge) (c : Nat → Bool) (row : Lanes) : Lanes × State :=
  match takePhys (fun p => match p with | .storedUe l => c l | _ => false) s.phys with
  | some (.storedUe l, rest) =>
    let o := { s with phys := rest }.newOrigin (ch l) 3 0
    (setNth row l ⟨o.1, true⟩, o.2)
  | _ => (row, s)

/-- Words whose delivered copy a crossbar has poisoned for an instruction: later lanes get the same provenance (R231). -/
abbrev Seen := List ((Space × Nat) × LV)

/-- What a read at D or I does before it takes its value (R251). -/
def State.approach (s : State) (r : CoreRef) : Loc → State
  | .global .d w => if r.isCompute then s.leaveLine r (w / 32) else s
  | .global .i w => if r.isCompute then (s.leaveLine r (w / 32)).drainLine (r.site.getD 0) r.die (w / 32) else s
  | _ => s

/-- Whether a read takes its value from a line of the core's L1. -/
def State.inL1 (s : State) (r : CoreRef) : Loc → Bool
  | .global .c w => r.isCompute && (s.core r).l1.any fun t => t.idx == w / 8
  | _ => false

/-- Whether a read meets a write that stands at D and not at I. -/
def State.inL2 (s : State) (r : CoreRef) : Loc → Bool
  | .global .i _ => false
  | .global _ w => r.isCompute && (r.site.bind s.island?).any fun x => (x.queue r.die).any fun d => d.word == w
  | _ => false

/-- Whether the die's L2 holds the word's line dirty (R211). -/
def State.dirtyL2 (s : State) (r : CoreRef) : Loc → Bool
  | .global .i _ => false
  | .global _ w => r.isCompute && (r.site.bind s.island?).any fun x => (x.queue r.die).any fun d => d.word / 32 == w / 32
  | _ => false

/-- Whether L3 holds the word's line dirty. -/
def State.inL3 (s : State) (r : CoreRef) : Loc → Bool
  | .global _ w => (r.site.bind s.island?).any fun x => x.l3.contains (w / 32)
  | _ => false

/-- Whether the cache line that a read takes its value from is dirty (R211). -/
def State.dirtyAt (s : State) (r : CoreRef) (l : Loc) : Bool :=
  if s.inL1 r l then (s.core r).l1.any fun t => t.idx / 4 == l.key.2 / 32 && !t.dirtyWrites.isEmpty
  else s.dirtyL2 r l || s.inL3 r l

/-- Whether a read of a location may meet an error of a kind: 0, which is corrected (R349); 3 in scratch, or in HBM4E when no cache holds the word dirty;
5 in a cache line; 10 in a bank; 6 on a payload that crosses the crossbar (R216, R231). -/
def State.meetsUe (s : State) (r : CoreRef) (pay : Bool) (kind : Nat) (l : Loc) : Bool :=
  match l.key.1, kind with
  | _, 0 | .scratch, 3 | .commons, 10 | .global, 5 => true
  | .commons, 6 => pay
  | .global, 6 => pay && !s.inL1 r l
  | .global, 3 => !s.inL1 r l && !s.inL2 r l && !s.inL3 r l
  | _, _ => false

/-- Discards a clean line of L1 that is in error: it is fetched again (R211). -/
def State.refetch (s : State) (r : CoreRef) (l : Loc) : State :=
  if s.inL1 r l then s.dropL1 r fun t => t.idx / 4 == l.key.2 / 32 else s

/-- What stands before the read of some words by an instruction that began in another state: a clean line of L1 in error is
fetched again whole, so that no half of an access is older than the other (R211, R232), and a sector that the instruction itself
has filled is fetched again where a word of it meets an error on its way (R231). -/
def State.settleRead (s start : State) (r : CoreRef) (locs : List Loc) : State :=
  let again (s : State) (p : Phys) : State := match p with
    | .readUe k sp w => match locs.find? fun l => l.key == (sp, w) with
      | some l =>
        if !s.inL1 r l then s
        else if k == 5 && !s.dirtyAt r l then { s with phys := s.phys.erase p }.refetch r l
        else if (k == 3 || k == 6) && !start.inL1 r l then
          (s.flushL1 r fun t => t.idx == w / 8).dropL1 r fun t => t.idx == w / 8
        else s
      | none => s
    | _ => s
  s.phys.foldl again s

/-- Writes a provenance word into the word in error, at the level that holds it (R231). -/
def State.spoil (s : State) (x : Who) (l : Loc) (lv : LV) : State :=
  let d := wholeWrite l.key.2 lv
  match l with
  | .scratch _ => s.modWg x.core x.wg fun g => { g with scratch := g.scratch.write d }
  | .commons _ => match x.ctx with
    | some c => s.modCtxAt x.site c fun k => { k with commons := k.commons.write d }
    | none => s
  | .global _ w =>
    let bad (e : DWrite) : DWrite := if e.word == w then { d with tie := e.tie } else e
    if s.inL1 x.core l then s.modCore x.core fun c => c.writeL1 d
    else if s.inL2 x.core l then
      s.modIsland x.site fun y => { y with l2 := setAt x.core.die ((y.queue x.core.die).map bad) y.l2 }
    else if s.dirtyL2 x.core l then s.pushD x.site x.core.die [d]
    else match x.core with
      | .reeve n => s.modReeve n fun v => { v with mem := v.mem.write d }
      | _ => s.modIsland x.site fun y => { y with mem := y.mem.write d }

/-- Reads a word. An error to come on it creates poison charged to the reader: the word in error holds it from then on, but
for a payload, of which only the delivered copy is poisoned; a clean line is fetched again (R211, R216, R231). `pay`: the
word is delivered to the core, and not operated on where it stands. -/
def State.readUe (s : State) (x : Who) (ch : Charge) (l : Loc) (addr : Dword) (pay : Bool) (seen : Seen) :
    LV × State × Seen :=
  let plain (s : State) : LV × State × Seen := let r := s.readLoc x l; (r.1, r.2, seen)
  match if pay then seen.find? fun p => p.1 == l.key else none with
  | some p => (p.2, s, seen)
  | none =>
    let s0 := s.approach x.core l
    let hit (p : Phys) : Bool := match p with
      | .readUe k sp w => sp == l.key.1 && w == l.key.2 && s0.meetsUe x.core pay k l
      | _ => false
    match takePhys hit s.phys with
    | some (.readUe kind _ _, rest) =>
      let s1 := { s0 with phys := rest }
      if kind == 0 then plain (s1.modIsland x.site fun y => { y with corrected := y.corrected + 1 })
      else if kind == 5 && !s1.dirtyAt x.core l then plain (s1.refetch x.core l)
      else
        let o := s1.newOrigin ch kind addr
        let lv : LV := ⟨o.1, true⟩
        if kind == 6 then (lv, o.2, (l.key, lv) :: seen) else plain (o.2.spoil x l lv)
    | _ => plain s

end Sys2Proof.Machine
end

