-- ==== Sys2Proof/Machine/Ops.lean ====
section
/-! DEFINITION. The shared operations of every instruction: barriers and the end of a gang, taking a trap
and returning from it, replay, and the steps of R23 from operand checks to write-back (spec 01 R23 to
R27; 06 R144, R147; 08 R192 to R198; 15 R320 to R343). -/

namespace Sys2Proof

/-- QOCC, QRD and QWR name a queue in A without reading it (R148). -/
def Instr.namesQueue : Instr → Bool
  | .qocc .. | .qrd .. | .qwr .. => true
  | _ => false

/-- Whether an operand field is a source (R14, R34). -/
def Role.isSrc : Role → Bool
  | .src _ | .src16 => true
  | _ => false

/-- Sources that are read at step 4 (R23). -/
def Info.sources (n : Info) (i : Instr) : List (Opnd × Role) :=
  (if i.namesQueue then n.ops.take 1 else n.ops).filter fun p => p.2.isSrc

/-- The lowest level that may run an instruction (R17). -/
def Instr.level : Instr → Nat
  | .tret _ | .savedone _ => 1
  | .wfi _ | .halt _ => 3
  | _ => 0

/-- The instructions a dormant gang executes (R130), and REGANG in a dormant slice (R171). -/
def Instr.runsDormant (parted : Bool) : Instr → Bool
  | .ifI .. | .elseI .. | .endif .. | .loop .. | .endl .. | .breakI .. | .cont .. | .ret .. => true
  | .regang .. => parted
  | _ => false

/-- The class of a gang instruction (R41). -/
def Instr.cls (i : Instr) : Nat :=
  match encode i.core with
  | w :: _ => (w.extractLsb' 8 4).toNat
  | [] => 15

/-- Classes that rotated paired issue covers (R342). -/
def Instr.paired (i : Instr) : Bool := [0, 1, 2, 3, 4, 7, 8, 9, 10, 13].contains i.cls

/-- The commit points that close a region (R337). -/
def Instr.commits : Instr → Bool
  | .atom .. | .acas .. | .atoml .. | .acasl .. | .atomc .. | .acasc .. | .bankop .. | .bankred .. => true
  | .put .. | .putn .. | .get .. | .ratom .. | .rcas .. | .notify .. | .nwait .. | .nrd .. | .rfence .. | .rquiet .. => true
  | .cpy .. | .cpys .. | .seal .. | .wlput .. | .wltake .. | .wldone .. => true
  | .bar .. | .bara .. | .barw .. | .barinit .. | .mwait .. => true
  | .call .. | .calli .. | .ret .. | .unwind .. | .exit .. => true
  | .qdef .. | .qclr .. | .swr .. | .part .. => true
  | _ => false

/-- The instructions that reset the window (R144). -/
def Instr.resets : Instr → Bool
  | .bar .. | .barw .. | .mwait .. | .bwait .. | .cpwait .. | .nwait .. => true
  | i => i.cls == 5

/-- Bytes of an MMQ's B operand (R266). -/
def BFmt.extent : BFmt → Nat
  | .bf16 | .f16 | .e4m3 | .e5m2 => 1024
  | .mxe4m3 | .mxe5m2 => 1056
  | .mxe2m1 => 1088
  | .qc => 288

/-- The instruction that reads its caller's frame again when it is granted one: CALLI, for its target (R137, R138). -/
def Instr.readsAgain : Instr → Bool
  | .calli .. => true
  | _ => false

/-- MXENC and MXDEC, which read A in every lane of a quarter (R125, R128). -/
def Instr.readsQuarter : Instr → Bool
  | .mxenc .. | .mxdec .. => true
  | _ => false

/-- RET, which resets the window in a dormant gang too (R139). -/
def Instr.isRet : Instr → Bool
  | .ret _ => true
  | _ => false

/-- The destination field (R32). -/
def Info.dest (n : Info) : Opnd :=
  match n.ops.find? fun p => p.2.isDst with
  | some p => p.1
  | none => .z

end Sys2Proof

namespace Sys2Proof.Machine

/-! ### Barriers (R192, R195, R196, R318) -/

def Wg.barrier (w : Wg) (b : Nat) : Barrier := w.barriers.getD b ⟨0, 0, false, 0⟩
def Wg.modBarrier (w : Wg) (b : Nat) (f : Barrier → Barrier) : Wg := { w with barriers := modNth f w.barriers b }

/-- The lowest lane of a flow's xm. -/
def Flow.lowXm (f : Flow) : Nat := ((upTo 32).find? fun i => bitOf f.xm i).getD 0

/-- The barrier and phase that a flow's barrier wait names. -/
def Flow.barWait (f : Flow) : Option (Nat × Word) :=
  match f.run with
  | .wait (.bar b t _) _ => some (b, t)
  | .wait (.barw b t) _ => some (b, t)
  | _ => none

/-- Whether a gang waits on a barrier for a phase to end. A waiter that a release has made ready no longer waits. -/
def Gang.waitsOn (g : Gang) (b : Nat) (phase : Word) : Bool := g.act.flows.any fun f => f.barWait == some (b, phase)

/-- SLW of a core's die (R318). -/
def State.slw (s : State) (r : CoreRef) : Nat :=
  match r.site.bind s.island? with
  | some x => lookupD r.die 0 x.slw
  | none => 0

/-- A stall cause met in this cycle (R319). -/
def State.note (s : State) (r : CoreRef) (n : Nat) : State :=
  s.modCore r fun c => { c with noted := if c.noted.contains n then c.noted else n :: c.noted }

/-- Advances the phase of a barrier; the Sluice delays its waiters in ascending gix (R192, R197, R318). -/
def State.releaseBar (s : State) (r : CoreRef) (wg b : Nat) : State :=
  let c := s.core r
  let waits (g : Gang) : Bool := g.wg == wg && g.waitsOn b ((c.wg wg).barrier b).phase
  let gixs := (c.gangs.filter waits).map fun g => g.gix
  let delay (g : Gang) : Nat := (gixs.countP fun k => k < g.gix) * s.slw r / max 1 gixs.length
  let upd (g : Gang) : Gang :=
    if waits g && delay g != 0 then
      g.modAct fun y => { y with flows := y.flows.map fun f => { f with due := some (c.cycle + delay g) } }
    else g
  let adv (z : Barrier) : Barrier := { z with arr := 0, phase := z.phase + 1 }
  (s.modWg r wg fun w => w.modBarrier b adv).modCore r fun c => { c with gangs := c.gangs.map upd }

/-- A normal end: the gang leaves MBR and ARR of every barrier, and barriers that are then complete release
(R195). -/
def State.leaveBars (s : State) (r : CoreRef) (wg gix : Nat) : State :=
  let n := ((s.core r).wg wg).barriers.length
  (upTo n).foldl (fun s b =>
    let s1 := s.modWg r wg fun w => w.modBarrier b fun z => { z with mbr := z.mbr &&& ~~~oneBit gix, arr := z.arr &&& ~~~oneBit gix }
    let z := ((s1.core r).wg wg).barrier b
    if z.mbr != 0 && z.arr == z.mbr then s1.releaseBar r wg b else s1) s

/-- The causes of a failed Cellar access (R156). -/
def Cause.isCellar : Cause → Bool
  | .noncanonical | .pageQuarantined | .pageNotPresent | .pageWrite | .pageRead => true
  | _ => false

/-- Whether a new request takes the place of one that stands: of two traps that slices raise, the lower-numbered slice's;
the other slice raises its trap again (R174). -/
def TrapReq.yields (old new : TrapReq) : Bool := !old.pended && !new.pended && new.flow < old.flow

/-- Adds a request for a handler frame (R159, R174). -/
def State.requestHandler (s : State) (r : CoreRef) (slot : Nat) (q : TrapReq) : State :=
  let ask (g : Gang) : Gang :=
    { g with trapReq := match g.trapReq with | some old => if old.yields q then some q else some old | none => some q }
  (s.modGang r slot ask).modCore r fun c =>
    { c with
      handReqs := if c.handReqs.contains slot then c.handReqs else c.handReqs ++ [slot]
      waiters := c.waiters.filter fun p => p.1 != slot
      copyWaits := c.copyWaits.filter fun p => !(p.2.slot == slot && p.2.slice == q.flow)
      remoteWaits := c.remoteWaits.filter fun a => !(a.slot == slot && a.slice == q.flow) }

/-- The kind of handler a trap at a level enters (R323, R326). -/
def Level.handler : Level → HandlerKind
  | .m => .machine
  | _ => .context

/-! ### B reads (R257, R266, R270) -/

/-- The words of a shape-table slot as they are read (R349). -/
def State.slotRead (s : State) (ch : Charge) (c : Nat → Bool) (slot : Lanes) : Lanes × State :=
  match takePhys (fun p => match p with | .slotUe w => c w && w < slot.length | _ => false) s.phys with
  | some (.slotUe w, rest) =>
    let o := { s with phys := rest }.newOrigin ch 3 0
    (setNth slot w ⟨o.1, true⟩, o.2)
  | _ => (slot, s)

/-- The words of an MMQ's B operand and of the slot, read when its pass starts: the newest write of each word, a
poisoned one in the provenance form (R85, R257, R266, R269, R270) (assumption 97, DESIGN CHOICE). -/
def State.readB (s : State) (r : CoreRef) (op : TileOp) : (Lanes × Lanes) × State :=
  match op.act with
  | .mmq _ bf commons b0 _ =>
    let who : Who := ⟨r, op.wg, op.charge.ctx⟩
    let q := (upTo (bf.extent / 4)).foldl (fun (p : Lanes × State × Seen) k =>
      let w := b0 / 4 + k
      let a := p.2.1.readUe who op.charge (if commons then .commons w else .scratch w) (BitVec.ofNat 64 (4 * w)) true p.2.2
      (p.1 ++ [a.1.asProv], a.2.1, a.2.2)) ([], s, [])
    if bf == .qc then
      let c := q.2.1.slotRead op.charge (fun _ => true) ((((s.core r).wg op.wg).cb).getD [])
      ((q.1, c.1), c.2)
    else ((q.1, (((s.core r).wg op.wg).cb).getD []), q.2.1)
  | _ => (([], []), s)

/-- Whether an operation is an MMQ's whose B is still to be read. -/
def TileOp.unread (t : TileOp) : Bool :=
  match t.act with
  | .mmq .. => t.b.isNone
  | _ => false

/-- Reads B for the operations of the waiting passes that a test picks out, once a pass. -/
def State.readRest (s : State) (r : CoreRef) (p : TileOp → Bool) : State :=
  (s.core r).passes.foldl (fun s q =>
    let mine (t : TileOp) : Bool := q.ops.contains t.id && t.unread && p t
    match (s.core r).tops.find? mine with
    | none => s
    | some op =>
      let b := s.readB r op
      b.2.modCore r fun c => { c with tops := modify mine (fun t => { t with b := some b.1 }) c.tops }) s

/-! ### The end of a gang (R142, R163, R297, R327) -/

/-- Removes a gang from the waiters on work lists (R300, R325). -/
def State.leaveTakers (s : State) (r : CoreRef) (slot : Nat) : State :=
  match r.site with
  | none => s
  | some site => s.modIsland site fun x => { x with ctxs := x.ctxs.map fun k =>
      { k with takers := k.takers.filter fun a => !(a.2.core == r && a.2.slot == slot) } }

/-- Frees a gang's slot and everything that names it as a waiter (R163). -/
def State.freeSlot (s : State) (r : CoreRef) (slot : Nat) : State :=
  (s.modCore r fun c => { c with
    gangs := c.gangs.filter fun g => g.slot != slot
    waiters := c.waiters.filter fun p => p.1 != slot
    handReqs := remove slot c.handReqs
    copyWaits := c.copyWaits.filter fun p => p.2.slot != slot
    remoteWaits := c.remoteWaits.filter fun a => a.slot != slot }).leaveTakers r slot

/-- The gangs of a workgroup that are live and saved (R363). -/
def Wg.savedMask (w : Wg) : Word := maskBy fun k => w.saved.any fun g => g.gix == k

/-- After a gang has ended or been saved: a workgroup whose last gang has ended is freed and its grid counts
it; one whose live gangs are all saved goes to the dispatcher (R163, R363). -/
def State.settleWg (s : State) (r : CoreRef) (id : Nat) : State :=
  match (s.core r).wg? id with
  | none => s
  | some w =>
    let drop (s : State) : State := s.modCore r fun c =>
      { c with wgs := c.wgs.filter fun v => v.id != id, tops := c.tops.filter fun t => t.wg != id }
    if w.live == 0 then
      match w.grid, r.site with
      | some n, some site => (drop s).modIsland site fun x => x.modGrid n fun g => { g with remaining := g.remaining - 1 }
      | _, _ => drop s
    else if w.live &&& ~~~w.savedMask == 0 then
      match w.grid, r.site with
      | some n, some site => (drop s).modIsland site fun x =>
          { x with savedWgs := x.savedWgs ++ [(r, n, ⟨w.wgx.toNat, some (w.saved, w.chanQ, w.chanW, w.live)⟩)] }
      | _, _ => drop s
    else s

/-! ### Taking a trap (R323 to R326) -/

/-- An armed monitor is marked restored (R203). -/
def Monitor.mark (m : Monitor) : Monitor := { m with restored := true }

/-- A flow as trap entry sets it aside: a BAR or REGANG keeps waiting, any other wait or park is abandoned and runs
again, and an armed monitor is marked restored (R174, R203, R325, R366). -/
def Flow.setAside (f : Flow) : Flow :=
  let f1 : Flow := { f with mon := f.mon.map Monitor.mark, readyFor := 0, aged := false, noLeaf := [] }
  match f1.run with
  | .wait (.bar _ _ _) _ | .wait (.regang _) _ | .ended => f1
  | _ => { f1 with run := .ready, due := none }

/-- The instruction a flow waits in at MWAIT. -/
def Flow.inMwait (f : Flow) : Option Instr :=
  match f.run with
  | .wait (.mwait _) i => some i
  | _ => none

/-- The queue that a single-register operand names. -/
def Body.queueNamed (b : Body) (o : Opnd) : Option (Bool × Nat) :=
  match o with
  | .v r => match b.frame.role r.val with
    | .name second j => some (second, j)
    | _ => none
  | _ => none

/-- Adds a pending asynchronous cause; one of a kind is held (R324) (assumption 87, DESIGN CHOICE). -/
def Gang.addPending (g : Gang) (c : Cause) (tval : Dword) : Gang :=
  if g.pend.any fun p => p.cause == c then g else { g with pend := g.pend ++ [⟨c, tval⟩] }

/-- Releases a gang's latches (R274). -/
def Gang.freeLatches (g : Gang) : Gang :=
  { g with latches := [], freed := (g.freed ++ g.latches.map fun l => l.quarter).eraseDups }

/-- The registers, with their lanes, that the completion of a MWAIT writes: those of the queue that gives its timeout, D, or those
of the queue that D names (R144, R147, R202). -/
def Body.mwaitRows (b : Body) (nw : Bool) (d a : Opnd) (xm : Word) : List (Nat × Word) :=
  let entries (q : Bool × Nat) : List (Nat × Word) := match b.frame.qdef q.1 with
    | some z => (upTo z.depth).map fun e => (z.entryReg q.2 e, BitVec.allOnes 32)
    | none => []
  ((b.queueNamed a).map entries).getD [] ++
    match d with
    | .v r => if nw then [] else ((b.queueNamed d).map entries).getD [(r.val, xm)]
    | _ => []

/-- Those of some registers whose granule is in the Cellar, as ordinal, row and lanes. -/
def Body.bareRows (b : Body) (l : List (Nat × Word)) : List (Nat × Nat × Word) :=
  (l.map fun p => (granOrd b.frames (p.1 / 8), p.1 % 8, p.2)).filter fun p => !(b.gran p.1).resident

/-- Completes a MWAIT with a status: its timeout operand popped if a queue gave it, D in every lane of xm, the
monitor disarmed, the latches released, the status pushed and then the window reset (R26, R144, R202). -/
def Gang.mwaitDone (g : Gang) (fi : Nat) (h : Hdr) (d a : Opnd) (status : Word) : Gang :=
  let f := g.act.flow fi
  let put (row : Lanes) : Lanes := row.mapIdx fun k x => if bitOf f.xm k then ⟨status, false⟩ else x
  let g0 := match g.act.queueNamed a with
    | some q => g.modAct fun b => b.pop q.1 q.2
    | none => g
  let g1 := match d with
    | .v n =>
      if h.nw then g0
      else match g0.act.queueNamed d with
        | some q => g0.modAct fun b => b.push q.1 q.2 (bitOf f.xm) (List.replicate g.width ⟨status, false⟩)
        | none => g0.modAct fun b => b.setRow n.val (put (b.row n.val))
    | _ => g0
  let pc := f.pc + BitVec.ofNat 64 (Instr.mwait h d a).len
  let win := resetWin (pushWin f.win (bitOf f.xm) (List.replicate g.width ⟨status, false⟩))
  let up (f : Flow) : Flow :=
    { f with pc := pc, run := .ready, mon := none, win := win, due := none, readyFor := 0, aged := false, passBp := false }
  let g2 := { (g1.modAct fun b => { b.modFlow fi up with trail := [] }).freeLatches with
    owed := g1.owed ++ g.act.bareRows (g.act.mwaitRows h.nw d a f.xm)
    region := none,
    twinPc := if g1.twinPc == some f.pc then none else g1.twinPc }
  if g.sstep && g.pl == .u then g2.addPending .singleStep f.pc else g2

/-- Whether an MWAIT of a gang completes only when granules of its frame have come back from the Cellar (R155, R203). One whose
refill has failed completes without them, and what it writes there stays with the gang until they are back (assumption 95,
DESIGN CHOICE). -/
def Gang.mwaitHeld (g : Gang) : Bool :=
  !g.act.missing.isEmpty && g.act.flows.any (fun f => f.inMwait.isSome) && !g.pend.any fun p => p.cause.isCellar

/-- Completes the MWAITs of a gang with status 2, as trap entry does, once its frame is there or cannot be (R203). -/
def Gang.endMwaits (g : Gang) : Gang :=
  if g.mwaitHeld then g
  else (upTo g.act.flows.length).foldl (fun g fi =>
    match (g.act.flow fi).inMwait with
    | some (.mwait h d a) => g.mwaitDone fi h d a 2
    | _ => g) g

/-- The handler entry address (R19, R323, R326). -/
def State.vector (s : State) (r : CoreRef) (g : Gang) (k : HandlerKind) : Dword :=
  match k with
  | .machine => (s.core r).mtvec
  | _ => match g.ctx, r.site with
    | some c, some site => match s.ctxAt? site c with
      | some x => x.tvec
      | none => 0
    | _, _ => (s.core r).tvec

/-- The monitor of a joined gang; it is the gang's, in its handler too (R201). -/
def Body.monitor (b : Body) : Option Monitor := if b.parted then none else (b.flow 0).mon

/-- Gives a joined body the gang's monitor; a parted one keeps its slices' (R202). -/
def Body.setMonitor (b : Body) (m : Option Monitor) : Body :=
  if b.parted then b else b.modFlow 0 fun f => { f with mon := m }

/-- The remote operations that RFENCEs put before the next ones of a body's agents (R386). -/
def Body.behind (b : Body) : List Nat := (b.flows.flatMap fun f => f.behind).eraseDups

/-- A body whose agents' next operations come after some as well (R386). -/
def Body.orderedAfter (b : Body) (l : List Nat) : Body :=
  { b with flows := b.flows.map fun f => { f with behind := (f.behind ++ l).eraseDups } }

/-- The gang in its handler, once the handler frame is granted (R323, R326). The flow that trapped is set
aside like the others and resumes at sy.epc; the gang's monitor stays with the gang (R201) (assumption 96, DEDUCED), and so does
what its RFENCEs order (R386). -/
def Gang.enter (g : Gang) (q : TrapReq) (vec : Dword) : Gang :=
  let aside : Body := { g.body with flows := g.body.flows.map Flow.setAside }
  let own : Body := ((Body.start g.width 2 vec).setMonitor aside.monitor).orderedAfter g.body.behind
  { g.freeLatches with
    body := aside.setMonitor none
    hand := some ⟨q.kind, q.cause, q.flow, own, q.pended⟩
    trapReq := none
    cause := BitVec.ofNat 64 (q.cause.code + 256 * q.lane)
    epc := q.epc
    tval := q.tval
    region := none
    pl := if q.kind == .machine then .m else .s
    ppl := if q.kind == .machine then .m else .u }

/-- Takes the handler frame and enters the handler for the request a gang holds (R159, R323). -/
def State.enterTrap (s : State) (r : CoreRef) (slot : Nat) : State :=
  match s.gang? r slot with
  | none => s
  | some g => match g.trapReq with
    | none => s
    | some q =>
      ((s.modGang r slot fun g => g.enter q (s.vector r g q.kind)).modCore r fun c =>
        { c with handReqs := remove slot c.handReqs }).leaveTakers r slot

/-- Whether a context is marked as debugged (R354). -/
def State.debugged (s : State) (g : Gang) : Bool :=
  match g.ctx.bind s.context? with
  | some k => k.debugged
  | none => false

/-- A flow that must finish the instruction it has issued before a trap is entered: its wait is none of those
that R325 lets a cause abandon (R174) (assumption 44, DEDUCED). -/
def Flow.unsettled (f : Flow) : Bool :=
  match f.run with
  | .wait .reply _ | .wait .copyEntry _ | .wait .remoteSlot _ | .wait .storeHold _ | .wait .ringRead _ => true
  | _ => false

/-- Whether a gang may enter its handler now. -/
def Gang.settled (g : Gang) : Bool := !g.act.flows.any Flow.unsettled

/-- The debugger holds a gang at a breakpoint or a step (R354). -/
def Gang.hold (g : Gang) (fi : Nat) (cause : Cause) (lane : Nat) (epc tval : Dword) : Gang :=
  { g.modAct fun b => b.modFlow fi fun f => { f with readyFor := 0, aged := false } with
    cause := BitVec.ofNat 64 (cause.code + 256 * lane), epc := epc, tval := tval, dbgHeld := some fi }

/-- TAKING A TRAP. At U level the gang enters its context's handler and at M level the core's machine vector,
at once when the handler frame is free, else when it is granted; a synchronous trap at S level kills the
gang; a second trap at M level halts the core; a debugged context's breakpoints hold the gang, but for one at S level, which
ends it like any other trap there (assumption 112, DESIGN CHOICE) (R159, R323, R326, R354). -/
def State.trapOr (s : State) (kill : State → State) (r : CoreRef) (slot fi : Nat) (cause : Cause) (lane : Nat)
    (epc tval : Dword) (pended : Bool := false) : State :=
  match s.gang? r slot with
  | none => s
  | some g =>
    if g.pl == .s then (kill s).report g.ctx (.gangKilled cause epc)
    else if g.pl == .m && g.hand.isSome then s.modCore r fun c => { c with halted := true }
    else if (cause == .breakpoint || cause == .singleStep) && s.debugged g then
      (s.modGang r slot fun g => g.hold fi cause lane epc tval).report g.ctx (.held cause epc)
    else
      let s1 := s.modGang r slot Gang.endMwaits
      let s2 := s1.requestHandler r slot ⟨g.pl.handler, cause, lane, epc, tval, fi, pended⟩
      if (s.core r).handReqs.isEmpty && (s.core r).fits g 2 && g.settled && !g.mwaitHeld then s2.enterTrap r slot else s2

/-! ### The end of a gang with its barriers (R142, R196, R259, R327) -/

/-- A gang killed by a fault breaks every barrier it is a member of, and the gangs that wait on one trap with
BARRIER_BROKEN; a waiter in its handler is killed, and the gangs that its own end has taken out of their wait are left alone
(R196, R326). -/
def State.breakBars (s : State) (kill : Nat → State → State) (r : CoreRef) (wg gix : Nat) : State :=
  let n := ((s.core r).wg wg).barriers.length
  (upTo n).foldl (fun s b =>
    let z := ((s.core r).wg wg).barrier b
    if !bitOf z.mbr gix then s
    else
      let ws := (s.core r).gangs.filter fun g => g.wg == wg && g.gix != gix && g.waitsOn b z.phase
      let s1 := s.modWg r wg fun w => w.modBarrier b fun z => { z with mbr := z.mbr &&& ~~~oneBit gix, bkn := true, arr := 0 }
      ws.foldl (fun s old =>
        match (s.gang? r old.slot).filter fun g => g.uid == old.uid && g.waitsOn b z.phase with
        | none => s
        | some g =>
        let fi := g.act.flows.findIdx fun f => f.barWait.isSome
        let s2 := s.modGang r g.slot fun g => g.modAct fun y => y.modFlow fi fun f => { f with run := .ready, due := none }
        s2.trapOr (kill g.slot) r g.slot fi .barrierBroken (g.act.flow fi).lowXm (g.act.flow fi).pc (BitVec.ofNat 64 b)) s1) s

/-- Ends a gang: a release at island scope on every path, the B reads of its MMQs among them, its barriers, its slot, its workgroup (R142, R195,
R196, R259). The fuel bounds the gangs that the breaking of barriers kills in turn. -/
def State.endGangN : Nat → State → CoreRef → Nat → Bool → State
  | 0, s, _, _, _ => s
  | n + 1, s, r, slot, killed =>
    match s.gang? r slot with
    | none => s
    | some g =>
      let s1 := (s.readRest r fun t => t.gang == g.uid).release r .i
      let s2 := if killed then s1.breakBars (fun k t => t.endGangN n r k true) r g.wg g.gix else s1.leaveBars r g.wg g.gix
      let s3 := (s2.freeSlot r slot).modWg r g.wg fun w => { w with live := w.live &&& ~~~oneBit g.gix }
      s3.settleWg r g.wg

/-- Ends a gang; a core holds 32 (R160). -/
def State.endGang (s : State) (r : CoreRef) (slot : Nat) (killed : Bool) : State := s.endGangN 33 r slot killed

/-- Takes a trap. -/
def State.takeTrap (s : State) (r : CoreRef) (slot fi : Nat) (cause : Cause) (lane : Nat) (epc tval : Dword)
    (pended : Bool := false) : State :=
  s.trapOr (fun t => t.endGang r slot true) r slot fi cause lane epc tval pended

/-! ### Returning (R327) -/

/-- A BAR or REGANG wait is resumed only at its own instruction. -/
def Flow.resumeAt (f : Flow) (epc : Dword) : Flow :=
  match f.run with
  | .wait (.bar _ _ _) _ => if f.pc == epc then f else { f with pc := epc, run := .ready }
  | .wait (.regang _) _ => if f.pc == epc then f else { f with pc := epc, run := .ready }
  | _ => { f with pc := epc }

/-- A wait at REGANG that a pending cause has abandoned: the instruction is executed again (R325). -/
def Flow.rejoin (f : Flow) : Flow :=
  match f.run with
  | .wait (.regang _) _ => { f with run := .ready }
  | _ => f

/-- RETURN FROM A TRAP: frees the handler frame, reinstates what entry set aside, PL := PPL, PC := sy.epc in
the flow that trapped (R327). The monitor armed in the handler is the gang's (R201), and what the handler's RFENCEs order is
too (R386). A breakpoint does not fire on the first fetch (R351). -/
def Gang.leave (g : Gang) : Gang :=
  match g.hand with
  | none => g
  | some h =>
    let b := g.body.modFlow h.flow fun f => f.resumeAt g.epc
    let again (f : Flow) : Flow := { (if h.pended then f.rejoin else f) with passBp := true }
    { g with
      hand := none
      pl := g.ppl
      body := ({ b with flows := b.flows.map again }.setMonitor h.body.monitor).orderedAfter h.body.behind }

/-- Marks the slices with no live lane ended. A slice that has ended stays so (assumption 106, DESIGN CHOICE). -/
def Body.endDead (b : Body) : Body :=
  { b with flows := b.flows.map fun f => if f.live == 0 then { f with run := .ended } else f }

/-- Whether every flow of a body has ended: it has no live lane, or is a slice that ended before (R142, R171). -/
def Body.dead (b : Body) : Bool := b.flows.all fun f => f.run == .ended || f.live == 0

/-! ### Joining slices (R172) -/

def orWords (l : List Word) : Word := l.foldl (· ||| ·) 0

/-- Whether a live slice waits at REGANG, or has ended. -/
def Flow.atJoin (f : Flow) : Bool :=
  match f.run with
  | .ended => true
  | .wait (.regang _) _ => true
  | _ => false

/-- Whether a parted body's slices now join: every live one waits (R172). -/
def Body.joins (b : Body) : Bool := b.parted && b.flows.all Flow.atJoin && b.flows.any fun f => f.run != .ended

/-- The join of R172, when every live slice waits. -/
def Body.join (b : Body) (w : Nat) : Body :=
  let live := b.flows.filter fun f => f.run != .ended
  match live with
  | [] => b
  | f0 :: _ =>
    if !b.joins then b
    else
      let len := match f0.run with | .wait _ i => i.len | _ => 8
      let k := b.pmsd
      let stack := (upTo k).map fun e => orWords (live.map fun f => f.stack.getD e 0)
      { b with
        flows := [⟨f0.pc + BitVec.ofNat 64 len, orWords (live.map fun f => f.xm), stack, emptyWin w, none, .ready,
          none, 0, false, false, b.behind, []⟩]
        parted := false
        trail := [] }

/-- Orders every earlier access of a gang and its slices before every later one, at every scope, as PART and REGANG do
(R173, R256). -/
def State.orderAll (s : State) (r : CoreRef) : State := (s.release r .i).acquire r .i

/-- After lanes have left or a slice waits at REGANG: dead slices end, a dead gang ends, and slices that all wait
join (R142, R171 to R173). -/
def State.settleGang (s : State) (r : CoreRef) (slot : Nat) : State :=
  match s.gang? r slot with
  | none => s
  | some g =>
    if g.act.dead then s.endGang r slot false
    else
      let b := g.act.endDead
      let pc := ((b.flows.find? fun f => f.run != .ended).getD (.start 8 0)).pc
      (if b.joins then s.orderAll r else s).modGang r slot fun g =>
        let g1 := g.modAct fun b => b.endDead.join g.width
        if b.joins && g.sstep && g.pl == .u then g1.addPending .singleStep pc else g1

/-- The return with its consequences: a cause that cannot be returned from kills the gang, and a gang whose
handler left no lane live ends, and slices of which every live one waits join (R129, R172, R327) (assumption 53,
DEDUCED). -/
def State.returnTrap (s : State) (r : CoreRef) (slot : Nat) : State :=
  match s.gang? r slot with
  | none => s
  | some g => match g.hand with
    | none => s
    | some h =>
      if h.cause.fatal then (s.endGang r slot true).report g.ctx (.gangKilled h.cause g.epc)
      else if g.body.dead then s.endGang r slot false
      else (s.modGang r slot Gang.leave).settleGang r slot

/-! ### Checks and their outcome (R322, R339) -/

/-- A cause that a lane raises: its place in the instruction's check order, the value for sy.tval, and the
provenance word of a poison cause. -/
structure Raised where
  ord : Nat
  cause : Cause
  lane : Nat
  tval : Dword
  prov : Option Word
  deriving DecidableEq, Repr

/-- A cause that no single lane raises (R322). -/
def Raised.whole (ord : Nat) (c : Cause) (tval : Dword) : Raised := ⟨ord, c, 0, tval, none⟩
/-- A cause that a lane raises. -/
def Raised.lane' (ord : Nat) (c : Cause) (lane : Nat) (tval : Dword) : Raised := ⟨ord, c, lane, tval, none⟩
/-- A poison cause: sy.tval holds the provenance word (R320). -/
def Raised.poison (ord : Nat) (c : Cause) (lane : Nat) (w : Word) : Raised :=
  ⟨ord, c, lane, w.setWidth 64, some w⟩

/-- The poisoned values among some, as raised causes of one lane. -/
def poisons (ord : Nat) (c : Cause) (lane : Nat) (l : List LV) : List Raised :=
  (l.filter fun x => x.p).map fun x => .poison ord c lane x.v

/-- The first in check order, then the lowest lane, then as listed (R322). -/
def firstRaised : List Raised → Option Raised
  | [] => none
  | r :: rs => match firstRaised rs with
    | none => some r
    | some q => if q.ord < r.ord || (q.ord == r.ord && q.lane < r.lane) then some q else some r

/-- The first list that is not empty: checks stop at the first that fails. -/
def firstOf {α : Type} : List (List α) → List α
  | [] => []
  | l :: r => if l.isEmpty then firstOf r else l

/-- What becomes of an instruction. -/
inductive Verdict where
  | go
  | trap (r : Raised)
  | replay (r : Raised)
  deriving DecidableEq, Repr

/-- Whether a raised cause is poison of a transient kind (R86, R339). -/
def Raised.transient (r : Raised) : Bool :=
  match r.prov with
  | some w => transientKind (provKind w)
  | none => false

/-- Trap or replay (R322, R339, R341). -/
def judge (region : Option Region) (rs : List Raised) : Verdict :=
  match firstRaised rs with
  | none => .go
  | some r =>
    match region with
    | none => .trap r
    | some g =>
      if rs.all fun q => q.prov.isSome then
        match firstRaised (rs.filter fun q => !q.transient) with
        | some h => .trap h
        | none => if g.replays < 3 then .replay r else .trap r
      else .trap r

/-! ### The steps of R23 -/

/-- An instruction in execution: the agent, its state before the instruction, the lane set, the source
operands by position in the operand list, the queues to pop, and a full destination queue. -/
structure Ex where
  s : State
  ag : AgentRef
  g : Gang
  b : Body
  fi : Nat
  fl : Flow
  i : Instr
  n : Info
  set : List Nat
  src : List (List Lanes)
  pops : List (Bool × Nat)
  full : List Raised
  deriving Repr

def Ex.w (x : Ex) : Nat := x.g.width
def Ex.core (x : Ex) : Core := x.s.core x.ag.core
/-- The core with every TLB that serves it (R223). -/
def Ex.tlbs (x : Ex) : Core := x.s.withTlbs x.ag.core
def Ex.wg (x : Ex) : Wg := x.core.wg x.g.wg
def Ex.who (x : Ex) : Who := ⟨x.ag.core, x.g.wg, x.g.ctx⟩
/-- What a poison entry that a lane makes is charged to. On a reeve core, which has no site and no island clock, SITE is 0 and TIME
the clock of site 0 (R332, R427, R428) (assumption 54, DESIGN CHOICE). -/
def Ex.charge (x : Ex) (lane : Nat) : Charge :=
  ⟨x.g.ctx, x.ag.core.site.getD 0, some x.ag.core, x.g.slot, lane, x.fl.pc, x.g.psn⟩
/-- Lane i of register k of operand j. -/
def Ex.lvk (x : Ex) (j k i : Nat) : LV := laneAt ((x.src.getD j []).getD k []) i
/-- Lane i of operand j. -/
def Ex.lv (x : Ex) (j i : Nat) : LV := x.lvk j 0 i
/-- The registers of operand j in lane i, ascending. -/
def Ex.regs (x : Ex) (j i : Nat) : List LV := (x.src.getD j []).map fun r => laneAt r i
/-- The pair of operand j in lane i (R4). -/
def Ex.pair (x : Ex) (j i : Nat) : Dword := joinWords (x.lvk j 0 i).v (x.lvk j 1 i).v
/-- An operand as one source: poisoned when any register is, with the word of the lowest (R87). -/
def joinSrc (l : List LV) : LV :=
  match l.find? fun x => x.p with
  | some y => y
  | none => l.headD ⟨0, false⟩
def Ex.one (x : Ex) (j i : Nat) : LV := joinSrc (x.regs j i)
/-- The displacement L of the extended form (R228). -/
def Ex.disp (x : Ex) : Word := x.n.h.lit.getD 0
/-- The lowest lane of the lane set. -/
def Ex.lowest (x : Ex) : Option Nat := x.set.head?
/-- The lowest lane of xm. -/
def Ex.lowXm (x : Ex) : Option Nat := (upTo 32).find? fun i => bitOf x.fl.xm i
def Ex.inSet (x : Ex) (i : Nat) : Bool := x.set.contains i
/-- The address of the next instruction. -/
def Ex.next (x : Ex) : Dword := x.fl.pc + BitVec.ofNat 64 x.i.len

/-- The rows an operand reads in every lane (R11, R14, R15), n registers, ascending. -/
def readOpnd (g : Gang) (b : Body) (fl : Flow) (lit : Option Word) (o : Opnd) (n : Nat) : List Lanes :=
  let all (v : Word) : Lanes := List.replicate g.width ⟨v, false⟩
  match o with
  | .v r => (upTo n).map fun k => b.row (r.val + k)
  | .z | .rsv => List.replicate n (all 0)
  | .w k => ((upTo n).map fun j => (fl.win.getD (k.val + j) ⟨false, []⟩).lanes).reverse
  | .lid => [(upTo g.width).map fun i => ⟨BitVec.ofNat 32 i, false⟩]
  | .gix => [all (BitVec.ofNat 32 g.gix)]
  | .xm => [all fl.xm]
  | .wgx => [all g.wgx]
  | .gw => [all (BitVec.ofNat 32 g.width)]
  | .lit =>
    let l := lit.getD 0
    if n == 2 then [all l, all (hiWord (l.signExtend 64))] else [all l]

/-- Window slots an operand reads (R144). -/
def slotsOf (o : Opnd) (n : Nat) : List Nat :=
  match o with
  | .w k => (upTo n).map fun j => k.val + j
  | _ => []

/-- Causes of reading one source operand: an empty slot or an empty queue (R144, R147). -/
def readRaised (b : Body) (fl : Flow) (o : Opnd) (n : Nat) : List Raised :=
  let w := ((slotsOf o n).filter fun k => !(fl.win.getD k ⟨false, []⟩).full).map fun k =>
    Raised.whole 0 .windowEmpty (BitVec.ofNat 64 (k + 1))
  match o with
  | .v r => if n != 1 then w else
    match b.frame.role r.val with
    | .name second j =>
      match b.frame.qdef second with
      | some d => if d.occOf j == 0 then [.whole 0 .queueUnderflow (o.code.setWidth 64)] else w
      | none => w
    | _ => w
  | _ => w

/-- The queue a single-register operand names. -/
def queueOf (b : Body) (o : Opnd) (n : Nat) : Option (Bool × Nat) :=
  match o with
  | .v r => if n != 1 then none else
    match b.frame.role r.val with
    | .name second j => some (second, j)
    | _ => none
  | _ => none

/-- Naming a storage register, or a queue register within a pair or quad (R147). -/
def storageRaised (b : Body) (o : Opnd) (n : Nat) : List Raised :=
  match o with
  | .v r =>
    if (upTo n).any fun k => match b.frame.role (r.val + k) with | .storage => true | .name _ _ => n != 1 | .plain => false
    then [.whole 0 .queueStorage (o.code.setWidth 64)] else []
  | _ => []

/-- Operand fields that pop or push a queue they name: all but a queue's own name in QDEF and QCLR, CALL's
argument base, A of QOCC, QRD and QWR, and a destination under NW (R137, R147, R148). -/
def Ex.queueOps (x : Ex) : List (Opnd × Role) :=
  let l := x.n.ops.filter fun p => p.2 != .queue && p.2 != .base && !(x.n.h.nw && p.2.isDst)
  if x.i.namesQueue then l.filter fun p => p.2.isDst || x.n.ops.head? == some p else l

/-- Pairs of A and B formats that the engine accepts (R264). -/
def matrixPair (a : AFmt) (b : BFmt) : Bool :=
  match a, b with
  | .bf16, .bf16 | .f16, .f16 | .mxe2m1, .mxe2m1 => true
  | .e4m3, .e4m3 | .e4m3, .e5m2 | .e5m2, .e4m3 | .e5m2, .e5m2 => true
  | .mxe4m3, .mxe4m3 | .mxe4m3, .mxe5m2 | .mxe5m2, .mxe4m3 | .mxe5m2, .mxe5m2 => true
  | .e4m3, .qc | .e5m2, .qc | .mxe4m3, .qc | .mxe5m2, .qc => true
  | _, _ => false

def Level.num : Level → Nat
  | .u => 0 | .s => 1 | .m => 3

/-- Whether an operand reaches beyond the frame (R11, R13). -/
def beyondFrame (f : Frame) (p : Opnd × Role) : Bool :=
  match p.1 with
  | .v r => 8 * f.ngr < r.val + p.2.span
  | _ => false

/-- The decode causes that depend on the gang's state, after those of the decoder (R45). -/
def decodeRaised (g : Gang) (b : Body) (i : Instr) (n : Info) : Option Cause :=
  if (n.ops.any (beyondFrame b.frame)) || beyondFrame b.frame (n.h.g, .src 1) then some .badOperand
  else if g.pl.num < i.level then some .privileged
  else match i with
    | .call _ k _ _ | .calli _ k _ _ => if k == 0 || k == 31 then some .frameDemand else none
    | .mmq _ _ a bf _ _ _ _ _ => if matrixPair a bf then none else some .matrixFormat
    | _ => none

/-- Quarters with a lane in the lane set, with the lowest such lane. -/
def Ex.quarters (x : Ex) : List (Nat × Nat) :=
  (upTo (x.w / 8)).filterMap fun q => (x.set.find? fun i => i / 8 == q).map fun i => (q, i)

/-- An instruction other than an MMQ has completed: no MMQ of the gang is trailing (R356). -/
def Gang.settleTrail (g : Gang) : Gang :=
  let clear (b : Body) : Body := { b with trail := [] }
  let g1 := g.modAct clear
  { g1 with body := clear g1.body }

/-- The trailing MMQs of a gang once an instruction has completed (R356). -/
def Ex.trailed (x : Ex) (g : Gang) : Gang :=
  match x.i with
  | .mmq .. =>
    let e : Trail := ⟨x.s.uid, x.quarters.length, x.fl.pc, x.pops.map fun q => (q.1, q.2, x.b.headOf q.1 q.2)⟩
    g.modAct fun b => { b with trail := b.trail ++ [e] }
  | _ => g.settleTrail

/-- Whether an instruction resets the window when it completes: not in a dormant gang, but for RET (R130, R139); NWAIT with an
empty lane set does nothing (R388). -/
def Ex.resetsNow (x : Ex) : Bool :=
  match x.i with
  | .nwait .. => !x.fl.dormant && !x.set.isEmpty
  | i => i.resets && (!x.fl.dormant || i.isRet)

/-- The end of an instruction's write-back: pops, the window reset, the region, single step, the PC (R23,
R144, R147, R337, R353, R356). A commit point closes the region whatever its lane set (assumption 111, DESIGN CHOICE), in a
dormant gang only the RET that is executed there (R130). -/
def Gang.finish (g : Gang) (x : Ex) (pc : Dword) : Gang :=
  let g1 := x.trailed (g.modAct fun b => x.pops.foldl (fun b q => b.pop q.1 q.2) b)
  let g2 := g1.modAct fun b => b.modFlow x.fi fun f =>
    { f with pc := pc, run := .ready, due := none, readyFor := 0, aged := false, passBp := false, noLeaf := [],
             win := if x.resetsNow then resetWin f.win else f.win }
  let g3 := { g2 with
    region := if x.i.commits && (!x.fl.dormant || x.i.isRet) then none else g2.region
    twinPc := if g2.twinPc == some x.fl.pc then none else g2.twinPc }
  if x.g.sstep && x.g.pl == .u then g3.addPending .singleStep x.fl.pc else g3

/-- Completes an instruction at a PC. -/
def Ex.doneAt (x : Ex) (s : State) (pc : Dword) : Res :=
  .next (s.modGang x.ag.core x.ag.slot fun g => g.finish x pc)

/-- Completes an instruction that has no result. -/
def Ex.done (x : Ex) (s : State) : Res := x.doneAt s x.next

/-- Raises a trap at the instruction (R322, R323). -/
def Ex.trap (x : Ex) (s : State) (r : Raised) : Res :=
  .next (s.takeTrap x.ag.core x.ag.slot x.fi r.cause r.lane x.fl.pc r.tval)

/-- Takes a gang off every list of waiters. -/
def State.leaveWaits (s : State) (r : CoreRef) (slot : Nat) : State :=
  let leave (c : Core) : Core :=
    { c with
      waiters := c.waiters.filter fun p => p.1 != slot
      copyWaits := c.copyWaits.filter fun p => p.2.slot != slot
      remoteWaits := c.remoteWaits.filter fun a => a.slot != slot }
  (s.modCore r leave).leaveTakers r slot

/-- Starts a replay: the gang waits until its tile operations have settled, its other waits abandoned (R340). A trap
that waits for its handler frame is given up with its instruction; an asynchronous cause is pending again. -/
def State.startReplay (s : State) (r : CoreRef) (slot : Nat) : State :=
  let up (b : Body) : Body := { b with flows := b.flows.map fun f => { f with run := .replay, readyFor := 0, aged := false } }
  let back (g : Gang) : Gang :=
    match g.trapReq with
    | some q => if q.pended then { g with trapReq := none }.addPending q.cause q.tval else { g with trapReq := none }
    | none => g
  ((s.modGang r slot fun g => ((back g).modAct up).freeLatches).leaveWaits r slot).modCore r fun c =>
    { c with handReqs := remove slot c.handReqs }

/-- The outcome with which raised causes, or else a full destination queue, stop an instruction: a trap or a replay
(R322, R339). -/
def Ex.stopped (x : Ex) (rs : List Raised) : Option Res :=
  match judge x.g.region (if rs.isEmpty then x.full else rs) with
  | .go => none
  | .trap r => some (x.trap x.s r)
  | .replay r =>
    let s1 := match r.prov with
      | some w => x.s.chargeReplay (x.charge r.lane) (provOrigin w)
      | none => x.s
    some (.next (s1.startReplay x.ag.core x.ag.slot))

/-- Goes on, traps or replays. -/
def Ex.check (x : Ex) (rs : List Raised) (k : Res) : Res := (x.stopped rs).getD k

/-- A latch after a write of n registers from r on (R273). -/
def Latch.wrote (r n : Nat) (l : Latch) : Latch :=
  let meets (o : Opnd) (k : Nat) : Bool := match o with
    | .v q => q.val < r + n && r < q.val + k
    | _ => false
  { l with stale := l.stale || meets l.a 16 || meets l.c 1 }

/-- Writes result rows to D in the lanes of a set, or pushes them on the queue that D names; NW and z write
nothing (R26, R147). -/
def Gang.writeD (g : Gang) (nw : Bool) (d : Opnd) (inSet : Nat → Bool) (rows : List Lanes) : Gang :=
  match d with
  | .v r =>
    if nw then g
    else match rows, g.act.frame.role r.val with
      | [row], .name second j => g.modAct fun b => b.push second j inSet row
      | _, _ => { g.modAct fun b => ((upTo rows.length).foldl (fun b k =>
          let old := b.row (r.val + k)
          b.setRow (r.val + k) ((rows.getD k []).mapIdx fun i y => if inSet i then y else laneAt old i)) b) with
          latches := g.latches.map (Latch.wrote r.val rows.length) }
  | _ => g

/-- The pushes of a result's rows, lowest register first; MWAIT resets the window after its push (R26, R95, R144). -/
def Gang.pushes (g : Gang) (x : Ex) (inSet : Nat → Bool) (rows : List Lanes) : Gang :=
  g.modAct fun b => b.modFlow x.fi fun f =>
    let win := rows.foldl (fun w r => pushWin w inSet r) f.win
    { f with win := if x.i.resets then resetWin win else win }

/-- Write-back of a result of several registers with its pushes, lowest register first (R26, R95). The pops of
step 4 come before the push of step 6. -/
def Ex.write (x : Ex) (g : Gang) (inSet : Nat → Bool) (rows : List Lanes) (pc : Dword) : Gang :=
  ((g.finish x pc).writeD x.n.h.nw x.n.dest inSet rows).pushes x inSet rows

/-- Completes an instruction with result rows in the lane set. -/
def Ex.result (x : Ex) (s : State) (rows : List Lanes) : Res :=
  .next (s.modGang x.ag.core x.ag.slot fun g => x.write g x.inSet rows x.next)

/-- Completes an instruction without a guard, whose result goes to every lane of xm (R36). -/
def Ex.resultXm (x : Ex) (s : State) (rows : List Lanes) : Res :=
  .next (s.modGang x.ag.core x.ag.slot fun g => x.write g (bitOf x.fl.xm) rows x.next)

/-- The same value in every lane. -/
def sameLanes (w : Nat) (v : LV) : Lanes := List.replicate w v

/-- A doubleword in every lane, as the two rows of a pair. -/
def pairRows (w : Nat) (d : Dword) : List Lanes := [sameLanes w ⟨loWord d, false⟩, sameLanes w ⟨hiWord d, false⟩]

/-- Rows of n registers from lane results. -/
def rowsOf (w n : Nat) (res : List (Nat × List LV)) : List Lanes :=
  (upTo n).map fun k => (upTo w).map fun i => laneAt (lookupD i [] res) k

/-- Computes lane results in ascending lane order, threading the state through new poison (R88). -/
def eachLane (f : Nat → State → List LV × State) : List Nat → State → List (Nat × List LV) × State
  | [], s => ([], s)
  | i :: is, s =>
    let r := f i s
    let q := eachLane f is r.2
    ((i, r.1) :: q.1, q.2)

/-- Completes a lane-wise instruction whose lanes give n registers each. -/
def Ex.lanewise (x : Ex) (n : Nat) (f : Nat → State → List LV × State) : Res :=
  let r := eachLane f x.set x.s
  x.result r.2 (rowsOf x.w n r.1)

/-- Completes an instruction that does nothing, with the window pushes of a result of n registers (R26): nothing goes on a queue
that D names (assumption 113, DESIGN CHOICE). -/
def Ex.nothing (x : Ex) (n : Nat) : Res :=
  .next (x.s.modGang x.ag.core x.ag.slot fun g => (g.finish x x.next).pushes x (fun _ => false) (List.replicate n (zeroLanes x.w)))

/-- A paired-issue mismatch at the instruction, in a lane (R322, R343). -/
def Ex.mismatch (x : Ex) (lane : Nat) (s : State) : Res :=
  let old := x.g.syTwin
  let n : Dword := if x.g.twinPc == some x.fl.pc then old.extractLsb' 0 2 |>.setWidth 64 |> (· + 1) else 1
  let total : Dword := (hiWord old + 1).setWidth 64 <<< 32
  let tw := total ||| (n &&& 3)
  let again (b : Body) : Body := b.modFlow x.fi fun f => { f with readyFor := 0, aged := false }
  let s1 := s.modGang x.ag.core x.ag.slot fun g => { g.modAct again with syTwin := tw, twinPc := some x.fl.pc }
  if n == 3 then x.trap s1 (.lane' 0 .mcTwinPersist lane ((hiWord tw).setWidth 64))
  else if x.g.region.isSome then .next (s1.startReplay x.ag.core x.ag.slot)
  else .next s1

/-- Whether an agent may issue: ready, in a gang that no trap, debugger, replay or restore holds, on a core
that runs (R177). -/
def canIssue (c : Core) (g : Gang) (f : Flow) : Bool :=
  f.run == .ready && g.trapReq.isNone && g.dbgHeld.isNone && g.restore.isNone && !c.halted && !c.stopped

/-- The agent whose turn it is, ready to issue. -/
def State.agent? (s : State) : Option (Core × Gang × Nat) :=
  match s.core? s.cur.core with
  | none => none
  | some c => match c.gang? s.cur.slot with
    | none => none
    | some g =>
      let fi := g.act.fi s.cur.slice
      if fi < g.act.flows.length && canIssue c g (g.act.flow fi) then some (c, g, fi) else none

/-- Guard lanes (R25). -/
def guardSet (lanes : List Nat) (xm : Word) (h : Hdr) (row : Lanes) : List Nat :=
  lanes.filter fun i => bitOf xm i && (h.g == .z || (((laneAt row i).v != 0) != h.gn))

/-- The queues named by sources, each once (R23, R147). -/
def popsOf (b : Body) (l : List (Opnd × Nat)) : List (Bool × Nat) :=
  (l.filterMap fun p => queueOf b p.1 p.2).eraseDups

/-- A push into a full queue, counted after the pops (R147). -/
def overRaised (b : Body) (n : Info) (pops : List (Bool × Nat)) : List Raised :=
  if n.h.nw then []
  else match n.ops.find? fun p => p.2.isDst with
    | some p => match queueOf b p.1 p.2.span with
      | some (second, j) => match b.frame.qdef second with
        | some d => if d.occOf j - (if pops.contains (second, j) then 1 else 0) ≥ d.depth then
            [.whole 0 .queueOverflow (p.1.code.setWidth 64)] else []
        | none => []
      | none => []
    | none => []

/-- CB_SLOT in a workgroup without a slot: raised by CBLOAD before any other check, and by an MMQ of a joined gang before
every check of an operand; that of a slice raises UNMATCHED_CONTROL first (R171, R264, R267, R281)
(assumption 48, DEDUCED). -/
def slotRaised (wg : Wg) (parted : Bool) (i : Instr) : List Raised :=
  let no : List Raised := if wg.cb.isNone then [.whole 0 .cbSlot 0] else []
  match i with
  | .mmq _ _ _ bf _ _ _ _ _ => if bf == .qc && !parted then no else []
  | .cbload .. => no
  | _ => []

/-- Stops with an outcome, if there is one. -/
def orStop (o : Option Res) (k : Except Res Ex) : Except Res Ex :=
  match o with
  | some r => .error r
  | none => k

/-- Whether an instruction reads lane l of operand j: the lanes of the lane set, and of A of MXENC and MXDEC every lane of a quarter
with such a lane (R23, R125, R128). -/
def Ex.readsIn (x : Ex) (j l : Nat) : Bool :=
  x.set.contains l || (x.i.readsQuarter && j == 1 && x.set.any fun i => i / 8 == l / 8)

/-- An uncorrectable error in a register or window slot that is read: kind 3 in the value read, ADDR 0 (R349)
(assumption 6, DESIGN CHOICE). -/
def Ex.readPool (x : Ex) : Ex :=
  let hit (p : Phys) : Bool := match p with
    | .operandUe j _ l => x.readsIn j l && (match x.n.ops[j]? with
      | some (.v _, _) | some (.w _, _) => true
      | _ => false)
    | _ => false
  match takePhys hit x.s.phys with
  | some (.operandUe j k l, rest) =>
    let o := { x.s with phys := rest }.newOrigin (x.charge l) 3 0
    let bad (row : Lanes) : Lanes := setNth row l ⟨o.1, true⟩
    { x with s := o.2, src := modNth (fun rows => modNth bad rows k) x.src j }
  | _ => x

/-- The guard's row as it is read: an uncorrectable error in a lane of xm gives kind 3 in the value read, ADDR 0 (R349)
(assumption 6, DESIGN CHOICE). -/
def Ex.guardRead (x : Ex) (lanes : List Nat) : Lanes × State :=
  let row := (readOpnd x.g x.b x.fl x.n.h.lit x.n.h.g 1).headD []
  let reads := match x.n.h.g with
    | .v _ | .w _ => true
    | _ => false
  match takePhys (fun p => match p with | .guardUe l => reads && lanes.contains l && bitOf x.fl.xm l | _ => false) x.s.phys with
  | some (.guardUe l, rest) =>
    let o := { x.s with phys := rest }.newOrigin (x.charge l) 3 0
    (setNth row l ⟨o.1, true⟩, o.2)
  | _ => (row, x.s)

/-- THE STEPS OF R23 for the agent whose turn it is, up to the instruction's own checks and effect: the decode
causes that depend on the gang (R45), dormancy (R130), queues of a parted gang, at decode (R171), a missing slot (R264, R281)
(assumption 11, DEDUCED), queue storage (R147), the guard (R25), the sources (R144, R147), paired issue (R342). The answer is the outcome that ends the instruction
there, or what it goes on with (assumption 5, DESIGN CHOICE). -/
def prepare (i : Instr) (s : State) : Except Res Ex :=
  match s.agent?, i.info with
  | some (_, g, fi), some n =>
    let b := g.act
    let fl := b.flow fi
    let x : Ex := ⟨s, s.cur, g, b, fi, fl, i, n, [], [], [], []⟩
    match decodeRaised g b i n with
    | some c => .error (x.trap s (.whole 0 c (wordsTval (encode i))))
    | none =>
      if fl.dormant && !i.runsDormant b.parted then .error (x.done s)
      else
        let fields := x.queueOps
        let guardOp : List (Opnd × Role) := [(n.h.g, .src 1)]
        let named := (fields ++ guardOp).filterMap fun p => queueOf b p.1 p.2.span
        if b.parted && !named.isEmpty then .error (x.trap s (.whole 0 .unmatchedControl (BitVec.ofNat 64 fl.msd)))
        else orStop (x.stopped (slotRaised x.wg b.parted i)) <| orStop (x.stopped ((n.ops ++ guardOp).flatMap fun p => storageRaised b p.1 p.2.span))
          (orStop (x.stopped (readRaised b fl n.h.g 1))
            (let lanes := b.lanes g.width fi
             let gr := x.guardRead lanes
             let grow := gr.1
             let x1 : Ex := { x with s := gr.2 }
             orStop (x1.stopped (lanes.flatMap fun l => if bitOf fl.xm l then poisons 0 .poisonBranch l [laneAt grow l] else []))
              (let set := guardSet lanes fl.xm n.h grow
               let srcs := n.sources i
               let pops := popsOf b ((n.h.g, 1) :: srcs.map fun p => (p.1, p.2.span))
               let src := n.ops.map fun p => readOpnd g b fl n.h.lit p.1 p.2.span
               let y : Ex := ⟨gr.2, s.cur, g, b, fi, fl, i, n, set, src, pops, overRaised b n pops⟩
               orStop (x1.stopped (srcs.flatMap fun p => readRaised b fl p.1 p.2.span))
                (if g.twin && i.paired then
                  match takePhys (fun p => match p with | .twin l => set.contains l | _ => false) y.s.phys with
                  | some (.twin l, rest) => .error (y.mismatch l { y.s with phys := rest })
                  | _ => .ok y.readPool
                 else .ok y.readPool))))
  | _, _ => .error (.refused .noAgent)

/-- An instruction: its preparation, then its own checks and effect. What it reads and performs it reads and performs here, in the
agent's program order, of which R248 asks less (assumption 88, DESIGN CHOICE). -/
def issue (i : Instr) (s : State) (own : Ex → Res) : Res :=
  match prepare i s with
  | .ok x => own x
  | .error r => r

/-- Waits: the agent stays on its instruction (R177). -/
def Ex.wait (x : Ex) (s : State) (w : Wait) : Res :=
  .next (s.modFlow x.ag fun f => { f with run := .wait w x.i, readyFor := 0, aged := false })

/-- Whether an MMQ of the gang has B still to read. -/
def Ex.unreads (x : Ex) : Bool := x.core.tops.any fun t => t.gang == x.g.uid && t.unread

/-- Waits until the array has read B for every MMQ of the gang: reads of the mx path that an ordering puts before what
follows (R173, R253, R259). -/
def Ex.afterReads (x : Ex) (k : Res) : Res :=
  if x.unreads then x.wait x.s .storeHold else k

/-- Whether a gang is parted, where its instruction needs it whole: UNMATCHED_CONTROL (R171)
(assumption 35, DEDUCED). -/
def Ex.whole (x : Ex) (ord : Nat) : List Raised :=
  if x.b.parted then [.whole ord .unmatchedControl (BitVec.ofNat 64 x.fl.msd)] else []

end Sys2Proof.Machine
end

