-- ==== Sys2Proof/Machine/Numbers.lean ====
section
/-! DEFINITION. Number formats and rounding: exact values, the five rounding modes, overflow, and the
outcomes of conversions (spec 04, R63 to R83). -/

namespace Sys2Proof.Machine

/-- A decoded value: (-1)^neg × m × 2^e when finite (R63). -/
inductive Num where
  | nan
  | inf (neg : Bool)
  | fin (neg : Bool) (m : Nat) (e : Int)
  deriving DecidableEq, Repr

/-- How the all-ones exponent of a format reads (R63, R65, R66). -/
inductive TopExp where | ieee | e4m3 | plain deriving DecidableEq, Repr

/-- A floating-point layout: exponent bits, fraction bits, bias, meaning of the top exponent (R63). -/
structure Layout where
  eb : Nat
  fb : Nat
  bias : Nat
  top : TopExp
  deriving DecidableEq, Repr

def lf32 : Layout := ⟨8, 23, 127, .ieee⟩
def lf16 : Layout := ⟨5, 10, 15, .ieee⟩
def lbf16 : Layout := ⟨8, 7, 127, .ieee⟩
def le4m3 : Layout := ⟨4, 3, 7, .e4m3⟩
def le5m2 : Layout := ⟨5, 2, 15, .ieee⟩
def le2m1 : Layout := ⟨2, 1, 1, .plain⟩

/-- Bits of a value. -/
def Layout.bits (l : Layout) : Nat := 1 + l.eb + l.fb

/-- The code with the sign bit of a magnitude. -/
def Layout.signed (l : Layout) (neg : Bool) (mag : Nat) : Nat := (if neg then 2 ^ (l.eb + l.fb) else 0) + mag

/-- Magnitude of the largest finite value (R63). -/
def Layout.maxMag (l : Layout) : Nat :=
  match l.top with
  | .ieee => (2 ^ l.eb - 1) * 2 ^ l.fb - 1
  | .e4m3 => 2 ^ (l.eb + l.fb) - 2
  | .plain => 2 ^ (l.eb + l.fb) - 1

/-- Magnitude of infinity in a format that has one. -/
def Layout.infMag (l : Layout) : Nat := (2 ^ l.eb - 1) * 2 ^ l.fb

/-- The default NaN (R63): quiet bit set, or E4M3's only NaN; E2M1 has none and gives 0. -/
def Layout.nanCode (l : Layout) : Nat :=
  match l.top with
  | .ieee => l.infMag + 2 ^ (l.fb - 1)
  | .e4m3 => 2 ^ (l.eb + l.fb) - 1
  | .plain => 0

/-- The value of a code (R63, R65, R66). -/
def Layout.decode (l : Layout) (x : Nat) : Num :=
  let neg := x / 2 ^ (l.eb + l.fb) % 2 == 1
  let e := x / 2 ^ l.fb % 2 ^ l.eb
  let f := x % 2 ^ l.fb
  if e == 2 ^ l.eb - 1 && l.top == .ieee then (if f == 0 then .inf neg else .nan)
  else if e == 2 ^ l.eb - 1 && l.top == .e4m3 && f == 2 ^ l.fb - 1 then .nan
  else if e == 0 then .fin neg f (1 - (l.bias : Int) - l.fb)
  else .fin neg (2 ^ l.fb + f) ((e : Int) - l.bias - l.fb)

/-- m × 2^k for a shift of either sign, rounded down. -/
def scale (m : Nat) (k : Int) : Nat := if 0 ≤ k then m * 2 ^ k.toNat else m / 2 ^ (-k).toNat

/-- Rounds m / 2^k to an integer by a mode (R76); a negative k is exact. -/
def roundShift (mode : RMode) (neg : Bool) (m : Nat) (k : Int) : Nat :=
  if k ≤ 0 then scale m (-k)
  else
    let d := 2 ^ k.toNat
    let q := m / d
    let r := m % d
    if r == 0 then q
    else match mode with
      | .rne => if 2 * r < d then q else if d < 2 * r then q + 1 else q + q % 2
      | .rz => q
      | .ru => if neg then q else q + 1
      | .rd => if neg then q + 1 else q
      | .ro => q + (1 - q % 2)

/-- A rounded value: a code, or an overflow (R77). -/
inductive Rnd where
  | code (x : Nat)
  | over (neg : Bool)
  deriving DecidableEq, Repr

/-- rnd of a finite value to a layout (R76, R79): the sign stays on a zero. -/
def Layout.round (l : Layout) (mode : RMode) (neg : Bool) (m : Nat) (e : Int) : Rnd :=
  if m == 0 then .code (l.signed neg 0)
  else
    let q : Int := max ((m.log2 : Int) + e - l.fb) (1 - (l.bias : Int) - l.fb)
    let r := roundShift mode neg m (q - e)
    let mag := ((q + l.bias + l.fb) * 2 ^ l.fb).toNat + r - 2 ^ l.fb
    if mag ≤ l.maxMag then .code (l.signed neg mag) else .over neg

/-- The code of an overflow in a format with infinities (R77). -/
def Layout.overflow (l : Layout) (mode : RMode) (neg : Bool) : Nat :=
  let big := match mode with
    | .rne => true
    | .ru => !neg
    | .rd => neg
    | .rz | .ro => false
  l.signed neg (if big then l.infMag else l.maxMag)

/-- The sign of an exact zero sum (R79). -/
def zeroNeg (mode : RMode) (a b : Bool) : Bool := if a == b then a else mode == .rd

/-- An exact sum; none for infinities of opposite sign (R79). -/
def Num.add (mode : RMode) (x y : Num) : Option Num :=
  match x, y with
  | .nan, _ | _, .nan => some .nan
  | .inf a, .inf b => if a == b then some (.inf a) else none
  | .inf a, _ => some (.inf a)
  | _, .inf b => some (.inf b)
  | .fin a m e, .fin b n f =>
    let g := min e f
    let p : Int := scale m (e - g)
    let q : Int := scale n (f - g)
    let t := (if a then -p else p) + (if b then -q else q)
    some (.fin (if t == 0 then (if m == 0 && n == 0 then zeroNeg mode a b else mode == .rd) else t < 0) t.natAbs g)

def Num.neg : Num → Num
  | .nan => .nan
  | .inf a => .inf (!a)
  | .fin a m e => .fin (!a) m e

/-- An exact product; none for zero times infinity. -/
def Num.mul (x y : Num) : Option Num :=
  match x, y with
  | .nan, _ | _, .nan => some .nan
  | .inf a, .inf b => some (.inf (a != b))
  | .inf a, .fin b m _ | .fin b m _, .inf a => if m == 0 then none else some (.inf (a != b))
  | .fin a m e, .fin b n f => some (.fin (a != b) (m * n) (e + f))

def Num.isNan : Num → Bool
  | .nan => true
  | _ => false

def Num.isZero : Num → Bool
  | .fin _ m _ => m == 0
  | _ => false

def Num.isNeg : Num → Bool
  | .nan => false
  | .inf a => a
  | .fin a _ _ => a

/-- Numeric order of values that are not NaN: -1, 0 or 1. +0 equals -0. -/
def Num.cmp (x y : Num) : Int :=
  match x, y with
  | .inf a, .inf b => if a == b then 0 else if a then -1 else 1
  | .inf a, _ => if a then -1 else 1
  | _, .inf b => if b then 1 else -1
  | .fin a m e, .fin b n f =>
    let g := min e f
    let p : Int := scale m (e - g)
    let q : Int := scale n (f - g)
    Int.sign ((if a then -p else p) - (if b then -q else q))
  | _, _ => 0

/-- One element of a result: a code, or new poison of a kind with the code it has when poison mode is off
(R84). -/
inductive El where
  | val (x : Nat)
  | fresh (kind : Nat) (off : Nat)
  deriving DecidableEq, Repr

/-- The result of an FPA or FPS operation in a layout: rounding, R77 overflow, .sat (R76 to R78). -/
def Layout.finish (l : Layout) (mode : RMode) (sat : Bool) (v : Num) : Nat :=
  match v with
  | .nan => l.nanCode
  | .inf a => l.signed a (if sat then l.maxMag else l.infMag)
  | .fin a m e =>
    match l.round mode a m e with
    | .code x => x
    | .over b => if sat then l.signed b l.maxMag else l.overflow mode b

/-- The element of an operation whose exact result is v, none when invalid; `nanIn` says that a source is a
NaN (R84). -/
def Layout.el (l : Layout) (mode : RMode) (sat nanIn : Bool) (v : Option Num) : El :=
  match v with
  | some .nan => .val l.nanCode
  | some x => .val (l.finish mode sat x)
  | none => if nanIn then .val l.nanCode else .fresh 0 l.nanCode

/-- Elements of n bits in a word, lowest first (R67). -/
def elems (n : Nat) (w : Word) : List Nat := (upTo (32 / n)).map fun k => w.toNat / 2 ^ (n * k) % 2 ^ n

/-- Joins elements of n bits, lowest first (R67). -/
def joinEls (n : Nat) : List Nat → Nat
  | [] => 0
  | x :: r => x % 2 ^ n + 2 ^ n * joinEls n r

/-- The words of a number, lowest first. -/
def wordsOf : Nat → Nat → List Word
  | 0, _ => []
  | k + 1, x => BitVec.ofNat 32 x :: wordsOf k (x / 2 ^ 32)

/-! ### Conversions (R81 to R83) -/

def fmtLayout : Fmt → Layout
  | .f16 => lf16
  | .bf16 => lbf16
  | .e4m3 => le4m3
  | .e5m2 => le5m2
  | .e2m1 => le2m1
  | _ => lf32

/-- The value of an E8M0 code (R65). -/
def e8m0Val (x : Nat) : Num := if x % 256 == 255 then .nan else .fin false 1 ((x % 256 : Nat) - 127)

/-- The value of a code of a floating-point format. -/
def fmtDecode (f : Fmt) (x : Nat) : Num := if f == .e8m0 then e8m0Val x else (fmtLayout f).decode x

/-- Bits of an element of a format. -/
def fmtBits : Fmt → Nat
  | .f32 | .s32 | .n32 => 32
  | .f16 | .bf16 | .s16 | .n16 => 16
  | .e4m3 | .e5m2 | .e8m0 | .s8 | .n8 => 8
  | .e2m1 => 4
  | .s64 | .n64 => 64

/-- A conversion to E8M0 (R81, R82). -/
def toE8m0 (mode : RMode) (sat : Bool) (v : Num) : El :=
  match v with
  | .nan => .val 0xFF
  | .inf neg => if neg then .fresh 2 0xFF else if sat then .val 0xFE else .fresh 2 0xFF
  | .fin neg m e =>
    if neg || m == 0 then .fresh 2 0xFF
    else
      let k : Int := (m.log2 : Int) + e
      let one := m == 2 ^ m.log2
      let c := k + 127
      let half := compare (2 * m) (3 * 2 ^ m.log2)
      let up := !one && match mode with
        | .rz | .rd => false
        | .ru => true
        | .rne => half == .gt || (half == .eq && c % 2 != 0)
        | .ro => c % 2 == 0
      let d := if up then c + 1 else c
      if d < 0 then .val 0
      else if 254 < d then (if sat then .val 0xFE else .fresh 2 0xFF)
      else .val d.toNat

/-- A conversion to a floating-point format (R81). An infinite input does not overflow in the sense of R77: it stays infinite in every
mode (assumption 103, DEDUCED). -/
def toFloat (f : Fmt) (mode : RMode) (sat : Bool) (v : Num) : El :=
  let l := fmtLayout f
  if f == .e8m0 then toE8m0 mode sat v
  else match f, v with
    | .e2m1, .nan => .fresh 2 0
    | _, .nan => .val l.nanCode
    | .e2m1, .inf a => .val (l.signed a l.maxMag)
    | .e4m3, .inf a => if sat then .val (l.signed a l.maxMag) else .fresh 2 (l.signed a 0x7F)
    | _, .inf a => .val (l.signed a (if sat then l.maxMag else l.infMag))
    | _, .fin a m e =>
      match l.round mode a m e with
      | .code x => .val x
      | .over b =>
        if sat || f == .e2m1 then .val (l.signed b l.maxMag)
        else if f == .e4m3 then .fresh 2 (l.signed b 0x7F)
        else .val (l.overflow mode b)

/-- Range of an integer type (R68). -/
def intRange : Fmt → Int × Int
  | .s8 => (-128, 127) | .n8 => (0, 255)
  | .s16 => (-32768, 32767) | .n16 => (0, 65535)
  | .s32 => (-2147483648, 2147483647) | .n32 => (0, 4294967295)
  | .s64 => (-9223372036854775808, 9223372036854775807)
  | _ => (0, 18446744073709551615)

/-- An integer as a code of n bits. -/
def codeOf (n : Nat) (x : Int) : Nat := (x % 2 ^ n).toNat

/-- The exact integer nearest a finite value by a mode (R83). -/
def Num.toInt (mode : RMode) (neg : Bool) (m : Nat) (e : Int) : Int :=
  let r : Int := roundShift mode neg m (-e)
  if neg then -r else r

/-- A conversion to an integer type (R81, R83). -/
def toInteger (t : Fmt) (mode : RMode) (sat : Bool) (v : Num) : El :=
  let r := intRange t
  let n := fmtBits t
  let out (x : Int) : El := if sat then .val (codeOf n x) else .fresh 2 (codeOf n x)
  match v with
  | .nan => .fresh 2 0
  | .inf a => out (if a then r.1 else r.2)
  | .fin a m e =>
    let x := Num.toInt mode a m e
    if x < r.1 then out r.1 else if r.2 < x then out r.2 else .val (codeOf n x)

/-- The signed or natural integer of a code (R68). -/
def intVal (signed : Bool) (n : Nat) (x : Nat) : Int :=
  let y := x % 2 ^ n
  if signed && 2 ^ (n - 1) ≤ y then (y : Int) - 2 ^ n else y

def fmtSigned : Fmt → Bool
  | .s8 | .s16 | .s32 | .s64 => true
  | _ => false

/-- An integer as a value. -/
def Num.ofInt (x : Int) : Num := .fin (x < 0) x.natAbs 0

/-! ### A26 (R75) -/

/-- Rounds a value to A26 under rne (R75); the word has bits 5..0 clear. -/
def toA26 (v : Num) : Word :=
  match v with
  | .nan => 0x7FC00000
  | .inf a => if a then 0xFF800000 else 0x7F800000
  | .fin a m e =>
    let sign : Word := if a then 0x80000000 else 0
    if m == 0 then sign
    else
      let q : Int := (m.log2 : Int) + e - 17
      let r := roundShift .rne a m (q - e)
      let top : Int := (r.log2 : Int) + q
      if 128 ≤ top then sign ||| 0x7F800000
      else if top < -126 then sign
      else sign ||| BitVec.ofNat 32 (((top + 127) * 2 ^ 23).toNat + (scale r (23 - (r.log2 : Int)) - 2 ^ 23))

end Sys2Proof.Machine
end

