-- ==== Sys2Proof/Machine/Flags.lean ====
section
/-! DEFINITION. The P tag, the only flag a lane has: how a result's value and tag follow from its sources and
from new poison (spec 04, R84, R87 to R92). -/

namespace Sys2Proof.Machine

/-- The first element that takes new poison. -/
def firstFresh : List El → Option (Nat × Nat)
  | [] => none
  | .fresh kind off :: _ => some (kind, off)
  | _ :: r => firstFresh r

/-- The code of an element with poison mode off (R84). -/
def El.code : El → Nat
  | .val x => x
  | .fresh _ off => off

/-- The value and tag of one lane's result of n registers (R84, R89): a poisoned source makes every register its
merge; new poison of any element, in poison mode, makes every register one provenance word, whose log entry
names an address. -/
def State.tagAt (s : State) (ch : Charge) (addr : Dword) (srcs : List LV) (n bits : Nat) (els : List El) :
    List LV × State :=
  match merge srcs with
  | some w => (List.replicate n ⟨w, true⟩, s)
  | none =>
    match ch.psn, firstFresh els with
    | true, some (kind, _) =>
      let o := s.newOrigin ch kind addr
      (List.replicate n ⟨o.1, true⟩, o.2)
    | _, _ => ((wordsOf n (joinEls bits (els.map El.code))).map fun v => ⟨v, false⟩, s)

/-- The same for a result that no memory word takes. -/
def State.tag (s : State) (ch : Charge) (srcs : List LV) (n bits : Nat) (els : List El) : List LV × State :=
  s.tagAt ch 0 srcs n bits els

/-! ### Poison in narrow blocks (R90 to R92) -/

/-- KCODE of a kind (R91). -/
def kcodeOf : Nat → Nat
  | 0 => 0 | 2 => 1 | 4 => 3 | 6 => 4 | 7 => 5 | 9 => 6 | 8 => 7
  | _ => 2

/-- The kind a KCODE decodes to (R91). -/
def kindOfKcode : Nat → Nat
  | 0 => 0 | 1 => 2 | 2 => 3 | 3 => 4 | 4 => 6 | 5 => 7 | 6 => 9
  | _ => 8

/-- The marker of a block poisoned in its format (R90). -/
def blockMark (origin kind : Nat) : Nat := kcodeOf kind * 8192 + origin % 8192

/-- The poison of a block read as element words and the word that holds its scale byte: none when clean
(R92). -/
def blockPoison (words : List LV) (scale : LV) (scaleByte : Nat) : Option Word :=
  if words.any fun x => x.p then merge (words ++ [scale])
  else if scale.p then some (provWord (provOrigin scale.v) 4 (provCount scale.v))
  else if scaleByte == 255 then
    let mark := (words.headD ⟨0, false⟩).v.toNat % 65536
    some (provWord (mark % 8192) (kindOfKcode (mark / 8192)) 0)
  else none

end Sys2Proof.Machine
end

