-- ==== Sys2Proof/Machine/Operands.lean ====
section
/-! DEFINITION. Operands as elements and numbers, and the completion of lane-local instructions over them
(spec 05, R93 to R98, R111). The rows an operand code reads stand in Ops.lean (`readOpnd`). -/

namespace Sys2Proof

/-- Bits of an element of an INT width (R97). -/
def IntW.bits : IntW → Nat
  | .w32 => 32 | .w16x2 => 16 | .w8x4 => 8 | .w64 => 64

/-- Bits of an element of a shift width (R106). -/
def ShW.bits : ShW → Nat
  | .w32 => 32 | .w16x2 => 16 | .w8x4 => 8

/-- Bits of an element of an FPA or FPS type. -/
def FTy.bits : FTy → Nat
  | .f32 => 32
  | _ => 16

/-- The integer format of an INT type (R68). -/
def IntMod.fmt (md : IntMod) : Fmt :=
  match md.w, md.s with
  | .w32, true => .s32 | .w32, false => .n32
  | .w16x2, true => .s16 | .w16x2, false => .n16
  | .w8x4, true => .s8 | .w8x4, false => .n8
  | .w64, true => .s64 | .w64, false => .n64

end Sys2Proof

namespace Sys2Proof.Machine

/-- The layout of an FPA or FPS type (R111). -/
def ftyLayout : FTy → Layout
  | .f32 => lf32 | .f16x2 => lf16 | .bf16x2 => lbf16

/-- The registers of operand j in lane i as one number, lowest register lowest. -/
def Ex.num (x : Ex) (j i : Nat) : Nat := joinEls 32 ((x.regs j i).map fun r => r.v.toNat)

/-- Element k of operand j in lane i (R67). -/
def Ex.elt (x : Ex) (j i bits k : Nat) : Nat := x.num j i / 2 ^ (bits * k) % 2 ^ bits

/-- Element k of operand j as an integer of a type (R97). -/
def Ex.int (x : Ex) (md : IntMod) (j i k : Nat) : Int := intVal md.s md.w.bits (x.elt j i md.w.bits k)

/-- Element k of operand j as a floating-point value. -/
def Ex.fp (x : Ex) (ty : FTy) (j i k : Nat) : Num := (ftyLayout ty).decode (x.elt j i ty.bits k)

/-- Completes a lane-local instruction whose lanes give n registers of elements, each computed from the sources
listed (R94). -/
def Ex.packed (x : Ex) (n bits : Nat) (srcs : List Nat) (f : Nat → Nat → El) : Res :=
  x.check [] (x.lanewise n fun i s =>
    s.tag (x.charge i) (srcs.map fun j => x.one j i) n bits ((upTo (32 * n / bits)).map (f i)))

/-- Completes a lane-local instruction that gives one number of n registers. -/
def Ex.wide (x : Ex) (n : Nat) (srcs : List Nat) (f : Nat → Nat) : Res :=
  x.packed n (32 * n) srcs fun i _ => .val (f i)

/-- An exact integer wrapped or clamped to a type (R68, R98). -/
def fitInt (f : Fmt) (sat : Bool) (v : Int) : Nat :=
  let r := intRange f
  codeOf (fmtBits f) (if sat then min (max v r.1) r.2 else v)

/-- Completes an INT instruction of n registers whose element is an exact integer (R98). -/
def Ex.intOp (x : Ex) (md : IntMod) (n : Nat) (srcs : List Nat) (f : Nat → Nat → Int) : Res :=
  x.packed n md.w.bits srcs fun i k => .val (fitInt md.fmt md.sat (f i k))

/-- Completes an FPA or FPS instruction whose element is an exact value, none when the operation is invalid
(R84, R111). The sources listed are read as floating point. -/
def Ex.fpOp (x : Ex) (fm : FpMod) (ty : FTy) (srcs : List Nat) (f : Nat → Nat → Option Num) : Res :=
  x.packed 1 ty.bits srcs fun i k =>
    (ftyLayout ty).el fm.mode fm.sat (srcs.any fun j => (x.fp ty j i k).isNan) (f i k)

/-- A comparison's element (R101, R115). -/
def truth (bits : Nat) (one b : Bool) : El := .val (if b then (if one then 1 else 2 ^ bits - 1) else 0)

end Sys2Proof.Machine
end

