-- ==== Sys2Proof/Machine/Fpa.lean ====
section
/-! DEFINITION. The FPA class (spec 05, R111 to R118). -/

namespace Sys2Proof.Machine

/-- A source with its negation modifier (R113). -/
def negIf (n : Bool) (v : Num) : Num := if n then v.neg else v

def Ex.fadd (fm : FpMod) (ty : FTy) (na nb : Bool) (x : Ex) : Res :=
  x.fpOp fm ty [1, 2] fun i k => Num.add fm.mode (negIf na (x.fp ty 1 i k)) (negIf nb (x.fp ty 2 i k))

def Ex.fsub (fm : FpMod) (ty : FTy) (na nb : Bool) (x : Ex) : Res := x.fadd fm ty na (!nb)

def Ex.fmul (fm : FpMod) (ty : FTy) (na nb : Bool) (x : Ex) : Res :=
  x.fpOp fm ty [1, 2] fun i k => Num.mul (negIf na (x.fp ty 1 i k)) (negIf nb (x.fp ty 2 i k))

/-- a × b + c (R112). -/
def Num.fma (mode : RMode) (a b c : Num) : Option Num :=
  if c.isNan then some .nan else (Num.mul a b).bind fun p => Num.add mode p c

/-- FMIN and FMAX of two values, -0 below +0; a NaN yields to a number (R114). -/
def Num.pick (lo : Bool) (a b : Num) : Num :=
  if a.isNan then b
  else if b.isNan then a
  else
    let c := Num.cmp a b
    let less := c < 0 || (c == 0 && a.isNeg && !b.isNeg)
    if less == lo then a else b

def Ex.fpick (lo : Bool) (fm : FpMod) (ty : FTy) (x : Ex) : Res :=
  x.fpOp fm ty [1, 2] fun i k => some (Num.pick lo (x.fp ty 1 i k) (x.fp ty 2 i k))

/-- The conditions of FCMP (R115). -/
def FCond.holds (c : FCond) (a b : Num) : Bool :=
  if a.isNan || b.isNan then c == .ne || c == .unord
  else
    let t := Num.cmp a b
    match c with
    | .eq => t == 0 | .ne => t != 0
    | .lt => t < 0 | .le => t ≤ 0
    | .gt => 0 < t | .ge => 0 ≤ t
    | .ord => true | .unord => false

def Ex.fcmp (ty : FTy) (c : FCond) (x : Ex) : Res :=
  x.packed 1 ty.bits [1, 2] fun i k => truth ty.bits false (FCond.holds c (x.fp ty 1 i k) (x.fp ty 2 i k))

/-- The exact sum of three terms; the zero sign follows R79 over all three (R116). -/
def Num.add3 (mode : RMode) (a b c : Num) : Option Num :=
  match Num.add mode a b with
  | none => if c.isNan then some .nan else none
  | some t =>
    if a.isZero && b.isZero && c.isZero then
      some (.fin (if a.isNeg == b.isNeg && b.isNeg == c.isNeg then a.isNeg else mode == .rd) 0 0)
    else match t, c with
      | .fin _ 0 _, .fin _ 0 _ => some (.fin (mode == .rd) 0 0)
      | _, _ => Num.add mode t c

/-- FDOT2 (R116). -/
def Ex.fdot2 (fm : FpMod) (ty : FTy) (x : Ex) : Res :=
  x.packed 1 32 [1, 2, 3] fun i _ =>
    let c := lf32.decode (x.num 3 i)
    let p (k : Nat) : Option Num := Num.mul (x.fp ty 1 i k) (x.fp ty 2 i k)
    let nanIn := c.isNan || [0, 1].any fun k => (x.fp ty 1 i k).isNan || (x.fp ty 2 i k).isNan
    lf32.el fm.mode fm.sat nanIn ((p 0).bind fun u => (p 1).bind fun v => Num.add3 fm.mode u v c)

/-- a × 2^b; a shift beyond every format's range stands for its limit (R113). -/
def Num.scaleBy (a : Num) (b : Int) : Num :=
  match a with
  | .fin s m e => .fin s m (e + max (min b 2000) (-2000))
  | v => v

def Ex.fscale (fm : FpMod) (ty : FTy) (x : Ex) : Res :=
  x.packed 1 ty.bits [1, 2] fun i k =>
    (ftyLayout ty).el fm.mode fm.sat (x.fp ty 1 i k).isNan
      (some (Num.scaleBy (x.fp ty 1 i k) (intVal true ty.bits (x.elt 2 i ty.bits k))))

/-- FRND: an integer value by the mode, the sign kept on a zero (R117). -/
def Num.rint (mode : RMode) (a : Num) : Num :=
  match a with
  | .fin s m e => if 0 ≤ e then a else .fin s (roundShift mode s m (-e)) 0
  | v => v

/-- FFRACT: a - floor(a), +0 for an integral a (R117). -/
def Num.fract (a : Num) : Option Num :=
  match a with
  | .nan => some .nan
  | .inf _ => none
  | .fin s m e =>
    if 0 ≤ e then some (.fin false 0 0)
    else
      let d := 2 ^ (-e).toNat
      let r := m % d
      some (.fin false (if s && r != 0 then d - r else r) e)

/-- The code of 1.0 less one (R117). -/
def Layout.belowOne (l : Layout) : Nat := l.bias * 2 ^ l.fb - 1

def Ex.ffract (fm : FpMod) (ty : FTy) (x : Ex) : Res :=
  x.packed 1 ty.bits [1] fun i k =>
    let l := ftyLayout ty
    let a := x.fp ty 1 i k
    match l.el fm.mode fm.sat a.isNan a.fract with
    | .val c => .val (if c == l.belowOne + 1 then l.belowOne else c)
    | e => e

/-- The class bit of a value (R118). -/
def Layout.classBit (l : Layout) (a : Num) : Nat :=
  match a with
  | .nan => 8
  | .inf s => if s then 0 else 7
  | .fin s m _ =>
    if m == 0 then (if s then 3 else 4)
    else if m < 2 ^ l.fb then (if s then 2 else 5)
    else if s then 1 else 6

def execFadd (h : Hdr) (fm : FpMod) (ty : FTy) (na nb : Bool) (d a b : Opnd) (s : State) : Res :=
  issue (.fadd h fm ty na nb d a b) s (Ex.fadd fm ty na nb)
def execFsub (h : Hdr) (fm : FpMod) (ty : FTy) (na nb : Bool) (d a b : Opnd) (s : State) : Res :=
  issue (.fsub h fm ty na nb d a b) s (Ex.fsub fm ty na nb)
def execFmul (h : Hdr) (fm : FpMod) (ty : FTy) (na nb : Bool) (d a b : Opnd) (s : State) : Res :=
  issue (.fmul h fm ty na nb d a b) s (Ex.fmul fm ty na nb)
def execFfma (h : Hdr) (fm : FpMod) (ty : FTy) (na nb nc : Bool) (d a b c : Opnd) (s : State) : Res :=
  issue (.ffma h fm ty na nb nc d a b c) s fun x => x.fpOp fm ty [1, 2, 3] fun i k =>
    Num.fma fm.mode (negIf na (x.fp ty 1 i k)) (negIf nb (x.fp ty 2 i k)) (negIf nc (x.fp ty 3 i k))
def execFmin (h : Hdr) (fm : FpMod) (ty : FTy) (d a b : Opnd) (s : State) : Res :=
  issue (.fmin h fm ty d a b) s (Ex.fpick true fm ty)
def execFmax (h : Hdr) (fm : FpMod) (ty : FTy) (d a b : Opnd) (s : State) : Res :=
  issue (.fmax h fm ty d a b) s (Ex.fpick false fm ty)
def execFcmp (h : Hdr) (fm : FpMod) (ty : FTy) (c : FCond) (d a b : Opnd) (s : State) : Res :=
  issue (.fcmp h fm ty c d a b) s (Ex.fcmp ty c)
def execFdot2 (h : Hdr) (fm : FpMod) (ty : FTy) (d a b c : Opnd) (s : State) : Res :=
  issue (.fdot2 h fm ty d a b c) s (Ex.fdot2 fm ty)
def execFscale (h : Hdr) (fm : FpMod) (ty : FTy) (d a b : Opnd) (s : State) : Res :=
  issue (.fscale h fm ty d a b) s (Ex.fscale fm ty)
def execFfract (h : Hdr) (fm : FpMod) (ty : FTy) (d a : Opnd) (s : State) : Res :=
  issue (.ffract h fm ty d a) s (Ex.ffract fm ty)
def execFrnd (h : Hdr) (fm : FpMod) (ty : FTy) (d a : Opnd) (s : State) : Res :=
  issue (.frnd h fm ty d a) s fun x => x.fpOp fm ty [1] fun i k => some ((x.fp ty 1 i k).rint fm.mode)
def execFclass (h : Hdr) (fm : FpMod) (ty : FTy) (d a : Opnd) (s : State) : Res :=
  issue (.fclass h fm ty d a) s fun x => x.packed 1 ty.bits [1] fun i k =>
    .val (2 ^ (ftyLayout ty).classBit (x.fp ty 1 i k))

end Sys2Proof.Machine
end

