-- ==== Sys2Proof/Machine/Maps.lean ====
section
/-! DEFINITION. What the topology maps show and how their updates are asked for, and the records of link directions (spec 17,
R374, R375; 18, R407). -/

namespace Sys2Proof.Machine

/-! ### Maps (R374, R375, R395) -/

/-- The state codes of R389. -/
def PlotSt.code : PlotSt → Nat
  | .vacant => 0 | .seated => 1 | .powered => 2 | .measured => 3 | .trained => 4 | .admitted => 5 | .serving => 6
  | .draining => 7 | .released => 8 | .lost => 9 | .fenced => 10

def kindCode : ModuleKind → Nat
  | .none => 0 | .compute => 1 | .granary => 2

/-- Whether a plot is lost and the containment of its loss has still to begin (R390). -/
def Plot.uncontained (p : Plot) : Bool := p.st == .lost && p.lossOf.isNone

/-- Whether a context's part of the heap at a site is bound. -/
def State.bound (s : State) (ctx site : Nat) : Bool :=
  (s.ctxAt? site ctx).any fun k => k.binding == .bound

/-- What BND of a map shows: a withdrawal clears it only once its wait has ended (R393). -/
def State.shownBound (s : State) (ctx site : Nat) : Bool :=
  (s.ctxAt? site ctx).any fun k => k.binding != .unbound

/-- The state of a plot that maps show: not LOST before the containment of the loss has begun (R390). -/
def Plot.shown (p : Plot) : PlotSt := if p.uncontained then p.was else p.st

/-- The two doublewords of a plot entry (R374). -/
def State.plotEntry (s : State) (ctx site : Nat) : List Dword :=
  let p := s.plot site
  let f (v lo : Nat) : Dword := BitVec.ofNat 64 (v * 2 ^ lo)
  [f p.pup.toNat 40 ||| f p.oup.toNat 38 ||| f (kindCode p.kind) 36 ||| f (if s.shownBound ctx site then 1 else 0) 35 |||
    f p.shown.code 0,
   f p.inc.toNat 32]

/-- The four doublewords of a group's entry (R395). -/
def Group.entry (g : Group) : List Dword :=
  [g.mem.setWidth 64, g.next.setWidth 64, g.set.setWidth 64, BitVec.ofNat 64 (2 ^ 63) ||| g.mg.setWidth 64]

/-- What the map of a context on an island holds: offsets and doublewords, GEN apart (R374). -/
def State.mapWords (s : State) (site ctx : Nat) : List (Nat × Dword) :=
  let groups := ((s.context? ctx).map fun k => k.groups).getD []
  (0x08, s.panel.setWidth 64 ||| BitVec.ofNat 64 (site * 2 ^ 24)) ::
  ((upTo 48).flatMap fun p => (s.plotEntry ctx p).mapIdx fun j x => (0x40 + 16 * p + 8 * j, x)) ++
  ((upTo 16).flatMap fun n => match groups.find? fun g => g.num == n with
    | some g => g.entry.mapIdx fun j x => (0x400 + 32 * n + 8 * j, x)
    | none => (upTo 4).map fun j => (0x400 + 32 * n + 8 * j, 0))

/-- Whether the loss of a plot has still to be contained (R390). -/
def State.containing (s : State) : Bool := s.plots.any Plot.uncontained

/-- Whether the map of a context on an island differs from what it should hold. -/
def State.mapStale (s : State) (site ctx : Nat) : Bool :=
  match s.island? site, s.ctxAt? site ctx with
  | some x, some k => (s.mapWords site ctx).any fun p => x.mem.dword (k.mapFrame * 65536 + p.1) != p.2
  | _, _ => false

/-- Asks for the update of a map to what it should hold now. The updates of one map are published one after another
(R375). -/
def State.publish (s : State) (site ctx : Nat) : State :=
  let job : MapJob := ⟨s.mapWords site ctx, false, false⟩
  let add (k : CtxIsland) : CtxIsland := { k with maps := k.maps ++ [job] }
  match s.ctxAt? site ctx with
  | none => s
  | some k =>
    let known := match k.maps.getLast? with
      | some j => j == job
      | none => !s.mapStale site ctx
    if known then s else s.modCtxAt site ctx add

/-- Whether every update of a context's maps has been published. -/
def State.mapsDone (s : State) (ctx : Nat) : Bool := s.islands.all fun x => (x.ctx? ctx).all fun k => k.maps.isEmpty

/-- Publishes every map of a context. -/
def State.publishCtx (s : State) (ctx : Nat) : State :=
  (s.islands.map fun x => x.site).foldl (fun s site => s.publish site ctx) s

/-- Publishes every map of the panel. -/
def State.publishAll (s : State) : State := (s.contexts.map fun k => k.num).foldl State.publishCtx s

/-! ### Links (R369, R407) -/

/-- The port at the far end of an in-glass hop (R369). -/
def farPort (port : Nat) : Nat := if port < 4 then (port + 2) % 4 else 4 + (port + 2) % 4

/-- A direction whose first key has just been installed, with the flight time it has measured (R407) (assumption 71, DESIGN
CHOICE). -/
def Link.trained (dir : LinkDir) (key : Nat) (epoch flight : Word) : Link :=
  ⟨dir, some key, none, false, epoch, 0, false, false, false, 0, flight⟩

/-- A direction of a link: ports 0 to 7 are the in-glass ports, 8 to 11 what the off-panel lanes 0 to 3 send, 12 to 15 what
arrives on them. -/
def State.link? (s : State) (d : LinkDir) : Option Link := s.links.find? fun l => l.dir == d

def State.setLink (s : State) (l : Link) : State := { s with links := upsert (fun k => k.dir == l.dir) l s.links }

/-- Installs the first key of a direction, and measures its flight time (R407). -/
def State.installLink (s : State) (d : LinkDir) : State :=
  let u := s.fresh
  let e := u.2.free
  let f := e.2.free
  f.2.setLink (.trained d u.1 e.1 f.1)

/-- Both directions of an off-panel lane. -/
def laneDirs (site n : Nat) : List LinkDir := [⟨site, 8 + n⟩, ⟨site, 12 + n⟩]

end Sys2Proof.Machine
end

