-- ==== Sys2Proof/Machine/Window.lean ====
section
/-! DEFINITION. Kernel descriptors, the placement of a gang on a core, and the control windows: the region and
route tables, the off-panel lanes, the firmware launch register (spec 01 R18; 03 R62; 07 R161; 09 R217;
17 R370; 18 R415 to R417). -/

namespace Sys2Proof.Machine

/-! ### Kernel descriptors (R62) -/

/-- n bytes at an offset, lowest first. -/
def leBytes (b : Nat → Byte) (off : Nat) : Nat → Nat
  | 0 => 0
  | n + 1 => (b off).toNat + 256 * leBytes b (off + 1) n

/-- The gang width of a GWC code (R20). -/
def widthOfCode : Nat → Option Nat
  | 1 => some 8
  | 2 => some 16
  | 3 => some 32
  | _ => none

/-- A descriptor's fields, none when a check of R62 refuses it. -/
def Desc.parse (b : Nat → Byte) : Option Desc :=
  let f (off n : Nat) : Nat := leBytes b off n
  match widthOfCode (f 0x08 1) with
  | none => none
  | some w =>
    if f 0x19 1 != 1 || f 0x1A 2 != 0 || f 0x09 1 == 0 || 32 < f 0x09 1 || f 0x0A 1 == 0 || 30 < f 0x0A 1 ||
        f 0x0B 1 + 1 < f 0x0A 1 || 384 < f 0x0C 2 || 65536 < f 0x10 4 || f 0x0E 2 % 4 != 0 || 4096 < f 0x0E 2 ||
        256 < f 0x14 2 || 256 < f 0x16 2 || 1 < f 0x18 1 || f 0x00 8 % 4 != 0 || f 0x1C 4 == 0 || f 0x1C 4 % 4 != 0 then
      none
    else
      some { width := w, gangs := f 0x09 1, frame := f 0x0A 1, framemax := f 0x0B 1 + 1, cbslot := f 0x18 1 == 1,
             localBytes := 1024 * f 0x0C 2, commons := 1024 * f 0x10 4, args := f 0x0E 2, acc := f 0x14 2,
             bars := f 0x16 2, entry := BitVec.ofNat 64 (f 0x00 8) }

/-! ### Placement (R160, R161) -/

/-- The bases a width may take. -/
def basesOf (w : Nat) : List Nat := if w == 32 then [0] else if w == 16 then [0, 2] else [0, 1, 2, 3]

/-- Whether n granules are free in every physical quarter of a placement. -/
def Core.baseFits (c : Core) (w n base : Nat) : Bool := (upTo (w / 8)).all fun q => n ≤ c.freeGran (base + q)

/-- The lowest base at which a launch frame of n granules fits. -/
def Core.place (c : Core) (w n : Nat) : Option Nat := (basesOf w).find? fun b => c.baseFits w n b

/-- The lowest free slot. -/
def Core.freeSlot (c : Core) : Option Nat := (upTo 32).find? fun k => !(c.gangs.any fun g => g.slot == k)

/-! ### The firmware launch register (R18) -/

/-- A store of a descriptor's address to a core's firmware launch register. It is ignored also when the launch
frame fits no physical quarter, and when the descriptor lies outside installed memory; and it launches although a frame waiter or
a handler request stands on the core (assumption 18, DESIGN CHOICE). -/
def State.fwLaunch (s : State) (r : CoreRef) (addr : Dword) : State :=
  let a := addr.toNat
  if !s.installed r a 32 then s
  else
    if (upTo 32).any fun k => (s.wordI r ((a + k) / 4)).p then s
    else match Desc.parse fun k => byteOf (s.wordI r ((a + k) / 4)).v ((a + k) % 4) with
      | none => s
      | some d =>
        if d.gangs != 1 || d.localBytes != 0 || d.args != 0 || d.commons != 0 || d.acc != 0 || d.bars != 0 || d.cbslot then s
        else match (s.core r).freeSlot, (s.core r).place d.width d.frame with
          | some slot, some base =>
            let u := s.fresh
            let g := Gang.firmware u.1 slot d.width base u.1 d.frame d.framemax d.entry
            u.2.modCore r fun c => { c with gangs := insertGang g c.gangs, wgs := c.wgs ++ [.firmware u.1] }
          | _, _ => s

/-! ### Off-panel lanes (R415 to R417) -/

/-- A lane at reset. -/
def OlLane.reset : OlLane where
  slotField := 0
  act := false
  len := false
  up := false
  merr := false
  eyeok := false
  tdone := false
  lrdy := false
  lock := 0
  maplo := 0x76543210
  maphi := 0x98
  htr := []
  drop := []
  unmeasured := []
  training := none

def Island.lane (x : Island) (n : Nat) : OlLane := lookupD n .reset x.lanes

/-- The slot that carries logical wavelength j. -/
def OlLane.map (l : OlLane) (j : Nat) : Nat :=
  if j < 8 then (l.maplo.extractLsb' (4 * j) 4).toNat else l.maphi / 2 ^ (4 * (j - 8)) % 16

/-- Whether a write of ACT = 1 is refused, LEN and the training as the write leaves them (R417). -/
def OlLane.refuses (l : OlLane) : Bool :=
  let slots := (upTo 10).map l.map
  (slots.any fun k => l.lock / 2 ^ k % 2 == 0) || !slots.Nodup || !l.len || !l.lrdy || l.training.isSome

/-- A write of ol.ctl (R415, R417) (assumption 37, DEDUCED). -/
def OlLane.writeCtl (l : OlLane) (v : Word) : OlLane :=
  let slot := (v.extractLsb' 8 4).toNat
  let l1 : OlLane := { l with slotField := slot, act := bitOf v 2, len := bitOf v 0, lrdy := l.lrdy && bitOf v 0, merr := false }
  let l2 : OlLane :=
    if !bitOf v 1 then l1
    else if 12 ≤ slot then { l1 with merr := true }
    else { l1 with tdone := false, eyeok := false, training := some slot }
  if !l2.act then { l2 with up := false }
  else if l2.refuses then { l2 with up := false, merr := true }
  else { l2 with up := true }

/-- A write of ol.lock, ol.maplo or ol.maphi (R417). -/
def OlLane.writeMap (l : OlLane) (f : OlLane → OlLane) : OlLane := if l.up then { l with merr := true } else f l

/-- A write of ol.ring s: the heater code, and a measurement outstanding (R416). -/
def OlLane.writeRing (l : OlLane) (s : Nat) (v : Word) : OlLane :=
  { l with htr := setAt s (v.toNat % 4096) l.htr, unmeasured := insertUp s l.unmeasured }

/-- A 4-byte write at an offset of a lane's block. -/
def OlLane.write (l : OlLane) (off : Nat) (v : Word) : OlLane :=
  if off == 0x000 then l.writeCtl v
  else if off == 0x008 then l.writeMap fun k => { k with lock := v.toNat % 4096 }
  else if off == 0x00C then l.writeMap fun k => { k with maplo := v }
  else if off == 0x010 then l.writeMap fun k => { k with maphi := v.toNat % 256 }
  else if 0x040 ≤ off && off < 0x070 && off % 4 == 0 then l.writeRing ((off - 0x040) / 4) v
  else l

/-- A 4-byte read at an offset of a lane's block; none while a measurement is outstanding (R416). -/
def OlLane.read (l : OlLane) (off : Nat) : Option Word :=
  let b (x : Bool) (k : Nat) : Nat := if x then 2 ^ k else 0
  if off == 0x000 then some (BitVec.ofNat 32 (256 * l.slotField + b l.act 2 + b l.len 0))
  else if off == 0x004 then
    some (BitVec.ofNat 32 (b l.up 4 + b l.merr 3 + b l.eyeok 2 + b l.tdone 1 + b l.lrdy 0))
  else if off == 0x008 then some (BitVec.ofNat 32 l.lock)
  else if off == 0x00C then some l.maplo
  else if off == 0x010 then some (BitVec.ofNat 32 l.maphi)
  else if 0x040 ≤ off && off < 0x070 && off % 4 == 0 then
    let k := (off - 0x040) / 4
    if l.unmeasured.contains k then none
    else some (BitVec.ofNat 32 (65536 * (lookupD k (0 : BitVec 16) l.drop).toNat + lookupD k 0 l.htr))
  else some 0

/-- OUP of an island's plot: a port is up while one of its lanes is (R374, R417). -/
def Island.oup (x : Island) : BitVec 2 :=
  let up (k : Nat) : Bool := (x.lane (2 * k)).up || (x.lane (2 * k + 1)).up
  BitVec.ofNat 2 ((if up 0 then 1 else 0) + (if up 1 then 2 else 0))

/-- The link records of a lane that comes into service or leaves it: keys are installed and the flight time is measured as it
comes up, and they go with it (R407) (assumption 71, DESIGN CHOICE). -/
def State.laneLinks (s : State) (site n : Nat) (was now : Bool) : State :=
  if was == now then s
  else if now then (laneDirs site n).foldl State.installLink s
  else { s with links := s.links.filter fun l => !(laneDirs site n).contains l.dir }

/-- Updates lane n, and with it OUP of the plot, which every map shows (R374, R417). The optical engine is in reset until step 4,
and its registers stay as they are (R403) (assumption 37, DEDUCED). -/
def State.modLane (s : State) (site n : Nat) (f : OlLane → OlLane) : State :=
  match s.island? site with
  | none => s
  | some y =>
    if y.resetStep < 4 then s
    else
      let s1 := s.modIsland site fun x => { x with lanes := setAt n (f (x.lane n)) x.lanes }
      match s1.island? site with
      | none => s1
      | some x =>
        let s2 := s1.laneLinks site n (y.lane n).up (x.lane n).up
        if (s2.plot site).oup == x.oup then s2 else (s2.modPlot site fun p => { p with oup := x.oup }).publishAll

/-! ### The tables (R217, R370) -/

def Island.region (x : Island) (i : Nat) : Dword × Dword := lookupD i (0, 0) x.regions
def Island.route (x : Island) (n : Nat) : Dword × Dword := lookupD n (BitVec.allOnes 64, 0) x.routes

/-- The region-table entry that applies to an island-physical frame: the lowest valid one that covers it (R217). -/
def Island.regionOf (x : Island) (frame : Nat) : Option (Dword × Dword) :=
  (upTo 64).findSome? fun i =>
    let e := x.region i
    if e.1.getLsbD 0 && (e.1 >>> 20).toNat ≤ frame && frame ≤ (e.2 >>> 20).toNat then some e else none

/-- The home die of a frame; a granary has one base die (R217). -/
def Island.home (x : Island) (frame : Nat) : Nat :=
  match x.regionOf frame with
  | some e => if !x.granary && e.2.getLsbD 0 then 1 else 0
  | none => 0

/-- The controllers and the granule in bytes over which a frame interleaves, no granule for a reserved code (R217). -/
def Island.interleave (x : Island) (frame : Nat) : BitVec 12 × Option Nat :=
  match x.regionOf frame with
  | some e => (e.2.extractLsb' 4 12, ([256, 1024, 4096, 16384, 65536] : List Nat)[(e.2.extractLsb' 1 3).toNat]?)
  | none => (BitVec.ofNat 12 (2 ^ (if x.granary then 12 else 8) - 1), some 4096)

/-- The bank of a Commons offset (R215). -/
def bankOf (off : Nat) : Nat := off / 64 % 256

/-- Writes a doubleword of a region-table entry, reserved bits 0. -/
def Island.setRegion (x : Island) (i : Nat) (hi : Bool) (v : Dword) : Island :=
  let p := x.region i
  { x with regions := setAt i (if hi then (p.1, v &&& ~~~0xF0000) else (v &&& ~~~0xFFFFE, p.2)) x.regions }

/-- Writes a doubleword of a route, reserved bits 0. -/
def Island.setRoute (x : Island) (n : Nat) (hi : Bool) (v : Dword) : Island :=
  let p := x.route n
  { x with routes := setAt n (if hi then (p.1, v &&& 0x8000000007FFFFFF) else (v, p.2)) x.routes }

/-- A doubleword of the control window, without the lanes. -/
def State.winDword (s : State) (r : CoreRef) (off : Nat) : Dword :=
  if off == 0x40000 then BitVec.ofNat 64 (32 - (s.core r).gangs.length)
  else match r.site.bind s.island? with
    | none => 0
    | some x =>
      let half (p : Dword × Dword) : Dword := if off % 16 == 8 then p.2 else p.1
      if 0x10000 ≤ off && off < 0x10400 then half (x.region ((off - 0x10000) / 16))
      else if off == 0x10400 then x.generation.setWidth 64
      else if 0x20010 ≤ off && off < 0x21000 then half (x.route ((off - 0x20000) / 16))
      else 0

/-- Writes a doubleword of the tables. -/
def State.setWinDword (s : State) (r : CoreRef) (off : Nat) (v : Dword) : State :=
  match r.site with
  | none => s
  | some site => s.modIsland site fun x =>
    if 0x10000 ≤ off && off < 0x10400 then x.setRegion ((off - 0x10000) / 16) (off % 16 == 8) v
    else if off == 0x10400 then { x with generation := v.setWidth 16 }
    else if 0x20010 ≤ off && off < 0x21000 then x.setRoute ((off - 0x20000) / 16) (off % 16 == 8) v
    else x

/-- Whether an address lies in a control window. The window ends after its last listed register, and an
unlisted offset reads 0 and ignores writes, as R415 says of the lanes (assumption 19, DEDUCED). -/
def inWindow (a : Nat) : Bool := Config.windowBase ≤ a && a < Config.windowBase + 0x40008

/-- Whether an offset lies in the off-panel lanes' blocks. -/
def laneOff (off : Nat) : Bool := 0x30000 ≤ off && off < 0x30800

/-- Reads n bytes, at most 8, at an offset; none while the read must wait (R416). -/
def State.winRead (s : State) (r : CoreRef) (off n : Nat) : Option Dword :=
  if laneOff off then
    match r.site.bind s.island? with
    | none => some 0
    | some x =>
      if n != 4 then some 0
      else ((x.lane ((off - 0x30000) / 0x200)).read ((off - 0x30000) % 0x200)).map fun w => w.setWidth 64
  else some (BitVec.ofNat 64 ((s.winDword r (alignDown off 8)).toNat / 2 ^ (8 * (off % 8)) % 2 ^ (8 * n)))

/-- Stores n bytes at an offset; a 16-byte store acts as two stores of 8 bytes, and launches nothing. No write of a register triggers
a monitor (assumption 118, DESIGN CHOICE). -/
def State.winWrite (s : State) (r : CoreRef) (off n : Nat) (v : Nat) : State :=
  if laneOff off then
    match r.site, n == 4 with
    | some site, true => s.modLane site ((off - 0x30000) / 0x200) fun l => l.write ((off - 0x30000) % 0x200) (BitVec.ofNat 32 v)
    | _, _ => s
  else if off == 0x40000 then (if n == 8 then s.fwLaunch r (BitVec.ofNat 64 v) else s)
  else
    let put (s : State) (off n v : Nat) : State :=
      let o := alignDown off 8
      let old := (s.winDword r o).toNat
      let k := 2 ^ (8 * (off % 8))
      s.setWinDword r o (BitVec.ofNat 64 (old - old / k % 2 ^ (8 * n) * k + v % 2 ^ (8 * n) * k))
    if n == 16 then put (put s off 8 (v % 2 ^ 64)) (off + 8) 8 (v / 2 ^ 64) else put s off n v

/-- A measurement of the ring at an offset, whose DROP is a free value (R416; assumption 2, DESIGN CHOICE). -/
def State.measureRing (s : State) (r : CoreRef) (off : Nat) : State :=
  let k := (off % 0x200 - 0x040) / 4
  let f := s.free
  match r.site with
  | none => s
  | some site => f.2.modLane site ((off - 0x30000) / 0x200) fun l =>
      { l with drop := setAt k (f.1.setWidth 16) l.drop, unmeasured := remove k l.unmeasured }

/-- Reads n bytes at an offset in a step that holds the measurement for which a read of a ring waits (R416). -/
def State.winFetch (s : State) (r : CoreRef) (off n : Nat) : Dword × State :=
  let t := if (s.winRead r off n).isNone then s.measureRing r off else s
  ((t.winRead r off n).getD 0, t)

end Sys2Proof.Machine
end

