-- ==== Sys2Proof/Machine/Mem.lean ====
section
/-! DEFINITION. The MEM and ATM classes, FENCE and CCTL: addresses, the checks before an access, loads, stores,
atomics, bank sweeps (spec 10). -/

namespace Sys2Proof

/-- Bytes of an access (R228). -/
def MemSize.bytes : MemSize → Nat
  | .b8 | .s8 => 1
  | .b16 | .s16 => 2
  | .b32 => 4
  | .b64 => 8
  | .b128 => 16

/-- Whether a load extends the sign (R230). -/
def MemSize.signed : MemSize → Bool
  | .s8 | .s16 => true
  | _ => false

end Sys2Proof

namespace Sys2Proof.Machine

/-- What an access instruction asks for: the space, none for the argument block; the bytes; the kind; the level of
a global access on a page with CP = 0; the position of operand A, which B follows; the displacement. -/
structure Acc where
  sp : Option Space
  n : Nat
  kind : Access
  lvl : Lvl
  ja : Nat
  disp : Word
  deriving DecidableEq, Repr

/-- The effective address of a lane (R228). -/
def Ex.ea (x : Ex) (a : Acc) (i : Nat) : Dword :=
  if a.sp == some .global then x.pair a.ja i + (x.lv (a.ja + 1) i).v.signExtend 64 + a.disp.signExtend 64
  else ((x.lv a.ja i).v + (x.lv (a.ja + 1) i).v + a.disp).setWidth 64

/-- Bytes of a space that an agent may reach (R205). -/
def Ex.limit (x : Ex) : Option Space → Nat
  | some .global => 2 ^ 64
  | some .scratch => x.wg.localBytes
  | some .commons => x.s.quotaOf x.who
  | none => x.wg.argBytes

/-- The cause of an access out of range (R205). -/
def rangeCause : Option Space → Cause
  | some .global => .noncanonical
  | some .scratch => .scratchRange
  | some .commons => .commonsRange
  | none => .argsRange

/-- The range check of R205 for a byte range: canonical form below M level, or the limit of the space, with the
first offset out of range. -/
def Ex.rangeRaised (x : Ex) (ord lane : Nat) (sp : Option Space) (a n : Nat) : List Raised :=
  if sp == some .global then
    if x.g.ctx.isSome && !canonical (BitVec.ofNat 64 a) then [.lane' ord .noncanonical lane (BitVec.ofNat 64 a)] else []
  else if x.limit sp < a + n then [.lane' ord (rangeCause sp) lane (BitVec.ofNat 64 (max a (x.limit sp)))]
  else []

/-- The translation of a lane's access (R222). -/
def Ex.tr (x : Ex) (a : Acc) (i : Nat) : Tr :=
  if a.sp == some .global then translate x.tlbs x.g.ctx x.g.pl a.kind (x.ea a i) else .ok (x.ea a i).toNat false

/-- The first check of R229 that a lane fails; `data` is what a store without .pz stores. -/
def Ex.accRaised (x : Ex) (a : Acc) (data : Nat → List LV) (i : Nat) : List Raised :=
  let ea := x.ea a i
  firstOf [
    poisons 0 .poisonAddress i [x.one a.ja i, x.one (a.ja + 1) i],
    if ea.toNat % a.n != 0 then [.lane' 1 .addrMisaligned i ea] else [],
    x.rangeRaised 2 i a.sp ea.toNat a.n,
    poisons 3 .poisonStore i (data i),
    if x.tr a i == .quarantined then [.lane' 4 .pageQuarantined i ea] else []]

/-- Parks on a lane's access (R224). A leaf that does not permit it is reported to the host at once; a miss starts a
walk. -/
def Ex.parkAt (x : Ex) (va : Dword) (kind : Access) (lane : Nat) (t : Tr) : Res :=
  let cause := match t with | .denied c => some c | _ => none
  let s1 := x.s.modFlow x.ag fun f => { f with run := .parked ⟨va, kind, lane, cause⟩, readyFor := 0, aged := false }
  .next (match cause with
    | some c => s1.report x.g.ctx (.fault va c)
    | none => s1)

/-- Whether a walk of the island's tables finds a leaf for an address that the TLB does not hold (R221, R223). -/
def Ex.walks (x : Ex) (va : Dword) (kind : Access) : Bool :=
  match translate x.tlbs x.g.ctx x.g.pl kind va, x.ag.core.site.bind x.s.island?, x.g.ctx with
  | .miss, some y, some c => y.walkTo c .m kind va != .denied .pageNotPresent
  | _, _, _ => false

/-- PARKING over the accesses of an instruction, as (lane, address, kind): pages whose walk finds a leaf are walked
first, so that a page with Q = 1 makes the instruction trap whatever the other lanes meet; then the first page that is
not mapped or not permitted parks the gang (R224) (assumption 32, DEDUCED). -/
def Ex.parkOn (x : Ex) (l : List (Nat × Dword × Access)) (k : Res) : Res :=
  let tr (p : Nat × Dword × Access) : Tr := translate x.tlbs x.g.ctx x.g.pl p.2.2 p.2.1
  match l.find? fun p => x.walks p.2.1 p.2.2 with
  | some (i, va, kind) => x.parkAt va kind i .miss
  | none => match l.find? fun p => match tr p with | .miss | .denied _ => true | _ => false with
    | some (i, va, kind) => x.parkAt va kind i (tr (i, va, kind))
    | none => k

/-- The control-window offset that an M-level access names (R217). -/
def Ex.winOff (x : Ex) (a : Acc) (i : Nat) : Option Nat :=
  let ea := (x.ea a i).toNat
  if a.sp == some .global && x.g.ctx.isNone && inWindow ea then some (ea - Config.windowBase) else none

/-- An M-level access to an address that is neither installed memory nor the control window
(assumption 8, DESIGN CHOICE). -/
def Ex.hole (x : Ex) (a : Acc) (i : Nat) : Bool :=
  a.sp == some .global && x.g.ctx.isNone && (x.winOff a i).isNone && !x.s.installed x.ag.core (x.ea a i).toNat a.n

/-- THE CHECKS BEFORE AN ACCESS: every lane passes them, or the instruction traps or parks and performs nothing
(R229). -/
def Ex.access (x : Ex) (a : Acc) (data : Nat → List LV) (k : Res) : Res :=
  x.check (x.set.flatMap (x.accRaised a data))
    (x.parkOn (if a.sp == some .global then x.set.map fun i => (i, x.ea a i, a.kind) else [])
      (match x.set.find? (x.hole a) with
        | some i => .fault (.physicalHole (x.ea a i).toNat)
        | none => k))

/-- The level at which a lane's access is made (R212, R249). -/
def Ex.lvlAt (x : Ex) (a : Acc) (i : Nat) : Lvl :=
  match x.tr a i with
  | .ok _ true => .i
  | _ => a.lvl

/-- The physical address or offset of a lane's access. -/
def Ex.pa (x : Ex) (a : Acc) (i : Nat) : Nat :=
  match x.tr a i with
  | .ok p _ => p
  | _ => 0

/-- Word k of a lane's access. -/
def Ex.loc (x : Ex) (a : Acc) (i k : Nat) : Loc :=
  let w := x.pa a i / 4 + k
  match a.sp with
  | some .global => .global (x.lvlAt a i) w
  | some .commons => .commons w
  | _ => .scratch w

/-- Words that an access of n bytes touches. -/
def wordsIn (n : Nat) : Nat := max 1 (n / 4)

/-- The address of word k of a lane's access. -/
def Ex.wordAddr (x : Ex) (a : Acc) (i k : Nat) : Dword := BitVec.ofNat 64 (alignDown (x.ea a i).toNat 4 + 4 * k)

/-- Reads the words of a lane's access, ascending (R230, R231); `pay`: they are delivered to the core. -/
def Ex.readWords (x : Ex) (a : Acc) (pay : Bool) (i : Nat) (s : State) (seen : Seen) : List LV × State × Seen :=
  if a.sp == none then ((upTo (wordsIn a.n)).map fun k => x.wg.args.word (x.pa a i / 4 + k), s, seen)
  else (upTo (wordsIn a.n)).foldl (fun p k =>
    let r := p.2.1.readUe x.who (x.charge i) (x.loc a i k) (x.wordAddr a i k) pay p.2.2
    (p.1 ++ [r.1], r.2.1, r.2.2)) ([], s.settleRead x.s x.ag.core ((upTo (wordsIn a.n)).map (x.loc a i)), seen)

/-- Poisoned words as provenance (R230). -/
def forced (ws : List LV) : List LV := ws.map LV.asProv

/-- The registers a load gives from the words it read (R230). -/
def loadRegs (n ea : Nat) (signed : Bool) (ws : List LV) : List LV :=
  match merge (forced ws) with
  | some w => ws.map fun _ => ⟨w, true⟩
  | none =>
    if 4 ≤ n then ws
    else
      let v := (laneAt ws 0).v.toNat / 2 ^ (8 * (ea % 4)) % 2 ^ (8 * n)
      [⟨if signed && 2 ^ (8 * n - 1) ≤ v then BitVec.ofNat 32 (2 ^ 32 + v - 2 ^ (8 * n)) else BitVec.ofNat 32 v, false⟩]

/-- Reads a control-window lane as words: 16 bytes are two reads of 8; none while a read must wait. -/
def Ex.winWords (x : Ex) (off n : Nat) : Option (List LV) :=
  let get (o m : Nat) : Option Dword := x.s.winRead x.ag.core o m
  let two (d : Dword) : List LV := [⟨loWord d, false⟩, ⟨hiWord d, false⟩]
  if n == 16 then
    match get off 8, get (off + 8) 8 with
    | some a, some b => some (two a ++ two b)
    | _, _ => none
  else (get off n).map fun d => if n == 8 then two d else [⟨loWord d <<< (8 * (off % 4)), false⟩]

/-- The lanes' loaded registers, ascending. -/
def Ex.loadLanes (x : Ex) (a : Acc) (signed : Bool) : List Nat → State → Seen → List (Nat × List LV) × State
  | [], s, _ => ([], s)
  | i :: is, s, seen =>
    let ea := (x.ea a i).toNat
    match x.winOff a i with
    | some off =>
      let q := x.loadLanes a signed is s seen
      ((i, loadRegs a.n ea signed ((x.winWords off a.n).getD [])) :: q.1, q.2)
    | none =>
      let r := x.readWords a true i s seen
      let q := x.loadLanes a signed is r.2.1 r.2.2
      ((i, loadRegs a.n ea signed r.1) :: q.1, q.2)

/-- Whether a lane reads a register of the control window whose measurement is outstanding (R416). -/
def Ex.winWaits (x : Ex) (a : Acc) : Bool :=
  x.set.any fun i => match x.winOff a i with
    | some off => (x.winWords off a.n).isNone
    | none => false

/-- What an access's policy says of the lines that its lanes have used (R212). -/
def Ex.retention (x : Ex) (pol : Policy) (a : Acc) (s : State) : State :=
  (x.set.filter fun i => (x.winOff a i).isNone).foldl (fun s i => match x.tr a i with
    | .ok pa cp => s.retention x.s x.ag.core pol cp (pa / 128)
    | _ => s) s

/-- Loads (R230); `acq` acts after the reads (R236), and an empty lane set, which reads nothing, acquires nothing
(assumption 101, DESIGN CHOICE). -/
def Ex.load (x : Ex) (a : Acc) (sz : MemSize) (acq : State → State) : Res :=
  x.access a (fun _ => [])
    (if x.winWaits a then x.wait x.s .ringRead
     else
      let r := x.loadLanes a sz.signed x.set x.s []
      x.result (if x.set.isEmpty then r.2 else acq r.2) (rowsOf x.w sz.regs r.1))

/-! ### Stores -/

/-- Whether a write of n bytes falls in the B extent of an MMQ of a gang whose pass has not started; `before` bounds
the operation's number (R270). -/
def Core.holdsWrite (c : Core) (uid before : Nat) (sp : Space) (lo n : Nat) : Bool :=
  c.tops.any fun t => t.gang == uid && t.id < before && t.b.isNone && match t.act with
    | .mmq _ bf commons b0 _ =>
      sp == (if commons then .commons else .scratch) && lo < b0 + bf.extent && b0 < lo + n
    | _ => false

/-- Waits while a write would reach the B extent of an unstarted MMQ of the gang (R270). -/
def Ex.hold (x : Ex) (sp : Option Space) (ranges : List (Nat × Nat)) (k : Res) : Res :=
  if ranges.any fun p => match sp with
      | some q => x.core.holdsWrite x.g.uid x.s.uid q p.1 p.2
      | none => false
  then x.wait x.s .storeHold else k

/-- The byte ranges that the lanes of an access touch. -/
def Ex.ranges (x : Ex) (a : Acc) : List (Nat × Nat) := x.set.map fun i => ((x.ea a i).toNat, a.n)

/-- Stores one lane's data (R233). -/
def Ex.storeLane (x : Ex) (a : Acc) (s : State) (i : Nat) : State :=
  let off := (x.ea a i).toNat % 4
  (upTo (wordsIn a.n)).foldl (fun s k =>
    let r := x.lvk 0 k i
    if r.p then s.writeLoc x.who (x.loc a i k) r 15 true
    else if 4 ≤ a.n then s.writeLoc x.who (x.loc a i k) r 15 true
    else s.writeLoc x.who (x.loc a i k) ⟨r.v <<< (8 * off), false⟩ (BitVec.ofNat 4 ((2 ^ a.n - 1) * 2 ^ off)) false) s

/-- The control-window lanes of a store: each register acts once, on the value the highest lane leaves (R233,
R415). -/
def Ex.storeWin (x : Ex) (a : Acc) (s : State) : State :=
  let l := x.set.filterMap fun i => (x.winOff a i).map fun off => (i, off)
  (l.filter fun p => !(l.any fun q => p.1 < q.1 && q.2 == p.2)).foldl
    (fun s p => s.winWrite x.ag.core p.2 a.n (x.num 0 p.1 % 2 ^ (8 * a.n))) s

/-- Ties the last n writes of the core's die: an agent of the other die sees them all or none (R232, R233). -/
def State.tieDie (s : State) (r : CoreRef) (n : Nat) : State :=
  s.modIsland (r.site.getD 0) fun y => { y with l2 := setAt r.die (tieLast n (y.queue r.die)) y.l2 }

/-- Whether a location is first written at D. -/
def Loc.isD : Loc → Bool
  | .global .d _ => true
  | _ => false

/-- Whether a location is first written in the core's L1. -/
def Loc.isC : Loc → Bool
  | .global .c _ => true
  | _ => false

/-- The lanes of a store, ascending, in memory. Writes first performed at D go on to I together: their lines leave L1 before
the first of them, and L2 has room for all of them; those of L1 stand in it together, too (R232, R233, R251). -/
def Ex.storeLanes (x : Ex) (a : Acc) (lanes : List Nat) (s : State) : State :=
  let ds := lanes.filter fun i => x.ag.core.isCompute && (x.loc a i 0).isD
  let cs := lanes.filter fun i => x.ag.core.isCompute && (x.loc a i 0).isC
  let room := (ds.foldl (fun s i => s.leaveLine x.ag.core (x.pa a i / 128)) s).fillAll x.ag.core (cs.map fun i => x.pa a i / 4)
  let s1 := lanes.foldl (x.storeLane a)
    (if ds.isEmpty then room else room.roomD (x.ag.core.site.getD 0) x.ag.core.die (ds.map fun i => x.pa a i / 128))
  if ds.isEmpty then s1 else s1.tieDie x.ag.core (ds.length * wordsIn a.n)

/-- Stores (R233); `rel` acts before the writes (R236), and an empty lane set, which writes nothing, releases nothing
(assumption 101, DESIGN CHOICE). The policy acts on the lines written (R212). -/
def Ex.store (x : Ex) (a : Acc) (pz : Bool) (rel : State → State) (pol : Policy := .normal) : Res :=
  x.access a (fun i => if pz then [] else x.regs 0 i)
    (x.hold a.sp (x.ranges a)
      (let s1 := if x.set.isEmpty then x.s else rel x.s
       x.done (x.storeWin a (x.retention pol a (x.storeLanes a (x.set.filter fun i => (x.winOff a i).isNone) s1)))))

/-! ### Atomics (R227, R237 to R240) -/

/-- The elements of the new value of an atomic, with their size (R227). -/
def atomEls (op : AtomOp) (o v : Nat) : Nat × List El :=
  let so := (BitVec.ofNat 32 o).toInt
  let sv := (BitVec.ofNat 32 v).toInt
  let add (l : Layout) (a b : Nat) : El :=
    let p := l.decode a
    let q := l.decode b
    l.el .rne false (p.isNan || q.isNan) (Num.add .rne p q)
  let pick (lo : Bool) : El := lf32.el .rne false false (some (Num.pick lo (lf32.decode o) (lf32.decode v)))
  let w (n : Nat) : Nat × List El := (32, [.val (n % 2 ^ 32)])
  let halves (l : Layout) : Nat × List El :=
    (16, [add l (o % 65536) (v % 65536), add l (o / 65536 % 65536) (v / 65536 % 65536)])
  match op with
  | .add => w (o + v)
  | .sub => w (o + 2 ^ 32 - v)
  | .minS => w (if so ≤ sv then o else v)
  | .maxS => w (if sv ≤ so then o else v)
  | .minN => w (min o v)
  | .maxN => w (max o v)
  | .andb => w (o &&& v)
  | .orb => w (o ||| v)
  | .xorb => w (o ^^^ v)
  | .xchg => w v
  | .inc => w (if v ≤ o then 0 else o + 1)
  | .dec => w (if o == 0 || v < o then v else o - 1)
  | .fadd => (32, [add lf32 o v])
  | .faddF16x2 => halves lf16
  | .faddBf16x2 => halves lbf16
  | .fmin => (32, [pick true])
  | .fmax => (32, [pick false])
  | .add64 => (64, [.val ((o + v) % 2 ^ 64)])

/-- Words as a number, lowest first. -/
def numOf (ws : List LV) : Nat := joinEls 32 (ws.map fun w => w.v.toNat)

/-- The new words of an atomic, sources o then v, each as one, a word read from memory in the provenance form also when a
sub-word store has changed it (R85, R87, R238) (assumption 102, DEDUCED). -/
def State.atomNew (s : State) (ch : Charge) (addr : Dword) (op : AtomOp) (o v : List LV) : List LV × State :=
  if op == .xchg then (v, s)
  else
    let r := atomEls op (numOf o) (numOf v)
    s.tagAt ch addr [joinSrc (forced o), joinSrc (forced v)] o.length r.1 r.2

/-- The new words of a swap, none when nothing is written (R240). -/
def casNew (o c v : List LV) : Option (List LV) :=
  match merge [joinSrc (forced o), joinSrc v, joinSrc c] with
  | some w => some (o.map fun _ => ⟨w, true⟩)
  | none => if o.map (fun z => z.v) == c.map (fun z => z.v) then some v else none

/-- The old value as an atomic returns it (R89, R237). -/
def oldRegs (o : List LV) : List LV :=
  match merge [joinSrc (forced o)] with
  | some w => o.map fun _ => ⟨w, true⟩
  | none => o

/-- Writes the words of one lane, whole and together (R232). -/
def Ex.putWords (x : Ex) (a : Acc) (i : Nat) (ws : List LV) (s : State) : State :=
  let s1 := (upTo ws.length).foldl (fun s k => s.writeLoc x.who (x.loc a i k) (laneAt ws k) 15 true) s
  if x.ag.core.isCompute && (x.loc a i 0).isD then s1.tieDie x.ag.core ws.length else s1

/-- The read and write of one lane of an atomic on the control window: a read, then a write of the result
(assumption 19, DEDUCED). Only a store launches a gang (R18). A lane that reads a ring which an earlier lane has written waits for a measurement, which this
step holds (R416). -/
def Ex.atomWin (x : Ex) (off n : Nat) (new : List LV → State → Option (List LV) × State) (s : State) : List LV × State :=
  let d := s.winFetch x.ag.core off n
  let o : List LV := if n == 8 then [⟨loWord d.1, false⟩, ⟨hiWord d.1, false⟩] else [⟨loWord d.1, false⟩]
  let r := new o d.2
  (o, match r.1 with
    | some ws => if off == 0x40000 then r.2 else r.2.winWrite x.ag.core off n (numOf ws)
    | none => r.2)

/-- Old values on their way to the core from where an atomic was performed: a payload error poisons the delivered copy alone
(R231). -/
def Ex.payload (x : Ex) (a : Acc) (i : Nat) (ws : List LV) (s : State) : List LV × State :=
  let one (p : List LV × State) (v : LV) : List LV × State :=
    let k := p.1.length
    let hit (e : Phys) : Bool := match e with
      | .readUe 6 sp w => sp != .scratch && (x.loc a i k).key == (sp, w)
      | _ => false
    match takePhys hit p.2.phys with
    | some (_, rest) =>
      let o := { p.2 with phys := rest }.newOrigin (x.charge i) 6 (x.wordAddr a i k)
      (p.1 ++ [⟨o.1, true⟩], o.2)
    | none => (p.1 ++ [v], p.2)
  ws.foldl one ([], s)

/-- The lanes of an atomic, ascending: the old values (R237, R240). One that is performed in L1 operates on what is delivered
there, any other where the word stands (R231, R239). -/
def Ex.atomLanes (x : Ex) (a : Acc) (ret : Bool) (new : Nat → List LV → State → Option (List LV) × State) :
    List Nat → State → List (Nat × List LV) × State
  | [], s => ([], s)
  | i :: is, s =>
    match x.winOff a i with
    | some off =>
      let r := x.atomWin off a.n (new i) s
      let q := x.atomLanes a ret new is r.2
      ((i, r.1) :: q.1, q.2)
    | none =>
      let near := x.ag.core.isCompute && (x.loc a i 0).isC
      let o := x.readWords a near i s []
      let n := new i o.1 o.2.1
      let s1 := match n.1 with
        | some ws => x.putWords a i ws n.2
        | none => n.2
      let d := if ret && !near then x.payload a i o.1 s1 else (o.1, s1)
      let q := x.atomLanes a ret new is d.2
      ((i, oldRegs d.1) :: q.1, q.2)

/-- Atomics (R237): k words in each lane. -/
def Ex.atomic (x : Ex) (a : Acc) (ret : Bool) (new : Nat → List LV → State → Option (List LV) × State) : Res :=
  x.access a (fun _ => [])
    (if x.winWaits a then x.wait x.s .ringRead
     else x.hold a.sp (x.ranges a)
      (let r := x.atomLanes a ret new x.set x.s
       if ret then x.result r.2 (rowsOf x.w (a.n / 4) r.1) else x.done r.2))

/-- The shape of an atomic's access. -/
def Ex.atomAcc (x : Ex) (sp : Space) (regs : Nat) (scope : Scope) (ret : Bool) : Acc :=
  ⟨some sp, 4 * regs, .atomic, scopeLvl scope, if ret then 1 else 0, x.disp⟩

/-- ATOM, ATOML, ATOMC (R237, R238). -/
def Ex.atom (sp : Space) (op : AtomOp) (scope : Scope) (ret : Bool) (x : Ex) : Res :=
  let a := x.atomAcc sp op.regs scope ret
  x.atomic a ret fun i o s =>
    let r := s.atomNew (x.charge i) (x.ea a i) op o (x.regs (a.ja + 2) i)
    (some r.1, r.2)

/-- ACAS, ACASL, ACASC (R240). -/
def Ex.cas (sp : Space) (w : CasW) (scope : Scope) (ret : Bool) (x : Ex) : Res :=
  let a := x.atomAcc sp w.regs scope ret
  x.atomic a ret fun i o s =>
    let c := x.regs (a.ja + 2) i
    (casNew o (c.take w.regs) (c.drop w.regs), s)

/-! ### Bank sweeps (R241 to R243) -/

/-- The operands of a sweep, from the lowest lane (R241). -/
structure Sweep where
  lane : Nat
  dst : Nat
  src : Nat
  ds : Int
  ss : Int
  count : Nat
  deriving DecidableEq, Repr

/-- An offset stepped, modulo 2^32. -/
def stepped (base : Nat) (k : Nat) (step : Int) (w : Nat) : Nat := (((base : Int) + k * step + 4 * w) % 2 ^ 32).toNat

def Ex.sweep (x : Ex) (ja lane : Nat) : Sweep :=
  let c := (x.lv (ja + 2) lane).v
  { lane := lane, dst := ((x.lv ja lane).v + x.disp).toNat, src := ((x.lv (ja + 1) lane).v + x.disp).toNat,
    ds := (c.extractLsb' 22 10).toInt * 16, ss := (c.extractLsb' 12 10).toInt * 16, count := (c.extractLsb' 0 12).toNat }

/-- Destination segments of a sweep; a reduction has one, when it has a source. -/
def Sweep.dsts (z : Sweep) (red : Bool) : List Nat :=
  if red then (if z.count == 0 then [] else [z.dst]) else (upTo z.count).map fun k => stepped z.dst k z.ds 0

/-- The checks of R241 (assumption 43, DEDUCED). -/
def Ex.sweepRaised (x : Ex) (ja : Nat) (red : Bool) (z : Sweep) : List Raised :=
  let q := x.limit (some .commons)
  let segs := ((upTo z.count).map fun k => stepped z.src k z.ss 0) ++ z.dsts red
  firstOf [
    poisons 0 .poisonAddress z.lane [x.lv ja z.lane, x.lv (ja + 1) z.lane, x.lv (ja + 2) z.lane],
    (if z.dst % 16 != 0 then [z.dst] else if z.src % 16 != 0 then [z.src] else []).map fun o =>
      Raised.lane' 1 .addrMisaligned z.lane (BitVec.ofNat 64 o),
    (segs.find? fun o => q < o + 16).toList.map fun o =>
      Raised.lane' 2 .commonsRange z.lane (BitVec.ofNat 64 (max o q))]

/-- Reads a Commons word for a sweep (R216). -/
def Ex.bankRead (x : Ex) (lane off : Nat) (s : State) : LV × State :=
  let r := s.readUe x.who (x.charge lane) (.commons (off / 4)) (BitVec.ofNat 64 off) false []
  (r.1, r.2.1)

/-- The value of an operation on two words (R227, R238). -/
def Ex.bankNode (x : Ex) (op : AtomOp) (lane off : Nat) (o v : LV) (s : State) : LV × State :=
  let r := s.atomNew (x.charge lane) (BitVec.ofNat 64 off) op [o] [v]
  (laneAt r.1 0, r.2)

/-- Applies an operation to a Commons word. -/
def Ex.bankApply (x : Ex) (op : AtomOp) (lane off : Nat) (v : LV) (s : State) : State :=
  let o := x.bankRead lane off s
  let n := x.bankNode op lane off o.1 v o.2
  n.2.writeLoc x.who (.commons (off / 4)) n.1 15 true

/-- The words of segments, in order. -/
def segWords (n : Nat) : List (Nat × Nat) := (upTo n).flatMap fun k => (upTo 4).map fun w => (k, w)

/-- BANKOP (R242). -/
def Ex.bankop (op : AtomOp) (x : Ex) : Res :=
  match x.lowest with
  | none => x.check [] (x.done x.s)
  | some lane =>
    let z := x.sweep 0 lane
    x.check (x.sweepRaised 0 false z)
      (x.hold (some .commons) ((z.dsts false).map fun o => (o, 16))
        (x.done ((segWords z.count).foldl (fun s p =>
          let v := x.bankRead lane (stepped z.src p.1 z.ss p.2) s
          x.bankApply op lane (stepped z.dst p.1 z.ds p.2) v.1 v.2) x.s)))

/-- The column reductions of a sweep (R243): one step per source word. -/
def Ex.bankStep (x : Ex) (op : AtomOp) (z : Sweep) (p : List LV × State) (kw : Nat × Nat) : List LV × State :=
  let off := stepped z.src kw.1 z.ss kw.2
  let y := x.bankRead z.lane off p.2
  if kw.1 == 0 then (setNth p.1 kw.2 y.1.asProv, y.2)
  else
    let n := x.bankNode op z.lane off (laneAt p.1 kw.2) y.1 y.2
    (setNth p.1 kw.2 n.1, n.2)

/-- BANKRED (R243). -/
def Ex.bankred (op : AtomOp) (ret : Bool) (x : Ex) : Res :=
  let zero : List LV := List.replicate 4 ⟨0, false⟩
  let out (r : List LV) (s : State) : Res := if ret then x.result s (r.map (sameLanes x.w)) else x.done s
  match x.lowest with
  | none => x.check [] (out zero x.s)
  | some lane =>
    let ja := if ret then 1 else 0
    let z := x.sweep ja lane
    x.check (x.sweepRaised ja true z)
      (x.hold (some .commons) ((z.dsts true).map fun o => (o, 16))
        (let r := (segWords z.count).foldl (x.bankStep op z) (zero, x.s)
         out r.1 (if z.count == 0 then r.2 else
           (upTo 4).foldl (fun s w => x.bankApply op lane (stepped z.dst 0 0 w) (laneAt r.1 w) s) r.2)))

/-! ### FENCE and CCTL (R244 to R246) -/

/-- FENCE (R245). With mx in the set, the B reads of earlier MMQs come before it (R253, R257). -/
def Ex.fence (paths : BitVec 4) (scope : Scope) (x : Ex) : Res :=
  let toI := paths.getLsbD 0 && (paths.getLsbD 2 || paths.getLsbD 3)
  let l := scopeLvl scope
  let k : Res := x.done ((x.s.release x.ag.core (if toI then .i else l)).acquire x.ag.core l)
  x.check [] (if paths.getLsbD 1 then x.afterReads k else k)

/-- CCTL on one line (R246); data of it that reaches L3 later comes under the retention that .evict gives it. -/
def State.cctl (s : State) (r : CoreRef) (op : CctlOp) (pa : Nat) : State :=
  match op with
  | .wb => s.flushL1 r fun t => t.idx / 4 == pa / 128
  | .inv => s.leaveLine r (pa / 128)
  | .evict => (s.leaveLine r (pa / 128)).modIsland (r.site.getD 64) fun x => x.setRetain (pa / 128) false

/-- CCTL (R246): a TLB miss parks the gang for the walk, and a lane whose page is then not mapped, not permitted or quarantined
has nothing to do (assumption 31, DESIGN CHOICE). -/
def Ex.cctl (op : CctlOp) (x : Ex) : Res :=
  let a : Acc := ⟨some .global, 1, .control, .c, 0, x.disp⟩
  let chk (i : Nat) : List Raised := firstOf [
    poisons 0 .poisonAddress i [x.one 0 i, x.one 1 i],
    x.rangeRaised 2 i a.sp (x.ea a i).toNat 1]
  x.check (x.set.flatMap chk)
    (match x.set.find? fun i => x.tr a i == .miss && !x.fl.noLeaf.contains (pageNo false (x.ea a i)) with
      | some i => x.parkAt (x.ea a i) .control i .miss
      | none => x.done (x.set.foldl (fun s i => match x.tr a i with
          | .ok pa _ => s.cctl x.ag.core op pa
          | _ => s) x.s))

/-! ### Shapes of the MEM instructions -/

/-- The level of a plain access's policy (R249). -/
def Policy.lvl : Policy → Lvl
  | .noL1 => .d
  | _ => .c

/-- A load or store of a space. -/
def memAcc (sp : Option Space) (sz : MemSize) (kind : Access) (lvl : Lvl) (disp : Word) : Acc :=
  ⟨sp, sz.bytes, kind, lvl, 1, disp⟩

/-- LDL, LDC, LDK and their short forms. -/
def Ex.loadIn (sp : Option Space) (sz : MemSize) (disp : Word) (x : Ex) : Res :=
  x.load (memAcc sp sz .read .c disp) sz id

/-- STREL: a store, after every earlier access of the agent on every path, the B reads of its MMQs among them (R236, R253). -/
def Ex.strel (a : Acc) (pz : Bool) (sc : Scope) (x : Ex) : Res :=
  let k := x.store a pz fun s => s.release x.ag.core (scopeLvl sc)
  if x.set.isEmpty then k else x.afterReads k

/-- STL, STC and their short forms. -/
def Ex.storeIn (sp : Space) (sz : MemSize) (pz : Bool) (disp : Word) (x : Ex) : Res :=
  x.store (memAcc (some sp) sz .write .c disp) pz id

def execLd (h : Hdr) (sz : MemSize) (pol : Policy) (hint : Option Bool) (d a b : Opnd) (s : State) : Res :=
  issue (.ld h sz pol hint d a b) s fun x =>
    let a := memAcc (some .global) sz .read (Policy.lvl pol) x.disp
    x.load a sz (x.retention pol a)
def execSt (h : Hdr) (sz : MemSize) (pz : Bool) (pol : Policy) (hint : Option Bool) (d a b : Opnd) (s : State) : Res :=
  issue (.st h sz pz pol hint d a b) s fun x =>
    x.store (memAcc (some .global) sz .write (Policy.lvl pol) x.disp) pz id pol
def execLdl (h : Hdr) (sz : MemSize) (d a b : Opnd) (s : State) : Res :=
  issue (.ldl h sz d a b) s fun x => x.loadIn (some .scratch) sz x.disp
def execStl (h : Hdr) (sz : MemSize) (pz : Bool) (d a b : Opnd) (s : State) : Res :=
  issue (.stl h sz pz d a b) s fun x => x.storeIn .scratch sz pz x.disp
def execLdc (h : Hdr) (sz : MemSize) (d a b : Opnd) (s : State) : Res :=
  issue (.ldc h sz d a b) s fun x => x.loadIn (some .commons) sz x.disp
def execStc (h : Hdr) (sz : MemSize) (pz : Bool) (d a b : Opnd) (s : State) : Res :=
  issue (.stc h sz pz d a b) s fun x => x.storeIn .commons sz pz x.disp
def execLdk (h : Hdr) (sz : MemSize) (d a b : Opnd) (s : State) : Res :=
  issue (.ldk h sz d a b) s fun x => x.loadIn none sz x.disp
def execLdacq (h : Hdr) (sz : MemSize) (sc : Scope) (sp : Space) (d a b : Opnd) (s : State) : Res :=
  issue (.ldacq h sz sc sp d a b) s fun x =>
    x.load (memAcc (some sp) sz .read (scopeLvl sc) x.disp) sz fun s => s.acquire x.ag.core (scopeLvl sc)
def execStrel (h : Hdr) (sz : MemSize) (sc : Scope) (sp : Space) (pz : Bool) (d a b : Opnd) (s : State) : Res :=
  issue (.strel h sz sc sp pz d a b) s fun x =>
    x.strel (memAcc (some sp) sz .write (scopeLvl sc) x.disp) pz sc
def execCctl (h : Hdr) (op : CctlOp) (a b : Opnd) (s : State) : Res := issue (.cctl h op a b) s (Ex.cctl op)
def execAtom (h : Hdr) (op : AtomOp) (sc : Scope) (r : Bool) (d a b c : Opnd) (s : State) : Res :=
  issue (.atom h op sc r d a b c) s (Ex.atom .global op sc r)
def execAcas (h : Hdr) (w : CasW) (sc : Scope) (r : Bool) (d a b c : Opnd) (s : State) : Res :=
  issue (.acas h w sc r d a b c) s (Ex.cas .global w sc r)
def execAtoml (h : Hdr) (op : AtomOp) (sc : Scope) (r : Bool) (d a b c : Opnd) (s : State) : Res :=
  issue (.atoml h op sc r d a b c) s (Ex.atom .scratch op sc r)
def execAcasl (h : Hdr) (w : CasW) (sc : Scope) (r : Bool) (d a b c : Opnd) (s : State) : Res :=
  issue (.acasl h w sc r d a b c) s (Ex.cas .scratch w sc r)
def execAtomc (h : Hdr) (op : AtomOp) (sc : Scope) (r : Bool) (d a b c : Opnd) (s : State) : Res :=
  issue (.atomc h op sc r d a b c) s (Ex.atom .commons op sc r)
def execAcasc (h : Hdr) (w : CasW) (sc : Scope) (r : Bool) (d a b c : Opnd) (s : State) : Res :=
  issue (.acasc h w sc r d a b c) s (Ex.cas .commons w sc r)
def execBankop (h : Hdr) (op : AtomOp) (sc : Scope) (a b c : Opnd) (s : State) : Res :=
  issue (.bankop h op sc a b c) s (Ex.bankop op)
def execBankred (h : Hdr) (op : AtomOp) (sc : Scope) (r : Bool) (d a b c : Opnd) (s : State) : Res :=
  issue (.bankred h op sc r d a b c) s (Ex.bankred op r)
def execFence (h : Hdr) (paths : BitVec 4) (sc : Scope) (s : State) : Res :=
  issue (.fence h paths sc) s (Ex.fence paths sc)

end Sys2Proof.Machine
end

