-- ==== Sys2Proof/Machine/Asy.lean ====
section
/-! DEFINITION. The ASY class: copies, batches, channel pointers, work lists and the Curfew (spec 13). -/

namespace Sys2Proof.Machine

/-! ### Batches (R295 to R297) -/

/-- Whether a transfer of a gang's batch is still in flight. -/
def State.batchBusy (s : State) (r : CoreRef) (uid : Nat) (b : BitVec 16) : Bool :=
  ((s.core r).chans.any fun p => p.2.any fun c => c.gang == uid && c.batch == b) ||
  (s.rops.any fun o => o.ag.core == r && o.gang == uid && o.batch == some b)

/-- SEAL (R295). -/
def Ex.seal (x : Ex) : Res :=
  let h := x.g.nextBatch
  let close (g : Gang) : Gang := { g with nextBatch := h + 1, openBatches := g.openBatches ++ [h] }
  x.check (firstOf [x.whole 4,
      if 16 ≤ x.g.openBatches.length then [.lane' 5 .batchLimit x.fl.lowXm (h.setWidth 64)] else []])
    (x.resultXm (x.s.modGang x.ag.core x.ag.slot close) [sameLanes x.w ⟨h.setWidth 32, false⟩])

/-- The open batches that a BWAIT on n covers (R296). -/
def Gang.covered (g : Gang) (n : BitVec 16) : List (BitVec 16) :=
  g.openBatches.filter fun b => (g.nextBatch - n).toNat ≤ (g.nextBatch - b).toNat

/-- The end of a BWAIT: a pending failure of a covered transfer is raised and cleared, and retires nothing; else
the acquire of R258, which discards all of the core's L1 (assumption 15, DEDUCED), and the batches retire (R296, R384). -/
def Ex.bwaitEnd (x : Ex) (cov : List (BitVec 16)) : Res :=
  match x.g.failure.bind fun f => f.batch.bind fun b => if cov.contains b then some f else none with
  | some f =>
    x.trap (x.s.modGang x.ag.core x.ag.slot fun g => { g with failure := none })
      (.lane' 6 f.cause x.fl.lowXm f.tval)
  | none =>
    let retire (g : Gang) : Gang := { g with openBatches := g.openBatches.filter fun b => !cov.contains b }
    x.done ((x.s.acquire x.ag.core .d).modGang x.ag.core x.ag.slot retire)

/-- BWAIT (R296). -/
def Ex.bwait (x : Ex) : Res :=
  let i := x.fl.lowXm
  let n : BitVec 16 := (x.lv 0 i).v.setWidth 16
  let cov := x.g.covered n
  x.check (firstOf [poisons 0 .poisonBranch i [x.lv 0 i], x.whole 4,
      if n == x.g.nextBatch then [.lane' 5 .batchLimit i (n.setWidth 64)] else []])
    (if cov.any (x.s.batchBusy x.ag.core x.g.uid) then x.wait x.s .bwait else x.bwaitEnd cov)

/-! ### Channel pointers (R293, R294) -/

/-- A channel number that must be below 8. -/
def channelRaised (ord lane : Nat) (v : Word) (n : Nat) : List Raised :=
  if n ≤ v.toNat then [.lane' ord .channelInvalid lane (v.setWidth 64)] else []

/-- CPWP (R293). -/
def Ex.cpwp (issued : Bool) (x : Ex) : Res :=
  match x.lowest with
  | none => x.check [] (x.result x.s [zeroLanes x.w])
  | some i =>
    let c := x.lv 1 i
    let p := (if issued then x.wg.chanQ else x.wg.chanW).getD c.v.toNat 0
    x.check (firstOf [poisons 0 .poisonAddress i [c], channelRaised 1 i c.v 8]) (x.result x.s [sameLanes x.w ⟨p, false⟩])

/-- CPWAIT (R294, R258); its acquire, too, discards all of the core's L1 (assumption 15, DEDUCED). -/
def Ex.cpwait (x : Ex) : Res :=
  let i := x.fl.lowXm
  let c := x.lv 0 i
  let t := x.lv 1 i
  x.check (firstOf [poisons 0 .poisonBranch i [c, t], channelRaised 1 i c.v 8])
    (if (x.wg.chanW.getD c.v.toNat 0 - t.v).toNat < 2 ^ 31 then x.done (x.s.acquire x.ag.core .d)
     else x.wait x.s .cpwait)

/-! ### Copies (R288 to R291) -/

/-- A lane's copy: spaces, extents and steps, words. -/
structure CopyReq where
  dsp : Space
  ssp : Space
  dst : Dword
  src : Dword
  segWords : Nat
  count : Nat
  ds : Dword
  ss : Dword
  deriving DecidableEq, Repr

def CopyReq.bytes (q : CopyReq) : Nat := 4 * q.segWords * q.count

/-- An address of a space, modulo its width (R288). -/
def wrapAddr (sp : Space) (a : Dword) : Dword := if sp == .global then a else (a.setWidth 32).setWidth 64

/-- Starts of the segments of an extent. -/
def segStarts (sp : Space) (base step : Dword) (n : Nat) : List Dword :=
  (upTo n).map fun k => wrapAddr sp (base + BitVec.ofNat 64 k * step)

def CopyReq.srcs (q : CopyReq) : List Dword := segStarts q.ssp q.src q.ss q.count
def CopyReq.dsts (q : CopyReq) : List Dword := segStarts q.dsp q.dst q.ds q.count

/-- Whether two byte ranges of w bytes meet in a space of 2^64 or 2^32 bytes. -/
def segsMeet (sp : Space) (w : Nat) (a b : Dword) : Bool :=
  (wrapAddr sp (a - b)).toNat < w || (wrapAddr sp (b - a)).toNat < w

/-- The lane's request: D at position 0, A at 1, B at 2, the steps of CPYS at 3. -/
def Ex.copyReq (x : Ex) (dsp ssp : Space) (segs : Bool) (i : Nat) : CopyReq :=
  let addr (j : Nat) (sp : Space) : Dword := if sp == .global then x.pair j i else (x.lv j i).v.setWidth 64
  let b := (x.lv 2 i).v
  { dsp := dsp, ssp := ssp, dst := addr 0 dsp, src := addr 1 ssp,
    segWords := if segs then (b.extractLsb' 12 20).toNat else b.toNat / 4,
    count := if segs then (b.extractLsb' 0 12).toNat else if b == 0 then 0 else 1,
    ds := if segs then (x.lvk 3 1 i).v.signExtend 64 else 0,
    ss := if segs then (x.lvk 3 0 i).v.signExtend 64 else 0 }

/-- The byte count of a lane. -/
def Ex.copyBytes (x : Ex) (segs : Bool) (q : CopyReq) (i : Nat) : Nat := if segs then q.bytes else (x.lv 2 i).v.toNat

/-- The global pages of an extent: the first byte touched in each. -/
def pagesOf (w : Nat) (a : Dword) : List Dword :=
  let n := (a.toNat % 65536 + w + 65535) / 65536
  (upTo n).map fun k => if k == 0 then a else BitVec.ofNat 64 (alignDown a.toNat 65536 + 65536 * k)

/-- The translations a lane needs, source then destination, with the access each makes. -/
def CopyReq.pages (q : CopyReq) : List (Dword × Access) :=
  (if q.ssp == .global then (q.srcs.flatMap (pagesOf (4 * q.segWords))).map fun a => (a, .read) else []) ++
  (if q.dsp == .global then (q.dsts.flatMap (pagesOf (4 * q.segWords))).map fun a => (a, .write) else [])

/-- The canonical form of every byte of a segment (R205). -/
def Ex.segCanonical (x : Ex) (lane w : Nat) (a : Dword) : List Raised :=
  let last := a + BitVec.ofNat 64 (w - 1)
  if x.g.ctx.isNone then []
  else if !canonical a then [.lane' 3 .noncanonical lane a]
  else if !canonical last then [.lane' 3 .noncanonical lane 0x0040000000000000]
  else []

/-- The range check of an extent (R289 step 4). -/
def Ex.extentRaised (x : Ex) (lane : Nat) (sp : Space) (w : Nat) (starts : List Dword) : List Raised :=
  (starts.findSome? fun a =>
    (if sp == .global then x.segCanonical lane w a else x.rangeRaised 3 lane (some sp) a.toNat w).head?).toList

/-- The first check of R289 that a lane fails. Of several values that are not multiples of 4 the first of destination, source, byte
count, source step and destination step is sy.tval, and of two extents that fail the source's is reported (assumption 108,
DESIGN CHOICE). -/
def Ex.copyRaised (x : Ex) (dsp ssp : Space) (segs : Bool) (i : Nat) : List Raised :=
  let q := x.copyReq dsp ssp segs i
  let n := x.copyBytes segs q i
  let w := 4 * q.segWords
  let steps : List Dword := [q.dst, q.src, BitVec.ofNat 64 n] ++ if segs then [q.ss, q.ds] else []
  let meet := q.dsp == q.ssp && q.srcs.any fun a => q.dsts.any fun b => segsMeet q.dsp w a b
  let big := Config.copyLimit < n || (segs && q.segWords == 0 && q.count != 0)
  firstOf [
    poisons 0 .poisonAddress i ([x.one 0 i, x.one 1 i, x.one 2 i] ++ if segs then x.regs 3 i else []),
    (steps.find? fun v => v.toNat % 4 != 0).toList.map fun v => .lane' 1 .addrMisaligned i v,
    if big || meet then [.lane' 2 .cpyRange i (BitVec.ofNat 64 n)] else [],
    if n == 0 then [] else x.extentRaised i q.ssp w q.srcs,
    if n == 0 then [] else x.extentRaised i q.dsp w q.dsts,
    if n == 0 then [] else ((q.pages.find? fun p => translate x.tlbs x.g.ctx x.g.pl p.2 p.1 == .quarantined).toList.map
      fun p => .lane' 4 .pageQuarantined i p.1)]

/-- The pages that a lane reaches (R289 step 5). -/
def Ex.copyReach (x : Ex) (dsp ssp : Space) (segs : Bool) (i : Nat) : List (Nat × Dword × Access) :=
  let q := x.copyReq dsp ssp segs i
  if q.bytes == 0 then [] else q.pages.map fun p => (i, p.1, p.2)

/-- Whether a segment lies in the control window. -/
def segInWindow (a n : Nat) : Bool := inWindow a && inWindow (a + n - 1)

/-- An M-level copy one of whose segments lies neither in installed memory nor in the control window, which a copy reaches word by
word (assumption 8, DESIGN CHOICE). -/
def Ex.copyHole (x : Ex) (dsp ssp : Space) (segs : Bool) (i : Nat) : Option Nat :=
  let q := x.copyReq dsp ssp segs i
  let bad (sp : Space) (l : List Dword) : Option Nat :=
    if sp == .global && x.g.ctx.isNone then
      (l.find? fun a => !x.s.installed x.ag.core a.toNat (4 * q.segWords) && !segInWindow a.toNat (4 * q.segWords)).map
        fun a => a.toNat
    else none
  if q.bytes == 0 then none
  else match bad ssp q.srcs with
    | some a => some a
    | none => bad dsp q.dsts

/-- Entries of a channel's queue. -/
def Core.chan (c : Core) (ch : Nat) : List Copy := lookupD ch [] c.chans

/-- The oldest waiter for a channel (R290). -/
def Core.copyTurn (c : Core) (ch : Nat) (ag : AgentRef) : Bool :=
  match c.copyWaits.find? fun p => p.1 == ch with
  | none => true
  | some p => p.2 == ag

/-- The checked translations of a lane's pages (R292). -/
def Ex.copyPages (x : Ex) (q : CopyReq) : List TlbEntry :=
  match x.g.ctx with
  | none => []
  | some k => (q.pages.filterMap fun p => tlbFind x.tlbs.tlb k p.1).eraseDups

/-- Issues one lane's copy: a queue entry, Q, the current batch (R290). -/
def Ex.issueCopy (x : Ex) (dsp ssp : Space) (segs : Bool) (ch : Nat) (s : State) (i : Nat) : State :=
  let q := x.copyReq dsp ssp segs i
  let u := s.fresh
  let c : Copy :=
    { uid := u.1, gang := x.g.uid, wg := x.g.wg, grid := x.wg.grid, batch := x.g.nextBatch, charge := x.charge i, dsp := dsp,
      ssp := ssp, dst := q.dst, src := q.src, segWords := q.segWords, count := q.count, ds := q.ds, ss := q.ss,
      pages := x.copyPages q, done := 0 }
  let add (k : Core) : Core := { k with chans := setAt ch (k.chan ch ++ [c]) k.chans }
  (u.2.modCore x.ag.core add).modWg x.ag.core x.g.wg fun w =>
    { w with chanQ := modNth (fun v => v + BitVec.ofNat 32 q.bytes) w.chanQ ch }

/-- Waits for channel entries, keeping the place of a request that already waits (R290). -/
def Ex.waitCopy (x : Ex) (ch : Nat) : Res :=
  let put (c : Core) : Core :=
    if c.copyWaits.contains (ch, x.ag) then c else { c with copyWaits := c.copyWaits ++ [(ch, x.ag)] }
  x.wait (x.s.modCore x.ag.core put) .copyEntry

/-- CPY and CPYS (R288 to R290). -/
def Ex.copy (dsp ssp : Space) (segs : Bool) (ch : Nat) (x : Ex) : Res :=
  let lanes := x.set.filter fun i => (x.copyReq dsp ssp segs i).bytes != 0
  x.check (x.set.flatMap (x.copyRaised dsp ssp segs))
    (x.parkOn (x.set.flatMap (x.copyReach dsp ssp segs)) (match x.set.findSome? (x.copyHole dsp ssp segs) with
      | some a => .fault (.physicalHole a)
      | none =>
        if lanes.isEmpty then x.done x.s
        else if x.core.copyTurn ch x.ag && (x.core.chan ch).length + lanes.length ≤ Config.channelEntries then
          let leave (c : Core) : Core := { c with copyWaits := c.copyWaits.filter fun p => !(p == (ch, x.ag)) }
          x.done (lanes.foldl (x.issueCopy dsp ssp segs ch) (x.s.modCore x.ag.core leave))
        else x.waitCopy ch))

/-! ### Work lists and the Curfew (R298 to R304) -/

/-- The state of a gang of no context, whose lists all have capacity 0 (R298; assumption 23, DEDUCED). -/
def CtxIsland.none' (site : Nat) : CtxIsland where
  ctx := 0
  site := site
  root := 0
  tvec := 0
  pol := 0
  polhead := 0
  fullSeen := false
  lostPol := 0
  cellar := 0
  quota := 0
  commonsBase := 0
  commons := .empty
  counters := []
  lists := []
  puts := []
  takers := []
  out := 0
  qt := true
  ep := 0
  mapFrame := 0
  maps := []
  frames := []
  keySlot := 0
  holes := 0
  clusters := []
  watchdog := 0
  ballots := []
  binding := .unbound

/-- The context's state on the agent's island. -/
def Ex.ctxIsland (x : Ex) : CtxIsland :=
  ((x.g.ctx.bind fun k => x.s.ctxAt? (x.ag.core.site.getD 0) k)).getD (.none' (x.ag.core.site.getD 0))

/-- Updates it. -/
def Ex.modCtx (x : Ex) (s : State) (f : CtxIsland → CtxIsland) : State :=
  match x.g.ctx with
  | some k => s.modCtxAt (x.ag.core.site.getD 0) k f
  | none => s

def CtxIsland.list? (k : CtxIsland) (n : Nat) : Option WorkList := k.lists.find? fun l => l.num == n
/-- The items of a list, head first. -/
def CtxIsland.items (k : CtxIsland) (n : Nat) : Lanes := ((k.list? n).map fun l => l.items).getD []
/-- Items of a list and of the runs on their way to it (assumption 24, DEDUCED). -/
def CtxIsland.claimed (k : CtxIsland) (n : Nat) : Nat :=
  (k.items n).length + ((k.puts.filter fun p => p.list == n).map fun p => p.items.length).sum
/-- The capacity of a list. -/
def CtxIsland.capacity (k : CtxIsland) (n : Nat) : Nat := ((k.list? n).map fun l => l.capacity).getD 0
/-- Sets the items of a list. -/
def CtxIsland.setItems (k : CtxIsland) (n : Nat) (items : Lanes) : CtxIsland :=
  { k with lists := modify (fun l => l.num == n) (fun l => { l with items := items }) k.lists }

/-- The Curfew declares quiescence when its conditions hold (R302). -/
def CtxIsland.curfew (k : CtxIsland) : CtxIsland :=
  if !k.qt && k.puts.isEmpty && k.out == 0 && k.lists.all fun l => l.items.isEmpty then
    { k with qt := true, ep := (k.ep + 1) % 2 ^ 31 }
  else k

/-- The checks of a list number (R299, R300). -/
def listRaised (lane : Nat) (n : LV) : List Raised :=
  firstOf [poisons 0 .poisonAddress lane [n], channelRaised 1 lane n.v 64]

/-- WLPUT (R299, R302, R304). -/
def Ex.wlput (x : Ex) : Res :=
  match x.lowest with
  | none => x.check [] (x.done x.s)
  | some i =>
    let n := (x.lv 1 i).v.toNat
    let k := x.ctxIsland
    let full := k.capacity n < k.claimed n + x.set.length
    let put (k : CtxIsland) : CtxIsland := { k with puts := k.puts ++ [⟨n, x.set.map (x.lv 0)⟩], qt := false }
    x.check (firstOf [listRaised i (x.lv 1 i),
        if full then [.lane' 2 .worklistFull i (BitVec.ofNat 64 n)] else []])
      (x.done (x.modCtx (x.s.release x.ag.core .i) put))

/-- Items a WLTAKE gives its lanes: vD and vD+1 (R300). -/
def Ex.takeRows (x : Ex) (items : Lanes) : List Lanes :=
  let k := min items.length x.set.length
  let at' (i : Nat) : Nat := x.set.findIdx fun j => j == i
  if items.isEmpty then [zeroLanes x.w, sameLanes x.w ⟨2, false⟩]
  else [(upTo x.w).map fun i => if at' i < k then laneAt items (at' i) else ⟨0, false⟩,
    (upTo x.w).map fun i => if at' i < k then ⟨0, false⟩ else ⟨1, false⟩]

/-- WLTAKE (R300, R304). -/
def Ex.wltake (x : Ex) : Res :=
  match x.lowest with
  | none => x.check [] (x.result x.s [zeroLanes x.w, zeroLanes x.w])
  | some i =>
    let n := (x.lv 1 i).v.toNat
    let k := x.ctxIsland
    let items := k.items n
    let cnt := min items.length x.set.length
    let turn := match k.takers.find? fun p => p.1 == n with
      | none => true
      | some p => p.2 == x.ag
    let leave (k : CtxIsland) : CtxIsland := { k with takers := k.takers.filter fun p => !(p.2 == x.ag) }
    let take (k : CtxIsland) : CtxIsland := { (leave k).setItems n (items.drop cnt) with out := k.out + cnt }
    let queue (k : CtxIsland) : CtxIsland :=
      if k.takers.contains (n, x.ag) then k else { leave k with takers := (leave k).takers ++ [(n, x.ag)] }
    x.check (listRaised i (x.lv 1 i))
      (if (k.qt || !items.isEmpty) && turn then
        x.check (if 2 ^ 32 ≤ k.out + cnt then [.lane' 2 .worklistFull i (BitVec.ofNat 64 n)] else [])
          (x.result ((x.modCtx x.s take).acquire x.ag.core .i) (x.takeRows items))
       else x.wait (x.modCtx x.s queue) .wltake)

/-- WLDONE and WLDONE.hold (R301, R302, R304). -/
def Ex.wldone (hold : Bool) (x : Ex) : Res :=
  let n := x.set.length
  let k := x.ctxIsland
  let lane := x.set.headD 0
  let upd (k : CtxIsland) : CtxIsland :=
    (if hold then { k with out := k.out + n, qt := false } else { k with out := k.out - n }).curfew
  x.check (if hold then (if 2 ^ 32 ≤ k.out + n then [.lane' 0 .worklistFull lane (BitVec.ofNat 64 k.out)] else [])
      else (if k.out < n then [.lane' 0 .wldoneUnderflow lane (BitVec.ofNat 64 k.out)] else []))
    (x.done (x.modCtx (x.s.release x.ag.core .i) upd))

/-- WLQUIET (R303, R304). -/
def Ex.wlquiet (x : Ex) : Res :=
  let k := x.ctxIsland
  let v : Word := BitVec.ofNat 32 ((if k.qt then 2 ^ 31 else 0) + k.ep)
  x.check [] (x.resultXm (if k.qt then x.s.acquire x.ag.core .i else x.s) [sameLanes x.w ⟨v, false⟩])

def execCpy (h : Hdr) (dsp ssp : Space) (ch : BitVec 3) (d a b : Opnd) (s : State) : Res :=
  issue (.cpy h dsp ssp ch d a b) s (Ex.copy dsp ssp false ch.toNat)
def execCpys (h : Hdr) (dsp ssp : Space) (ch : BitVec 3) (d a b c : Opnd) (s : State) : Res :=
  issue (.cpys h dsp ssp ch d a b c) s (Ex.copy dsp ssp true ch.toNat)
def execSeal (h : Hdr) (d : Opnd) (s : State) : Res := issue (.seal h d) s Ex.seal
def execBwait (h : Hdr) (a : Opnd) (s : State) : Res := issue (.bwait h a) s Ex.bwait
def execCpwp (h : Hdr) (q : Bool) (d a : Opnd) (s : State) : Res := issue (.cpwp h q d a) s (Ex.cpwp q)
def execCpwait (h : Hdr) (a b : Opnd) (s : State) : Res := issue (.cpwait h a b) s Ex.cpwait
def execWlput (h : Hdr) (a b : Opnd) (s : State) : Res := issue (.wlput h a b) s Ex.wlput
def execWltake (h : Hdr) (d a : Opnd) (s : State) : Res := issue (.wltake h d a) s Ex.wltake
def execWldone (h : Hdr) (hold : Bool) (s : State) : Res := issue (.wldone h hold) s (Ex.wldone hold)
def execWlquiet (h : Hdr) (d : Opnd) (s : State) : Res := issue (.wlquiet h d) s Ex.wlquiet

end Sys2Proof.Machine
end

