-- ==== Sys2Proof/Machine/Bit.lean ====
section
/-! DEFINITION. The BIT class (spec 05, R105 to R110). -/

namespace Sys2Proof.Machine

/-- Completes an instruction of one register in, one out. -/
def Ex.bit1 (f : Word → Word) (x : Ex) : Res := x.wide 1 [1] fun i => (f (x.lv 1 i).v).toNat

/-- Completes an instruction of two registers in, one out. -/
def Ex.bit2 (f : Word → Word → Word) (x : Ex) : Res :=
  x.wide 1 [1, 2] fun i => (f (x.lv 1 i).v (x.lv 2 i).v).toNat

/-- Completes an instruction of three registers in, one out. -/
def Ex.bit3 (f : Word → Word → Word → Word) (x : Ex) : Res :=
  x.wide 1 [1, 2, 3] fun i => (f (x.lv 1 i).v (x.lv 2 i).v (x.lv 3 i).v).toNat

/-- Completes a shift: f takes the element width, the element and the amount (R106). -/
def Ex.shift (w : ShW) (f : Nat → Nat → Nat → Nat) (x : Ex) : Res :=
  x.packed 1 w.bits [1, 2] fun i k => .val (f w.bits (x.elt 1 i w.bits k) (x.elt 2 i w.bits k))

def shlEl (w a t : Nat) : Nat := if w ≤ t then 0 else a * 2 ^ t % 2 ^ w
def shrEl (w a t : Nat) : Nat := if w ≤ t then 0 else a / 2 ^ t
def shaEl (w a t : Nat) : Nat := codeOf w ((intVal true w a).fdiv (2 ^ min t w))
def rotEl (w a t : Nat) : Nat := a * 2 ^ (t % w) % 2 ^ w + a / 2 ^ (w - t % w)

/-- BFE (R107). -/
def bfe (s : Bool) (a b : Word) : Word :=
  let o := (b.extractLsb' 0 8).toNat
  let m := min (b.extractLsb' 8 8).toNat 32
  let v := (intVal s 32 a.toNat).fdiv (2 ^ o)
  BitVec.ofInt 32 (if m == 0 then 0 else intVal s m (codeOf m v))

/-- BFI (R107). -/
def bfi (a b c : Word) : Word :=
  let o := (c.extractLsb' 0 8).toNat
  let m := min (c.extractLsb' 8 8).toNat 32
  let mask : Word := BitVec.ofNat 32 ((2 ^ m - 1) * 2 ^ o)
  (b &&& ~~~mask) ||| (BitVec.ofNat 32 (a.toNat * 2 ^ o) &&& mask)

def popCount (a : Word) : Nat := (upTo 32).countP (bitOf a)

/-- Index of the lowest set bit (R105). -/
def lowBit (a : Word) : Word :=
  match (upTo 32).find? (bitOf a) with
  | some k => BitVec.ofNat 32 k
  | none => 0xFFFFFFFF

/-- Leading zero bits. -/
def leading (a : Word) : Nat := if a == 0 then 32 else 31 - a.toNat.log2

/-- PERMB (R108). -/
def permb (top : BitVec 4) (sel : BitVec 8) (a b : Word) : Word :=
  let byte (k : Nat) : Byte :=
    let j := (sel.extractLsb' (2 * k) 2).toNat
    byteOf (if top.getLsbD k then b else a) j
  wordOfBytes (byte 0) (byte 1) (byte 2) (byte 3)

/-- LOP3 (R109). -/
def lop3 (t : BitVec 8) (a b c : Word) : Word :=
  maskBy fun j => t.getLsbD ((bitOf a j).toNat + 2 * (bitOf b j).toNat + 4 * (bitOf c j).toNat)

def Ex.mov (x : Ex) : Res := x.bit1 id
def Ex.and (x : Ex) : Res := x.bit2 (· &&& ·)
def Ex.or (x : Ex) : Res := x.bit2 (· ||| ·)
def Ex.xor (x : Ex) : Res := x.bit2 (· ^^^ ·)
def Ex.andn (x : Ex) : Res := x.bit2 fun a b => a &&& ~~~b
def Ex.shl (w : ShW) (x : Ex) : Res := x.shift w shlEl
def Ex.shr (w : ShW) (x : Ex) : Res := x.shift w shrEl
def Ex.sha (w : ShW) (x : Ex) : Res := x.shift w shaEl
def Ex.popc (x : Ex) : Res := x.bit1 fun a => BitVec.ofNat 32 (popCount a)
def Ex.clz (x : Ex) : Res := x.bit1 fun a => BitVec.ofNat 32 (leading a)

def execMov (h : Hdr) (d a : Opnd) (s : State) : Res := issue (.mov h d a) s Ex.mov
def execAndI (h : Hdr) (d a b : Opnd) (s : State) : Res := issue (.andI h d a b) s Ex.and
def execOrI (h : Hdr) (d a b : Opnd) (s : State) : Res := issue (.orI h d a b) s Ex.or
def execXorI (h : Hdr) (d a b : Opnd) (s : State) : Res := issue (.xorI h d a b) s Ex.xor
def execAndn (h : Hdr) (d a b : Opnd) (s : State) : Res := issue (.andn h d a b) s Ex.andn
def execNotI (h : Hdr) (d a : Opnd) (s : State) : Res := issue (.notI h d a) s (Ex.bit1 (~~~ ·))
def execShl (h : Hdr) (w : ShW) (d a b : Opnd) (s : State) : Res := issue (.shl h w d a b) s (Ex.shl w)
def execShr (h : Hdr) (w : ShW) (d a b : Opnd) (s : State) : Res := issue (.shr h w d a b) s (Ex.shr w)
def execSha (h : Hdr) (w : ShW) (d a b : Opnd) (s : State) : Res := issue (.sha h w d a b) s (Ex.sha w)
def execRot (h : Hdr) (w : ShW) (d a b : Opnd) (s : State) : Res := issue (.rot h w d a b) s fun x => x.shift w rotEl
def execBfe (h : Hdr) (sg : Bool) (d a b : Opnd) (s : State) : Res := issue (.bfe h sg d a b) s (Ex.bit2 (bfe sg))
def execBfi (h : Hdr) (d a b c : Opnd) (s : State) : Res := issue (.bfi h d a b c) s (Ex.bit3 bfi)
def execPopc (h : Hdr) (d a : Opnd) (s : State) : Res := issue (.popc h d a) s Ex.popc
def execClz (h : Hdr) (d a : Opnd) (s : State) : Res := issue (.clz h d a) s Ex.clz
def execFfs (h : Hdr) (d a : Opnd) (s : State) : Res := issue (.ffs h d a) s (Ex.bit1 lowBit)
def execBrev (h : Hdr) (d a : Opnd) (s : State) : Res :=
  issue (.brev h d a) s (Ex.bit1 fun a => maskBy fun j => bitOf a (31 - j))
def execPermb (h : Hdr) (top : BitVec 4) (sel : BitVec 8) (d a b : Opnd) (s : State) : Res :=
  issue (.permb h top sel d a b) s (Ex.bit2 (permb top sel))
def execLop3 (h : Hdr) (t : BitVec 8) (d a b c : Opnd) (s : State) : Res :=
  issue (.lop3 h t d a b c) s (Ex.bit3 (lop3 t))
def execDshl (h : Hdr) (d a b : Opnd) (s : State) : Res :=
  issue (.dshl h d a b) s fun x => x.wide 2 [1, 2] fun i => shlEl 64 (x.num 1 i) (x.num 2 i)
def execDshr (h : Hdr) (sg : Bool) (d a b : Opnd) (s : State) : Res :=
  issue (.dshr h sg d a b) s fun x => x.wide 2 [1, 2] fun i =>
    (if sg then shaEl else shrEl) 64 (x.num 1 i) (x.num 2 i)
def execMovd (h : Hdr) (d a : Opnd) (s : State) : Res :=
  issue (.movd h d a) s fun x => x.wide 2 [1] fun i => x.num 1 i

end Sys2Proof.Machine
end

