-- ==== Sys2Proof/Machine/Ctl.lean ====
section
/-! DEFINITION. The CTL class: structured control, calls and frames, marks, slices and the end of a gang
(spec 06, R129 to R143; 07, R168 to R175). -/

namespace Sys2Proof.Machine

/-- The target that an offset names (R35). -/
def Ex.target (x : Ex) (off : BitVec 16) : Dword := x.fl.pc + (off.signExtend 64 <<< 2)

/-- Completes at a PC with an updated flow; an agent whose live mask becomes 0 ends (R129, R171). -/
def Ex.flowTo (x : Ex) (pc : Dword) (f : Flow → Flow) : Res :=
  let s1 := x.s.modGang x.ag.core x.ag.slot fun g => (g.finish x pc).modAct fun b => b.modFlow x.fi f
  .next (if (f x.fl).live == 0 then s1.settleGang x.ag.core x.ag.slot else s1)

/-- The floor of the mask stack (R133, R170). -/
def Ex.floor (x : Ex) : Nat := if x.b.parted then x.b.pmsd else x.b.frame.msb

/-- The mask-stack checks of R133: entries reached, entries that must stand above the floor, entries pushed. -/
def Ex.stackRaised (x : Ex) (reach span push : Nat) : List Raised :=
  let msd := x.fl.msd
  let t : Dword := BitVec.ofNat 64 msd
  (if msd < reach then [Raised.whole 4 .maskUnderflow t] else []) ++
  (if msd < x.floor + span then [Raised.whole 5 .unmatchedControl t] else []) ++
  (if 32 < msd + push then [Raised.whole 6 .maskOverflow t] else [])

/-- The lanes of xm whose condition is true (R134). -/
def Ex.cond (x : Ex) (inv : Bool) : Word := x.fl.xm &&& maskBy fun i => i < x.w && ((x.lv 0 i).v != 0) != inv

/-- A condition poisoned in a lane of xm (R134). -/
def Ex.condRaised (x : Ex) : List Raised :=
  (upTo x.w).flatMap fun i => if bitOf x.fl.xm i then poisons 0 .poisonBranch i [x.lv 0 i] else []

/-- The skip target when the instruction leaves xm = 0 (R132). -/
def Ex.skip (x : Ex) (xm : Word) (off : BitVec 16) : Dword := if xm == 0 then x.target off else x.next

/-- IF (R134). -/
def Ex.if' (inv : Bool) (off : BitVec 16) (x : Ex) : Res :=
  let c := x.cond inv
  x.check (firstOf [x.condRaised, x.stackRaised 0 0 1])
    (x.flowTo (x.skip c off) fun f => { f with xm := c, stack := x.fl.xm :: f.stack })

/-- ELSE (R134). -/
def Ex.else' (off : BitVec 16) (x : Ex) : Res :=
  let m := x.fl.stack.headD 0 &&& ~~~x.fl.xm
  x.check (x.stackRaised 1 1 0) (x.flowTo (x.skip m off) fun f => { f with xm := m })

/-- ENDIF (R134). -/
def Ex.endif (x : Ex) : Res :=
  x.check (x.stackRaised 1 1 0)
    (x.flowTo x.next fun f => { f with xm := x.fl.stack.headD 0, stack := f.stack.drop 1 })

/-- LOOP (R134): S, then C above it. -/
def Ex.loop (off : BitVec 16) (x : Ex) : Res :=
  if x.fl.xm == 0 then x.flowTo (x.target off) id
  else x.check (x.stackRaised 0 0 2) (x.flowTo x.next fun f => { f with stack := 0 :: x.fl.xm :: f.stack })

/-- ENDL (R134). -/
def Ex.endl (off : BitVec 16) (x : Ex) : Res :=
  let m := x.fl.xm ||| x.fl.stack.headD 0
  if m != 0 then
    x.check (x.stackRaised 1 1 0) (x.flowTo (x.target off) fun f => { f with xm := m, stack := setNth f.stack 0 0 })
  else
    x.check (x.stackRaised 2 2 0)
      (x.flowTo x.next fun f => { f with xm := x.fl.stack.getD 1 0, stack := f.stack.drop 2 })

/-- Removes lanes from the first n entries, and CONT adds them to entry n (R134). -/
def breakStack (cont : Bool) (b : Word) (n : Nat) (l : List Word) : List Word :=
  l.mapIdx fun k e => if k < n then e &&& ~~~b else if cont && k == n then e ||| b else e

/-- BREAK and CONT (R134). -/
def Ex.breakCont (cont inv : Bool) (n : BitVec 5) (off : BitVec 16) (x : Ex) : Res :=
  let b := x.cond inv
  let m := x.fl.xm &&& ~~~b
  x.check (firstOf [x.condRaised, x.stackRaised (n.toNat + (if cont then 1 else 0)) (n.toNat + 2) 0])
    (x.flowTo (x.skip m off) fun f => { f with xm := m, stack := breakStack cont b n.toNat f.stack })

/-- A divergent instruction that must be uniform (R135). -/
def Ex.divergent (x : Ex) : Raised := .whole 1 .jmpDivergent (x.fl.xm.setWidth 64)

/-- JMP (R135). -/
def Ex.jmp (kind : JmpKind) (off : BitVec 16) (x : Ex) : Res :=
  let c := if kind == .always then x.fl.xm else x.cond (kind == .z)
  x.check (firstOf [if kind == .always then [] else x.condRaised,
      if x.fl.xm != x.fl.live || (c != 0 && c != x.fl.xm) then [x.divergent] else []])
    (x.flowTo (if c == x.fl.xm then x.target off else x.next) id)

/-! ### Frames (R136 to R141) -/

/-- Puts an agent in FRAME_WAIT at the end of the core's queue (R138). -/
def State.frameWait (s : State) (ag : AgentRef) (need : Nat) (call : Option Instr) : State :=
  let put (c : Core) : Core :=
    { c with waiters := (c.waiters.filter fun p => !(p.1 == ag.slot && p.2.1 == ag.slice)) ++ [(ag.slot, ag.slice, c.cycle)] }
  (s.modFlow ag fun f => { f with run := .frameWait need call, readyFor := 0, aged := false }).modCore ag.core put

/-- Puts an agent whose wait has ended at the end of the core's frame waiters, for the refill of its current frame, before
it goes on (R155). -/
def State.refillFirst (s : State) (ag : AgentRef) : State :=
  s.modCore ag.core fun c => { c with waiters := c.waiters ++ [(ag.slot, ag.slice, c.cycle)] }

/-- Whether an agent is among the frame waiters. -/
def Core.queued (c : Core) (ag : AgentRef) : Bool := c.waiters.any fun p => p.1 == ag.slot && p.2.1 == ag.slice

/-- After RET, UNWIND or a spill: an agent whose current frame has granules in the Cellar waits for their refill
(R140). -/
def State.needRefill (s : State) (ag : AgentRef) : State :=
  match s.gang? ag.core ag.slot with
  | none => s
  | some g => if g.act.missing.isEmpty then s else s.frameWait ag g.act.missing.length none

/-- Granules that count against .framemax: all but the handler frame's two (R137) (assumption 34, DEDUCED). -/
def Gang.held (g : Gang) : Nat := g.body.held + (match g.hand with | some h => h.body.held - 2 | none => 0)

/-- Whether an agent's request may be granted now: it fits, and no older waiter or handler request stands
(R138) (assumption 33, DEDUCED). -/
def Core.grantable (c : Core) (g : Gang) (slice need : Nat) : Bool :=
  c.fits g need && c.handReqs.isEmpty && (match c.waiters with | [] => true | p :: _ => p.1 == g.slot && p.2.1 == slice)

/-- Whether rows lo to hi - 1 meet a queue definition. -/
def Frame.meetsQueue (f : Frame) (lo hi : Nat) : Bool :=
  [f.qd0, f.qd1].any fun q => match q with
    | some d => lo < d.base + d.count * d.depth && d.base < hi
    | none => false

/-- The new frame of a call, with its granules (R137, R154). -/
def Body.call (b : Body) (w : Nat) (fr : Frame) (need : Nat) : Body :=
  { b with frames := fr :: b.frames, grans := b.grans ++ List.replicate need (zeroGranule w) }

/-- CALL and CALLI (R137): n granules, the argument base in operand 0, the target. -/
def Ex.call (x : Ex) (n : Nat) (d : Opnd) (own : List Raised) (target : Dword) : Res :=
  let m := x.b.frame.ngr
  let reg := match d with | .v r => some r.val | _ => none
  let ab := match reg with | some r => r / 8 | none => 31
  let sh := if reg.isSome then min n (m - ab) else 0
  let need := n - sh
  let code : Dword := d.code.setWidth 64
  let rs := x.whole 5 ++
    (if (reg.map fun r => r % 8 != 0).getD false then [Raised.whole 7 .frameAlign code] else []) ++
    (if 255 ≤ x.b.frames.length then [Raised.whole 8 .frameDepth (BitVec.ofNat 64 x.b.frames.length)] else []) ++
    (if 0 < sh && x.b.frame.meetsQueue (8 * ab) (8 * (ab + sh)) then [Raised.whole 9 .queueDef code] else []) ++
    (if x.g.framemax < x.g.held + need then [Raised.whole 10 .frameDemand (BitVec.ofNat 64 (x.g.held + need))] else []) ++
    (if target.extractLsb' 0 2 != 0 then [Raised.whole 11 .pcMisaligned target] else [])
  let fr : Frame :=
    { rpc := x.next, hpc := 0, ord := x.b.held, mid := 0, mv := false, mmsd := 0, msb := x.fl.msd, abase := ab, ngr := n,
      qd0 := none, qd1 := none }
  x.check (firstOf [own, rs])
    (if need == 0 || x.core.grantable x.g x.ag.slice need then
      let leave (c : Core) : Core := { c with waiters := c.waiters.filter fun p => p.1 != x.ag.slot }
      .next ((x.s.modGang x.ag.core x.ag.slot fun g =>
        let g1 := (g.finish x target).modAct fun b => b.call x.w fr need
        g1.freeLatches).modCore x.ag.core leave)
     else .next (x.s.frameWait x.ag need (some x.i)))

/-- The lowest lane's pair A, which CALLI takes as its target (R137). -/
def Ex.calliTarget (x : Ex) : Dword := x.pair 1 (x.lowXm.getD 0)

/-- What CALLI's target raises (R137). -/
def Ex.calliRaised (x : Ex) : List Raised :=
  let ls := (upTo x.w).filter (bitOf x.fl.xm)
  firstOf [ls.flatMap fun i => poisons 0 .poisonBranch i [x.one 1 i],
    if ls.all fun i => x.pair 1 i == x.calliTarget then [] else [x.divergent]]

/-- Rows that a discarded frame defined as queues and shares with its caller hold values the manual does not
state (assumption 17, DESIGN CHOICE). -/
def Body.forgetQueues (b : Body) (ctr : Nat) : Body × Nat :=
  let sh := b.frame.shared (b.frames.drop 1)
  let rows := ([b.frame.qd0, b.frame.qd1].filterMap id).flatMap fun d => (upTo (d.count * d.depth)).map fun k => d.base + k
  (rows.filter fun r => r < 8 * sh).foldl (fun p r =>
    (p.1.setRow r ((p.1.row r).mapIdx fun i _ => ⟨Config.freeWord (p.2 + i), false⟩), p.2 + 32)) (b, ctr)

/-- Removes the current frame with its granules (R139, R141). -/
def Body.popFrame (b : Body) (ctr : Nat) : Body × Nat :=
  let f := b.forgetQueues ctr
  ({ f.1 with frames := f.1.frames.drop 1, grans := f.1.grans.take f.1.frame.ord }, f.2)

/-- Removes n frames. -/
def Body.popFrames : Nat → Body → Nat → Body × Nat
  | 0, b, ctr => (b, ctr)
  | n + 1, b, ctr => let r := b.popFrame ctr; r.1.popFrames n r.2

/-- Completes at a PC after removing n frames, with an updated flow (R139, R141). -/
def Ex.leaveFrames (x : Ex) (n : Nat) (pc : Dword) (f : Flow → Flow) : Res :=
  let r := x.b.popFrames n x.s.freeCtr
  let s1 := { x.s with freeCtr := r.2 }
  let s2 := s1.modGang x.ag.core x.ag.slot fun g =>
    let g1 := (g.finish x pc).modAct fun b => { b with frames := r.1.frames, grans := r.1.grans }
    (g1.modAct fun b => b.modFlow x.fi f).freeLatches
  .next (s2.needRefill x.ag)

/-- RET (R139). -/
def Ex.ret (x : Ex) : Res :=
  x.check (x.whole 4 ++
      (if x.fl.msd != x.floor then [Raised.whole 5 .unmatchedControl (BitVec.ofNat 64 x.fl.msd)] else []) ++
      (if x.b.frames.length ≤ 1 then [Raised.whole 12 .retEmpty 0] else []))
    (x.leaveFrames 1 x.b.frame.rpc id)

/-- MARK and MARK.clr (R141). -/
def Ex.mark (clr : Bool) (id : BitVec 8) (off : BitVec 16) (x : Ex) : Res :=
  let set (f : Frame) : Frame :=
    if clr then { f with mv := false, hpc := 0 }
    else { f with mv := true, mid := id, mmsd := x.fl.msd, hpc := x.target off }
  x.check (x.whole 5) (.next (x.s.modGang x.ag.core x.ag.slot fun g => (g.finish x x.next).modAct fun b => b.modFrame set))

/-- UNWIND (R141) (assumption 91, DEDUCED). -/
def Ex.unwind (id : BitVec 8) (x : Ex) : Res :=
  let k := x.b.frames.findIdx fun f => f.mv && f.mid == id
  let found := k < x.b.frames.length
  let fr := x.b.frames.getD k (.launch 1)
  x.check ((if x.fl.xm != x.fl.live then [x.divergent] else []) ++
      (if found then [] else [Raised.whole 2 .unwindNoMark (id.setWidth 64)]) ++
      (if found && x.fl.msd < fr.mmsd then [Raised.whole 4 .maskUnderflow (BitVec.ofNat 64 x.fl.msd)] else []) ++
      x.whole 5)
    (x.leaveFrames k fr.hpc fun f => { f with stack := f.stack.drop (f.stack.length - fr.mmsd) })

/-! ### Slices and the end (R142, R169 to R172) -/

/-- EXIT (R142); at S level it ends the gang as killed by a fault (R327). An end follows the gang's B reads (R259). -/
def Ex.exit (x : Ex) : Res :=
  if x.g.pl == .s then
    .next ((x.s.endGang x.ag.core x.ag.slot true).report x.g.ctx (.gangKilled ((x.g.hand.map fun h => h.cause).getD .softwareTrap) x.g.epc))
  else
    let m := x.fl.xm
    let out (f : Flow) : Flow := { f with xm := 0, stack := f.stack.map fun e => e &&& ~~~m }
    let s1 := x.s.modGang x.ag.core x.ag.slot fun g => (g.finish x x.next).modAct fun b => b.modFlow x.fi out
    let done : Res := .next (s1.settleGang x.ag.core x.ag.slot)
    if (x.b.modFlow x.fi out).dead then x.afterReads done else done

/-- The slices of a flow (R169). -/
def Flow.slices (f : Flow) (w : Nat) (pc : Dword) : List Flow :=
  (upTo (w / 4)).map fun k =>
    let l : Word := 15 <<< (4 * k)
    { f with pc := pc, xm := f.xm &&& l, stack := f.stack.map fun e => e &&& l, win := emptyWin w, mon := none, run := .ready,
             due := none, readyFor := 0, aged := false, passBp := false }

/-- PART (R169), ordered after every earlier access of the gang, its B reads among them (R173). -/
def Ex.part (x : Ex) : Res :=
  let aside := x.g.hand.isSome && x.g.body.parted
  let cut (b : Body) : Body := { b with flows := x.fl.slices x.w x.next, parted := true, pmsd := x.fl.msd }
  x.check (x.whole 5 ++ if aside then [Raised.whole 5 .unmatchedControl (BitVec.ofNat 64 x.fl.msd)] else [])
    (x.afterReads (.next ((x.s.orderAll x.ag.core).modGang x.ag.core x.ag.slot fun g =>
      ((g.finish x x.next).modAct fun b => (cut b).endDead).freeLatches)))

/-- REGANG (R172). In the handler of a parted gang, which runs joined, it has no effect (assumption 107, DESIGN CHOICE). -/
def Ex.regang (id : BitVec 8) (x : Ex) : Res :=
  if !x.b.parted then x.done x.s
  else
    let other := x.b.flows.findSome? fun f => match f.run with
      | .wait (.regang j) _ => if j == id then none else some j
      | _ => none
    x.check ((if x.fl.msd != x.b.pmsd then [Raised.whole 5 .unmatchedControl (BitVec.ofNat 64 x.fl.msd)] else []) ++
        (match other with
          | some j => [Raised.whole 6 .regangMismatch (BitVec.ofNat 64 (id.toNat + 256 * j.toNat))]
          | none => []))
      (match x.wait x.s (.regang id) with
        | .next s => .next (s.settleGang x.ag.core x.ag.slot)
        | r => r)

/-- BRK: the trap resumes after it, so no MMQ before it is trailing (R143, R320, R356). -/
def Ex.brk (x : Ex) : Res :=
  .next ((x.s.modGang x.ag.core x.ag.slot Gang.settleTrail).takeTrap x.ag.core x.ag.slot x.fi .breakpoint 0 x.next x.fl.pc)

/-- The rows of a frame's queues. -/
def Body.queueRows (b : Body) : List (Nat × Lanes) :=
  ([b.frame.qd0, b.frame.qd1].filterMap id).flatMap fun d =>
    (upTo (d.count * d.depth)).map fun k => (d.base + k, b.row (d.base + k))

/-- RGN (R143, R337). -/
def Ex.rgn (x : Ex) : Res :=
  let u := x.s.fresh
  let rec' : Region :=
    { id := u.1, entry := x.next, depth := x.b.frames.length, xm := x.fl.xm, stack := x.fl.stack, qd0 := x.b.frame.qd0,
      qd1 := x.b.frame.qd1, rows := x.b.queueRows, replays := 0 }
  x.check (x.whole 5) (.next (u.2.modGang x.ag.core x.ag.slot fun g =>
    { g.finish x x.next with region := some rec', regionPc := x.next }))

def execIfI (h : Hdr) (inv : Bool) (a : Opnd) (off : BitVec 16) (s : State) : Res :=
  issue (.ifI h inv a off) s (Ex.if' inv off)
def execElseI (h : Hdr) (off : BitVec 16) (s : State) : Res := issue (.elseI h off) s (Ex.else' off)
def execEndif (h : Hdr) (s : State) : Res := issue (.endif h) s Ex.endif
def execLoop (h : Hdr) (off : BitVec 16) (s : State) : Res := issue (.loop h off) s (Ex.loop off)
def execEndl (h : Hdr) (off : BitVec 16) (s : State) : Res := issue (.endl h off) s (Ex.endl off)
def execBreakI (h : Hdr) (inv : Bool) (n : BitVec 5) (a : Opnd) (off : BitVec 16) (s : State) : Res :=
  issue (.breakI h inv n a off) s (Ex.breakCont false inv n off)
def execCont (h : Hdr) (inv : Bool) (n : BitVec 5) (a : Opnd) (off : BitVec 16) (s : State) : Res :=
  issue (.cont h inv n a off) s (Ex.breakCont true inv n off)
def execJmp (h : Hdr) (k : JmpKind) (a : Opnd) (off : BitVec 16) (s : State) : Res :=
  issue (.jmp h k a off) s (Ex.jmp k off)
def execCall (h : Hdr) (n : BitVec 5) (d : Opnd) (off : BitVec 16) (s : State) : Res :=
  issue (.call h n d off) s fun x => x.call n.toNat d [] (x.target off)
def execCalli (h : Hdr) (n : BitVec 5) (d a : Opnd) (s : State) : Res :=
  issue (.calli h n d a) s fun x => x.call n.toNat d x.calliRaised x.calliTarget
def execRet (h : Hdr) (s : State) : Res := issue (.ret h) s Ex.ret
def execMark (h : Hdr) (clr : Bool) (id : BitVec 8) (off : BitVec 16) (s : State) : Res :=
  issue (.mark h clr id off) s (Ex.mark clr id off)
def execUnwind (h : Hdr) (id : BitVec 8) (s : State) : Res := issue (.unwind h id) s (Ex.unwind id)
def execPart (h : Hdr) (s : State) : Res := issue (.part h) s Ex.part
def execRegang (h : Hdr) (id : BitVec 8) (s : State) : Res := issue (.regang h id) s (Ex.regang id)
def execExit (h : Hdr) (s : State) : Res := issue (.exit h) s Ex.exit
def execYield (h : Hdr) (s : State) : Res := issue (.yield h) s fun x => x.done x.s
def execNop (h : Hdr) (s : State) : Res := issue (.nop h) s fun x => x.done x.s
def execBrk (h : Hdr) (s : State) : Res := issue (.brk h) s Ex.brk
def execRgn (h : Hdr) (s : State) : Res := issue (.rgn h) s Ex.rgn

end Sys2Proof.Machine
end

