-- ==== Sys2Proof/Machine/Mtx.lean ====
section
/-! DEFINITION. The MTX class: tiles, quarter operations and their order, the codebook slot (spec 12, R261 to
R282; 04, R69 to R75). -/

namespace Sys2Proof

/-- The element format of an A format (R263). -/
def AFmt.elt : AFmt → Fmt
  | .bf16 => .bf16 | .f16 => .f16
  | .e4m3 | .mxe4m3 => .e4m3
  | .e5m2 | .mxe5m2 => .e5m2
  | .mxe2m1 => .e2m1

/-- The element format of a B format; a qc weight is an E4M3 value (R73). -/
def BFmt.elt : BFmt → Fmt
  | .bf16 => .bf16 | .f16 => .f16
  | .e4m3 | .mxe4m3 | .qc => .e4m3
  | .e5m2 | .mxe5m2 => .e5m2
  | .mxe2m1 => .e2m1

/-- Scale bytes of a column (R266). -/
def BFmt.scales : BFmt → Nat
  | .mxe4m3 | .mxe5m2 | .qc => 2
  | .mxe2m1 => 4
  | _ => 0

end Sys2Proof

namespace Sys2Proof.Machine

/-! ### Sources (R265, R266, R269) -/

/-- What a row of A or a column of B gives: its provenance word when poisoned, else its elements. -/
inductive MxSrc where
  | poisoned (w : Word)
  | clean (els : List Num)
  deriving DecidableEq, Repr

/-- Elements of a format in a number that joins 16 registers or words. -/
def eltsOf (f : Fmt) (n : Nat) : List Num :=
  (upTo (512 / fmtBits f)).map fun k => fmtDecode f (n / 2 ^ (fmtBits f * k) % 2 ^ fmtBits f)

/-- Byte k of a word. -/
def byteN (w : Word) (k : Nat) : Nat := w.toNat / 2 ^ (8 * k) % 256

/-- Applies the scale of each block of 32 elements (R69). -/
def scaled (scale : Nat → Nat) (els : List Num) : List Num :=
  els.mapIdx fun k v => v.scaleBy ((scale (k / 32) : Int) - 127)

/-- The A source of a row (R265, R269). -/
def ARow.src (af : AFmt) (r : ARow) : MxSrc :=
  let f := af.elt
  let els := eltsOf f (joinEls 32 (r.a.map fun x => x.v.toNat))
  if af.isMx then
    let w := fmtBits f
    match (upTo (16 / w)).findSome? fun b => blockPoison ((r.a.drop (w * b)).take w) r.c (byteN r.c.v b) with
    | some p => .poisoned p
    | none => .clean (scaled (byteN r.c.v) els)
  else match r.a.find? fun x => x.p with
    | some x => .poisoned x.v
    | none => .clean els

/-- The eight weights of a qc code (R70 to R73). -/
def qcWeights (slot : Lanes) (code : Nat) : List Num :=
  let sh := code / 256
  let byte (k : Nat) : Nat := byteN (laneAt slot (k / 4)).v (k % 4)
  let t := byte (3 * sh) + 256 * byte (3 * sh + 1) + 65536 * byte (3 * sh + 2)
  let sgn := code / 2 % 128
  let par := (upTo 7).countP fun k => sgn.testBit k
  (upTo 8).map fun i => .fin (if i == 7 then par % 2 == 1 else sgn.testBit i) (2 * (t / 8 ^ i % 8) + code % 2) (-2)

/-- Slot words that the shapes of some codes touch, rising (R269). -/
def slotWords (slot : Lanes) (codes : List Nat) : List LV :=
  let ns := codes.foldl (fun l c => (upTo 3).foldl (fun l d => insertUp ((3 * (c / 256) + d) / 4) l) l) []
  ns.map (laneAt slot)

/-- The B source of column j, from the words of the extent and the slot (R266, R269). -/
def bColumn (bf : BFmt) (ws slot : Lanes) (j : Nat) : MxSrc :=
  let nb := bf.scales
  if bf == .qc then
    let cw := (ws.drop (4 * j)).take 4
    let codes := (upTo 8).map fun c => (laneAt cw (c / 2)).v.toNat / 65536 ^ (c % 2) % 65536
    let sw (b : Nat) : LV := laneAt ws ((256 + nb * j + b) / 4)
    let sb (b : Nat) : Nat := byteN (sw b).v ((256 + nb * j + b) % 4)
    match (upTo 2).findSome? fun b =>
        blockPoison ((cw.drop (2 * b)).take 2 ++ slotWords slot ((codes.drop (4 * b)).take 4)) (sw b) (sb b) with
    | some p => .poisoned p
    | none => .clean (scaled sb (codes.flatMap (qcWeights slot)))
  else
    let col := (ws.drop (16 * j)).take 16
    let els := eltsOf bf.elt (joinEls 32 (col.map fun x => x.v.toNat))
    if nb == 0 then match col.find? fun x => x.p with
      | some x => .poisoned x.v
      | none => .clean els
    else
      let w := fmtBits bf.elt
      let sw (b : Nat) : LV := laneAt ws ((1024 + nb * j + b) / 4)
      let sb (b : Nat) : Nat := byteN (sw b).v ((1024 + nb * j + b) % 4)
      match (upTo nb).findSome? fun b => blockPoison ((col.drop (w * b)).take w) (sw b) (sb b) with
      | some p => .poisoned p
      | none => .clean (scaled sb els)

/-- A source with its tag, as merge() takes it (R269). -/
def MxSrc.lv : MxSrc → LV
  | .poisoned w => ⟨w, true⟩
  | .clean _ => ⟨0, false⟩
def MxSrc.els : MxSrc → List Num
  | .poisoned _ => []
  | .clean l => l

/-! ### Element updates (R268, R269) -/

/-- An element in an update: T, S, whether the update of this element is over, whether it was invalid. -/
structure Elem where
  t : LV
  s : Word
  off : Bool
  inv : Bool
  deriving DecidableEq, Repr

/-- The exact sum of products of a group, none when invalid. -/
def groupSum (a b : List Num) : Option Num :=
  match (a.zip b).map fun p => Num.mul p.1 p.2 with
  | [] => some (.fin false 0 0)
  | p :: ps => ps.foldl (fun s q => s.bind fun x => q.bind fun y => Num.add .rne x y) p

/-- Adds a group sum to the partial (R268). -/
def Elem.add (e : Elem) (g : Option Num) : Elem :=
  if e.off then e
  else match g.bind fun v => Num.add .rne (lf32.decode e.s.toNat) (lf32.decode (toA26 v).toNat) with
    | none => { e with off := true, inv := true }
    | some v => { e with s := toA26 v }

/-- A promotion (R268, R269). -/
def Elem.promote (e : Elem) : Elem :=
  if e.off then { e with s := 0 }
  else match Num.add .rne (lf32.decode e.t.v.toNat) (lf32.decode e.s.toNat) with
    | none => { e with off := true, inv := true }
    | some v => { e with t := ⟨BitVec.ofNat 32 (lf32.finish .rne false v), false⟩, s := 0 }

/-- The elements of a row. -/
def TileRow.elems (r : TileRow) : List Elem :=
  (upTo 16).map fun j => let t := laneAt r.t j; ⟨t, r.s.getD j 0, t.p, false⟩

/-- The row that elements leave, with new poison in ascending column order for the invalid ones (R269). -/
def settleRow (ch : Charge) (g : Nat) : List Elem → State → TileRow × State
  | [], s => (⟨[], [], g⟩, s)
  | e :: es, s =>
    let r := if !e.inv then ((e.t, e.s), s)
      else if ch.psn then
        let o := s.newOrigin ch 0 0
        ((⟨o.1, true⟩, 0), o.2)
      else ((⟨0x7FC00000, false⟩, 0), s)
    let q := settleRow ch g es r.2
    (⟨r.1.1 :: q.1.t, r.1.2 :: q.1.s, g⟩, q.2)

/-- An element before an update from row source a and column source b (R269). -/
def Elem.start (a b : MxSrc) (e : Elem) : Elem :=
  match merge [a.lv, b.lv, e.t] with
  | some w => ⟨⟨w, true⟩, 0, true, false⟩
  | none =>
    if a.els.any Num.isNan || b.els.any Num.isNan || (lf32.decode e.t.v.toNat).isNan then
      ⟨⟨0x7FC00000, false⟩, 0, true, false⟩
    else e

/-- The groups of a row's update, ascending K (R268): n groups left, the next at group k. -/
def rowGroups (p : Nat) (a : MxSrc) (bs : List MxSrc) : Nat → Nat → List Elem × Nat → List Elem × Nat
  | 0, _, r => r
  | n + 1, k, (es, g) =>
    let es1 := es.mapIdx fun j e =>
      e.add (groupSum ((a.els.drop (8 * k)).take 8) ((((bs.getD j (.clean [])).els).drop (8 * k)).take 8))
    rowGroups p a bs n (k + 1) (if p ≤ g + 1 then (es1.map Elem.promote, 0) else (es1, g + 1))

/-- A row's update by a quarter operation (R268). -/
def TileRow.mmq (r : TileRow) (ch : Charge) (p : Nat) (groups : Nat) (a : MxSrc) (bs : List MxSrc) (s : State) :
    TileRow × State :=
  let es := r.elems.mapIdx fun j e => e.start a (bs.getD j (.clean []))
  let q := rowGroups p a bs groups 0 (es, r.g)
  settleRow ch q.2 q.1 s

/-- A row's promotion, whatever its counter (R276, R277). -/
def TileRow.promote (r : TileRow) (ch : Charge) (s : State) : TileRow × State :=
  settleRow ch 0 (r.elems.map Elem.promote) s

/-- A word as A26 takes it from a register: no bits below the fraction, no subnormals (R278). -/
def a26Word (w : Word) : Word :=
  let v := w &&& 0xFFFFFFC0
  if v.extractLsb' 23 8 == 0 then v &&& 0x80000000 else v

/-- ACCWR of a row (R278). -/
def TileRow.accwr (r : TileRow) (mode : AccMode) (a : Lanes) : TileRow :=
  match mode with
  | .val | .fp => { r with t := a }
  | .part => { r with s := a.map fun x => a26Word x.v }
  | .cnt => let c := (laneAt a 0).v.toNat % 256; { r with g := if c == 255 then 254 else c }

/-- Values of row i of a tile as they are read: an uncorrectable error in one gives kind 3 in the value read, ADDR 0
(R349). -/
def State.tileRead (s : State) (ch : Charge) (tile i : Nat) (l : Lanes) : Lanes × State :=
  match takePhys (fun p => match p with | .tileUe t k j => t == tile && k == i && j < l.length | _ => false) s.phys with
  | some (.tileUe _ _ j, rest) =>
    let o := { s with phys := rest }.newOrigin ch 3 0
    (setNth l j ⟨o.1, true⟩, o.2)
  | _ => (l, s)

/-- The partials of row i of a tile as values: an uncorrectable error in one gives kind 3 in the value read, ADDR 0 (R349). -/
def State.partRead (s : State) (ch : Charge) (tile i : Nat) (l : List Word) : Lanes × State :=
  let row : Lanes := l.map fun w => ⟨w, false⟩
  match takePhys (fun p => match p with | .partUe t k j => t == tile && k == i && j < l.length | _ => false) s.phys with
  | some (.partUe _ _ j, rest) =>
    let o := { s with phys := rest }.newOrigin ch 3 0
    (setNth row j ⟨o.1, true⟩, o.2)
  | _ => (row, s)

/-- A row as it is read. S has no tag: an element whose partial is in error is poisoned, its S 0 (assumption 6, DESIGN
CHOICE). -/
def TileRow.read (r : TileRow) (ch : Charge) (tile i : Nat) (s : State) : TileRow × State :=
  let q := s.tileRead ch tile i r.t
  let p := q.2.partRead ch tile i r.s
  ({ r with
    t := q.1.mapIdx fun j v => if (laneAt p.1 j).p && !v.p then laneAt p.1 j else v
    s := p.1.map fun v => if v.p then 0 else v.v }, p.2)

/-- A row as at admission (R261). -/
def TileRow.zero : TileRow := ⟨List.replicate 16 ⟨0, false⟩, List.replicate 16 0, 0⟩

/-- Tile t of a workgroup. -/
def Wg.tile (w : Wg) (t : Nat) : Tile := lookupD t (List.replicate 8 .zero) w.tiles

/-- Updates rows in order, threading the state. -/
def eachRow (f : Nat → TileRow → State → TileRow × State) : Nat → Tile → State → Tile × State
  | _, [], s => ([], s)
  | i, r :: rs, s =>
    let a := f i r s
    let q := eachRow f (i + 1) rs a.2
    (a.1 :: q.1, q.2)

/-- The effect of a tile operation on its tile, in one step (R268, R271, R276, R278). -/
def TileOp.apply (op : TileOp) (t : Tile) (s : State) : Tile × State :=
  let ch (i : Nat) : Charge := { op.charge with lane := 8 * op.quarter + i }
  match op.act with
  | .accz => (List.replicate 8 .zero, s)
  | .accpro => eachRow (fun i r s => let q := r.read (ch i) op.tile i s; q.1.promote (ch i) q.2) 0 t s
  | .accwr mode rows => (t.mapIdx fun i r => match rows.getD i none with | some a => r.accwr mode a | none => r, s)
  | .mmq af bf _ _ rows =>
    match op.b with
    | none => (t, s)
    | some (ws, slot) =>
      let bs := (upTo 16).map (bColumn bf ws slot)
      eachRow (fun i r s => match rows.getD i none with
        | some a => let q := r.read (ch i) op.tile i s; q.1.mmq (ch i) op.mxp (64 / fmtBits af.elt) (a.src af) bs q.2
        | none => (r, s)) 0 t s

/-- Whether an operation may take effect when its turn comes: an MMQ when its pass has ended. -/
def TileOp.ready (op : TileOp) : Bool :=
  match op.act with
  | .mmq .. => op.done
  | _ => true

/-- Lets every operation take effect that no earlier one of its gang on its tile holds back (R271). The result
lists those that stay. -/
def sweep (r : CoreRef) : List TileOp → List TileOp → State → List TileOp × State
  | [], kept, s => (kept, s)
  | op :: ops, kept, s =>
    if op.ready && !(kept.any fun k => k.gang == op.gang && k.wg == op.wg && k.tile == op.tile) then
      let a := op.apply (((s.core r).wg op.wg).tile op.tile) s
      sweep r ops kept (a.2.modWg r op.wg fun w => { w with tiles := setAt op.tile a.1 w.tiles })
    else sweep r ops (kept ++ [op]) s

/-- The sweep over a core's operations. -/
def State.sweepTops (s : State) (r : CoreRef) : State :=
  let q := sweep r (s.core r).tops [] s
  q.2.modCore r fun c => { c with tops := q.1 }

/-! ### Passes (R272) -/

/-- Whether two operations may share a pass (R272). -/
def TileOp.fuses (a b : TileOp) : Bool :=
  match a.act, b.act with
  | .mmq af bf cm b0 _, .mmq af' bf' cm' b0' _ =>
    af == af' && bf == bf' && cm == cm' && b0 == b0' &&
      (if !cm || bf == .qc then a.wg == b.wg && a.charge.ctx == b.charge.ctx else a.charge.ctx == b.charge.ctx)
  | _, _ => false

/-- Adds a quarter operation to the pass that gathers, or opens one; four quarters close it (R272)
(assumption 90, DEDUCED). -/
def Core.joinPass (c : Core) (op : TileOp) : Core :=
  let fits (p : Pass) : Bool := (match p.st with | .gathering _ => true | _ => false) && p.ops.length < 4 &&
    (c.tops.any fun t => p.ops.contains t.id && t.fuses op)
  let add (p : Pass) : Pass :=
    let l := p.ops ++ [op.id]
    ⟨l, if 4 ≤ l.length then .closed else p.st⟩
  let ps := match c.passes.getLast? with
    | some p => if fits p then c.passes.dropLast ++ [add p] else c.passes ++ [⟨[op.id], .gathering c.cycle⟩]
    | none => [⟨[op.id], .gathering c.cycle⟩]
  { c with tops := c.tops ++ [op], passes := ps }

/-! ### The instructions -/

/-- The checks of a quarter's tile number, in operand j, with more operands that must be clean (R267, R275). -/
def Ex.tileRaised (x : Ex) (j : Nat) (also : List Nat) (i : Nat) : List Raised :=
  let t := (x.lv j i).v
  firstOf [poisons 0 .poisonAddress i (x.lv j i :: also.map fun k => x.lv k i),
    if x.wg.acc ≤ t.toNat then [.lane' 1 .accTileRange i (t.setWidth 64)] else []]

/-- A tile operation of one quarter, with its number. -/
def Ex.tileOp (x : Ex) (id q lane j : Nat) (act : TileAct) : TileOp :=
  { id := id, gang := x.g.uid, wg := x.g.wg, quarter := q, tile := (x.lv j lane).v.toNat, mxp := x.g.mxp,
    charge := x.charge lane, region := x.g.region.map fun r => r.id, act := act, b := none, done := false, instr := x.s.uid,
    parts := x.quarters.length }

/-- The 16 registers of operand j in the rows of a quarter, none outside the lane set (R265). -/
def Ex.quarterRows (x : Ex) (j q : Nat) : List (Option Lanes) :=
  (upTo 8).map fun i => if x.inSet (8 * q + i) then some (x.regs j (8 * q + i)) else none

/-- Fills a latch for each acting quarter: the gang's own, or a free one of the core's 32 (R273)
(assumption 89, DEDUCED). -/
def Ex.fillLatches (x : Ex) (a c : Opnd) (s : State) : State :=
  x.quarters.foldl (fun s p =>
    let used := ((s.core x.ag.core).gangs.map fun g => g.latches.length).sum
    let l : Latch := ⟨p.1, a, c, x.b.frames.length, false⟩
    s.modGang x.ag.core x.ag.slot fun g =>
      if (g.latches.any fun k => k.quarter == p.1) || used < 32 then
        { g with latches := upsert (fun k => k.quarter == p.1) l g.latches, freed := remove p.1 g.freed }
      else g) s

/-- Whether an MMQ.keep reads A again after its latch was released: one of an acting quarter (R274, R319). -/
def Ex.rereads (x : Ex) : Bool := x.quarters.any fun p => x.g.freed.contains p.1

/-- MMQ (R263 to R273). An MMQ.keep that reads A again after a released latch counts in sy.stall.latch (R274). -/
def Ex.mmq (keep : Bool) (af : AFmt) (bf : BFmt) (commons : Bool) (a c : Opnd) (x : Ex) : Res :=
  let sp : Space := if commons then .commons else .scratch
  let chk (i : Nat) : List Raised :=
    let b0 := (x.lv 2 i).v.toNat
    firstOf [x.tileRaised 0 [2] i,
      if b0 % 64 != 0 then [.lane' 2 .addrMisaligned i (BitVec.ofNat 64 b0)] else [],
      x.rangeRaised 3 i (some sp) b0 bf.extent]
  let put (s : State) (p : Nat × Nat) : State :=
    let n := s.fresh
    let rows := (x.quarterRows 1 p.1).mapIdx fun i r => r.map fun l => (⟨l, x.lv 3 (8 * p.1 + i)⟩ : ARow)
    n.2.modCore x.ag.core fun k =>
      k.joinPass (x.tileOp n.1 p.1 p.2 0 (.mmq af bf commons (x.lv 2 p.2).v.toNat rows))
  x.check (firstOf [x.whole 4, x.quarters.flatMap fun p => chk p.2])
    (let s1 := x.fillLatches a c (x.quarters.foldl put x.s)
     x.done (if keep && x.rereads then s1.note x.ag.core 8 else s1))

/-- ACCZ, ACCPRO and ACCWR: one operation a quarter, in the gang's tile order (R276, R278). -/
def Ex.tileOps (x : Ex) (own : List Raised) (act : Nat → TileAct) : Res :=
  let put (s : State) (p : Nat × Nat) : State :=
    let n := s.fresh
    n.2.modCore x.ag.core fun k => { k with tops := k.tops ++ [x.tileOp n.1 p.1 p.2 0 (act p.1)] }
  x.check (firstOf [own, x.quarters.flatMap fun p => x.tileRaised 0 [] p.2])
    (x.done ((x.quarters.foldl put x.s).sweepTops x.ag.core))

/-- ACCWR (R278). -/
def Ex.accwr (mode : AccMode) (x : Ex) : Res :=
  let rows (q : Nat) : List (Option Lanes) := x.quarterRows 1 q
  let store : List Raised := if mode == .val then [] else x.set.flatMap fun i => poisons 2 .poisonStore i (x.regs 1 i)
  let tiles := x.quarters.flatMap fun p => x.tileRaised 0 [] p.2
  x.tileOps (firstOf [x.whole 4, tiles, store]) fun q => .accwr mode (rows q)

/-- Reads one lane's row of a tile, promoting it first under .fp (R277). -/
def Ex.accrdLane (x : Ex) (mode : AccMode) (i : Nat) (t : Nat) (s : State) : List LV × State :=
  let tile := ((s.core x.ag.core).wg x.g.wg).tile t
  let row := tile.getD (i % 8) .zero
  let out (l : Lanes) : Lanes × State := s.tileRead (x.charge i) t (i % 8) l
  match mode with
  | .val => out row.t
  | .part => s.partRead (x.charge i) t (i % 8) row.s
  | .cnt => out [⟨BitVec.ofNat 32 row.g, false⟩]
  | .fp =>
    let c := row.read (x.charge i) t (i % 8) s
    let q := c.1.promote (x.charge i) c.2
    (q.1.t, q.2.modWg x.ag.core x.g.wg fun w => { w with tiles := setAt t (setNth (w.tile t) (i % 8) q.1) w.tiles })

/-- ACCRD (R277): waits for the gang's earlier operations on its tiles. -/
def Ex.accrd (mode : AccMode) (x : Ex) : Res :=
  let qs := x.quarters
  let tile (i : Nat) : Nat := match qs.find? fun p => p.1 == i / 8 with
    | some p => (x.lv 1 p.2).v.toNat
    | none => 0
  x.check (firstOf [x.whole 4, qs.flatMap fun p => x.tileRaised 1 [] p.2])
    (if x.core.tops.any fun t => t.gang == x.g.uid && qs.any fun p => (x.lv 1 p.2).v.toNat == t.tile then
      x.wait x.s .accrd
     else
      let r := eachLane (fun i s => x.accrdLane mode i (tile i) s) x.set x.s
      x.result r.2 (rowsOf x.w (if mode == .cnt then 1 else 16) r.1))

/-- MXSET (R279). -/
def Ex.mxset (x : Ex) : Res :=
  let i := x.fl.lowXm
  let v := (x.lv 0 i).v.toNat % 256
  let set (g : Gang) : Gang := { g with mxp := if v == 0 then 16 else v }
  x.check (poisons 0 .poisonAddress i [x.lv 0 i]) (x.done (x.s.modGang x.ag.core x.ag.slot set))

/-- The translation of an address of a CBLOAD source. -/
def Ex.cbTr (x : Ex) (sp : Space) (va : Dword) : Tr :=
  if sp == .global then translate x.tlbs x.g.ctx x.g.pl .read va else .ok va.toNat false

/-- Reads a word of a CBLOAD source (R281). -/
def Ex.cbWord (x : Ex) (sp : Space) (lane : Nat) (va : Dword) (s : State) (seen : Seen) : LV × State × Seen :=
  let loc : Loc := match sp, x.cbTr sp va with
    | .global, .ok pa cp => .global (if cp then .i else .c) (pa / 4)
    | .commons, _ => .commons (va.toNat / 4)
    | _, _ => .scratch (va.toNat / 4)
  (s.settleRead x.s x.ag.core [loc]).readUe x.who (x.charge lane) loc va true seen

/-- CBLOAD (R281). -/
def Ex.cbload (sp : Space) (x : Ex) : Res :=
  match x.lowest with
  | none => x.check [] (x.done x.s)
  | some i =>
    let ea := x.ea ⟨some sp, 768, .read, .c, 0, x.disp⟩ i
    let last := ea + 767
    let pages := if sp == .global then [ea, if ea >>> 16 == last >>> 16 then ea else last >>> 16 <<< 16] else []
    x.check (firstOf [poisons 0 .poisonAddress i [x.one 0 i, x.one 1 i],
        if ea.toNat % 16 != 0 then [.lane' 1 .addrMisaligned i ea] else [],
        x.rangeRaised 2 i (some sp) ea.toNat 768,
        if sp == .global then x.rangeRaised 2 i (some sp) last.toNat 1 else [],
        if pages.any fun a => x.cbTr sp a == .quarantined then [.lane' 4 .pageQuarantined i
          ((pages.find? fun a => x.cbTr sp a == .quarantined).getD ea)] else []])
      (x.parkOn (pages.map fun a => (i, a, .read))
        (if sp == .global && x.g.ctx.isNone && !x.s.installed x.ag.core ea.toNat 768 then .fault (.physicalHole ea.toNat)
          else
            let r := (upTo 192).foldl (fun (p : Lanes × State × Seen) k =>
              let q := x.cbWord sp i (ea + BitVec.ofNat 64 (4 * k)) p.2.1 p.2.2
              (p.1 ++ forced [q.1], q.2.1, q.2.2)) ([], x.s, [])
            x.done (r.2.1.modWg x.ag.core x.g.wg fun w => { w with cb := some r.1 })))

/-- CBRD (R282). -/
def Ex.cbrd (x : Ex) : Res :=
  let chk (i : Nat) : List Raised :=
    let a := x.lv 1 i
    firstOf [poisons 0 .poisonAddress i [a],
      if 192 ≤ a.v.toNat then [.lane' 1 .cbSlot i (a.v.setWidth 64)] else []]
  x.check (firstOf [if x.wg.cb.isNone then [.whole 0 .cbSlot 0] else [], x.set.flatMap chk])
    (x.lanewise 1 fun i s =>
      let w := (x.lv 1 i).v.toNat
      let r := s.slotRead (x.charge i) (fun k => k == w) (x.wg.cb.getD [])
      ([laneAt r.1 w], r.2))

/-- MXWAIT (R280). -/
def Ex.mxwait (x : Ex) : Res :=
  x.check [] (if x.core.tops.any fun t => t.gang == x.g.uid then x.wait x.s .mxwait else x.done x.s)

def execMmq (h : Hdr) (keep : Bool) (af : AFmt) (bf : BFmt) (cm : Bool) (d a b c : Opnd) (s : State) : Res :=
  issue (.mmq h keep af bf cm d a b c) s (Ex.mmq keep af bf cm a c)
def execAccz (h : Hdr) (d : Opnd) (s : State) : Res := issue (.accz h d) s fun x => x.tileOps [] fun _ => .accz
def execAccrd (h : Hdr) (m : AccMode) (d a : Opnd) (s : State) : Res := issue (.accrd h m d a) s (Ex.accrd m)
def execAccwr (h : Hdr) (m : AccMode) (d a : Opnd) (s : State) : Res := issue (.accwr h m d a) s (Ex.accwr m)
def execAccpro (h : Hdr) (d : Opnd) (s : State) : Res := issue (.accpro h d) s fun x => x.tileOps [] fun _ => .accpro
def execMxset (h : Hdr) (a : Opnd) (s : State) : Res := issue (.mxset h a) s Ex.mxset
def execCbload (h : Hdr) (sp : Space) (a b : Opnd) (s : State) : Res := issue (.cbload h sp a b) s (Ex.cbload sp)
def execCbrd (h : Hdr) (d a : Opnd) (s : State) : Res := issue (.cbrd h d a) s Ex.cbrd
def execMxwait (h : Hdr) (s : State) : Res := issue (.mxwait h) s Ex.mxwait

end Sys2Proof.Machine
end

