-- ==== Sys2Proof/Machine/Rmt.lean ====
section
/-! DEFINITION. The RMT class: paths over the panel, target descriptors, remote operations from issue to
completion, notify counters (spec 17, R367 to R388). -/

namespace Sys2Proof.Machine

/-! ### Ports, plots and paths (R369, R371) -/

/-- The site an in-glass port of a plot reaches (R2, R369). -/
def hopTo (site port : Nat) : Option Nat :=
  let row := site / 6
  let col := site % 6
  let go (ok : Bool) (t : Nat) : Option Nat := if ok then some t else none
  match port with
  | 0 => go (1 ≤ row) (site - 6)
  | 1 => go (col + 1 < 6) (site + 1)
  | 2 => go (row + 1 < 8) (site + 6)
  | 3 => go (1 ≤ col) (site - 1)
  | 4 => go (2 ≤ row) (site - 12)
  | 5 => go (col + 2 < 6) (site + 2)
  | 6 => go (row + 2 < 8) (site + 12)
  | 7 => go (2 ≤ col) (site - 2)
  | _ => none

/-- States in which a plot carries transfers (R371). -/
def PlotSt.open' : PlotSt → Bool
  | .admitted | .serving | .draining => true
  | _ => false

/-- Whether a port of a plot is up: in-glass ports 0 to 7, off-panel ports 8 and 9. -/
def Plot.portUp (p : Plot) (port : Nat) : Bool :=
  if port < 8 then p.pup.getLsbD port else p.oup.getLsbD (port - 8)

/-- One round of a breadth-first search: every path extended by every usable hop to a site not seen. -/
def State.bfsRound (s : State) (seen : List Nat) (paths : List (Nat × List (Nat × Nat))) :
    List Nat × List (Nat × List (Nat × Nat)) :=
  paths.foldl (fun acc p =>
    (upTo 8).foldl (fun acc port =>
      match hopTo p.1 port with
      | some t =>
        if !acc.1.contains t && (s.plot p.1).portUp port && (s.plot t).st.open' then
          (t :: acc.1, acc.2 ++ [(t, p.2 ++ [(p.1, port)])])
        else acc
      | none => acc) acc) (seen, [])

/-- Searches for a path, one round for each unit of fuel. -/
def State.bfs (s : State) (dst : Nat) : Nat → List Nat → List (Nat × List (Nat × Nat)) → Option (List (Nat × Nat))
  | 0, _, _ => none
  | n + 1, seen, paths =>
    match paths.find? fun p => p.1 == dst with
    | some p => some p.2
    | none => let r := s.bfsRound seen paths; s.bfs dst n r.1 r.2

/-- The path route 0 takes: a shortest one over ports that are up and open plots (R371; assumption 25, DESIGN CHOICE). -/
def State.path0 (s : State) (src dst : Nat) : Option (List (Nat × Nat)) :=
  if (s.plot src).st.open' then s.bfs dst 48 [src] [(src, [])] else none

/-- The hops of a numbered route, at most 15, as far as the panel shows them: an off-panel hop ends the walk
(R370) (assumption 84, DEDUCED). -/
def walkRoute (hops : Dword) : Nat → Nat → List (Nat × Nat)
  | 0, _ => []
  | n + 1, site =>
    let p := (hops.extractLsb' (4 * (14 - n)) 4).toNat
    if p == 15 then []
    else match hopTo site p with
      | some t => (site, p) :: walkRoute hops n t
      | none => if p == 8 || p == 9 then [(site, p)] else []

/-- Whether a hop can no longer be used. -/
def State.hopLost (s : State) (h : Nat × Nat) : Bool :=
  !(s.plot h.1).portUp h.2 || !(s.plot h.1).st.open' || (match hopTo h.1 h.2 with
    | some t => !(s.plot t).st.open'
    | none => false)

/-! ### Target descriptors (R372, R373) -/

def descSite (d : Dword) : Nat := (d.extractLsb' 0 6).toNat
def descRoute (d : Dword) : Nat := (d.extractLsb' 8 8).toNat
def descPanel (d : Dword) : BitVec 21 := d.extractLsb' 16 21
def descCtr (d : Dword) : Nat := (d.extractLsb' 40 12).toNat
/-- The descriptor with its reserved bits cleared (R378). -/
def descKeep (d : Dword) : Dword := d &&& 0x000FFF1FFFFFFF3F

/-- Whether a descriptor raises ROUTE_INVALID at an island (R372, R373). -/
def State.descBad (s : State) (site : Nat) (d : Dword) : Bool :=
  let r := descRoute d
  let e := ((s.island? site).map fun x => x.route r).getD (0, 0)
  d != descKeep d || 48 ≤ descSite d ||
  (if r == 0 then descPanel d != s.panel
   else !e.2.getLsbD 63 || (e.2.extractLsb' 0 6).toNat != descSite d || e.2.extractLsb' 6 21 != descPanel d)

/-! ### Checks and issue (R378, R379) -/

/-- One lane's remote operation as the instruction states it. -/
structure RmtReq where
  kind : RopKind
  desc : Dword
  remote : Dword
  bytes : Nat
  sp : Option Space
  local' : Dword
  operand : Lanes
  nt : Bool
  ret : Bool
  deriving DecidableEq, Repr

/-- Whether a transfer of words, which joins a batch. -/
def RopKind.xfer : RopKind → Bool
  | .put | .putn | .get => true
  | _ => false

/-- Whether the gang waits for a reply. -/
def RopKind.atomic : RopKind → Bool
  | .ratom _ | .rcas _ => true
  | _ => false

/-- Whether the sender's fabric interface records a hole at the site, or a remote byte lies outside the symmetric
heap (R208, R378). -/
def Ex.isHole (x : Ex) (q : RmtReq) : Bool :=
  let heap := match x.g.ctx.bind x.s.context? with
    | some k => (k.heapBase, k.heapSize)
    | none => (0, 0)
  let a := q.remote.toNat
  x.g.ctx.isNone || x.ctxIsland.holes.getLsbD (descSite q.desc) ||
  (q.kind != .notify && (a < heap.1 || heap.1 + heap.2 < a + q.bytes))

/-- The local access of a transfer. -/
def RmtReq.access (q : RmtReq) : Access := if q.kind == .get then .write else .read

/-- The local pages of a transfer. -/
def RmtReq.pages (q : RmtReq) : List Dword := if q.sp == some .global && q.kind.xfer then pagesOf q.bytes q.local' else []

/-- The first check of R378 that a lane fails; `words` are the operands of step 1. NONCANONICAL of a local and of a remote address is
one cause of step 6, of which the lowest lane is reported (R322). -/
def Ex.rmtRaised (x : Ex) (q : RmtReq) (words : List LV) (i : Nat) : List Raised :=
  let site := x.ag.core.site.getD 64
  let zero := q.kind.xfer && q.bytes == 0
  let mis : List Dword :=
    if q.kind.xfer then [q.remote, BitVec.ofNat 64 q.bytes, q.local'].filter fun v => v.toNat % 4 != 0
    else if q.kind.atomic && q.remote.toNat % q.bytes != 0 then [q.remote] else []
  let ctr := descCtr q.desc
  let badCtr := (q.kind == .putn || q.kind == .notify) && (0xFF0 ≤ ctr || (0xFE0 ≤ ctr && descSite q.desc != site))
  let range : List Raised := match q.kind.xfer, q.sp with
    | true, some .global => x.segCanonical i q.bytes q.local'
    | true, some sp => x.rangeRaised 3 i (some sp) q.local'.toNat q.bytes
    | _, _ => []
  let big : List Raised :=
    if q.kind.xfer && Config.copyLimit < q.bytes then [.lane' 2 .cpyRange i (BitVec.ofNat 64 q.bytes)] else []
  firstOf [
    poisons 0 .poisonAddress i words,
    if zero then [] else (mis.take 1).map fun v => .lane' 1 .addrMisaligned i v,
    if zero then [] else big,
    if zero || !badCtr then [] else [.lane' 3 .notifyRange i (BitVec.ofNat 64 ctr)],
    if x.s.descBad site q.desc then [.lane' 4 .routeInvalid i (descKeep q.desc)] else [],
    if zero then [] else range.map fun r => { r with ord := 5 },
    if zero || q.kind == .notify || canonical q.remote then []
      else [.lane' (if q.sp == some .global then 5 else 6) .noncanonical i q.remote],
    if zero || q.nt || !x.isHole q then [] else [.lane' 7 .remoteHole i q.remote],
    if zero || x.isHole q then [] else
      (q.pages.find? fun a => translate x.tlbs x.g.ctx x.g.pl q.access a == .quarantined).toList.map fun a =>
        .lane' 8 .pageQuarantined i a]

/-- Whether a lane issues an operation: not an empty transfer, and not a hole under .nt. -/
def Ex.rmtIssues (x : Ex) (q : RmtReq) : Bool := !(q.kind.xfer && q.bytes == 0) && !x.isHole q

/-- The local pages that a lane reaches. -/
def Ex.rmtPages (x : Ex) (q : RmtReq) (i : Nat) : List (Nat × Dword × Access) :=
  if x.rmtIssues q then q.pages.map fun a => (i, a, q.access) else []

/-- Remote operations of a core in flight (R379). -/
def State.inFlight (s : State) (r : CoreRef) : Nat := s.rops.countP fun o => o.ag.core == r && o.st != .answered

/-- Issues one lane's operation. -/
def Ex.issueRmt (x : Ex) (s : State) (i : Nat) (q : RmtReq) : State :=
  let site := x.ag.core.site.getD 0
  let target := descSite q.desc
  let route := descRoute q.desc
  let u := s.fresh
  let e := ((s.island? site).map fun y => y.route route).getD (BitVec.allOnes 64, 0)
  let path : Option (List (Nat × Nat)) := if route == 0 then s.path0 site target else some (walkRoute e.1 15 site)
  let op : Rop :=
    { id := u.1, gang := x.g.uid, grid := x.wg.grid, ag := x.ag, charge := x.charge i, site := site, kind := q.kind,
      target := target, route := route, desc := descKeep q.desc, remote := q.remote, bytes := q.bytes,
      sp := q.sp.getD .global, localAddr := q.local', wg := x.g.wg,
      pages := (match x.g.ctx with | some k => (q.pages.filterMap fun a => tlbFind x.tlbs.tlb k a).eraseDups | none => []),
      operand := q.operand, nt := q.nt, ret := q.ret, lane := i, solo := if x.b.parted then some x.ag.slice else none,
      batch := if q.kind.xfer then some x.g.nextBatch else none,
      st := (if path.isSome then .flying else .held), done := 0, data := [], behind := x.fl.behind,
      serve := none, refused := false, path := path.getD [] }
  { u.2 with rops := u.2.rops ++ [op] }

/-- Sets the bits of sites in a failed-site mask. -/
def failBits (sites : List Nat) : BitVec 48 := sites.foldl (fun m k => m ||| BitVec.ofNat 48 (2 ^ k)) 0

/-- CHECKS AND ISSUE of a remote instruction (R378, R379): `k` goes on after the issue, with the number of
operations issued. -/
def Ex.remote (x : Ex) (req : Nat → RmtReq) (words : Nat → List LV) (k : State → Nat → Res) : Res :=
  let go := x.set.filter fun i => x.rmtIssues (req i)
  let failed := x.set.filter fun i => !((req i).kind.xfer && (req i).bytes == 0) && x.isHole (req i)
  let mark (g : Gang) : Gang := { g with failMask := g.failMask ||| failBits (failed.map fun i => descSite (req i).desc) }
  x.check (x.set.flatMap fun i => x.rmtRaised (req i) (words i) i)
    (x.parkOn (x.set.flatMap fun i => x.rmtPages (req i) i)
       (if go.isEmpty || x.s.inFlight x.ag.core + go.length ≤ Config.remoteOpsPerCore then
          let leave (c : Core) : Core := { c with remoteWaits := c.remoteWaits.filter fun a => !(a == x.ag) }
          let s1 := (x.s.modCore x.ag.core leave).modGang x.ag.core x.ag.slot mark
          k (go.foldl (fun s i => x.issueRmt s i (req i)) s1) go.length
        else
          let put (c : Core) : Core :=
            if c.remoteWaits.contains x.ag then c else { c with remoteWaits := c.remoteWaits ++ [x.ag] }
          x.wait (x.s.modCore x.ag.core put) .remoteSlot))

/-- PUT, PUTN and GET (R378, R380). -/
def Ex.transfer (kind : RopKind) (sp : Space) (nt : Bool) (x : Ex) : Res :=
  let req (i : Nat) : RmtReq :=
    { kind := kind, desc := x.pair 0 i, remote := x.pair 1 i, bytes := (x.lv 2 i).v.toNat, sp := some sp,
      local' := if sp == .global then x.pair 3 i else (x.lv 3 i).v.setWidth 64, operand := [], nt := nt, ret := false }
  x.remote req (fun i => [x.one 0 i, x.one 1 i, x.one 2 i, x.one 3 i]) fun s _ => x.done s

/-- The operations of the agent's atomic instruction whose replies have arrived. -/
def Ex.answers (x : Ex) : List Rop := x.s.rops.filter fun o => o.ag == x.ag && o.gang == x.g.uid && o.st == .answered

/-- The end of a remote atomic: old values in the lanes that asked (R381, R383). -/
def Ex.atomDone (x : Ex) (s : State) (ret : Bool) (regs : Nat) : Res :=
  let ans := x.answers
  let s1 := { s with rops := s.rops.filter fun o => !(ans.any fun a => a.id == o.id) }
  if ret then x.result s1 (rowsOf x.w regs (ans.map fun o => (o.lane, o.data))) else x.done s1

/-- RATOM and RCAS (R378, R381): the gang goes on when every reply has arrived. They are a commit point when they issue (R337). -/
def Ex.ratom (kind : RopKind) (regs : Nat) (nt ret : Bool) (x : Ex) : Res :=
  let ja := if ret then 1 else 0
  let req (i : Nat) : RmtReq :=
    { kind := kind, desc := x.pair (ja + 1) i, remote := x.pair ja i, bytes := 4 * regs, sp := none, local' := 0,
      operand := x.regs (ja + 2) i, nt := nt, ret := ret }
  if !x.answers.isEmpty then x.atomDone x.s ret regs
  else x.remote req (fun i => [x.one (ja + 1) i, x.one ja i])
    fun s n =>
      if n == 0 then x.atomDone s ret regs
      else x.wait (s.modGang x.ag.core x.ag.slot fun g => { g with region := none }) .reply

/-- NOTIFY (R382). -/
def Ex.notify (nt : Bool) (x : Ex) : Res :=
  let req (i : Nat) : RmtReq :=
    { kind := .notify, desc := x.pair 0 i, remote := 0, bytes := 0, sp := none, local' := 0, operand := [x.lv 1 i], nt := nt,
      ret := false }
  x.remote req (fun i => [x.one 0 i, x.one 1 i]) fun s n => x.done (if n == 0 then s else s.release x.ag.core .i)

/-! ### Notify counters (R387, R388) -/

def CtxIsland.counter (k : CtxIsland) (n : Nat) : Dword := lookupD n 0 k.counters
def CtxIsland.addCounter (k : CtxIsland) (n : Nat) (v : Dword) : CtxIsland :=
  { k with counters := setAt n (k.counter n + v) k.counters }

/-- The checks of a counter number (R388). -/
def counterRaised (lane : Nat) (c : LV) : List Raised :=
  firstOf [poisons 0 .poisonAddress lane [c],
    if 4096 ≤ c.v.toNat then [.lane' 1 .notifyRange lane (c.v.setWidth 64)] else []]

/-- NRD (R388). -/
def Ex.nrd (x : Ex) : Res :=
  let val (i : Nat) : Dword := x.ctxIsland.counter (x.lv 1 i).v.toNat
  x.check (x.set.flatMap fun i => counterRaised i (x.lv 1 i))
    (x.result x.s (rowsOf x.w 2 (x.set.map fun i => (i, [⟨loWord (val i), false⟩, ⟨hiWord (val i), false⟩]))))

/-- NWAIT (R388). -/
def Ex.nwait (x : Ex) : Res :=
  match x.lowest with
  | none => x.check [] (x.done x.s)
  | some i =>
    x.check (firstOf [counterRaised i (x.lv 0 i), poisons 2 .poisonBranch i [x.one 1 i]])
      (if (x.pair 1 i).toNat ≤ (x.ctxIsland.counter (x.lv 0 i).v.toNat).toNat then x.done (x.s.acquire x.ag.core .i)
       else x.wait x.s .nwait)

/-! ### RFENCE and RQUIET (R384 to R386) -/

/-- The remote operations in flight that an agent has issued: a gang's, its slices' too; a slice's, and its gang's before
PART (R170, R386) (assumption 42, DEDUCED). -/
def Ex.issued (x : Ex) : List Nat :=
  (x.s.rops.filter fun o => o.ag.core == x.ag.core && o.gang == x.g.uid &&
    (!x.b.parted || o.solo.isNone || o.solo == some x.ag.slice)).map fun o => o.id

/-- RFENCE (R386). -/
def Ex.rfence (x : Ex) : Res :=
  let live (l : List Nat) : List Nat := l.filter fun n => x.s.rops.any fun o => o.id == n
  x.check [] (x.done (x.s.modFlow x.ag fun f => { f with behind := (live f.behind ++ x.issued).eraseDups }))

/-- Whether a gang's remote operations are all complete. -/
def State.quiet (s : State) (r : CoreRef) (uid : Nat) : Bool :=
  !(s.rops.any fun o => o.ag.core == r && o.gang == uid && o.st != .answered)

/-- RQUIET and RQUIET.nt (R384, R385). -/
def Ex.rquiet (nt : Bool) (x : Ex) : Res :=
  if !x.s.quiet x.ag.core x.g.uid then x.check [] (x.wait x.s .rquiet)
  else
    let s1 := x.s.acquire x.ag.core .d
    let clear (g : Gang) : Gang := { g with failure := none }
    if nt then
      let m : Dword := x.g.failMask.setWidth 64
      x.check [] (x.resultXm (s1.modGang x.ag.core x.ag.slot fun g => { clear g with failMask := 0 }) (pairRows x.w m))
    else match x.g.failure, x.g.pl == .s with
      | some f, false => x.trap (s1.modGang x.ag.core x.ag.slot clear) (.lane' 0 f.cause x.fl.lowXm f.tval)
      | _, _ => x.check [] (x.done s1)

/-! ### At the target (R379 to R381) -/

/-- The operation of a number. -/
def State.rop? (s : State) (id : Nat) : Option Rop := s.rops.find? fun o => o.id == id
/-- Removes an operation. -/
def State.dropRop (s : State) (id : Nat) : State := { s with rops := s.rops.filter fun o => o.id != id }
def State.modRop (s : State) (id : Nat) (f : Rop → Rop) : State := { s with rops := modify (fun o => o.id == id) f s.rops }

/-- The charge of an entry that a fabric interface or the target side makes (R334, R427). -/
def interfaceCharge (ctx : Option Nat) (site : Nat) (psn : Bool) : Charge := ⟨ctx, site, none, 0, 0, 0, psn⟩

/-- A word that arrives at an island: a payload error to come gives kind 7, and a poisoned word a new origin with
its merge count kept (R334, R380). -/
def State.arrive (s : State) (o : Rop) (site frm k : Nat) (addr : Dword) (x : LV) : LV × State :=
  let ch := interfaceCharge o.charge.ctx site o.charge.psn
  match takePhys (fun p => match p with | .linkUe op w => op == o.id && w == k | _ => false) s.phys with
  | some (_, rest) =>
    let n := { s with phys := rest }.newOrigin ch 7 addr
    (⟨n.1, true⟩, n.2)
  | none =>
    if !x.p then (x, s)
    else
      let n := s.newOriginFrom ch (provKind x.v) addr (some (frm, provOrigin x.v))
      (⟨provWord (provOrigin n.1) (provKind x.v) (provCount x.v), true⟩, n.2)

/-- The target's translation of a remote address (R379): the context's tables on its own island, with the
permissions of U level (assumption 41, DEDUCED). -/
def State.targetTr (s : State) (o : Rop) (a : Access) (va : Dword) : Tr :=
  match o.charge.ctx, s.island? o.target with
  | some k, some x => x.walkTo k .u a va
  | _, _ => .denied .pageNotPresent

/-- The kind of access at the target. -/
def RopKind.targetAccess : RopKind → Access
  | .get => .read
  | .ratom _ | .rcas _ => .atomic
  | _ => .write

/-- Whether two operations go to one site of one panel (R372). -/
def Rop.sameSite (p o : Rop) : Bool := p.target == o.target && descPanel p.desc == descPanel o.desc

/-- Whether no earlier operation to the same site that an RFENCE orders first is still to be performed there
(R386) (assumption 42, DEDUCED). -/
def State.fenced (s : State) (o : Rop) : Bool :=
  !(s.rops.any fun p => o.behind.contains p.id && p.sameSite o &&
    (p.st == .held || p.st == .flying || p.st == .incrementing))

/-- Whether the target of an operation lies on this panel (R372). -/
def State.ownPanel (s : State) (o : Rop) : Bool := descPanel o.desc == s.panel

/-- Whether an operation is lost on its way: its target or a hop of its path (R371, R384). -/
def State.ropLost (s : State) (o : Rop) : Bool :=
  (s.ownPanel o && !(s.plot o.target).st.open') || o.path.any s.hopLost

/-- Whether an operation goes to a site of this panel or through it. -/
def State.touches (s : State) (o : Rop) (site : Nat) : Bool :=
  (s.ownPanel o && o.target == site) || o.path.any fun h => h.1 == site || hopTo h.1 h.2 == some site

/-- Whether the path of an operation ends on this panel, at its target. -/
def Rop.onPanel (o : Rop) : Bool := !(o.path.any fun h => h.2 == 8 || h.2 == 9)

/-- Whether an operation has come to its target, in its turn. -/
def State.arrived (s : State) (o : Rop) : Bool := o.st == .flying && o.onPanel && !s.ropLost o && s.fenced o

/-- Whether the target of an operation holds its context: its tables and its counters (R379, R387). -/
def State.counted (s : State) (o : Rop) : Bool := o.charge.ctx.any fun k => (s.ctxAt? o.target k).isSome

/-- Whether an operation can be performed at its target now: no fault there waits, and none was refused (R379). -/
def State.reaches (s : State) (o : Rop) : Bool := s.arrived o && s.counted o && o.serve.isNone && !o.refused

/-- Reads a word of a transfer's local extent, as a copy reads its source: a word of scratch that has been freed
holds no stated value (R231, R291; assumption 2, DESIGN CHOICE) (assumption 40, DESIGN CHOICE). -/
def State.xferRead (s : State) (r : CoreRef) (wg : Nat) (ch : Charge) (sp : Space) (pages : List TlbEntry) (a : Dword) :
    LV × State :=
  let x : Who := ⟨r, wg, ch.ctx⟩
  let rd (l : Loc) : LV × State := let p := s.readUe x ch l a true []; (p.1, p.2.1)
  match sp with
  | .commons => rd (.commons (a.toNat / 4))
  | .scratch =>
    if ((s.core r).wg? wg).isNone then let f := s.free; (⟨f.1, false⟩, f.2) else rd (.scratch (a.toNat / 4))
  | .global =>
    match ch.ctx with
    | none => rd (.global .i (a.toNat / 4))
    | some k => match tlbFind pages k a with
      | some e => rd (.global .i (e.phys a / 4))
      | none => (⟨0, false⟩, s)

/-- Writes a word of a transfer's local extent, as a copy writes its destination (R291). -/
def State.xferWrite (s : State) (r : CoreRef) (wg : Nat) (ch : Charge) (sp : Space) (pages : List TlbEntry) (a : Dword)
    (v : LV) : State :=
  let x : Who := ⟨r, wg, ch.ctx⟩
  match sp with
  | .commons => s.writeLoc x (.commons (a.toNat / 4)) v 15 true
  | .scratch => s.writeLoc x (.scratch (a.toNat / 4)) v 15 true
  | .global =>
    match ch.ctx with
    | none => s.writeLoc x (.global .i (a.toNat / 4)) v 15 true
    | some k => match tlbFind pages k a with
      | some e => s.writeLoc x (.global .i (e.phys a / 4)) v 15 true
      | none => s

def execPut (h : Hdr) (sp : Space) (nt : Bool) (d a b c : Opnd) (s : State) : Res :=
  issue (.put h sp nt d a b c) s (Ex.transfer .put sp nt)
def execPutn (h : Hdr) (sp : Space) (nt : Bool) (d a b c : Opnd) (s : State) : Res :=
  issue (.putn h sp nt d a b c) s (Ex.transfer .putn sp nt)
def execGet (h : Hdr) (sp : Space) (nt : Bool) (d a b c : Opnd) (s : State) : Res :=
  issue (.get h sp nt d a b c) s (Ex.transfer .get sp nt)
def execRatom (h : Hdr) (op : AtomOp) (nt ret : Bool) (d a b c : Opnd) (s : State) : Res :=
  issue (.ratom h op nt ret d a b c) s (Ex.ratom (.ratom op) op.regs nt ret)
def execRcas (h : Hdr) (w : CasW) (nt ret : Bool) (d a b c : Opnd) (s : State) : Res :=
  issue (.rcas h w nt ret d a b c) s (Ex.ratom (.rcas w) w.regs nt ret)
def execNotify (h : Hdr) (nt : Bool) (d a : Opnd) (s : State) : Res := issue (.notify h nt d a) s (Ex.notify nt)
def execNwait (h : Hdr) (a b : Opnd) (s : State) : Res := issue (.nwait h a b) s Ex.nwait
def execNrd (h : Hdr) (d a : Opnd) (s : State) : Res := issue (.nrd h d a) s Ex.nrd
def execRfence (h : Hdr) (s : State) : Res := issue (.rfence h) s Ex.rfence
def execRquiet (h : Hdr) (nt : Bool) (d : Opnd) (s : State) : Res := issue (.rquiet h nt d) s (Ex.rquiet nt)

end Sys2Proof.Machine
end

