-- ==== Sys2Proof/Machine/Sched.lean ====
section
/-! DEFINITION. What stands around an instruction: instruction boundaries, the fetch, issue selection, the passing of time,
and the hints of core-band domains (spec 01, R23; 02, R28 and R29; 14, R315 to R317, R319; 15, R324, R351). -/

namespace Sys2Proof.Machine

/-! ### Boundaries (R324) -/

/-- The order in which pending causes are taken (R324). -/
def asyncOrder : List Cause :=
  [.vacate, .mcHeaderUe, .mcStateUe, .mcArrayResidue, .noncanonical, .pageQuarantined, .pageNotPresent, .pageWrite,
   .pageRead, .preempt, .watchdog, .singleStep]

/-- The causes a gang takes at its level: in a context's handler the two that end it, in its machine handler none
(R324). -/
def Gang.takes (g : Gang) (c : Cause) : Bool :=
  match g.hand with
  | none => true
  | some _ => g.pl == .s && (c == .vacate || c == .mcHeaderUe)

/-- The pending cause that a gang takes at its next boundary. -/
def Gang.nextPending (g : Gang) : Option Pending :=
  asyncOrder.findSome? fun c => if g.takes c then g.pend.find? fun p => p.cause == c else none

/-! ### Fetch (R23, R28, R29, R330) -/

/-- What the front of an agent's turn gives: the instruction to execute, or the turn's outcome. -/
inductive Front where
  | run (i : Instr) (s : State)
  | stop (r : Res)

/-- Fetches one word: translated, from the instruction cache or at I (R29, R249, R330) (assumption 55, DEDUCED). A park on a fetch
restarts the count of cycles ready without issuing (assumption 122, DESIGN CHOICE). -/
def State.fetchWord (s : State) (ag : AgentRef) (g : Gang) (fi : Nat) (pc va : Dword) : Except Res (Word × State) :=
  let trap (c : Cause) : Except Res (Word × State) := .error (.next (s.takeTrap ag.core ag.slot fi c 0 pc va))
  let park (f : Option Cause) : State := s.modFlow ag fun x => { x with run := .parked ⟨va, .fetch, 0, f⟩, readyFor := 0, aged := false }
  if g.ctx.isSome && !canonical va then trap .noncanonical
  else match translate (s.withTlbs ag.core) g.ctx g.pl .fetch va with
    | .quarantined => trap .pageQuarantined
    | .miss => .error (.next (park none))
    | .denied c => .error (.next ((park (some c)).report g.ctx (.fault va c)))
    | .ok pa _ =>
      match (s.core ag.core).icache.find? fun p => p.1 == pa / 4 with
      | some p => .ok (p.2, s)
      | none =>
        if g.ctx.isNone && !s.installed ag.core pa 4 then .error (.fault (.physicalHole pa))
        else
          let w := (s.wordI ag.core (pa / 4)).v
          .ok (w, s.modCore ag.core fun c => { c with icache := c.icache ++ [(pa / 4, w)], noted := 0 :: c.noted })

/-- Fetches n more words. -/
def State.fetchWords (s : State) (ag : AgentRef) (g : Gang) (fi : Nat) (pc : Dword) : Nat → Dword → Except Res (List Word × State)
  | 0, _ => .ok ([], s)
  | n + 1, va =>
    match s.fetchWord ag g fi pc va with
    | .error r => .error r
    | .ok (w, s1) => match s1.fetchWords ag g fi pc n (va + 4) with
      | .error r => .error r
      | .ok (ws, s2) => .ok (w :: ws, s2)

/-- The words of the instruction at a PC (R28). -/
def State.fetch (s : State) (ag : AgentRef) (g : Gang) (fi : Nat) (pc : Dword) : Except Res (List Word × State) :=
  match s.fetchWord ag g fi pc pc with
  | .error r => .error r
  | .ok (w, s1) => match s1.fetchWords ag g fi pc (formWords w - 1) (pc + 4) with
    | .error r => .error r
    | .ok (ws, s2) => .ok (w :: ws, s2)

/-- The cause of a decoding error (R44). -/
def decodeCause : DecodeErr → Cause
  | .tooShort | .illegalOpcode => .illegalOpcode
  | .reservedField => .reservedField
  | .badModifier => .badModifier
  | .badOperand => .badOperand

/-- Whether a PC breakpoint of the core fires (R351). -/
def Core.breaks (c : Core) (g : Gang) (f : Flow) : Bool :=
  f.xm != 0 && !f.passBp && c.bps.any fun b => some b.ctx == g.ctx && b.pc == f.pc

/-- The front of a turn of the agent whose turn it is: a refill of granules that were spilled, a breakpoint, the
fetch and the decoding (R23, R45, R155, R351). -/
def State.front (s : State) : Front :=
  match s.agent? with
  | none => .stop (.refused .noAgent)
  | some (c, g, fi) =>
    let f := g.act.flow fi
    let trap (s : State) (c : Cause) (tval : Dword) : Front := .stop (.next (s.takeTrap s.cur.core s.cur.slot fi c 0 f.pc tval))
    if !g.act.missing.isEmpty then .stop (.next (s.needRefill s.cur))
    else if c.breaks g f then trap s .breakpoint f.pc
    else if f.pc.extractLsb' 0 2 != 0 then trap s .pcMisaligned f.pc
    else match s.fetch s.cur g fi f.pc with
      | .error r => .stop r
      | .ok (ws, s1) => match decodeWords ws with
        | .error e => trap s1 (decodeCause e) (wordsTval ws)
        | .ok i => .run i s1

/-! ### Issue selection (R316) -/

/-- An agent that may issue, with its rank: class, cycles ready, and the places that break ties. -/
structure Cand where
  cls : Nat
  ready : Nat
  slot : Nat
  slice : Nat
  deriving DecidableEq, Repr

/-- Whether one candidate goes before another (R316). -/
def Cand.before (a b : Cand) : Bool :=
  a.cls > b.cls || (a.cls == b.cls && (a.ready > b.ready || (a.ready == b.ready &&
    (a.slot < b.slot || (a.slot == b.slot && a.slice < b.slice)))))

/-- The class of an agent: aged 9 once it has been ready for 512 cycles without issuing, in its handler 8, else its launch priority. -/
def issueClass (g : Gang) (f : Flow) : Nat := if f.aged || Config.agedCycles ≤ f.readyFor then 9 else if g.hand.isSome then 8 else g.prio

/-- The candidates of a core. -/
def Core.cands (c : Core) : List Cand :=
  c.gangs.flatMap fun g => (g.act.flows.mapIdx fun k f => (k, f)).filterMap fun p =>
    if canIssue c g p.2 then some ⟨issueClass g p.2, p.2.readyFor, g.slot, p.1⟩ else none

/-- The candidate that is selected. -/
def bestCand : List Cand → Option Cand
  | [] => none
  | a :: r => match bestCand r with
    | none => some a
    | some b => if b.before a then some b else some a

/-- The agent a core's issue selector picks. -/
def State.select (s : State) (r : CoreRef) : Option AgentRef :=
  (bestCand (s.core r).cands).map fun a => ⟨r, a.slot, a.slice⟩

/-- The cores in turn, from the one after a core. -/
def coresAfter (r : CoreRef) (l : List CoreRef) : List CoreRef :=
  (l.dropWhile fun q => q != r).drop 1 ++ (l.takeWhile fun q => q != r) ++ [r]

/-- The core after the one whose cycle has passed, and the agent that its selector picks (assumption 28, DESIGN CHOICE). -/
def State.choose (s : State) : State :=
  match coresAfter s.cur.core (s.cores.map fun c => c.ref) with
  | [] => s
  | r :: _ => { s with cur := (s.select r).getD ⟨r, 0, 0⟩ }

/-! ### Time (R204, R316, R319) -/

/-- The stall counters that a flow holds its core for (R319). -/
def Flow.stalls (f : Flow) : List Nat :=
  (if f.due.isSome then [12] else []) ++
  match f.run with
  | .frameWait _ (some _) => [1]
  | .frameWait _ none => [1, 2]
  | .parked p => if p.fault.isSome then [15] else [5]
  | .replay => [13]
  | .wait w _ => match w with
    | .bar _ _ _ | .barw _ _ | .regang _ => [6]
    | .accrd | .mxwait => [7]
    | .copyEntry | .bwait | .cpwait | .rquiet | .remoteSlot => [9]
    | .nwait => [10]
    | .wltake => [11]
    | .mwait _ => [14]
    | .reply | .storeHold | .ringRead => [4]
    | .savedone | .restoreTret | .wfi => []
  | .ready | .ended => []

/-- Whether an array's next start counts for the Sluice: it has been idle for 16 cycles or more (R318). -/
def Core.coldStart (c : Core) : Bool :=
  match c.passEnd with
  | none => true
  | some t => t + 16 ≤ c.cycle

/-- Whether an array has made such a start within 64 cycles. -/
def Core.recentStart (c : Core) : Bool :=
  match c.idleStart with
  | none => false
  | some t => c.cycle < t + 64

/-- Whether the Sluice lets a core's array start a pass (R318) (assumption 60, DEDUCED). -/
def State.sluiceOpen (s : State) (r : CoreRef) : Bool :=
  let sls := match r.site.bind s.island? with
    | some x => lookupD r.die 64 x.sls
    | none => 64
  let others := s.cores.countP fun c => c.ref != r && c.ref.isCompute && c.ref.site == r.site && c.ref.die == r.die && c.recentStart
  !(s.core r).coldStart || others < sls

/-- The stall counters of passes: MMQs that the array cannot yet accept because it runs, and a closed pass that the Sluice
holds (R319). -/
def Core.passStalls (c : Core) (sluice : Bool) : List Nat :=
  let runs := c.passes.any fun p => match p.st with | .running _ => true | _ => false
  (if runs && c.tops.any TileOp.unread then [7] else []) ++
  (if !runs && !sluice && c.passes.any fun p => p.st == .closed then [12] else [])

/-- The stall counters that count this cycle (R319): causes noted in it, frame waiters, and what flows and passes wait for.
The counts of waits for a result and for an access are those of `Core.lateStall`. -/
def Core.stallsNow (c : Core) (sluice : Bool) : List Nat :=
  let of (g : Gang) : List Nat := (if g.cellarWait.isSome then [15] else []) ++ g.act.flows.flatMap Flow.stalls
  (c.noted ++ (if c.waiters.isEmpty then [] else [1]) ++ c.gangs.flatMap of ++ c.passStalls sluice).eraseDups

/-- One more cycle ready without issuing, for an agent that may issue and did not. -/
def Flow.age (f : Flow) : Flow := { f with readyFor := f.readyFor + 1 }

/-- Whether an agent may issue in a cycle in which it does not. -/
def Core.heldBack (c : Core) (ag : AgentRef) (g : Gang) (k : Nat) (f : Flow) : Bool :=
  canIssue c g f && !(ag.core == c.ref && ag.slot == g.slot && ag.slice == k)

/-- The count of a cycle in which an agent may wait for a register, window slot or queue entry that an earlier instruction has not
produced, or for a load, an atomic, the acceptance of a store or a bank sweep (R319). The manual gives no latencies, and the
model's step of an instruction takes them in, so whether an agent of a core that may issue is held for one is the free `late`
(assumption 98, DESIGN CHOICE). -/
def Core.lateStall (c : Core) (late : Bool) : Nat :=
  if (c.gangs.any fun g => g.act.flows.any (canIssue c g)) && late then 1 else 0

/-- A cycle of a core (R316, R319). Bits 0 and 1 of the free `late` are those of the counters window and memory. -/
def Core.tick (c : Core) (sluice : Bool) (late : Word) (ag : AgentRef) : Core :=
  let one (g : Gang) (k : Nat) (f : Flow) : Flow := if c.heldBack ag g k f then f.age else f
  let up (g : Gang) : Gang := g.modAct fun b => { b with flows := b.flows.mapIdx (one g) }
  let now := c.stallsNow sluice
  let counted := now.foldl (fun l n => setAt n (lookupD n 0 l + 1) l) c.stalls
  let add (n : Nat) (l : List (Nat × Dword)) : List (Nat × Dword) :=
    setAt n (lookupD n 0 l + BitVec.ofNat 64 (if now.contains n then 0 else c.lateStall (bitOf late (n - 3)))) l
  { c with
    cycle := c.cycle + 1
    noted := []
    stalls := add 4 (add 3 counted)
    gangs := c.gangs.map up }

/-- A SAVEDONE that waits goes on when every transfer of its gang is complete (R363). -/
def State.unsave (s : State) (c : Core) : Core :=
  let busy (g : Gang) : Bool := (c.chans.any fun p => p.2.any fun k => k.gang == g.uid) ||
    (s.rops.any fun o => o.ag.core == c.ref && o.gang == g.uid)
  let go (f : Flow) : Flow := match f.run with
    | .wait .savedone _ => { f with run := .ready }
    | _ => f
  let up (g : Gang) : Gang :=
    if g.act.flows.any (fun f => match f.run with | .wait .savedone _ => true | _ => false) && !busy g then
      g.modAct fun b => { b with flows := b.flows.map go }
    else g
  { c with gangs := c.gangs.map up }

/-! ### Operating points (R315) -/

/-- The core-band domain of a cluster on its die (R315) (assumption 64, DEDUCED). -/
def domainOf (cl : Nat) : Nat := cl % 8 / 2

/-- The clusters of a domain. -/
def domainClusters (die domain : Nat) : List Nat := (upTo 8).filterMap fun k =>
  if domainOf k == domain then some (8 * die + k) else none

/-- The grids with a workgroup resident or queued on the clusters of a domain (R315). -/
def State.gridsOn (s : State) (x : Island) (die domain : Nat) : List Grid :=
  let cls := domainClusters die domain
  let queued (g : Grid) : Bool := x.cqueues.any fun q => q.grid == g.num && cls.contains q.cluster && !q.items.isEmpty
  let resident (g : Grid) : Bool := cls.any fun cl => (upTo 8).any fun k =>
    (s.core (.compute x.site die (cl % 8 * 8 + k))).wgs.any fun w => w.grid == some g.num
  x.grids.filter fun g => queued g || resident g

/-- The hint that a domain of a die runs at: the greatest VFH among those grids, none when it runs at the firmware's default
(R315). -/
def State.hint (s : State) (x : Island) (die domain : Nat) : Option Nat :=
  ((s.gridsOn x die domain).map fun g => g.vfh).max?

/-- An island keeps no report of a point that a domain has left since (R315). -/
def State.settlePoints (s : State) : State :=
  { s with islands := s.islands.map fun x =>
      { x with oppoints := x.oppoints.filter fun p => p.hint == s.hint x p.die p.domain } }

/-- Time passes: one cycle of the core whose turn it was, one tick of every island clock that runs (assumption 28, DESIGN CHOICE). Flits
in hand have gone through, the stewards count the errors that their checks have corrected (R349), and an operating point that
a domain has left is stable no more (R315). -/
def State.tick (s : State) : State :=
  let late := Config.freeWord s.freeCtr
  let one (c : Core) : Core := if c.ref == s.cur.core then (s.unsave c).tick (s.sluiceOpen c.ref) late s.cur else c
  let counted (x : Island) : Nat := x.corrected + (s.phys.filter fun p => p.counts == some x.site).length
  let t : State := { s with
    freeCtr := s.freeCtr + 1
    links := s.links.map fun l => { l with retries := 0 }
    cores := s.cores.map one
    phys := s.phys.filter fun p => p.counts.isNone
    islands := s.islands.map fun x => { x with clock := if x.clockOn then x.clock + 1 else x.clock, corrected := counted x } }
  t.settlePoints

end Sys2Proof.Machine
end

