-- ==== Sys2Proof/Machine/Syn.lean ====
section
/-! DEFINITION. The SYN class but for FENCE: named barriers, monitors and the island clock (spec 08, R190 to
R204; 16, R361 and R362). -/

namespace Sys2Proof.Machine

/-! ### Barriers (R192, R193, R361, R362) -/

/-- The checks that a barrier number from one lane passes (R192, R362). A slice's POISON_ADDRESS comes before its
UNMATCHED_CONTROL (assumption 117, DESIGN CHOICE). -/
def Ex.barRaised (x : Ex) (b : LV) (lane : Nat) (poison own : List Raised) : List Raised :=
  firstOf [poisons 0 .poisonAddress lane [b], poison, x.whole 4,
    if x.wg.barriers.length ≤ b.v.toNat then [.lane' 5 .barrierCount lane (b.v.setWidth 64)] else [], own]

/-- The causes of an arrival (R192). -/
def Ex.arriveRaised (x : Ex) (b : Word) (lane : Nat) : List Raised :=
  let z := x.wg.barrier b.toNat
  let t : Dword := b.setWidth 64
  firstOf [if z.bkn then [.lane' 6 .barrierBroken lane t] else [],
    if !bitOf z.mbr x.g.gix || bitOf z.arr x.g.gix then [.lane' 7 .barrierCount lane t] else []]

/-- A gang arrives: its latches are released, its region closes, and the last arrival releases the barrier (R192,
R274, R337). -/
def State.arriveBar (s : State) (r : CoreRef) (slot wg b gix : Nat) : State :=
  let leave (g : Gang) : Gang := { (g.modAct fun b => { b with trail := [] }).freeLatches with region := none }
  let s1 := (s.modGang r slot leave).modWg r wg fun w => w.modBarrier b fun z => { z with arr := z.arr ||| oneBit gix }
  let z := ((s1.core r).wg wg).barrier b
  if z.arr == z.mbr then s1.releaseBar r wg b else s1

/-- The end of a wait on a barrier: broken, released and not delayed, or still waiting in a state that keeps the
agent on its instruction (R192, R318); under .mx the gang's earlier MMQs have read B as well (R198, R257). -/
def Ex.barEnd (x : Ex) (s : State) (mx : Bool) (b : Nat) (phase : Word) (lane : Nat) (w : Wait) : Res :=
  let z := ((s.core x.ag.core).wg x.g.wg).barrier b
  let delayed := ((s.gang? x.ag.core x.ag.slot).bind fun g => (g.act.flow x.fi).due).isSome
  if z.bkn then x.trap s (.lane' 6 .barrierBroken lane (BitVec.ofNat 64 b))
  else if z.phase != phase && !delayed && !(mx && x.unreads) then x.done s
  else x.wait s w

/-- BAR (R192). -/
def Ex.bar (mx : Bool) (x : Ex) : Res :=
  let i := x.fl.lowXm
  let b := x.lv 0 i
  let n := b.v.toNat
  let phase := (x.wg.barrier n).phase
  x.check (x.barRaised b i [] (x.arriveRaised b.v i))
    (let waiting := x.s.modFlow x.ag fun f => { f with run := .wait (.bar n phase mx) x.i }
     x.barEnd (waiting.arriveBar x.ag.core x.ag.slot x.g.wg n x.g.gix) mx n phase i (.bar n phase mx))

/-- BARA (R192). -/
def Ex.bara (x : Ex) : Res :=
  let i := x.fl.lowXm
  let b := x.lv 1 i
  let n := b.v.toNat
  x.check (x.barRaised b i [] (x.arriveRaised b.v i))
    (x.resultXm (x.s.arriveBar x.ag.core x.ag.slot x.g.wg n x.g.gix) [sameLanes x.w ⟨(x.wg.barrier n).phase, false⟩])

/-- BARW (R192). -/
def Ex.barw (mx : Bool) (x : Ex) : Res :=
  let i := x.fl.lowXm
  let b := x.lv 0 i
  let t := x.lv 1 i
  x.check (x.barRaised b i (poisons 1 .poisonBranch i [t]) [])
    (x.barEnd x.s mx b.v.toNat t.v i (.barw b.v.toNat t.v))

/-- BARINIT (R193). -/
def Ex.barinit (x : Ex) : Res :=
  let i := x.fl.lowXm
  let b := x.lv 0 i
  let m := x.lv 1 i
  let mem := m.v &&& x.wg.live
  let set (z : Barrier) : Barrier := { z with mbr := mem, bkn := false }
  x.check (x.barRaised b i (poisons 0 .poisonAddress i [m])
      (if m.v &&& ~~~maskOf x.wg.gangs != 0 || mem == 0 || (x.wg.barrier b.v.toNat).arr != 0 then
        [.lane' 6 .barrierCount i (b.v.setWidth 64)] else []))
    (x.done (x.s.modWg x.ag.core x.g.wg fun w => w.modBarrier b.v.toNat set))

/-- Doubleword s of a barrier (R190). -/
def Barrier.dword (z : Barrier) (s : Bool) : Dword :=
  if s then joinWords z.phase (if z.bkn then 1 else 0) else joinWords z.mbr z.arr

/-- Sets doubleword s of a barrier. -/
def Barrier.setDword (z : Barrier) (s : Bool) (d : Dword) : Barrier :=
  if s then { z with phase := loWord d, bkn := d.getLsbD 32 } else { z with mbr := loWord d, arr := hiWord d }

/-- What BARWR refuses in a doubleword (R362) (assumption 56, DEDUCED). -/
def barDwordBad (live : Word) (s : Bool) (d : Dword) : Bool :=
  if s then d.extractLsb' 33 31 != 0
  else loWord d &&& ~~~live != 0 || hiWord d &&& ~~~loWord d != 0 || (hiWord d == loWord d && loWord d != 0)

/-- BARRD and BARRD.live (R362). -/
def Ex.barrd (live s : Bool) (x : Ex) : Res :=
  match x.lowest with
  | none => x.check (x.whole 4) (x.result x.s (pairRows x.w 0))
  | some i =>
    if live then x.check (x.whole 4) (x.result x.s (pairRows x.w (x.wg.live.setWidth 64)))
    else
      let b := x.lv 1 i
      x.check (x.barRaised b i [] []) (x.result x.s (pairRows x.w ((x.wg.barrier b.v.toNat).dword s)))

/-- BARWR (R362). -/
def Ex.barwr (s : Bool) (x : Ex) : Res :=
  match x.lowest with
  | none => x.check (x.whole 4) (x.done x.s)
  | some i =>
    let b := x.lv 1 i
    let d := x.pair 0 i
    x.check (x.barRaised b i []
        (firstOf [poisons 6 .poisonStore i (x.regs 0 i),
          if barDwordBad x.wg.live s d then [.lane' 7 .barrierCount i (b.v.setWidth 64)] else []]))
      (x.done (x.s.modWg x.ag.core x.g.wg fun w => w.modBarrier b.v.toNat fun z => z.setDword s d))

/-! ### Monitors and the clock (R201 to R204) -/

/-- MON (R201): the checks of a 4-byte load in the lowest lane of the lane set. -/
def Ex.mon (sp : Space) (x : Ex) : Res :=
  match x.lowest with
  | none => x.check [] (x.done x.s)
  | some i =>
    let a : Acc := ⟨some sp, 4, .read, .c, 0, 0⟩
    let y : Ex := { x with set := [i] }
    y.access a (fun _ => [])
      (let arm (f : Flow) : Flow := { f with mon := some ⟨sp, (y.pa a i / 4) / 32, false, false⟩ }
       x.done (x.s.modFlow x.ag arm))

/-- Writes a MWAIT status (R202). -/
def State.mwaitDone (s : State) (ag : AgentRef) (h : Hdr) (d a : Opnd) (status : Word) : State :=
  s.modGang ag.core ag.slot fun g => g.mwaitDone (g.act.fi ag.slice) h d a status

/-- The status that MWAIT can give at once (R202, R203). -/
def Flow.mwaitStatus (f : Flow) : Option Word :=
  match f.mon with
  | none => some 3
  | some m => if m.restored then some 2 else if m.trigger then some 0 else none

/-- MWAIT (R202). -/
def Ex.mwait (h : Hdr) (d a : Opnd) (x : Ex) : Res :=
  let i := x.fl.lowXm
  let t := x.lv 1 i
  x.check (poisons 0 .poisonBranch i [t])
    (match x.fl.mwaitStatus with
      | some st => .next (x.s.mwaitDone x.ag h d a st)
      | none =>
        let close (g : Gang) : Gang := { g with region := none }
        x.wait (x.s.modGang x.ag.core x.ag.slot close)
          (.mwait (if t.v == 0 then none else x.ag.core.site.map fun n => x.s.clockAt n + t.v.setWidth 64)))

/-- CLOCK (R204). A reeve core has no island, and the manual gives its clock no value (assumption 26, DESIGN CHOICE). -/
def Ex.clock (x : Ex) : Res :=
  match x.ag.core.site with
  | some n => x.check [] (x.result x.s (pairRows x.w (x.s.clockAt n)))
  | none =>
    let lo := x.s.free
    let hi := lo.2.free
    x.check [] (x.result hi.2 (pairRows x.w (joinWords lo.1 hi.1)))

def execBar (h : Hdr) (mx : Bool) (a : Opnd) (s : State) : Res := issue (.bar h mx a) s (Ex.bar mx)
def execBara (h : Hdr) (d a : Opnd) (s : State) : Res := issue (.bara h d a) s Ex.bara
def execBarw (h : Hdr) (mx : Bool) (a b : Opnd) (s : State) : Res := issue (.barw h mx a b) s (Ex.barw mx)
def execBarinit (h : Hdr) (a b : Opnd) (s : State) : Res := issue (.barinit h a b) s Ex.barinit
def execBarrd (h : Hdr) (live sel : Bool) (d a : Opnd) (s : State) : Res := issue (.barrd h live sel d a) s (Ex.barrd live sel)
def execBarwr (h : Hdr) (sel : Bool) (d a : Opnd) (s : State) : Res := issue (.barwr h sel d a) s (Ex.barwr sel)
def execMon (h : Hdr) (sp : Space) (a : Opnd) (s : State) : Res := issue (.mon h sp a) s (Ex.mon sp)
def execMwait (h : Hdr) (d a : Opnd) (s : State) : Res := issue (.mwait h d a) s (Ex.mwait h d a)
def execClock (h : Hdr) (d : Opnd) (s : State) : Res := issue (.clock h d) s Ex.clock

end Sys2Proof.Machine
end

