-- ==== Sys2Proof/Machine/Cellar.lean ====
section
/-! DEFINITION. The Cellar: images of granules, spills and refills, and which granules are spilled (spec 06, R154
to R159). -/

namespace Sys2Proof.Machine

/-- Base of the cellar area a gang uses (R19, R156, R428). -/
def State.cellarBase (s : State) (r : CoreRef) (g : Gang) : Dword :=
  match g.ctx with
  | none => (s.core r).cellar
  | some k => match s.ctxAt? (r.site.getD 0) k with
    | some x => x.cellar
    | none => 0

/-- Address of the image of an ordinal (R157). On a steward or reeve core, die and position are 0, and a reeve's
site is 0 (assumption 20, DEDUCED). -/
def imageAddr (base : Dword) (r : CoreRef) (slot o : Nat) : Dword :=
  let g := ((r.site.getD 0 * 2 + r.die) * 64 + r.pos) * 32 + slot
  base + BitVec.ofNat 64 (g * 0x40000 + o * 1024)

/-- Offset in an image of register k in a lane (R157). -/
def imageOff (k lane : Nat) : Nat := lane / 8 * 256 + k * 32 + lane % 8 * 4

/-- What a Cellar access meets (R156). -/
inductive CellarTr where
  | ok (pa : Nat)
  | waits (c : Cause)
  | fails (c : Cause)
  deriving DecidableEq, Repr

/-- Translates a Cellar access with the permissions of S level (R156). That of an M-level gang fails with PAGE_NOT_PRESENT outside
installed memory (assumption 114, DESIGN CHOICE). -/
def State.cellarTr (s : State) (r : CoreRef) (g : Gang) (a : Access) (va : Dword) : CellarTr :=
  match g.ctx with
  | none => if s.installed r va.toNat 4 then .ok va.toNat else .fails .pageNotPresent
  | some k =>
    if !canonical va then .fails .noncanonical
    else match r.site.bind s.island? with
      | none => .fails .pageNotPresent
      | some x => match x.walkTo k .s a va with
        | .ok pa _ => .ok pa
        | .quarantined => .fails .pageQuarantined
        | .denied c => .waits c
        | .miss => .waits .pageNotPresent

/-- Registers and lanes of a granule of a gang, in image order. -/
def granCells (w : Nat) : List (Nat × Nat) :=
  (upTo (w / 8)).flatMap fun q => (upTo 8).flatMap fun k => (upTo 8).map fun l => (k, 8 * q + l)

/-- The first access of an image that is not translated. -/
def State.imageBad (s : State) (r : CoreRef) (g : Gang) (a : Access) (base : Dword) : Option CellarTr :=
  (granCells g.width).findSome? fun p =>
    match s.cellarTr r g a (base + BitVec.ofNat 64 (imageOff p.1 p.2)) with
    | .ok _ => none
    | t => some t

/-- The word of an image. -/
def State.imageWord (s : State) (r : CoreRef) (g : Gang) (a : Access) (va : Dword) : Option Nat :=
  match s.cellarTr r g a va with
  | .ok pa => some (pa / 4)
  | _ => none

/-- Records a failed access, or the wait for its service (R156); false when nothing is new. -/
def State.cellarTrouble (s : State) (r : CoreRef) (slot o : Nat) (spill : Bool) (base : Dword) (t : CellarTr) :
    State × Bool :=
  match s.gang? r slot, t with
  | some g, .fails c =>
    if g.pend.any fun p => p.cause.isCellar then (s, false)
    else (s.modGang r slot fun g => { g with pend := g.pend ++ [⟨c, base⟩] }, true)
  | some g, .waits c =>
    if g.cellarWait.isSome then (s, false)
    else ((s.modGang r slot fun g => { g with cellarWait := some ⟨o, spill, base, c⟩ }).report g.ctx (.fault base c), true)
  | _, _ => (s, false)

/-- Marks a granule of the frame stack resident or not, with its rows. -/
def Gang.setGran (g : Gang) (o : Nat) (x : Granule) : Gang := { g with body := { g.body with grans := setNth g.body.grans o x } }

/-- The charge of errors that a spill or a refill meets. -/
def Gang.refillCharge (g : Gang) (r : CoreRef) (lane : Nat) : Charge :=
  ⟨g.ctx, r.site.getD 0, some r, g.slot, lane, (g.act.flow 0).pc, g.psn⟩

/-- Spills a granule: its image is written at I and the granule freed (R156); false when nothing is new. What an instruction
that waits has read of it stays with the instruction: the rows stand until the refill writes them anew. -/
def State.spill (s : State) (r : CoreRef) (slot o : Nat) : State × Bool :=
  match s.gang? r slot with
  | none => (s, false)
  | some g =>
    let base := imageAddr (s.cellarBase r g) r slot o
    match s.imageBad r g .write base with
    | some t => s.cellarTrouble r slot o true base t
    | none =>
      let gr := g.body.gran o
      let put (s : State) (p : Nat × Nat) : State :=
        match s.imageWord r g .write (base + BitVec.ofNat 64 (imageOff p.1 p.2)) with
        | some w =>
          let v := s.poolRead (g.refillCharge r) (· == p.2) (gr.rows.getD p.1 [])
          v.2.writeG r .i (wholeWrite w (laneAt v.1 p.2))
        | none => s
      ((((granCells g.width).foldl put s).modGang r slot fun g =>
        (g.setGran o { gr with resident := false }).freeLatches).note r 2, true)

/-- Reads an image word as a register value (R85, R156). -/
def State.imageRead (s : State) (r : CoreRef) (g : Gang) (base : Dword) (k lane : Nat) : LV × State :=
  let va := base + BitVec.ofNat 64 (imageOff k lane)
  match s.imageWord r g .read va with
  | none => (⟨0, false⟩, s)
  | some w =>
    let p := s.readUe ⟨r, g.wg, g.ctx⟩ (g.refillCharge r lane) (.global .i w) va true []
    (p.1.asProv, p.2.1)

/-- A register of a granule in the Cellar that the gang has written since the spill, in a lane (R203). -/
def Gang.owedAt (g : Gang) (o k lane : Nat) : Option LV :=
  if g.owed.any fun p => p.1 == o && p.2.1 == k && bitOf p.2.2 lane then some (laneAt ((g.body.gran o).rows.getD k []) lane)
  else none

/-- A register of a granule in the Cellar as a refill or FRMRD gives it (R153, R156, R203). -/
def State.cellarCell (s : State) (r : CoreRef) (g : Gang) (base : Dword) (o k lane : Nat) : LV × State :=
  match g.owedAt o k lane with
  | some v => (v, s)
  | none => s.imageRead r g base k lane

/-- Refills a granule (R156); false when nothing is new. -/
def State.refill (s : State) (r : CoreRef) (slot o : Nat) : State × Bool :=
  match s.gang? r slot with
  | none => (s, false)
  | some g =>
    let base := imageAddr (s.cellarBase r g) r slot o
    match s.imageBad r g .read base with
    | some t => s.cellarTrouble r slot o false base t
    | none =>
      let rd (p : List Lanes × State) (c : Nat × Nat) : List Lanes × State :=
        let v := p.2.cellarCell r g base o c.1 c.2
        (setNth p.1 c.1 (setNth (p.1.getD c.1 []) c.2 v.1), v.2)
      let q := (granCells g.width).foldl rd (List.replicate 8 (zeroLanes g.width), s)
      ((q.2.modGang r slot fun g => { g.setGran o ⟨q.1, true⟩ with owed := g.owed.filter fun p => p.1 != o }).note r 2, true)

/-! ### Which granules are spilled (R155, R159) -/

/-- Whom the Cellar acts for: the gang, how many granules it needs, and whether for its handler frame. -/
structure Needy where
  slot : Nat
  need : Nat
  handler : Bool
  deriving DecidableEq, Repr

/-- The granules that each frame owns, the bottom frame first (R154). -/
def ownedList : List Frame → List Nat
  | [] => []
  | f :: rest => ownedList rest ++ [f.ngr - f.shared rest]

/-- The granules of the first frame that is not filled yet, when n granules are (R364). -/
def nextOwned (n : Nat) : List Nat → Nat
  | [] => 0
  | k :: r => if n < k then k - n else nextOwned (n - k) r

/-- The need of a waiting flow: a CALL's, with the refill of the frame that CALLI reads its target from, or the refill of the
current frame (R138, R140, R155); a gang that makes restore entry needs its frames and its handler frame (R364). -/
def Gang.needOf (g : Gang) (slice : Nat) : Nat :=
  if g.restore.isSome then
    (if g.filled < g.body.grans.length then nextOwned g.filled (ownedList g.body.frames) else 2)
  else match (g.act.flow (g.act.fi slice)).run with
  | .frameWait n (some (.calli ..)) => n + g.act.missing.length
  | .frameWait n (some _) => n
  | _ => g.act.missing.length

/-- The need of a gang that waits for its handler frame: 2 granules, and what an MWAIT that completes first needs back
(R159, R203). -/
def Gang.handlerNeed (g : Gang) : Nat := 2 + if g.mwaitHeld then g.act.missing.length else 0

/-- The standing handler request, or the oldest frame waiter. -/
def Core.needy (c : Core) : Option Needy :=
  match c.handReqs with
  | slot :: _ => some ⟨slot, ((c.gang? slot).map Gang.handlerNeed).getD 2, true⟩
  | [] => match c.waiters with
    | p :: _ => match c.gang? p.1 with
      | some g => some ⟨p.1, g.needOf p.2.1, false⟩
      | none => none
    | [] => none

/-- Whether a gang can issue. -/
def Core.gangIssues (c : Core) (g : Gang) : Bool := g.act.flows.any fun f => canIssue c g f

/-- Resident granules of the frame stack, ascending. -/
def Gang.residents (g : Gang) : List Nat := (upTo g.body.grans.length).filter fun o => (g.body.gran o).resident

/-- Inserts by a key, greatest first, behind equal keys. -/
def insertBy {α : Type} (key : α → Nat) (x : α) : List α → List α
  | [] => [x]
  | y :: ys => if key y < key x then x :: y :: ys else y :: insertBy key x ys

/-- Sorts by a key, greatest first; equal keys keep their order. -/
def sortBy {α : Type} (key : α → Nat) (l : List α) : List α := l.foldl (fun acc x => insertBy key x acc) []

/-- Sorts by a key, least first. -/
def sortUp {α : Type} (key : α → Nat) (l : List α) : List α := (sortBy key l).reverse

/-- The granules the Cellar may spill for a gang, as slot and ordinal, in the order of R155. Those of the frames that a
handler's own CALLs have pushed count as the handler's and are never spilled (assumption 105, DESIGN CHOICE). -/
def Core.victims (c : Core) (w : Needy) : List (Nat × Nat) :=
  let top (g : Gang) : List Nat := visible g.body.frames
  let own (g : Gang) : Bool := g.slot == w.slot && !w.handler
  let others := c.gangs.filter fun g => !own g
  let waiting (g : Gang) : Bool := c.waiters.any fun p => p.1 == g.slot
  let all (gs : List Gang) : List (Nat × Nat) := gs.flatMap fun g => g.residents.map fun o => (g.slot, o)
  let step1 := (sortBy (fun g => g.body.frames.length) c.gangs).flatMap fun g =>
    (g.residents.filter fun o => !(top g).contains o).map fun o => (g.slot, o)
  let step2 := all (c.waiters.reverse.filterMap fun p => others.find? fun g => g.slot == p.1)
  let rest := others.filter fun g => !waiting g
  let step3 := all (rest.filter fun g => !c.gangIssues g)
  let step4 := all (rest.filter fun g => c.gangIssues g)
  (step1 ++ step2 ++ step3 ++ step4).eraseDups

/-- Spills along the order until the need fits, passing over granules on quarters that are not short, and granules
whose access fails or waits (R155, R156). The second part says whether anything has changed. -/
def State.spillFor (s : State) (r : CoreRef) (w : Needy) : List (Nat × Nat) → Bool → State × Bool
  | [], done => (s, done)
  | p :: rest, done =>
    let c := s.core r
    match c.gang? w.slot, c.gang? p.1 with
    | some wg, some vg =>
      if c.fits wg w.need then (s, done)
      else if (upTo 4).any fun q => wg.uses q && vg.uses q && c.freeGran q < w.need then
        let t := s.spill r p.1 p.2
        t.1.spillFor r w rest (done || t.2)
      else s.spillFor r w rest done
    | _, _ => s.spillFor r w rest done

/-- The Cellar acts for the standing request or the oldest waiter; none when it does nothing. -/
def State.cellarAct (s : State) (r : CoreRef) : Option State :=
  match (s.core r).needy with
  | none => none
  | some w =>
    let t := s.spillFor r w ((s.core r).victims w) false
    if t.2 then some t.1 else none

end Sys2Proof.Machine
end

