-- ==== Sys2Proof/Machine/Sta.lean ====
section
/-! DEFINITION. The STA class: queue definitions, and the reading and writing of queues, the window, the mask
stack and frames (spec 06, R146 to R153; 16, R360). -/

namespace Sys2Proof.Machine

/-! ### Queues (R146, R148, R149) -/

/-- The code of an operand field. -/
def codeOf' (o : Opnd) : Dword := o.code.setWidth 64

/-- Sets rows lo to lo + n - 1 to zero in every lane. -/
def Body.zeroRows (b : Body) (w lo n : Nat) : Body := (upTo n).foldl (fun b k => b.setRow (lo + k) (zeroLanes w)) b

/-- QDEF (R146). The first of the record's two places that is free takes the definition (assumption 115, DESIGN CHOICE). -/
def Ex.qdef (dm1 km1 : BitVec 3) (d : Opnd) (x : Ex) : Res :=
  let depth := dm1.toNat + 1
  let count := km1.toNat + 1
  let base := match d with | .v r => r.val | _ => 0
  let f := x.b.frame
  let bad := (f.qd0.isSome && f.qd1.isSome) || f.meetsQueue base (base + count * depth) || 8 * f.ngr < base + count * depth
  let q : QDef := ⟨base, depth, count, List.replicate count 0⟩
  x.check (firstOf [x.whole 4, if bad then [.whole 5 .queueDef (codeOf' d)] else []])
    (.next (x.s.modGang x.ag.core x.ag.slot fun g => (g.finish x x.next).modAct fun b =>
      (b.zeroRows x.w base (count * depth)).modFrame fun f => f.setQdef f.qd0.isSome (some q)))

/-- QCLR (R149). -/
def Ex.qclr (d : Opnd) (x : Ex) : Res :=
  let base := match d with | .v r => r.val | _ => 0
  let isBase (q : Option QDef) : Bool := match q with | some y => y.base == base | none => false
  let f := x.b.frame
  let second := !isBase f.qd0
  let n := match f.qdef second with | some q => q.count * q.depth | none => 0
  x.check (firstOf [x.whole 4, if isBase (f.qdef second) then [] else [.whole 5 .queueDef (codeOf' d)]])
    (.next (x.s.modGang x.ag.core x.ag.slot fun g => (g.finish x x.next).modAct fun b =>
      (b.zeroRows x.w base n).modFrame fun f => f.setQdef second none))

/-- The body once the instruction's own pops are done: QOCC, QRD and QWR act on the queue as step 4 leaves it
(assumption 21, DEDUCED). -/
def Ex.popped (x : Ex) : Body := x.pops.foldl (fun b q => b.pop q.1 q.2) x.b

/-- The queue that A names, for QOCC, QRD and QWR: its definition, number and occupancy. -/
def Ex.named (x : Ex) (a : Opnd) : Option (Bool × QDef × Nat × Nat) :=
  match queueOf x.popped a 1 with
  | none => none
  | some (second, j) => match x.popped.frame.qdef second with
    | none => none
    | some q => some (second, q, j, q.occOf j)

/-- The checks of QOCC, QRD and QWR: a queue name, and an entry below the occupancy (R148, R149). -/
def Ex.queueRaised (x : Ex) (a : Opnd) (e : Option Nat) : List Raised :=
  match x.named a, e with
  | none, _ => [.whole 0 .queueDef (codeOf' a)]
  | some (_, _, _, occ), some e => if occ ≤ e then [.whole 1 .queueUnderflow (codeOf' a)] else []
  | _, none => []

/-- The register that holds entry e of the queue named. -/
def Ex.entryReg (x : Ex) (a : Opnd) (e : Nat) : Nat :=
  match x.named a with
  | some (_, q, j, _) => q.entryReg j e
  | none => 0

/-- QOCC (R149). -/
def Ex.qocc (a : Opnd) (x : Ex) : Res :=
  let n := match x.named a with | some (_, _, _, occ) => occ | none => 0
  x.check (x.queueRaised a none) (x.result x.s [sameLanes x.w ⟨BitVec.ofNat 32 n, false⟩])

/-- A row of the register pool or the window as an instruction reads it that names it by number (R349). -/
def Ex.storedRead (x : Ex) (row : Lanes) : Lanes × State := x.s.poolRead x.charge x.set.contains row

/-- QRD (R149). -/
def Ex.qrd (e : BitVec 3) (a : Opnd) (x : Ex) : Res :=
  x.check (x.queueRaised a (some e.toNat)) (let q := x.storedRead (x.popped.row (x.entryReg a e.toNat)); x.result q.2 [q.1])

/-- QWR (R149). -/
def Ex.qwr (e : BitVec 3) (a : Opnd) (x : Ex) : Res :=
  let put (b : Body) : Body :=
    let r := x.entryReg a e.toNat
    b.setRow r ((b.row r).mapIdx fun i y => if x.inSet i then x.lv 0 i else y)
  x.check (x.queueRaised a (some e.toNat))
    (.next (x.s.modGang x.ag.core x.ag.slot fun g => (g.finish x x.next).modAct put))

/-! ### The window (R145, R150, R360) -/

/-- Updates the flow that WINRD, WINWR, MSKRD and MSKWR act on for a lane: the set-aside one in a handler, else the
agent's own (R145, R151). -/
def Gang.modTarget (g : Gang) (fi lane : Nat) (f : Flow → Flow) : Gang :=
  match g.hand with
  | some _ => { g with body := g.body.modFlow (g.body.fi (lane / 4)) f }
  | none => { g with body := g.body.modFlow fi f }

/-- That flow. -/
def Ex.target' (x : Ex) (lane : Nat) : Flow :=
  match x.g.hand with
  | some _ => x.g.body.flow (x.g.body.fi (lane / 4))
  | none => x.fl

/-- The full map of a window (R150). -/
def fullMap (win : List Slot) : Word := maskBy fun k => (win.getD k ⟨false, []⟩).full

/-- WINRD (R150): D is written, nothing is pushed on the window. -/
def Ex.winrd (k : Nat) (x : Ex) : Res :=
  let val (i : Nat) : LV :=
    let win := (x.target' i).win
    let z := win.getD (k - 1) ⟨false, []⟩
    if k == 0 then ⟨fullMap win, false⟩ else if z.full then laneAt z.lanes i else ⟨0, false⟩
  let row := (upTo x.w).map val
  let q := if k == 0 then (row, x.s) else x.storedRead row
  x.check [] (.next (q.2.modGang x.ag.core x.ag.slot fun g =>
    (g.finish x x.next).writeD x.n.h.nw x.n.dest x.inSet [q.1]))

/-- Marks slots full by bits 7..0 of a word. -/
def setMap (win : List Slot) (v : Word) : List Slot := win.mapIdx fun k z => { z with full := bitOf v k }

/-- WINWR (R150, R360). With an empty lane set slot k becomes full all the same; in the handler of a parted gang no lane
then names a slice. -/
def Ex.winwr (k : Nat) (x : Ex) : Res :=
  let same (i j : Nat) : Bool := x.g.hand.isNone || !x.g.body.parted || i / 4 == j / 4
  let firsts := x.set.filter fun i => (x.set.find? (same i)) == some i
  let leads := if k != 0 && x.set.isEmpty && !(x.g.hand.isSome && x.g.body.parted) then [0] else firsts
  let put (lead : Nat) (f : Flow) : Flow :=
    if k == 0 then { f with win := setMap f.win (x.lv 0 lead).v }
    else
      let set (z : Slot) : Slot :=
        ⟨true, z.lanes.mapIdx fun i y => if x.inSet i && same lead i then x.lv 0 i else y⟩
      { f with win := modNth set f.win (k - 1) }
  x.check [] (.next (x.s.modGang x.ag.core x.ag.slot fun g =>
    leads.foldl (fun g i => g.modTarget x.fi i (put i)) (g.finish x x.next)))

/-! ### The mask stack (R151) -/

/-- Entry e of a mask stack, from the bottom. -/
def Flow.entry (f : Flow) (e : Nat) : Word := f.stack.getD (f.stack.length - 1 - e) 0

/-- MSKRD (R151). With an empty lane set, a handler of a parted gang names no slice, and the instruction gives 0. -/
def Ex.mskrd (tgt : Bool) (e : BitVec 5) (x : Ex) : Res :=
  let none' := x.set.isEmpty && x.g.hand.isSome && x.g.body.parted
  let f := x.target' (x.lowest.getD 0)
  let v : Word := if none' then 0 else if tgt then f.xm else f.entry e.toNat
  x.check (if !none' && !tgt && f.msd ≤ e.toNat then [.whole 4 .maskUnderflow (BitVec.ofNat 64 f.msd)] else [])
    (x.result x.s [sameLanes x.w ⟨v, false⟩])

/-- The checks of R133 for MSKWR on a target. -/
def mskRaised (op : MskOp) (e msd floor : Nat) : List Raised :=
  let t : Dword := BitVec.ofNat 64 msd
  match op with
  | .write =>
    if msd ≤ e then [.whole 4 .maskUnderflow t] else if e < floor then [.whole 5 .unmatchedControl t] else []
  | .pop =>
    if msd < e then [.whole 4 .maskUnderflow t] else if e < floor then [.whole 5 .unmatchedControl t] else []
  | .push => if 32 ≤ msd then [.whole 6 .maskOverflow t] else []
  | .target => []

/-- The floor of the mask stack that MSKWR acts on (R133, R151, R170). -/
def Ex.targetFloor (x : Ex) : Nat :=
  match x.g.hand with
  | some _ => if x.g.body.parted then x.g.body.pmsd else x.g.body.frame.msb
  | none => x.floor

/-- The lanes a target's xm may hold (R151). -/
def Ex.targetLanes (x : Ex) (lane : Nat) : Word :=
  if x.g.body.parted then 15 <<< (4 * (if x.g.hand.isSome then lane / 4 else x.fi)) else maskOf x.w

/-- What MSKWR does to its target (R151). -/
def mskWrite (op : MskOp) (e : Nat) (v lanes : Word) (f : Flow) : Flow :=
  match op with
  | .write => { f with stack := setNth f.stack (f.stack.length - 1 - e) v }
  | .push => { f with stack := v :: f.stack }
  | .pop => { f with stack := f.stack.drop (f.stack.length - e) }
  | .target => { f with xm := v &&& lanes }

/-- MSKWR (R129, R151): outside a handler, a live mask that becomes 0 ends the agent; the interrupted gang's
ends it at TRET (assumption 22, DEDUCED). -/
def Ex.mskwr (op : MskOp) (e : BitVec 5) (x : Ex) : Res :=
  match x.lowest with
  | none => x.check [] (x.done x.s)
  | some i =>
    let f := x.target' i
    let s1 := x.s.modGang x.ag.core x.ag.slot fun g =>
      (g.finish x x.next).modTarget x.fi i (mskWrite op e.toNat (x.lv 0 i).v (x.targetLanes i))
    x.check (mskRaised op e.toNat f.msd x.targetFloor)
      (.next (if x.g.hand.isSome then s1 else s1.settleGang x.ag.core x.ag.slot))

/-! ### Frames (R136, R152, R153) -/

/-- A queue definition as a record holds it (R136). -/
def QDef.field (q : Option QDef) : Nat :=
  match q with
  | none => 0
  | some d => 32768 + 2048 * (d.depth - 1) + 256 * (d.count - 1) + d.base

/-- Occupancies as a record holds them (R136). -/
def QDef.occField (q : Option QDef) : Nat :=
  match q with
  | none => 0
  | some d => joinEls 4 ((upTo d.count).map d.occOf)

/-- Doubleword k of the record of the first frame of a list (R136). -/
def Body.record (b : Body) (fs : List Frame) (k : Nat) : Dword :=
  let f := fs.headD (.launch 1)
  let bit (x : Bool) (n : Nat) : Nat := if x then 2 ^ n else 0
  match k with
  | 0 => f.rpc
  | 1 => f.hpc
  | 2 => BitVec.ofNat 64 (f.ord * 2 ^ 32 + f.mid.toNat * 2 ^ 24 + bit (b.spOf fs) 23 + bit f.mv 22 + f.mmsd * 2 ^ 16 +
      f.msb * 2 ^ 10 + f.abase * 2 ^ 5 + f.ngr)
  | 3 => BitVec.ofNat 64 (QDef.field f.qd0 + 65536 * QDef.field f.qd1)
  | _ => BitVec.ofNat 64 (QDef.occField f.qd0 + 2 ^ 32 * QDef.occField f.qd1)

/-- Frame k from the bottom of the frame stack, with the frames below it (R152). -/
def Body.framesFrom (b : Body) (k : Nat) : List Frame := b.frames.drop (b.frames.length - 1 - k)

/-- The frame stack that FRMQ and FRMRD read: the interrupted gang's in a handler, else the agent's own once the instruction's
own pops are done, as for QOCC (R147, R152) (assumption 21, DEDUCED). -/
def Ex.framesSeen (x : Ex) : Body := if x.g.hand.isSome then x.g.body else x.popped

/-- The frame index that A gives, and its check (R153). -/
def Ex.frameIx (x : Ex) : Nat := ((x.lowest.map fun i => (x.lv 1 i).v.toNat)).getD 0
def Ex.frameRaised (x : Ex) (row : Nat) : List Raised :=
  let k := x.frameIx
  let fs := x.framesSeen.framesFrom k
  if x.framesSeen.frames.length ≤ k || 8 * (fs.headD (.launch 1)).ngr ≤ row then
    [.whole 0 .frameDepth (BitVec.ofNat 64 k)]
  else []

/-- FRMQ (R153); with an empty lane set it does nothing but push zeros (R26, R148). -/
def Ex.frmq (dw : Nat) (x : Ex) : Res :=
  if x.set.isEmpty then x.nothing 2
  else x.check (x.frameRaised 0) (x.result x.s (pairRows x.w (x.framesSeen.record (x.framesSeen.framesFrom x.frameIx) dw)))

/-- Reads the row of a granule's image, lane by lane (R153, R157) (assumption 36, DEDUCED). -/
def Ex.imageRow (x : Ex) (base : Dword) (o k : Nat) : Res :=
  let rd (p : Lanes × State) (i : Nat) : Lanes × State :=
    let v := p.2.cellarCell x.ag.core x.g base o k i
    (setNth p.1 i v.1, v.2)
  let va (i : Nat) : Dword := base + BitVec.ofNat 64 (imageOff k i)
  let tr (i : Nat) : CellarTr := x.s.cellarTr x.ag.core x.g .read (va i)
  let raised (i : Nat) : List Raised := match tr i with
    | .fails c => [.lane' 1 c i (va i)]
    | _ => []
  let waiting (i : Nat) : Option (Nat × Cause) := match tr i with
    | .waits c => some (i, c)
    | _ => none
  match x.set.find? fun i => x.g.ctx.isNone && !x.s.installed x.ag.core (va i).toNat 4 with
  | some i => .fault (.physicalHole (va i).toNat)
  | none => x.check (x.set.flatMap raised)
    (match x.set.findSome? waiting with
      | some (i, c) => x.parkAt (va i) .read i (.denied c)
      | none =>
        let r := x.set.foldl rd (zeroLanes x.w, x.s)
        x.result r.2 [r.1])

/-- FRMRD (R153); with an empty lane set it does nothing but push a zero on the window (R26, R148), and on no queue
(assumption 113, DESIGN CHOICE). -/
def Ex.frmrd (x : Ex) : Res :=
  let row := ((x.lowest.map fun i => (x.lv 2 i).v.toNat)).getD 0
  let b := x.framesSeen
  let fs := b.framesFrom x.frameIx
  let o := granOrd fs (row / 8)
  if x.set.isEmpty then x.nothing 1
  else x.check (x.frameRaised row)
    (if (b.gran o).resident then (let q := x.storedRead (b.rowIn fs row); x.result q.2 [q.1])
     else x.imageRow (imageAddr (x.s.cellarBase x.ag.core x.g) x.ag.core x.g.slot o) o (row % 8))

def execQdef (h : Hdr) (dm1 km1 : BitVec 3) (d : Opnd) (s : State) : Res := issue (.qdef h dm1 km1 d) s (Ex.qdef dm1 km1 d)
def execQclr (h : Hdr) (d : Opnd) (s : State) : Res := issue (.qclr h d) s (Ex.qclr d)
def execQocc (h : Hdr) (d a : Opnd) (s : State) : Res := issue (.qocc h d a) s (Ex.qocc a)
def execQrd (h : Hdr) (e : BitVec 3) (d a : Opnd) (s : State) : Res := issue (.qrd h e d a) s (Ex.qrd e a)
def execQwr (h : Hdr) (e : BitVec 3) (d a : Opnd) (s : State) : Res := issue (.qwr h e d a) s (Ex.qwr e a)
def execWinrd (h : Hdr) (k : Fin 9) (d : Opnd) (s : State) : Res := issue (.winrd h k d) s (Ex.winrd k.val)
def execWinwr (h : Hdr) (k : Fin 9) (d : Opnd) (s : State) : Res := issue (.winwr h k d) s (Ex.winwr k.val)
def execMskrd (h : Hdr) (tgt : Bool) (e : BitVec 5) (d : Opnd) (s : State) : Res :=
  issue (.mskrd h tgt e d) s (Ex.mskrd tgt e)
def execMskwr (h : Hdr) (op : MskOp) (e : BitVec 5) (d : Opnd) (s : State) : Res :=
  issue (.mskwr h op e d) s (Ex.mskwr op e)
def execFrmq (h : Hdr) (dw : Fin 5) (d a : Opnd) (s : State) : Res := issue (.frmq h dw d a) s (Ex.frmq dw.val)
def execFrmrd (h : Hdr) (d a b : Opnd) (s : State) : Res := issue (.frmrd h d a b) s Ex.frmrd

end Sys2Proof.Machine
end

