-- ==== Sys2Proof/Machine/Sys.lean ====
section
/-! DEFINITION. The PSN and SYS classes: the poison instructions, the system registers, traps and returns, and
SAVEDONE (spec 15, R328 to R336; 01, R19 to R22; 16, R359 and R363). -/

namespace Sys2Proof.Machine

/-! ### PSN (R336) -/

/-- The value of a true PCHK. -/
def chkTrue (one : Bool) : Word := if one then 1 else 0xFFFFFFFF

/-- PCHK. -/
def Ex.pchk (tr one : Bool) (x : Ex) : Res :=
  let hit (a : LV) : Bool := a.p && (!tr || transientKind (provKind a.v))
  x.check [] (x.result x.s [(upTo x.w).map fun i => ⟨if hit (x.lv 1 i) then chkTrue one else 0, false⟩])

/-- PSET: an entry for each clean lane, ascending, in both poison modes. -/
def Ex.pset (x : Ex) : Res :=
  x.check [] (x.lanewise 1 fun i s =>
    let a := x.lv 1 i
    if a.p then ([a], s)
    else
      let o := s.newOrigin (x.charge i) 8 (a.v.setWidth 64)
      ([⟨o.1, true⟩], o.2))

/-- PCLR. -/
def Ex.pclr (x : Ex) : Res :=
  x.check [] (x.result x.s [(upTo x.w).map fun i => ⟨(x.lv 1 i).v, false⟩])

/-- PORG. An entry whose read fails gives a value the manual does not state (assumption 27, DESIGN CHOICE). -/
def Ex.porg (f : BitVec 2) (x : Ex) : Res :=
  x.check [] (x.lanewise 2 fun i s =>
    let e := provOrigin (x.lv 1 i).v
    let p := s.polRegs (x.charge i)
    let two (d : Dword) : List LV := [⟨loWord d, false⟩, ⟨hiWord d, false⟩]
    if p.2.1 ≤ e && e != 8191 then (two 0, s)
    else match s.polLoad (x.charge i) .read (p.1 + BitVec.ofNat 64 (32 * e + 8 * f.toNat)) with
      | some d => (two d, s)
      | none =>
        let lo := s.free
        let hi := lo.2.free
        (two (joinWords lo.1 hi.1), hi.2))

/-! ### System registers (R19 to R22, R329) -/

/-- Access to a system register: none, read, or read and write, at U, S and M (R19). -/
inductive Acs where | no | r | rw deriving DecidableEq, Repr

/-- The access columns of the register map, none for a number it does not list (R19, R21). -/
def sysAccess (n : Nat) : Option (Acs × Acs × Acs) :=
  match n with
  | 0x000 | 0x033 | 0x034 => some (.r, .rw, .rw)
  | 0x001 | 0x002 | 0x003 | 0x031 => some (.no, .rw, .rw)
  | 0x004 | 0x030 | 0x032 => some (.no, .r, .rw)
  | 0x006 => some (.no, .no, .rw)
  | 0x005 | 0x010 | 0x020 | 0x022 | 0x025 | 0x026 => some (.r, .r, .rw)
  | 0x011 | 0x021 | 0x023 | 0x024 => some (.r, .r, .r)
  | _ => if 0x100 ≤ n && n ≤ 0x10F then some (.r, .r, .rw) else none

/-- The column of a level. -/
def Level.column (l : Level) (a : Acs × Acs × Acs) : Acs :=
  match l with
  | .u => a.1
  | .s => a.2.1
  | .m => a.2.2

/-- The checks of a register number from one lane (R22, R329). -/
def Ex.sysRaised (x : Ex) (i : Nat) (write : Bool) : List Raised :=
  let a := x.lv 1 i
  let t : Dword := a.v.setWidth 64
  firstOf [poisons 0 .poisonAddress i [a],
    match sysAccess a.v.toNat with
    | none => [.lane' 1 .badOperand i t]
    | some c =>
      let k := x.g.pl.column c
      if k == .no || (write && k != .rw) then [.lane' 1 .privileged i t] else []]

/-- sy.status as an agent reads it; PARTED in a handler shows the body that it interrupted, or its own (R20, R169, R174). -/
def Ex.status (x : Ex) : Dword :=
  let bit (b : Bool) (n : Nat) : Nat := if b then 2 ^ n else 0
  let gwc := match x.w with | 8 => 1 | 16 => 2 | _ => 3
  BitVec.ofNat 64 (x.fl.msd * 2 ^ 18 + gwc * 2 ^ 14 + x.g.ppl.num * 2 ^ 8 + bit (x.g.body.parted || x.b.parted) 7 + bit x.g.region.isSome 6 +
    bit x.g.sstep 5 + bit x.g.twin 4 + bit x.g.psn 3 + x.g.pl.num)

/-- A doubleword whose value the manual does not state. -/
def State.freeD (s : State) : Dword × State :=
  let lo := s.free
  let hi := lo.2.free
  (joinWords lo.1 hi.1, hi.2)

/-- A field of the context's state on the core's island, or the core's own at M level (R19, R428). -/
def Ex.ctxReg (x : Ex) (f : CtxIsland → Dword) (g : Core → Dword) : Dword :=
  match x.g.ctx, x.ag.core.site with
  | some c, some site => ((x.s.ctxAt? site c).map f).getD 0
  | _, _ => g x.core

/-- The value of a system register (R19, R428). sy.site of a reeve core and sy.die of a core off the compute dies
have no value in the manual (assumption 26, DESIGN CHOICE). -/
def Ex.sysRead (x : Ex) (n : Nat) : Dword × State :=
  let out (d : Dword) : Dword × State := (d, x.s)
  match n with
  | 0x000 => out x.status
  | 0x001 => out x.g.cause
  | 0x002 => out x.g.epc
  | 0x003 => out x.g.tval
  | 0x004 => out (x.ctxReg (fun k => k.tvec) fun c => c.tvec)
  | 0x005 => out ((x.g.regionPc &&& ~~~3) ||| (if x.g.region.isSome then 1 else 0))
  | 0x006 => out x.core.mtvec
  | 0x010 => out (BitVec.ofNat 64 x.g.body.frames.length)
  | 0x011 => out (BitVec.ofNat 64 (joinEls 16 ((upTo 4).map x.core.freeGran)))
  | 0x020 => out (match x.g.ctx with | some c => BitVec.ofNat 64 c | none => x.core.ctxReg)
  | 0x021 => match x.ag.core.site with
    | some site => out (BitVec.ofNat 64 site)
    | none => x.s.freeD
  | 0x022 => out (x.s.panel.setWidth 64)
  | 0x023 => if x.ag.core.isCompute then out (BitVec.ofNat 64 x.ag.core.die) else x.s.freeD
  | 0x024 => out (BitVec.ofNat 64 x.g.cluster)
  | 0x025 => out x.g.sysWg
  | 0x026 => out x.g.sysGrid
  | 0x030 => out (x.s.polRegs (x.charge 0)).1
  | 0x031 => out (BitVec.ofNat 64 (x.s.polRegs (x.charge 0)).2.1)
  | 0x032 => out (x.ctxReg (fun k => k.cellar) fun c => c.cellar)
  | 0x033 => out x.g.syTwin
  | 0x034 => out (BitVec.ofNat 64 x.g.mxp)
  | _ => out (lookupD (n - 0x100) 0 x.core.stalls)

/-- SRD (R329). -/
def Ex.srd (x : Ex) : Res :=
  match x.lowest with
  | none => x.check [] (x.result x.s (pairRows x.w 0))
  | some i =>
    let r := x.sysRead (x.lv 1 i).v.toNat
    x.check (x.sysRaised i false) (x.result r.2 (pairRows x.w r.1))

/-- sy.status as SWR writes it: the fields that are not read-only (R20, R22). -/
def Gang.setStatus (g : Gang) (d : Dword) : Gang :=
  { g with sstep := d.getLsbD 5, twin := d.getLsbD 4, psn := d.getLsbD 3 }

/-- The effect of SWR on a register (R22, R333). It writes all 64 bits of sy.ctx, to which the manual gives no width
(assumption 116, DESIGN CHOICE). -/
def Ex.sysWrite (x : Ex) (n : Nat) (d : Dword) : State :=
  let gang (f : Gang → Gang) : State := x.s.modGang x.ag.core x.ag.slot f
  let core (f : Core → Core) : State := x.s.modCore x.ag.core f
  let mxp := d.toNat % 256
  match n with
  | 0x000 => gang fun g => g.setStatus d
  | 0x001 => gang fun g => { g with cause := d &&& 0x1FFF }
  | 0x002 => gang fun g => { g with epc := d }
  | 0x003 => gang fun g => { g with tval := d }
  | 0x004 => core fun c => { c with tvec := d &&& ~~~3 }
  | 0x005 => gang fun g => { g with regionPc := d &&& ~~~3 }
  | 0x006 => core fun c => { c with mtvec := d &&& ~~~3 }
  | 0x020 => core fun c => { c with ctxReg := d }
  | 0x022 => { x.s with panel := d.setWidth 21 }
  | 0x025 => gang fun g => { g with sysWg := d }
  | 0x026 => gang fun g => { g with sysGrid := d }
  | 0x030 => core fun c => { c with pol := d }
  | 0x031 =>
    let p := x.s.polRegs (x.charge 0)
    let h := d.toNat % 8192
    x.s.setPolHead (x.charge 0) h (h == 8191 && p.2.1 == 8191 && p.2.2)
  | 0x032 => core fun c => { c with cellar := d }
  | 0x033 => gang fun g => { g with syTwin := d &&& 0xFFFFFFFF00000003 }
  | 0x034 => gang fun g => { g with mxp := if mxp == 0 then 16 else mxp }
  | _ => if 0x100 ≤ n then core fun c => { c with stalls := setAt (n - 0x100) d c.stalls } else x.s

/-- SWR (R329). -/
def Ex.swr (x : Ex) : Res :=
  match x.lowest with
  | none => x.check [] (x.done x.s)
  | some i =>
    x.check (firstOf [x.sysRaised i true, poisons 2 .poisonStore i (x.regs 0 i)])
      (x.done (x.sysWrite (x.lv 1 i).v.toNat (x.pair 0 i)))

/-! ### Traps, returns and waits (R327, R330) -/

/-- TRAP (R330): the trap resumes after it, so no MMQ before it is trailing (R356). -/
def Ex.trapI (code : BitVec 8) (x : Ex) : Res :=
  x.check [] (.next ((x.s.modGang x.ag.core x.ag.slot Gang.settleTrail).takeTrap x.ag.core x.ag.slot x.fi .softwareTrap 0 x.next (code.setWidth 64)))

/-- TRET (R327, R365). Outside a handler, at M level, only PL and PC change (assumption 52, DEDUCED). -/
def Ex.tret (x : Ex) : Res :=
  let back (g : Gang) : Gang := { g with pl := g.ppl }
  match x.g.hand with
  | none => x.check [] (x.doneAt (x.s.modGang x.ag.core x.ag.slot back) x.g.epc)
  | some h =>
    if h.kind == .restore then x.check [] (x.wait x.s .restoreTret)
    else x.check [] (.next ((x.s.modGang x.ag.core x.ag.slot Gang.settleTrail).returnTrap x.ag.core x.ag.slot))

/-- ICINV (R330). -/
def Ex.icinv (x : Ex) : Res := x.check [] (x.done (x.s.modCore x.ag.core fun c => { c with icache := [] }))

/-- WFI (R330): waits for an event posted from now on (assumption 50, DEDUCED). -/
def Ex.wfi (x : Ex) : Res := x.check [] (x.wait x.s .wfi)

/-- HALT (R330). -/
def Ex.halt (x : Ex) : Res :=
  x.check [] (match x.done x.s with
    | .next s => .next (s.modCore x.ag.core fun c => { c with halted := true })
    | r => r)

/-! ### SAVEDONE (R359, R363) -/

/-- A doubleword of the header of the control record. Fields that the gang's state leaves without meaning take
free values. -/
def Gang.saveHeader (g : Gang) (free : Nat → Word) (k : Nat) : Dword :=
  let b := g.body
  let f := b.flow 0
  let bar := match f.run with | .wait (.bar n t _) _ => some (n, t) | _ => none
  let bit (x : Bool) (n : Nat) : Nat := if x then 2 ^ n else 0
  let part (w lo n : Nat) : Nat := ((free w).extractLsb' lo n).toNat
  let wait : Nat := match bar with
    | some (n, t) => t.toNat * 2 ^ 32 + n * 2 ^ 24
    | none => (free 5).toNat * 2 ^ 32 + part 4 24 8 * 2 ^ 24
  match k with
  | 0 => g.epc
  | 1 => BitVec.ofNat 64 ((if b.parted then (free 3).toNat else f.xm.toNat) * 2 ^ 32 + b.frames.length * 2 ^ 24 +
      (if b.parted then part 2 18 6 else f.msd) * 2 ^ 18 + (if b.parted then b.pmsd else part 2 12 6) * 2 ^ 12 +
      bit b.parted 11 + bit (!b.parted && g.act.monitor.isSome) 10 + bit bar.isSome 9 + g.mxp)
  | 2 => BitVec.ofNat 64 (wait + g.syTwin.toNat % 4 * 2 ^ 16 + g.gix * 2 ^ 8 + 1)
  | _ => BitVec.ofNat 64 ((hiWord g.syTwin).toNat * 2 ^ 32 + g.openBatches.length * 2 ^ 16 + g.nextBatch.toNat)

/-- A doubleword of a slice's record (R359). -/
def Flow.saveDword (f : Flow) (free : Word) (k : Nat) : Dword :=
  let join := match f.run with | .wait (.regang id) _ => some id | _ => none
  let bit (x : Bool) (n : Nat) : Nat := if x then 2 ^ n else 0
  let jid : Nat := match join with
    | some id => id.toNat
    | none => (free.extractLsb' 8 8).toNat
  if k == 0 then f.pc
  else BitVec.ofNat 64 (bit f.mon.isSome 48 + jid * 2 ^ 40 +
    bit join.isSome 39 + bit (f.run == .ended) 38 + f.msd * 2 ^ 32 + f.xm.toNat)

/-- Word k of the 16 KiB that SAVEDONE writes (R359). A word to which the manual gives no content is free
(assumption 51, DESIGN CHOICE). -/
def Gang.saveWord (g : Gang) (free : Nat → Word) (k : Nat) : Word :=
  let dw (d : Dword) : Word := if k % 2 == 0 then loWord d else hiWord d
  let b := g.body
  if k < 8 then dw (g.saveHeader free (k / 2))
  else if 64 ≤ k && k < 96 && !b.parted && k - 64 < (b.flow 0).msd then (b.flow 0).entry (k - 64)
  else if 128 ≤ k && k < 640 && b.parted && (k - 128) / 64 < b.flows.length then
    let f := b.flow ((k - 128) / 64)
    let m := (k - 128) % 64
    if m < 4 then dw (f.saveDword (free k) (m / 2)) else if m - 4 < f.msd then f.entry (m - 4) else free k
  else if 1024 ≤ k && k < 1024 + 10 * b.frames.length then
    dw (b.record (b.framesFrom ((k - 1024) / 10)) ((k - 1024) % 10 / 2))
  else free k

/-- Adds a saved gang to a list in ascending gix, the order in which gangs are admitted again (R313, R364). -/
def insertSaved (v : SavedGang) : List SavedGang → List SavedGang
  | [] => [v]
  | w :: r => if v.gix < w.gix then v :: w :: r else w :: insertSaved v r

/-- A gang is saved: a release at island scope on every path, the B reads of the MMQs of its handler among them; it leaves its slot
and stays a member of its barriers (R259, R363) (assumption 51, DESIGN CHOICE). -/
def State.saveGang (s : State) (r : CoreRef) (slot : Nat) (area : Dword) : State :=
  match s.gang? r slot with
  | none => s
  | some g =>
    let v : SavedGang := ⟨g.gix, area, g.failMask, g.failure⟩
    ((((s.readRest r fun t => t.gang == g.uid).release r .i).freeSlot r slot).modWg r g.wg fun w => { w with saved := insertSaved v w.saved }).settleWg r g.wg

/-- The stores of SAVEDONE. -/
def Ex.saveStores (x : Ex) (a : Dword) : State :=
  let free (k : Nat) : Word := Config.freeWord (x.s.freeCtr + k)
  (upTo 4096).foldl (fun s k =>
    match translate x.tlbs x.g.ctx x.g.pl .write (a + BitVec.ofNat 64 (4 * k)) with
    | .ok pa cp => s.writeLoc x.who (.global (if cp then .i else .c) (pa / 4)) ⟨x.g.saveWord free k, false⟩ 15 true
    | _ => s) { x.s with freeCtr := x.s.freeCtr + 4096 }

/-- The pair v0 of the handler frame in the lowest lane of xm, as it is read (R349, R363). -/
def Ex.savePair (x : Ex) : (LV × LV) × Ex :=
  let i := x.fl.lowXm
  let first := (x.b.gran 0).rows
  let lo := x.s.poolRead x.charge (· == i) (first.getD 0 [])
  let hi := lo.2.poolRead x.charge (· == i) (first.getD 1 [])
  ((laneAt lo.1 i, laneAt hi.1 i), { x with s := hi.2 })

/-- SAVEDONE (R363). The pair v0 is that of the handler frame, the bottom one of the handler's frames. -/
def Ex.savedone (y : Ex) : Res :=
  if y.g.cause.toNat % 256 != Cause.code .preempt then y.check [] (y.done y.s)
  else
    let q := y.savePair
    let x := q.2
    let i := x.fl.lowXm
    let lo := q.1.1
    let hi := q.1.2
    let a := joinWords lo.v hi.v
    let pages := pagesOf 0x4000 a
    let tr (p : Dword) : Tr := translate x.tlbs x.g.ctx x.g.pl .write p
    let busy := ((x.core.chans.any fun p => p.2.any fun c => c.gang == x.g.uid) ||
      (x.s.rops.any fun o => o.ag.core == x.ag.core && o.gang == x.g.uid))
    x.check (firstOf [poisons 0 .poisonAddress i [joinSrc [lo, hi]],
        if a.toNat % 1024 != 0 then [.lane' 1 .addrMisaligned i a] else []])
      (if busy then x.wait x.s .savedone
       else x.check (firstOf [pages.flatMap fun p => x.rangeRaised 2 i (some .global) p.toNat 1,
          (pages.filter fun p => tr p == .quarantined).map fun p => .lane' 3 .pageQuarantined i p])
        (x.parkOn (pages.map fun p => (i, p, .write))
           (if x.g.ctx.isNone && !x.s.installed x.ag.core a.toNat 0x4000 then .fault (.physicalHole a.toNat)
            else .next ((x.saveStores a).saveGang x.ag.core x.ag.slot a))))

def execPchk (h : Hdr) (tr one : Bool) (d a : Opnd) (s : State) : Res := issue (.pchk h tr one d a) s (Ex.pchk tr one)
def execPset (h : Hdr) (d a : Opnd) (s : State) : Res := issue (.pset h d a) s Ex.pset
def execPclr (h : Hdr) (d a : Opnd) (s : State) : Res := issue (.pclr h d a) s Ex.pclr
def execPorg (h : Hdr) (f : BitVec 2) (d a : Opnd) (s : State) : Res := issue (.porg h f d a) s (Ex.porg f)
def execSrd (h : Hdr) (d a : Opnd) (s : State) : Res := issue (.srd h d a) s Ex.srd
def execSwr (h : Hdr) (d a : Opnd) (s : State) : Res := issue (.swr h d a) s Ex.swr
def execTrap (h : Hdr) (code : BitVec 8) (s : State) : Res := issue (.trap h code) s (Ex.trapI code)
def execTret (h : Hdr) (s : State) : Res := issue (.tret h) s Ex.tret
def execSavedone (h : Hdr) (s : State) : Res := issue (.savedone h) s Ex.savedone
def execIcinv (h : Hdr) (s : State) : Res := issue (.icinv h) s Ex.icinv
def execWfi (h : Hdr) (s : State) : Res := issue (.wfi h) s Ex.wfi
def execHalt (h : Hdr) (s : State) : Res := issue (.halt h) s Ex.halt

end Sys2Proof.Machine
end

