-- ==== Sys2Proof/Machine/Events.lean ====
section
/-! DEFINITION. Steps that end waits and take traps: handler frames, pending causes, barriers, frames and the
Cellar, translation, monitors, replay, containment, the debugger (spec 06, 08, 09, 15). A step whose condition
does not hold is refused as not enabled. -/

namespace Sys2Proof.Machine

/-- A step that is not enabled (assumption 5, DESIGN CHOICE). -/
def notEnabled (name : String) : Res := .refused (.notEnabled name)

/-- A step that happens when its condition holds. -/
def when (c : Bool) (name : String) (s : State) : Res := if c then .next s else notEnabled name

/-- The flow of an agent. -/
def State.flow? (s : State) (ag : AgentRef) : Option Flow :=
  (s.gang? ag.core ag.slot).bind fun g => g.act.flows[g.act.fi ag.slice]?

/-- Whether a waiting flow of a gang may go on: no trap, debugger or restore holds the gang, and its core runs. -/
def State.free? (s : State) (ag : AgentRef) : Bool :=
  match s.core? ag.core, s.gang? ag.core ag.slot with
  | some c, some g => g.trapReq.isNone && g.dbgHeld.isNone && g.restore.isNone && !c.halted && !c.stopped
  | _, _ => false

/-- Runs an agent's instruction again out of a wait. The step is not enabled when the agent still waits. A wait that
must finish before a trap goes on although the trap has been requested (R174). Granules of the current frame that are in
the Cellar are refilled before the instruction goes on (R155). -/
def State.wake (s : State) (name : String) (ag : AgentRef) (f : Wait → Instr → Option (State → Res)) : Res :=
  match s.gang? ag.core ag.slot, s.flow? ag with
  | some g, some fl => match fl.run with
    | .wait w i => match f w i with
      | some m =>
        if g.trapReq.isSome && !fl.unsettled then notEnabled name
        else
          let s1 := (s.modGang ag.core ag.slot fun g => { g with trapReq := none }).modFlow ag fun x => { x with run := .ready }
          match m { s1 with cur := ag } with
          | .next t =>
            if ((t.flow? ag).map fun x => x.run) == some (.wait w i) then notEnabled name
            else if !g.act.missing.isEmpty then when (!(s.core ag.core).queued ag) name (s.refillFirst ag)
            else
              let keep (old : TrapReq) (y : Gang) : Gang :=
                { y with trapReq := match y.trapReq with
                    | some q => if old.yields q then some q else some old
                    | none => some old }
              let back (y : Gang) : Gang :=
                match g.trapReq with
                | some old => if y.uid == g.uid && y.hand.isSome == g.hand.isSome then keep old y else y
                | none => y
              .next { t.modGang ag.core ag.slot back with cur := s.cur }
          | .fault r => .fault r
          | .refused _ => notEnabled name
      | none => notEnabled name
    | _ => notEnabled name
  | _, _ => notEnabled name

/-! ### Handlers (R159, R323, R324, R326) -/

/-- Whether a gang's request for a handler frame stands first and can be granted (R159). -/
def State.grantable (s : State) (r : CoreRef) (slot : Nat) : Option TrapReq :=
  match s.gang? r slot with
  | none => none
  | some g =>
    if (s.core r).handReqs.head? == some slot && (s.core r).fits g g.handlerNeed && g.settled && !(s.core r).halted then
      g.trapReq
    else none

/-- Refills every granule of a gang's current frame that is in the Cellar (R156): the state, whether anything is new, and
whether the frame is whole. -/
def State.refillAll (s : State) (r : CoreRef) (slot : Nat) (g : Gang) : State × Bool × Bool :=
  let q := g.act.missing.foldl (fun (p : State × Bool) o =>
    let t := p.1.refill r slot o
    (t.1, p.2 || t.2)) (s, false)
  (q.1, q.2, (q.1.gang? r slot).any fun g => g.act.missing.isEmpty)

/-- Grants a handler frame: an MWAIT of the gang whose frame is in the Cellar has it refilled and completes first
(R159, R203, R323). -/
def State.admitTrap (s : State) (r : CoreRef) (slot : Nat) (name : String) : Res :=
  match s.gang? r slot with
  | none => notEnabled name
  | some g =>
    if g.mwaitHeld then
      let q := s.refillAll r slot g
      if q.2.2 then .next ((q.1.modGang r slot Gang.endMwaits).enterTrap r slot) else when q.2.1 name q.1
    else .next ((s.modGang r slot Gang.endMwaits).enterTrap r slot)

/-- TRAP_ENTRY (R323). -/
def execTrapEntry (ag : AgentRef) (s : State) : Res :=
  match s.grantable ag.core ag.slot with
  | some q => if q.kind == .context then s.admitTrap ag.core ag.slot "TRAP_ENTRY" else notEnabled "TRAP_ENTRY"
  | none => notEnabled "TRAP_ENTRY"

/-- MACHINE_TRAP_ENTRY (R326). -/
def execMachineTrapEntry (ag : AgentRef) (s : State) : Res :=
  match s.grantable ag.core ag.slot with
  | some q => if q.kind == .machine then s.admitTrap ag.core ag.slot "MACHINE_TRAP_ENTRY" else notEnabled "MACHINE_TRAP_ENTRY"
  | none => notEnabled "MACHINE_TRAP_ENTRY"

/-- HANDLER_FRAME_GRANT (R159). -/
def execHandlerFrameGrant (core : CoreRef) (s : State) : Res :=
  match (s.core core).handReqs with
  | slot :: _ => match s.grantable core slot with
    | some _ => s.admitTrap core slot "HANDLER_FRAME_GRANT"
    | none => notEnabled "HANDLER_FRAME_GRANT"
  | [] => notEnabled "HANDLER_FRAME_GRANT"

/-- The flow that an asynchronous cause is taken from: the agent's own, or the lowest live slice when that one has
ended (assumption 94, DESIGN CHOICE). -/
def Body.causeFlow (b : Body) (slice : Nat) : Nat :=
  if (b.flow (b.fi slice)).run == .ended then b.flows.findIdx fun f => f.run != .ended else b.fi slice

/-- Takes a pending cause: it ends a gang at S level, else the gang traps; a MWAIT completes first. sy.epc of a PREEMPT is the
earliest MMQ that the freeze returned, when there is one (R203, R324, R325, R356). -/
def State.takePending (s : State) (ag : AgentRef) (g : Gang) (p : Pending) : State :=
  let drop (g : Gang) : Gang := { g with pend := g.pend.filter fun q => q.cause != p.cause }
  if g.pl == .s then (s.endGang ag.core ag.slot true).report g.ctx (.gangKilled p.cause g.epc)
  else
    let fi := g.act.causeFlow ag.slice
    let done := drop g.endMwaits
    let again := if p.cause == .preempt then g.reissue else none
    let rest : Gang := { done with reissue := if p.cause == .preempt then none else g.reissue }
    (s.modGang ag.core ag.slot fun _ => rest).takeTrap ag.core ag.slot fi p.cause 0 (again.getD (done.act.flow fi).pc) p.tval
      true

/-- PENDING_CAUSE_TAKEN (R324, R325), once the flow that sy.epc names has finished what it has issued (R174). A MWAIT that
must complete first has its frame refilled before (R155, R203). -/
def execPendingCauseTaken (ag : AgentRef) (s : State) : Res :=
  match s.gang? ag.core ag.slot, s.flow? ag with
  | some g, some _ => match g.nextPending with
    | some p =>
      let f := g.act.flow (g.act.causeFlow ag.slice)
      let ok := s.free? ag && !f.unsettled && f.run != .replay
      if f.inMwait.isSome && g.mwaitHeld then
        when (ok && !(s.core ag.core).queued ag) "PENDING_CAUSE_TAKEN" (s.refillFirst ag)
      else when ok "PENDING_CAUSE_TAKEN" (s.takePending ag g p)
    | none => notEnabled "PENDING_CAUSE_TAKEN"
  | _, _ => notEnabled "PENDING_CAUSE_TAKEN"

/-! ### Barriers (R192, R318) -/

/-- Whether another gang of the workgroup with a lower gix still waits for the same release of a barrier; it becomes ready
first (R197). -/
def Core.barBefore (c : Core) (ag : AgentRef) : Bool :=
  match c.gang? ag.slot with
  | none => false
  | some g => match (g.act.flow (g.act.fi ag.slice)).barWait with
    | none => false
    | some (b, t) => c.gangs.any fun k => k.wg == g.wg && k.gix < g.gix && k.waitsOn b t && k.trapReq.isNone &&
        k.dbgHeld.isNone && k.restore.isNone && !c.waiters.any fun p => p.1 == k.slot

/-- BARRIER_WAIT_END (R192, R197). -/
def execBarrierWaitEnd (ag : AgentRef) (s : State) : Res :=
  if ((s.flow? ag).bind fun f => f.due).isSome || (s.core ag.core).barBefore ag then notEnabled "BARRIER_WAIT_END"
  else s.wake "BARRIER_WAIT_END" ag fun w i =>
    match w, i with
    | .bar b t mx, .bar .. => some fun s => issue i s fun x => x.check [] (x.barEnd x.s mx b t x.fl.lowXm (.bar b t mx))
    | .barw _ _, .barw h mx a b => some (execBarw h mx a b)
    | _, _ => none

/-- SLUICE_RELEASE_DELAY (R318). -/
def execSluiceReleaseDelay (ag : AgentRef) (s : State) : Res :=
  match (s.flow? ag).bind fun f => f.due with
  | some n => when (n ≤ (s.core ag.core).cycle) "SLUICE_RELEASE_DELAY" (s.modFlow ag fun f => { f with due := none })
  | none => notEnabled "SLUICE_RELEASE_DELAY"

/-! ### Frames and the Cellar (R138 to R140, R155) -/

/-- Completes a refill: every granule of the top frame that is in the Cellar (R140, R156). -/
def State.refillTop (s : State) (ag : AgentRef) (g : Gang) : Res :=
  let go (f : Flow) : Flow := match f.run with | .frameWait _ _ => { f with run := .ready } | _ => f
  let q := s.refillAll ag.core ag.slot g
  let leave (c : Core) : Core := { c with waiters := c.waiters.filter fun p => !(p.1 == ag.slot && p.2.1 == ag.slice) }
  if q.2.2 then .next ((q.1.modFlow ag go).modCore ag.core leave)
  else when q.2.1 "FRAME_WAIT" q.1

/-- FRAME_WAIT: grants the oldest waiter (R138). -/
def execFrameWait (core : CoreRef) (s : State) : Res :=
  let c := s.core core
  match c.handReqs, c.waiters with
  | [], p :: _ =>
    let ag : AgentRef := ⟨core, p.1, p.2.1⟩
    match c.gang? p.1, s.flow? ag with
    | some g, some f =>
      if !s.free? ag || !c.fits g (g.needOf p.2.1) then notEnabled "FRAME_WAIT"
      else match f.run with
        | .frameWait n (some i) =>
          let q := if i.readsAgain then s.refillAll core p.1 g else (s, false, true)
          let s1 := { q.1.modFlow ag (fun x => { x with run := .ready }) with cur := ag }
          let r : Res := match i with
            | .call h k d off => execCall h k d off s1
            | .calli h k d a => execCalli h k d a s1
            | _ => notEnabled "FRAME_WAIT"
          if !q.2.2 then when q.2.1 "FRAME_WAIT" q.1
          else match r with
          | .next t =>
            if ((t.flow? ag).map fun x => x.run) == some (.frameWait n (some i)) then notEnabled "FRAME_WAIT"
            else .next { t with cur := s.cur }
          | r => r
        | _ => s.refillTop ag g
    | _, _ => .next (s.modCore core fun c => { c with waiters := c.waiters.drop 1 })
  | _, _ => notEnabled "FRAME_WAIT"

/-- The Cellar's action as a step. -/
def State.cellarStep (s : State) (core : CoreRef) (name : String) : Res :=
  match s.cellarAct core with
  | some t => .next t
  | none => notEnabled name

/-- CELLAR_TIMEOUT (R155): the oldest waiter has waited 16,384 cycles. -/
def execCellarTimeout (core : CoreRef) (s : State) : Res :=
  match (s.core core).waiters with
  | p :: _ =>
    if p.2.2 + Config.cellarCycles ≤ (s.core core).cycle then s.cellarStep core "CELLAR_TIMEOUT" else notEnabled "CELLAR_TIMEOUT"
  | [] => notEnabled "CELLAR_TIMEOUT"

/-- CELLAR_SPILL (R155, R159): a handler request stands, or no other gang of the core can issue. -/
def execCellarSpill (core : CoreRef) (s : State) : Res :=
  let c := s.core core
  match c.needy with
  | some w =>
    if w.handler || !(c.gangs.any fun g => g.slot != w.slot && c.gangIssues g) then s.cellarStep core "CELLAR_SPILL"
    else notEnabled "CELLAR_SPILL"
  | none => notEnabled "CELLAR_SPILL"

/-! ### Translation (R223, R224) -/

/-- The access that an agent is parked on. -/
def State.park? (s : State) (ag : AgentRef) : Option Park :=
  match s.flow? ag with
  | some f => match f.run with
    | .parked p => some p
    | _ => none
  | none => none

/-- The agent goes on from a park: it executes its instruction again. -/
def State.unpark (s : State) (ag : AgentRef) : State := s.modFlow ag fun f => { f with run := .ready }

/-- Adds an entry to a TLB of a size, whose oldest entry makes room (assumption 9, DESIGN CHOICE). -/
def fillTlb (size : Nat) (e : TlbEntry) (l : List TlbEntry) : List TlbEntry :=
  if l.contains e then l else let t := l ++ [e]; t.drop (t.length - size)

/-- What a miss of a core finds: its cluster's TLB, its die's, then a walk (R223). -/
def Island.seek (x : Island) (r : CoreRef) (k : CtxIsland) (va : Dword) : Option TlbEntry :=
  tlbFind (lookupD r.cluster [] x.clusterTlb) k.ctx va <|> tlbFind (lookupD r.die [] x.dieTlb) k.ctx va <|>
    walk x.mem x.bytes k.root k.ctx va

/-- Fills the TLBs of the cluster and the die of a core. -/
def Island.fillTlbs (x : Island) (r : CoreRef) (e : TlbEntry) : Island :=
  { x with
    clusterTlb := setAt r.cluster (fillTlb Config.clusterTlb e (lookupD r.cluster [] x.clusterTlb)) x.clusterTlb
    dieTlb := setAt r.die (fillTlb Config.dieTlb e (lookupD r.die [] x.dieTlb)) x.dieTlb }

/-- The agents of a gang. -/
def Gang.agents (g : Gang) (r : CoreRef) : List AgentRef := (upTo g.act.flows.length).map fun i => ⟨r, g.slot, i⟩

/-- The agents of a die, other than one, that wait for a walk to the same page of the same context (R223). -/
def State.sharers (s : State) (ag : AgentRef) (ctx : Nat) (large : Bool) (va : Dword) : List AgentRef :=
  let near (c : Core) : Bool := c.ref.isCompute && c.ref.site == ag.core.site && c.ref.die == ag.core.die
  let mine (g : Gang) : Bool := g.ctx == some ctx
  let all := (s.cores.filter near).flatMap fun c => (c.gangs.filter mine).flatMap fun g => g.agents c.ref
  all.filter fun a => a != ag && (s.park? a).any fun p => p.fault.isNone && pageNo large p.va == pageNo large va

/-- A walk that an agent waits for has ended: it fills the core's TLB, or the fault goes to the host; CCTL goes on
(R224, R246). -/
def State.walkEnd (s : State) (e : Option TlbEntry) (ag : AgentRef) : State :=
  match s.park? ag, s.gang? ag.core ag.slot, e with
  | some _, some _, some e => (s.modCore ag.core fun c => { c with tlb := fillTlb Config.coreTlb e c.tlb }).unpark ag
  | some p, some g, none =>
    if p.access == .control then s.modFlow ag fun f => { f with run := .ready, noLeaf := pageNo false p.va :: f.noLeaf }
    else
      let miss : Park := { p with fault := some .pageNotPresent }
      (s.modFlow ag fun f => { f with run := .parked miss }).report g.ctx (.fault p.va .pageNotPresent)
  | _, _, _ => s

/-- TLB_WALK_DONE (R223, R224): the walk ends for every agent of the die that shares it. -/
def execTlbWalkDone (ag : AgentRef) (s : State) : Res :=
  match s.park? ag, s.gang? ag.core ag.slot, ag.core.site.bind s.island? with
  | some p, some g, some x =>
    match p.fault, g.ctx.bind x.ctx? with
    | none, some k =>
      let e := x.seek ag.core k p.va
      let s1 := match e with
        | some e => s.modIsland x.site fun y => y.fillTlbs ag.core e
        | none => s
      let large := (e.map fun e => e.large).getD false
      .next (((s.sharers ag k.ctx large p.va).foldl (fun s a => s.walkEnd e a) s1).walkEnd e ag)
    | _, _ => notEnabled "TLB_WALK_DONE"
  | _, _, _ => notEnabled "TLB_WALK_DONE"

/-- Removes entries from every TLB of an island (R223). -/
def State.dropTlb (s : State) (site : Nat) (p : TlbEntry → Bool) : State :=
  let cut (l : List TlbEntry) : List TlbEntry := l.filter fun e => !p e
  let cutAll (l : List (Nat × List TlbEntry)) : List (Nat × List TlbEntry) := l.map fun q => (q.1, cut q.2)
  let core (c : Core) : Core := { c with tlb := cut c.tlb }
  { s with cores := modify (fun c => c.ref.site == some site) core s.cores }.modIsland site fun x =>
    { x with clusterTlb := cutAll x.clusterTlb, dieTlb := cutAll x.dieTlb }

/-- The translations that copies and transfers in flight of an island hold (R292). -/
def State.heldPages (s : State) (site : Nat) : List TlbEntry :=
  ((s.cores.filter fun c => c.ref.site == some site).flatMap fun c => c.chans.flatMap fun q => q.2.flatMap fun k => k.pages) ++
    (s.rops.filter fun o => o.site == site).flatMap fun o => o.pages

/-- Whether page-table writes at an island change the translation of a page that a copy or transfer in flight checked (R292). -/
def State.changesHeld (s t : State) (site : Nat) : Bool :=
  let look (s : State) (e : TlbEntry) : Option TlbEntry :=
    match s.island? site with
    | none => none
    | some x => match x.ctx? e.ctx with
      | none => none
      | some k => walk x.mem x.bytes k.root e.ctx (BitVec.ofNat 64 (e.page * if e.large then 2^29 else 2^16))
  (s.heldPages site).any fun e => look s e != look t e

/-- The host's service of a fault at an island: it writes page-table entries, which lie in its memory, and the steward
invalidates the context's translations; not while a copy or a transfer uses what they change (R224, R292). -/
def State.mapPages (s : State) (site : Nat) (ctx : Option Nat) (writes : List (Nat × Dword)) : Option State :=
  let put (s : State) (p : Nat × Dword) : State :=
    (s.performI site (wholeWrite (p.1 / 4) ⟨loWord p.2, false⟩)).performI site (wholeWrite (p.1 / 4 + 1) ⟨hiWord p.2, false⟩)
  let fits (p : Nat × Dword) : Bool := p.1 % 8 == 0 && (s.island? site).any fun x => p.1 + 8 ≤ x.bytes
  let t := writes.foldl put s
  if writes.all fits && !s.changesHeld t site then some (t.dropTlb site fun e => some e.ctx == ctx) else none

/-- PAGE_FAULT_SERVICED (R156, R224, R379): the agent, the Cellar access or the operation goes on. -/
def execPageFaultServiced (who : Faulter) (writes : List (Nat × Dword)) (s : State) : Res :=
  let no : Res := notEnabled "PAGE_FAULT_SERVICED"
  match who with
  | .agent ag => match s.gang? ag.core ag.slot with
    | none => no
    | some g => match s.mapPages (ag.core.site.getD 0) g.ctx writes, (s.park? ag).bind fun p => p.fault, g.cellarWait with
      | some s1, some _, _ => .next (s1.unpark ag)
      | some s1, none, some _ => .next (s1.modGang ag.core ag.slot fun g => { g with cellarWait := none })
      | _, _, _ => no
  | .op n => match s.rop? n with
    | none => no
    | some o => match s.mapPages o.target o.charge.ctx writes, o.serve with
      | some s1, some _ => .next (s1.modRop n fun o => { o with serve := none })
      | _, _ => no

/-- PAGE_FAULT_REFUSED (R156, R224, R379); a gang that the debugger holds traps after its resume (R354). -/
def execPageFaultRefused (who : Faulter) (s : State) : Res :=
  let no : Res := notEnabled "PAGE_FAULT_REFUSED"
  match who with
  | .agent ag => match s.gang? ag.core ag.slot, s.flow? ag with
    | some g, some f =>
      match f.run, g.cellarWait with
      | .parked ⟨va, _, lane, some c⟩, _ =>
        when g.dbgHeld.isNone "PAGE_FAULT_REFUSED" ((s.unpark ag).takeTrap ag.core ag.slot (g.act.fi ag.slice) c lane f.pc va)
      | _, some w =>
        let fail (g : Gang) : Gang :=
          { g with
            cellarWait := none
            pend := if g.pend.any fun p => p.cause.isCellar then g.pend else g.pend ++ [⟨w.cause, w.va⟩] }
        .next (s.modGang ag.core ag.slot fail)
      | _, none => no
    | _, _ => no
  | .op n => match (s.rop? n).bind fun o => o.serve with
    | some _ => .next (s.modRop n fun o => { o with serve := none, refused := true })
    | none => no

/-! ### Monitors (R202) -/

/-- Completes a waiting MWAIT with a status when a condition on its flow holds, after the refill of its frame (R155). -/
def State.mwaitEnd (s : State) (name : String) (ag : AgentRef) (status : Word) (c : Flow → Bool) : Res :=
  match s.flow? ag with
  | some f => match f.inMwait with
    | some (.mwait h d a) =>
      let bare := ((s.gang? ag.core ag.slot).map fun g => !g.act.missing.isEmpty).getD false
      when (s.free? ag && c f && !(bare && (s.core ag.core).queued ag)) name
        (if bare then s.refillFirst ag else s.mwaitDone ag h d a status)
    | _ => notEnabled name
  | none => notEnabled name

/-- MWAIT_WAKE (R202). -/
def execMwaitWake (ag : AgentRef) (s : State) : Res :=
  s.mwaitEnd "MWAIT_WAKE" ag 0 fun f => match f.mon with | some m => m.trigger | none => false

/-- MWAIT_TIMEOUT (R202): the timeout, or a spurious wake at any moment. -/
def execMwaitTimeout (ag : AgentRef) (s : State) : Res := s.mwaitEnd "MWAIT_TIMEOUT" ag 1 fun _ => true

/-! ### Replay (R340) -/

/-- The state of a gang at the restart of its region, whose frame is in the pool (R340). -/
def Gang.replayed (g : Gang) (r : Region) : Gang :=
  let back (f : Flow) : Flow :=
    { f with pc := r.entry, xm := r.xm, stack := r.stack, win := resetWin f.win, run := .ready, due := none }
  let rows (b : Body) : Body := r.rows.foldl (fun b p => b.setRow p.1 p.2) b
  { (g.modAct fun b => (rows ({ b with flows := b.flows.map back }.modFrame fun f => { f with qd0 := r.qd0, qd1 := r.qd1 }))).freeLatches
    with region := some { r with replays := r.replays + 1 } }

/-- REGION_REPLAY (R340), after the refill of granules that the Cellar has taken from the frame (R155). -/
def execRegionReplay (ag : AgentRef) (s : State) : Res :=
  match s.gang? ag.core ag.slot, s.flow? ag with
  | some g, some f => match g.region with
    | some r =>
      let settled := f.run == .replay && !(s.core ag.core).tops.any fun t => t.gang == g.uid
      if g.act.missing.isEmpty then when settled "REGION_REPLAY" (s.modGang ag.core ag.slot fun g => g.replayed r)
      else when (settled && !(s.core ag.core).queued ag) "REGION_REPLAY" (s.refillFirst ag)
    | none => notEnabled "REGION_REPLAY"
  | _, _ => notEnabled "REGION_REPLAY"

/-! ### Containment (R344 to R347) -/

/-- Updates every gang of every core that a test picks out. -/
def State.modGangs (s : State) (p : CoreRef → Gang → Bool) (f : Gang → Gang) : State :=
  { s with cores := s.cores.map fun c => { c with gangs := modify (p c.ref) f c.gangs } }

/-- MC_STATE_UE (R344). -/
def execMcStateUe (ag : AgentRef) (s : State) : Res :=
  when (s.gang? ag.core ag.slot).isSome "MC_STATE_UE" (s.modGang ag.core ag.slot fun g => g.addPending .mcStateUe 0)

/-- A flow that waits to issue a transfer, or for replies, waits no longer: a cause that is pending is taken before its
instruction (R345, R347). -/
def Flow.letGo (f : Flow) : Flow :=
  match f.run with
  | .wait .reply _ | .wait .copyEntry _ | .wait .remoteSlot _ => { f with run := .ready }
  | _ => f

/-- Ends every copy and remote operation of a context (R345, R347); no gang of it waits for one (assumption 44, DEDUCED). -/
def State.dropTransfers (s : State) (ctx : Nat) : State :=
  let chan (q : Nat × List Copy) : Nat × List Copy := (q.1, q.2.filter fun k => k.charge.ctx != some ctx)
  let go (g : Gang) : Gang := if g.ctx == some ctx then g.modAct fun b => { b with flows := b.flows.map Flow.letGo } else g
  let stays (c : Core) (a : AgentRef) : Bool := (c.gang? a.slot).any fun g => g.ctx != some ctx
  let core (c : Core) : Core :=
    { c with
      chans := c.chans.map chan
      gangs := c.gangs.map go
      copyWaits := c.copyWaits.filter fun p => stays c p.2
      remoteWaits := c.remoteWaits.filter (stays c) }
  { s with cores := s.cores.map core, rops := s.rops.filter fun o => o.charge.ctx != some ctx }

/-- The island-physical address of the leaf that maps an address (R221). -/
def leafAddr (m : Mem) (bytes root ctx : Nat) (va : Dword) : Option Nat :=
  let a := va.toNat % 2^55
  match tableOf bytes (m.dword (root * 65536 + a / 2^42 * 8)) with
  | none => none
  | some t2 =>
    let p2 := t2 * 65536 + a / 2^29 % 8192 * 8
    match leafOf bytes ctx (pageNo true va) true (m.dword p2) with
    | some _ => some p2
    | none => match tableOf bytes (m.dword p2) with
      | none => none
      | some t3 =>
        let p3 := t3 * 65536 + a / 2^16 % 8192 * 8
        (leafOf bytes ctx (pageNo false va) false (m.dword p3)).map fun _ => p3

/-- Sets Q in the leaf of an address and invalidates (R346). -/
def State.quarantine (s : State) (site : Nat) (k : CtxIsland) (va : Dword) : State :=
  match s.island? site with
  | none => s
  | some x => match leafAddr x.mem x.bytes k.root k.ctx va with
    | none => s
    | some p => (s.performI site (wholeWrite (p / 4) ⟨(x.mem.word (p / 4)).v ||| 0x40, false⟩)).dropTlb site
        fun e => e.ctx == k.ctx && e.page == pageNo e.large va

/-- Quarantines the pages that entries of a context's log name with kind 3, 4, 5 or 10 (R346). -/
def State.quarantineAll (s : State) (k : CtxIsland) : State :=
  let ch : Charge := ⟨some k.ctx, k.site, none, 0, 0, 0, false⟩
  let es := upTo k.polhead ++ (if k.fullSeen then [8191] else [])
  es.foldl (fun s e =>
    let at' (w : Nat) : Dword := k.pol + BitVec.ofNat 64 (32 * e + 8 * w)
    match s.polLoad ch .write (at' 1), s.polLoad ch .write (at' 2) with
    | some addr, some d => if [3, 4, 5, 10].contains (d.toNat % 16) then s.quarantine k.site k addr else s
    | _, _ => s) s

/-- Raises a pending cause in every gang of a context (R324). -/
def State.raiseIn (s : State) (ctx : Nat) (c : Cause) (tval : Dword) : State :=
  s.modGangs (fun _ g => g.ctx == some ctx) fun g => g.addPending c tval

/-- Removes a context's unstarted and saved workgroups from an island; their grids do not start them any more
(R345, R393). -/
def Island.dropWork (x : Island) (ctx : Nat) : Island :=
  let mine (n : Nat) : Bool := x.grids.any fun g => g.num == n && g.ctx == ctx
  let gone (n : Nat) : Nat :=
    ((x.cqueues.filter fun q => q.grid == n).map fun q => q.items.length).sum + (x.savedWgs.filter fun w => w.2.1 == n).length
  { x with
    cqueues := x.cqueues.filter fun q => !mine q.grid
    savedWgs := x.savedWgs.filter fun w => !mine w.2.1
    grids := x.grids.map fun g =>
      if g.ctx == ctx then { g with dropped := g.dropped || g.released.isNone, remaining := g.remaining - gone g.num } else g }

/-- Halts every launch queue of a context (R345). -/
def Context.haltQueues (k : Context) (code : BitVec 8) : Context :=
  let halt (q : LaunchQueue) : LaunchQueue := { q with qerr := code, qei := if q.qerr == 0 then q.qrd else q.qei }
  { k with queues := k.queues.map halt }

/-- Ends what a context has in flight and queued, halts its queues, unbinds its lists, quarantines its pages and reports it
(R345, steps 2 to 6). -/
def State.killWork (s : State) (ctx : Nat) : State :=
  let s1 := s.dropTransfers ctx
  let clear (k : CtxIsland) : CtxIsland := CtxIsland.curfew { k with lists := [], puts := [], takers := [] }
  let f (x : Island) : Island := (x.dropWork ctx).modCtx ctx clear
  let s2 : State := { s1 with islands := s1.islands.map f }
  let kill (k : Context) : Context := { k.haltQueues 7 with groups := [], killed := true }
  let s3 := s2.modContext ctx kill
  let ks := s3.islands.filterMap fun (x : Island) => x.ctx? ctx
  (ks.foldl State.quarantineAll s3).report (some ctx) (.contextKilled ctx)

/-- Kills an address space (R345). -/
def State.killContext (s : State) (ctx : Nat) : State := (s.raiseIn ctx .vacate 1).killWork ctx

/-- CONTEXT_KILL (R345). -/
def execContextKill (ctx : Nat) (s : State) : Res :=
  when (s.contexts.any fun k => k.num == ctx && !k.killed) "CONTEXT_KILL" (s.killContext ctx)

/-- The contexts of the partition of an interface. -/
def State.partition (s : State) (iface : Nat) : List Nat := (s.contexts.filter fun k => k.iface == iface).map fun k => k.num

/-- WATCHDOG (R348): once a grid. -/
def execWatchdog (site grid : Nat) (s : State) : Res :=
  match s.island? site with
  | none => notEnabled "WATCHDOG"
  | some x => match x.grid? grid with
    | none => notEnabled "WATCHDOG"
    | some g => match g.released, x.ctx? g.ctx with
      | some t, some k =>
        let age := x.clock - t
        let hit (r : CoreRef) (y : Gang) : Bool :=
          r.site == some site && y.ctx == some g.ctx && ((s.core r).wg? y.wg).any fun w => w.grid == some grid
        when (k.watchdog != 0 && k.watchdog * 2 ^ 20 < age.toNat && !g.watched && !g.complete) "WATCHDOG"
          ((s.modGangs hit fun y => y.addPending .watchdog age).modIsland site fun x =>
            x.modGrid grid fun g => { g with watched := true })
      | _, _ => notEnabled "WATCHDOG"

/-! ### The debugger, core events, aging (R316, R330, R354) -/

/-- The breakpoint at a body's next fetches does not fire (R351). -/
def Body.passBps (b : Body) : Body := { b with flows := b.flows.map fun f => { f with passBp := true } }

/-- DEBUG_RESUME (R177, R351, R354): a held gang goes on at sy.epc, as TRET would, or a stopped core goes on. -/
def execDebugResume (ag : AgentRef) (s : State) : Res :=
  match (s.gang? ag.core ag.slot).bind fun g => g.dbgHeld with
  | some fi =>
    let go (g : Gang) : Gang :=
      { g.modAct (fun b => (b.modFlow fi fun f => f.resumeAt g.epc).passBps) with dbgHeld := none }
    .next (s.modGang ag.core ag.slot go)
  | none => when (s.core ag.core).stopped "DEBUG_RESUME" (s.modCore ag.core fun c =>
      { c with stopped := false, gangs := c.gangs.map fun g => g.modAct Body.passBps })

/-- DEBUGGER_CORE_STOP (R177). -/
def execDebuggerCoreStop (core : CoreRef) (s : State) : Res :=
  when ((s.core? core).isSome && !(s.core core).stopped) "DEBUGGER_CORE_STOP" (s.modCore core fun c => { c with stopped := true })

/-- WFI_EVENT (R330): every gang of the core that waits in WFI completes it. -/
def execWfiEvent (core : CoreRef) (s : State) : Res :=
  let ags := (s.core core).gangs.flatMap fun g => (upTo g.act.flows.length).map fun k => (⟨core, g.slot, k⟩ : AgentRef)
  let go (s : State) (ag : AgentRef) : State :=
    match s.wake "WFI_EVENT" ag fun w i => match w, i with
      | .wfi, .wfi _ => some fun s => issue i s fun x => x.check [] (x.done x.s)
      | _, _ => none with
    | .next t => t
    | _ => s
  when (s.core? core).isSome "WFI_EVENT" (ags.foldl go s)

/-- CORE_RESET (R18, R330): a halted steward or reeve core starts its first gang again (assumption 85, DEDUCED). -/
def execCoreReset (core : CoreRef) (s : State) : Res :=
  let u := s.fresh
  let entry := match core.site.bind s.island? with | some x => x.fwEntry | none => 0
  when ((s.core core).halted && !core.isCompute) "CORE_RESET" (u.2.modCore core fun _ => .booted core u.1 entry)

/-- AGED_PROMOTION (R316). -/
def execAgedPromotion (ag : AgentRef) (s : State) : Res :=
  match s.flow? ag with
  | some f => when (Config.agedCycles ≤ f.readyFor && !f.aged && f.run == .ready) "AGED_PROMOTION" (s.modFlow ag fun f => { f with aged := true })
  | none => notEnabled "AGED_PROMOTION"

end Sys2Proof.Machine
end

