-- ==== Sys2Proof/Machine/EvMem.lean ====
section
/-! DEFINITION. Steps of the memory levels, the copy channels, the compaction unit, the matrix array and the
dispatcher's carve (spec 09, 11, 12, 13). -/

namespace Sys2Proof.Machine

/-! ### Memory levels (R211, R252, R334) -/

/-- L1_WRITE_ONWARD (R252): the dirty data of one sector. -/
def execL1WriteOnward (core : CoreRef) (sector : Nat) (s : State) : Res :=
  when ((s.core core).l1.any fun t => t.idx == sector && !t.dirtyWrites.isEmpty) "L1_WRITE_ONWARD"
    (s.flushL1 core fun t => t.idx == sector)

/-- L2_WRITE_TO_L3 (R252): the oldest write of a die is performed at I, with those that go on together with it (R232, R233). -/
def execL2WriteToL3 (site die : Nat) (s : State) : Res :=
  let q := ((s.island? site).map fun x => x.queue die).getD []
  when (!q.isEmpty) "L2_WRITE_TO_L3" (s.drainDie site die (withTied 1 q))

/-- The context whose key slot owns a word of an island's memory (R334, R405). -/
def Island.owner (x : Island) (w : Nat) : Option CtxIsland :=
  x.ctxs.find? fun k => k.frames.any fun p => p.1 ≤ w / 16384 && w / 16384 < p.1 + p.2

/-- Whether a context runs with poison mode on (R22). -/
def State.psnOf (s : State) (ctx : Option Nat) : Bool := ((ctx.bind s.context?).map fun k => k.psn).getD false

/-- SCRUB_UE (R334, R349): kind 5 in a line that L2 or L3 holds dirty, else kind 3; charged to the owner of the
page, or to the steward when no context owns it (assumption 57, DEDUCED). -/
def execScrubUe (site address : Nat) (s : State) : Res :=
  match s.island? site with
  | none => notEnabled "SCRUB_UE"
  | some x =>
    let w := address / 4
    let ctx := (x.owner w).map fun k => k.ctx
    let ch : Charge := ⟨ctx, site, if ctx.isNone then some (.steward site) else none, 0, 0, 0, s.psnOf ctx⟩
    let held (q : Nat × List DWrite) : Bool := q.2.any fun d => d.word == w
    let dirty := x.l2.any held
    let line (q : Nat × List DWrite) : Bool := q.2.any fun d => d.word / 32 == w / 32
    let kind5 := dirty || x.l2.any line || x.l3.contains (w / 32)
    let o := s.newOrigin ch (if kind5 then 5 else 3) (BitVec.ofNat 64 (4 * w))
    let bad : DWrite := wholeWrite w ⟨o.1, true⟩
    let spoil (y : Island) : Island :=
      if dirty then { y with l2 := y.l2.map fun q => (q.1, modify (fun d => d.word == w) (fun d => { bad with tie := d.tie }) q.2) }
      else match y.l2.find? line with
        | some q => { y with l2 := setAt q.1 (q.2 ++ [bad]) y.l2 }
        | none => { y with mem := y.mem.write bad }
    when (4 * w + 4 ≤ x.bytes) "SCRUB_UE" (o.2.modIsland site spoil)

/-- Whether a translation covers an address of a context. -/
def TlbEntry.covers (e : TlbEntry) (ctx : Nat) (va : Dword) : Bool := e.ctx == ctx && e.page == pageNo e.large va

/-- TLB_INVALIDATE (R223, R292): not while a copy or a transfer that checked the page is in flight. -/
def execTlbInvalidate (site ctx : Nat) (address : Dword) (s : State) : Res :=
  when ((s.island? site).isSome && !(s.heldPages site).any fun e => e.covers ctx address)
    "TLB_INVALIDATE" (s.dropTlb site fun e => e.covers ctx address)

/-! ### Copies (R290, R291, R294, R296) -/

/-- The meaning of an instruction that waits for channel entries. -/
def copyAgain : Instr → Option (State → Res)
  | .cpy h dsp ssp ch d a b => some (execCpy h dsp ssp ch d a b)
  | .cpys h dsp ssp ch d a b c => some (execCpys h dsp ssp ch d a b c)
  | _ => none

/-- COPY_ENTRY_GRANT (R290): the request that has waited longest for the channel. -/
def execCopyEntryGrant (core : CoreRef) (ch : Nat) (s : State) : Res :=
  match (s.core core).copyWaits.find? fun p => p.1 == ch with
  | none => notEnabled "COPY_ENTRY_GRANT"
  | some p => s.wake "COPY_ENTRY_GRANT" p.2 fun w i =>
      match w with
      | .copyEntry => copyAgain i
      | _ => none

/-- Whether a copy of a number holds a word back: an earlier MMQ of its gang will read it, and its pass has not started (R270). -/
def Core.holdsCopy (c : Core) (k : Copy) (a : Dword) : Bool := c.holdsWrite k.gang k.uid k.dsp a.toNat 4

/-- The source and destination addresses of word n of a copy (R288). -/
def Copy.wordAddr (k : Copy) (n : Nat) : Dword × Dword :=
  let off := BitVec.ofNat 64 (4 * (n % k.segWords))
  let seg := BitVec.ofNat 64 (n / k.segWords)
  (wrapAddr k.ssp (k.src + seg * k.ss + off), wrapAddr k.dsp (k.dst + seg * k.ds + off))

/-- The control-window offset of a word that an M-level copy names (R217). -/
def Copy.winOff (k : Copy) (sp : Space) (a : Dword) : Option Nat :=
  if sp == .global && k.charge.ctx.isNone && inWindow a.toNat then some (a.toNat - Config.windowBase) else none

/-- Performs the next word of a copy (R291); a word of the control window as a 4-byte access would, without a poison bit
(assumption 8, DESIGN CHOICE). -/
def State.copyWord (s : State) (r : CoreRef) (k : Copy) : State :=
  let a := k.wordAddr k.done
  let v := match takePhys (fun p => p == .copyUe) s.phys with
    | some (_, rest) => let o := { s with phys := rest }.newOrigin k.charge 9 a.2; ((⟨o.1, true⟩ : LV), o.2)
    | none => match k.winOff k.ssp a.1 with
      | some off => let q := s.winFetch r off 4; (⟨loWord q.1, false⟩, q.2)
      | none => s.xferRead r k.wg k.charge k.ssp k.pages a.1
  match k.winOff k.dsp a.2 with
  | some off => v.2.winWrite r off 4 v.1.v.toNat
  | none => v.2.xferWrite r k.wg k.charge k.dsp k.pages a.2 v.1

/-- COPY_PERFORM (R286, R291): the next word of the copy at the head of the channel. Its last word frees the
entry (assumption 39, DESIGN CHOICE). -/
def execCopyPerform (core : CoreRef) (ch : Nat) (s : State) : Res :=
  match (s.core core).chan ch with
  | [] => notEnabled "COPY_PERFORM"
  | k :: rest =>
    let next : List Copy := if k.done + 1 < k.segWords * k.count then { k with done := k.done + 1 } :: rest else rest
    let wrote (w : Wg) : Wg := { w with chanW := modNth (fun v => v + 4) w.chanW ch }
    when (!(s.core core).holdsCopy k (k.wordAddr k.done).2) "COPY_PERFORM"
      (((s.copyWord core k).modWg core k.wg wrote).modCore core fun c => { c with chans := setAt ch next c.chans })

/-- BWAIT_WAKE (R296). -/
def execBwaitWake (ag : AgentRef) (s : State) : Res :=
  s.wake "BWAIT_WAKE" ag fun w i => match w, i with
    | .bwait, .bwait h a => some (execBwait h a)
    | _, _ => none

/-- CPWAIT_WAKE (R294). -/
def execCpwaitWake (ag : AgentRef) (s : State) : Res :=
  s.wake "CPWAIT_WAKE" ag fun w i => match w, i with
    | .cpwait, .cpwait h a b => some (execCpwait h a b)
    | _, _ => none

/-! ### Work lists (R299, R300) -/

/-- WLPUT_APPEND (R299, R302): a run joins its list and leaves FLT. -/
def execWlputAppend (site ctx index : Nat) (s : State) : Res :=
  match (s.ctxAt? site ctx).bind fun k => k.puts[index]? with
  | none => notEnabled "WLPUT_APPEND"
  | some p =>
    let add (k : CtxIsland) : CtxIsland :=
      ({ k with puts := k.puts.eraseIdx index }.setItems p.list (k.items p.list ++ p.items)).curfew
    .next (s.modCtxAt site ctx add)

/-- WLTAKE_WAKE (R300). -/
def execWltakeWake (ag : AgentRef) (s : State) : Res :=
  s.wake "WLTAKE_WAKE" ag fun w i => match w, i with
    | .wltake, .wltake h d a => some (execWltake h d a)
    | _, _ => none

/-! ### The matrix array (R270, R272, R277, R280, R283, R318) -/

/-- MATRIX_PASS_CLOSE (R272): 4 clocks after its first quarter arrived. -/
def execMatrixPassClose (core : CoreRef) (s : State) : Res :=
  let c := s.core core
  let due (p : Pass) : Bool := match p.st with
    | .gathering t => t + Config.passGather ≤ c.cycle
    | _ => false
  when (c.passes.any due) "MATRIX_PASS_CLOSE"
    (s.modCore core fun c => { c with passes := modify due (fun p => { p with st := .closed }) c.passes })

/-- Agents held by R270 try again. -/
def Flow.unhold (f : Flow) : Flow :=
  match f.run with
  | .wait .storeHold _ => { f with run := .ready }
  | _ => f

/-- MATRIX_PASS_START (R257, R270, R272): the oldest closed pass reads B once, for all its quarters. A frozen array
starts only what the freeze has read (R356). An error of a word that it reads is charged to the first of its operations to have
been issued (assumption 120, DESIGN CHOICE). -/
def execMatrixPassStart (core : CoreRef) (s : State) : Res :=
  let c := s.core core
  let busy := c.passes.any fun p => match p.st with | .running _ => true | _ => false
  match c.passes.find? fun p => p.st == .closed with
  | none => notEnabled "MATRIX_PASS_START"
  | some p => match c.tops.find? (fun t => p.ops.contains t.id && t.unread) <|> c.tops.find? fun t => p.ops.contains t.id with
    | none => .next (s.modCore core fun c => { c with passes := c.passes.filter fun q => q.ops != p.ops })
    | some op =>
      if busy || (c.frozen && c.tops.any fun t => p.ops.contains t.id && t.unread) || !s.sluiceOpen core then notEnabled "MATRIX_PASS_START"
      else
        let b := match op.b with
          | some b => (b, s)
          | none => s.readB core op
        let give (t : TileOp) : TileOp := if p.ops.contains t.id && t.b.isNone then { t with b := some b.1 } else t
        let run (q : Pass) : Pass := { q with st := .running c.cycle }
        let wake (g : Gang) : Gang := g.modAct fun y => { y with flows := y.flows.map Flow.unhold }
        let go (k : Core) : Core :=
          { k with
            passes := modify (fun q => q.ops == p.ops) run k.passes
            tops := k.tops.map give
            idleStart := if c.coldStart then some c.cycle else k.idleStart
            gangs := k.gangs.map wake }
        .next (b.2.modCore core go)

/-- Whether a residue failure replays a gang: the region that the operation was issued in has stayed open and has a replay
left (R283, R339, R341) (assumption 61, DEDUCED). -/
def Gang.replays (g : Gang) (op : TileOp) : Bool :=
  match g.region with
  | some r => op.region == some r.id && r.replays < 3
  | none => false

/-- Charges a residue failure to the gang of an operation (R283). -/
def State.residue (s : State) (r : CoreRef) (op : TileOp) : State :=
  match (s.core r).gangs.find? fun g => g.uid == op.gang with
  | none => s
  | some g =>
    if g.replays op then s.startReplay r g.slot
    else s.modGang r g.slot fun g => g.addPending .mcArrayResidue op.charge.pc

/-- MATRIX_PASS_END (R271, R272, R283). -/
def execMatrixPassEnd (core : CoreRef) (s : State) : Res :=
  let c := s.core core
  let due (p : Pass) : Bool := match p.st with
    | .running t => t + Config.passCycles ≤ c.cycle
    | _ => false
  match c.passes.find? due with
  | none => notEnabled "MATRIX_PASS_END"
  | some p =>
    let mine (t : TileOp) : Bool := p.ops.contains t.id
    let clear (k : Core) : Core := { k with passes := k.passes.filter fun q => q.ops != p.ops, passEnd := some c.cycle }
    match takePhys (fun e => e == .residue) s.phys with
    | some (_, rest) =>
      let s1 := { s with phys := rest }.modCore core fun k => { clear k with tops := k.tops.filter fun t => !mine t }
      .next (((c.tops.filter mine).foldl (fun s t => s.residue core t) s1).sweepTops core)
    | none =>
      let settle (t : TileOp) : TileOp := if mine t then { t with done := true } else t
      .next ((s.modCore core fun k => { clear k with tops := k.tops.map settle }).sweepTops core)

/-- MXWAIT_WAKE (R280). -/
def execMxwaitWake (ag : AgentRef) (s : State) : Res :=
  s.wake "MXWAIT_WAKE" ag fun w i => match w, i with
    | .mxwait, .mxwait h => some (execMxwait h)
    | _, _ => none

/-- ACCRD_WAKE (R277). -/
def execAccrdWake (ag : AgentRef) (s : State) : Res :=
  s.wake "ACCRD_WAKE" ag fun w i => match w, i with
    | .accrd, .accrd h m d a => some (execAccrd h m d a)
    | _, _ => none

/-! ### The carve (R213, R214, R313) -/

/-- Ways of scratch that hold a number of bytes. -/
def carveFor (bytes : Nat) : Nat := (bytes + 131071) / 131072

/-- Bytes of scratch of a core. -/
def Core.scratchBytes (c : Core) : Nat := 131072 * c.carve

/-- The grid and the carve that the dispatcher wants for a core: the lowest core of its cluster whose carve is too
small for a grid that has an unstarted workgroup there, when no core of the cluster had a carve that holds it, one core
at a time (R313) (assumption 59, DEDUCED). -/
def State.wantedCarve (s : State) (r : CoreRef) : Option (Nat × Nat) :=
  match r with
  | .compute site die pos =>
    match s.island? site with
    | none => none
    | some x =>
      let cores := (upTo 8).map fun k => CoreRef.compute site die (pos / 8 * 8 + k)
      let small (bytes : Nat) (q : CoreRef) : Bool := (s.core q).scratchBytes < bytes
      if cores.any fun q => (s.core q).carveWant.isSome then none
      else x.cqueues.findSome? fun q =>
        match x.grid? q.grid with
        | none => none
        | some g =>
          let bytes := g.desc.localBytes
          if q.cluster == r.cluster && !q.items.isEmpty && (q.enlarge || cores.all (small bytes)) &&
              cores.find? (small bytes) == some r then
            some (q.grid, carveFor bytes)
          else none
  | _ => none

/-- CARVE_CHANGE (R214, R313): stops admission when the dispatcher wants a larger carve; at quiescence writes L1 back,
discards it, sets the carve and resumes admission (assumption 58, DEDUCED). -/
def execCarveChange (core : CoreRef) (s : State) : Res :=
  match (s.core core).carveWant with
  | some k =>
    let set (c : Core) : Core := { c with carve := k, carveWant := none, admission := !c.vacated }
    when (s.core core).wgs.isEmpty "CARVE_CHANGE"
      (((s.flushL1 core fun _ => true).dropL1 core fun _ => true).modCore core set)
  | none => match s.wantedCarve core with
    | some (n, k) =>
      let mine (q : ClusterQueue) : Bool := q.cluster == core.cluster && q.grid == n
      let mark (x : Island) : Island := { x with cqueues := modify mine (fun q => { q with enlarge := true }) x.cqueues }
      .next ((s.modCore core fun c => { c with carveWant := some k, admission := false }).modIsland (core.site.getD 0) mark)
    | none => notEnabled "CARVE_CHANGE"

end Sys2Proof.Machine
end

