-- ==== Sys2Proof/Machine/Panel.lean ====
section
/-! DEFINITION. How a map's update is published, bindings and holes, and how operations held for want of a path go on (spec 17,
R371, R375, R390). -/

namespace Sys2Proof.Machine

/-- Performs a whole doubleword at I. -/
def State.performDword (s : State) (site a : Nat) (x : Dword) : State :=
  (s.performI site (wholeWrite (a / 4) ⟨loWord x, false⟩)).performI site (wholeWrite (a / 4 + 1) ⟨hiWord x, false⟩)

/-- Operations of an island that are held choose a path again (R371). -/
def State.reroute (s : State) (site : Nat) : State :=
  let again (o : Rop) : Rop :=
    if o.st == .held && o.site == site then
      match s.path0 site o.target with
      | some p => { o with st := .flying, path := p }
      | none => o
    else o
  { s with rops := s.rops.map again }

/-- Whether a reeve presides that can act. -/
def State.presided (s : State) : Bool := s.reeves.any fun r => r.presiding && !r.failed

/-- The next step of the update of a map: GEN odd, then the doublewords that change, one by one, then GEN even; then what is
still to be written (R375). An update that changed a plot's PUP, OUP or STATE has held operations choose a path again (R371). -/
def State.publishStep (s : State) (x : Island) (k : CtxIsland) : List MapJob → State × List MapJob
  | [] => (s, [])
  | j :: rest =>
    let base := k.mapFrame * 65536
    let gen := x.mem.dword base
    if !j.odd then
      let ws := j.words.filter fun p => x.mem.dword (base + p.1) != p.2
      (s.performDword x.site base (gen + 1), ⟨ws, true, ws.any fun p => 0x40 ≤ p.1 && p.1 < 0x340⟩ :: rest)
    else match j.words with
      | w :: ws => (s.performDword x.site (base + w.1) w.2, { j with words := ws } :: rest)
      | [] =>
        let t := s.performDword x.site base (gen + 1)
        (if j.paths then t.reroute x.site else t, rest)

/-- Writes a map for the first time, GEN even. -/
def State.initMap (s : State) (site ctx : Nat) : State :=
  match s.ctxAt? site ctx, s.island? site with
  | some k, some x =>
    let base := k.mapFrame * 65536
    let gen := x.mem.dword base
    ((s.mapWords site ctx).foldl (fun s p => s.performDword site (base + p.1) p.2) s).performDword site base
      (gen + (gen &&& 1))
  | _, _ => s

/-- Whether every dependence of a grid holds now (R310). -/
def Island.depsHold (x : Island) (g : Grid) : Bool :=
  match x.ctx? g.ctx with
  | some k => g.deps.all fun d => d.2.toNat ≤ (k.counter d.1).toNat
  | none => false

/-- Notes the grids whose dependences hold at this moment (R310). -/
def Island.noteDeps (x : Island) : Island :=
  { x with grids := x.grids.map fun g => { g with met := g.met || x.depsHold g } }

/-- Adds to a notify counter of a context on an island (R387), which grids may depend on (R310). -/
def State.addCounter (s : State) (site ctx n : Nat) (v : Dword) : State :=
  s.modIsland site fun x => (x.modCtx ctx fun k => k.addCounter n v).noteDeps

/-- Marks or clears a hole in every fabric interface, for the contexts a test picks out (R390, R393, R394). -/
def State.setHole (s : State) (site : Nat) (p : Nat → Bool) (v : Bool) : State :=
  let bit := BitVec.ofNat 48 (2 ^ site)
  let set (k : CtxIsland) : CtxIsland :=
    if p k.ctx then { k with holes := if v then k.holes ||| bit else k.holes &&& ~~~bit } else k
  let f (x : Island) : Island := { x with ctxs := x.ctxs.map set }
  { s with islands := s.islands.map f }

/-! ### Links and flits (R369, R407) -/

/-- The lane over which a hop through an off-panel port goes: its lower one, when that is up (assumption 84, DEDUCED). -/
def State.laneOf (s : State) (site port : Nat) : Nat :=
  let n := 2 * (port - 8)
  if (s.island? site).any fun x => (x.lane n).up then n else n + 1

/-- The directions that a path takes, to the target and back. -/
def State.wayTo (s : State) (path : List (Nat × Nat)) : List LinkDir :=
  path.map fun h => ⟨h.1, if h.2 == 8 || h.2 == 9 then 8 + s.laneOf h.1 h.2 else h.2⟩
def wayBack (path : List (Nat × Nat)) : List LinkDir :=
  path.filterMap fun h => (hopTo h.1 h.2).map fun t => ⟨t, farPort h.2⟩

/-- Whether every direction of a way may carry another flit under its key (R407). -/
def State.carries (s : State) (way : List LinkDir) : Bool :=
  way.all fun d => (s.link? d).all fun l => l.counter.toNat < Config.keyFlits

/-- A flit over every direction of a way: its counter advances (R407) (assumption 71, DESIGN CHOICE). -/
def State.flit (s : State) (way : List LinkDir) : State :=
  way.foldl (fun s d => match s.link? d with
    | some l => s.setLink { l with counter := l.counter + 1 }
    | none => s) s

/-! ### Completion and failure of remote operations (R381, R383, R384) -/

/-- The meaning of an instruction that waits for replies. -/
def replyAgain : Instr → Option (State → Res)
  | .ratom h op nt ret d a b c => some (execRatom h op nt ret d a b c)
  | .rcas h w nt ret d a b c => some (execRcas h w nt ret d a b c)
  | _ => none

/-- An agent goes on when every reply of its remote atomic has arrived (R381). -/
def State.resumed (s : State) (o : Rop) : Option State :=
  if s.rops.any fun x => x.ag == o.ag && x.gang == o.gang && x.kind.atomic && x.st != .answered then none
  else match s.wake "REMOTE_REPLY_ARRIVAL" o.ag fun w i => match w with
      | .reply => replyAgain i
      | _ => none with
    | .next t => some t
    | _ => none

/-- The answer of a remote atomic has arrived: when it was the last one of its agent, the instruction completes. The
answer to a gang that has gone is dropped (R381). -/
def State.answer (s : State) (o : Rop) (data : Lanes) : State :=
  if !((s.core o.ag.core).gangs.any fun g => g.uid == o.gang) then s.dropRop o.id
  else
    let s1 := s.modRop o.id fun x => { x with st := .answered, data := data }
    (s1.resumed o).getD s1

/-- FAILS AN OPERATION AFTER ITS ISSUE (R383, R384). -/
def State.failRop (s : State) (o : Rop) (cause : Cause) : State :=
  let tval : Dword := if cause == .remoteHole then o.remote else o.desc
  let mark (g : Gang) : Gang :=
    if g.uid != o.gang then g
    else
      { g with
        failMask := g.failMask ||| BitVec.ofNat 48 (2 ^ o.target)
        failure := if o.nt || g.failure.isSome then g.failure else some ⟨cause, tval, o.batch⟩ }
  let s1 := s.modCore o.ag.core fun c => { c with gangs := c.gangs.map mark }
  if o.kind.atomic then s1.answer o (o.operand.map fun _ => ⟨0, false⟩) else s1.dropRop o.id

end Sys2Proof.Machine
end

