-- ==== Sys2Proof/Machine/EvRmt.lean ====
section
/-! DEFINITION. Steps of remote operations and of the collective groups (spec 17). -/

namespace Sys2Proof.Machine

/-- A step of an operation, when it exists and a condition holds. -/
def State.ropStep (s : State) (name : String) (id : Nat) (c : Rop → Bool) (f : Rop → Res) : Res :=
  match s.rop? id with
  | some o => if c o then f o else notEnabled name
  | none => notEnabled name

/-- A step of an operation in which a flit crosses its path, to the target or back (R407). -/
def State.ropFlit (s : State) (name : String) (id : Nat) (back : Bool) (c : Rop → Bool) (f : Rop → Res) : Res :=
  let way (o : Rop) : List LinkDir := if back then wayBack o.path else s.wayTo o.path
  s.ropStep name id (fun o => c o && s.carries (way o)) fun o => match f o with
    | .next t => .next (t.flit (way o))
    | r => r

/-- The meaning of an instruction that waits for room among its core's operations (R379). -/
def slotAgain : Instr → Option (State → Res)
  | .put h sp nt d a b c => some (execPut h sp nt d a b c)
  | .putn h sp nt d a b c => some (execPutn h sp nt d a b c)
  | .get h sp nt d a b c => some (execGet h sp nt d a b c)
  | .ratom h op nt ret d a b c => some (execRatom h op nt ret d a b c)
  | .rcas h w nt ret d a b c => some (execRcas h w nt ret d a b c)
  | .notify h nt d a => some (execNotify h nt d a)
  | _ => none

/-- REMOTE_SLOT_GRANT (R379): the first waiter for which there is room. -/
def execRemoteSlotGrant (core : CoreRef) (s : State) : Res :=
  let try' (ag : AgentRef) : Option State :=
    match s.wake "REMOTE_SLOT_GRANT" ag fun w i => match w with
        | .remoteSlot => slotAgain i
        | _ => none with
    | .next t => some t
    | _ => none
  match (s.core core).remoteWaits.findSome? try' with
  | some t => .next t
  | none => notEnabled "REMOTE_SLOT_GRANT"

/-- Where the target side reads a word: at its island's I (R380). -/
def State.targetRead (s : State) (o : Rop) (pa : Nat) (addr : Dword) : LV × State :=
  let r := s.readUe ⟨.steward o.target, 0, o.charge.ctx⟩ (interfaceCharge o.charge.ctx o.target o.charge.psn)
    (.global .i (pa / 4)) addr (o.kind == .get) []
  (r.1, r.2.1)

/-- The words that an operation has performed at its target. -/
def Rop.progress (o : Rop) : Nat := if o.kind == .get then o.data.length else o.done

/-- The translation of an operation's next word at its target. -/
def State.nextTr (s : State) (o : Rop) : Tr :=
  s.targetTr o o.kind.targetAccess (o.remote + BitVec.ofNat 64 (4 * o.progress))

/-- A step of an operation at its target, at the physical address of its next word. A fault there goes to the host and waits
for its service (R379). -/
def State.atTarget (s : State) (name : String) (o : Rop) (f : Nat → Res) : Res :=
  match s.nextTr o with
  | .ok pa _ => f pa
  | .denied c =>
    let wait := s.modRop o.id fun x => { x with serve := some c }
    .next (wait.report o.charge.ctx (.fault (o.remote + BitVec.ofNat 64 (4 * o.progress)) c))
  | _ => notEnabled name

/-- REMOTE_WRITE_ARRIVAL (R380): the next word of a PUT or PUTN is read at the sender and performed at the target's
I (assumption 39, DESIGN CHOICE). -/
def execRemoteWriteArrival (op : Nat) (s : State) : Res :=
  s.ropFlit "REMOTE_WRITE_ARRIVAL" op false (fun o => (o.kind == .put || o.kind == .putn) && s.reaches o) fun o =>
    s.atTarget "REMOTE_WRITE_ARRIVAL" o fun pa =>
      let off := BitVec.ofNat 64 (4 * o.done)
      let r := s.xferRead o.ag.core o.wg o.charge o.sp o.pages (wrapAddr o.sp (o.localAddr + off))
      let a := r.2.arrive o o.target o.site o.done (o.remote + off) r.1
      let s1 := a.2.performI o.target (wholeWrite (pa / 4) a.1)
      if 4 * (o.done + 1) < o.bytes then .next (s1.modRop op fun x => { x with done := x.done + 1 })
      else if o.kind == .put then .next (s1.dropRop op)
      else .next (s1.modRop op fun x => { x with done := x.done + 1, st := .incrementing })

/-- PUTN_INCREMENT (R380): its counter, after all of its words. -/
def execPutnIncrement (op : Nat) (s : State) : Res :=
  s.ropFlit "PUTN_INCREMENT" op false (fun o => o.st == .incrementing && !s.ropLost o && s.counted o) fun o =>
    .next ((s.addCounter o.target (o.charge.ctx.getD 0) (descCtr o.desc) 1).dropRop op)

/-- GET_TARGET_READ (R380): the target reads the next word whole at its I. -/
def execGetTargetRead (op : Nat) (s : State) : Res :=
  s.ropFlit "GET_TARGET_READ" op false (fun o => o.kind == .get && s.reaches o) fun o =>
    let k := o.data.length
    s.atTarget "GET_TARGET_READ" o fun pa =>
      let r := s.targetRead o pa (o.remote + BitVec.ofNat 64 (4 * k))
      .next (r.2.modRop op fun x =>
        { x with data := x.data ++ [r.1], st := if 4 * (k + 1) < x.bytes then x.st else .returning })

/-- Whether an earlier MMQ of the gang, whose pass has not started, will read the word that a GET writes next (R270, R380). -/
def State.holdsGet (s : State) (o : Rop) : Bool :=
  (s.core o.ag.core).holdsWrite o.gang o.id o.sp (wrapAddr o.sp (o.localAddr + BitVec.ofNat 64 (4 * o.done))).toNat 4

/-- GET_DATA_ARRIVAL (R380): the next word that has been read is written to its local destination. -/
def execGetDataArrival (op : Nat) (s : State) : Res :=
  s.ropFlit "GET_DATA_ARRIVAL" op true (fun o => o.kind == .get && o.done < o.data.length && !s.ropLost o && !s.holdsGet o) fun o =>
    let la := wrapAddr o.sp (o.localAddr + BitVec.ofNat 64 (4 * o.done))
    let a := s.arrive o o.site o.target o.done la (laneAt o.data o.done)
    let s1 := a.2.xferWrite o.ag.core o.wg o.charge o.sp o.pages la a.1
    .next (if 4 * (o.done + 1) < o.bytes then s1.modRop op fun x => { x with done := x.done + 1 } else s1.dropRop op)

/-- Words that arrive at an island one after another. -/
def State.arriveAll (s : State) (o : Rop) (site frm k0 : Nat) (addr : Dword) (ws : Lanes) : Lanes × State :=
  ws.foldl (fun (p : Lanes × State) x =>
    let a := p.2.arrive o site frm (k0 + p.1.length) addr x
    (p.1 ++ [a.1], a.2)) ([], s)

/-- The words that an atomic writes, if any. -/
def State.ropNew (s : State) (o : Rop) (old v : List LV) : Option (List LV) × State :=
  match o.kind with
  | .ratom op =>
    let r := s.atomNew (interfaceCharge o.charge.ctx o.target o.charge.psn) o.remote op old v
    (some r.1, r.2)
  | .rcas w => (casNew old (v.take w.regs) (v.drop w.regs), s)
  | _ => (none, s)

/-- Whether an earlier lane of the same instruction names the same word (R381). -/
def State.laneFirst (s : State) (o : Rop) : Bool :=
  !s.rops.any fun p => p.ag == o.ag && p.gang == o.gang && p.lane < o.lane && p.kind.atomic && p.sameSite o &&
    p.remote.toNat < o.remote.toNat + o.bytes && o.remote.toNat < p.remote.toNat + p.bytes &&
    (p.st == .held || p.st == .flying)

/-- REMOTE_ATOMIC_AT_TARGET (R381): one lane, as one step. -/
def execRemoteAtomicAtTarget (op : Nat) (s : State) : Res :=
  s.ropFlit "REMOTE_ATOMIC_AT_TARGET" op false (fun o => o.kind.atomic && s.reaches o && s.laneFirst o) fun o =>
    s.atTarget "REMOTE_ATOMIC_AT_TARGET" o fun pa =>
      let v := s.arriveAll o o.target o.site 0 o.remote o.operand
      let old := (upTo (o.bytes / 4)).foldl (fun (p : List LV × State) k =>
        let r := p.2.targetRead o (pa + 4 * k) (o.remote + BitVec.ofNat 64 (4 * k))
        (p.1 ++ [r.1], r.2)) ([], v.2)
      let n := old.2.ropNew o old.1 v.1
      let put (ws : Lanes) (s : State) (k : Nat) : State := s.performI o.target (wholeWrite (pa / 4 + k) (laneAt ws k))
      let s1 := match n.1 with
        | some ws => (upTo ws.length).foldl (put ws) n.2
        | none => n.2
      .next (s1.modRop op fun x => { x with data := old.1, st := .returning })

/-- REMOTE_REPLY_ARRIVAL (R381): the old value, with a new origin when it is poisoned and is delivered into registers; or an
agent whose replies have all arrived and that could not go on goes on. -/
def execRemoteReplyArrival (op : Nat) (s : State) : Res :=
  match ((s.rop? op).filter fun o => o.st == .answered).bind s.resumed with
  | some t => .next t
  | none => s.ropFlit "REMOTE_REPLY_ARRIVAL" op true (fun o => o.kind.atomic && o.st == .returning && !s.ropLost o) fun o =>
    if o.ret then
      let a := s.arriveAll o o.site o.target o.operand.length o.remote o.data
      .next (a.2.answer o (oldRegs a.1))
    else .next (s.answer o o.data)

/-- NOTIFY_INCREMENT (R382, R396): a NOTIFY to VOTEg of the sender's own island is a vote. -/
def execNotifyIncrement (op : Nat) (s : State) : Res :=
  s.ropFlit "NOTIFY_INCREMENT" op false (fun o => o.kind == .notify && s.reaches o && s.counted o) fun o =>
    let n := descCtr o.desc
    let ctx := o.charge.ctx.getD 0
    let vote (k : CtxIsland) : CtxIsland := if 0xFE0 ≤ n && n < 0xFF0 then { k with ballots := k.ballots ++ [n - 0xFE0] } else k
    .next (((s.addCounter o.target ctx n ((laneAt o.operand 0).v.setWidth 64)).modCtxAt o.target ctx vote).dropRop op)

/-- The cause with which an operation may fail now, but for a lost plot whose hole is still to be marked (R390): its target or path lost, or its translation refused or quarantined
there; a context that the target does not hold has no translation there (R371, R384) (assumption 41, DEDUCED). -/
def State.ropFault (s : State) (o : Rop) : Option Cause :=
  if o.st == .answered || s.plots.any (fun p => p.uncontained && s.touches o p.site) then none
  else if s.ropLost o then some .siteLost
  else if !s.arrived o then none
  else if o.refused || !s.counted o || (o.kind != .notify && s.nextTr o == .quarantined) then some .remoteHole
  else none

/-- REMOTE_OP_FAIL (R384). -/
def execRemoteOpFail (op : Nat) (s : State) : Res :=
  s.ropStep "REMOTE_OP_FAIL" op (fun o => (s.ropFault o).isSome) fun o => .next (s.failRop o ((s.ropFault o).getD .siteLost))

/-- NWAIT_WAKE (R388). -/
def execNwaitWake (ag : AgentRef) (s : State) : Res :=
  s.wake "NWAIT_WAKE" ag fun w i => match w, i with
    | .nwait, .nwait h a b => some (execNwait h a b)
    | _, _ => none

/-- RQUIET_WAKE (R385). -/
def execRquietWake (ag : AgentRef) (s : State) : Res :=
  s.wake "RQUIET_WAKE" ag fun w i => match w, i with
    | .rquiet, .rquiet h nt d => some (execRquiet h nt d)
    | _, _ => none

/-! ### Collective groups (R395, R396) -/

def State.group? (s : State) (ctx n : Nat) : Option Group := (s.context? ctx).bind fun k => k.groups.find? fun g => g.num == n
def State.modGroup (s : State) (ctx n : Nat) (f : Group → Group) : State :=
  s.modContext ctx fun k => { k with groups := modify (fun g => g.num == n) f k.groups }

/-- Whether every site of MEM whose plot is SERVING or DRAINING has voted; a boundary waits for the last one to be published, and
for the containment of a loss (R390, R396). -/
def State.allVoted (s : State) (g : Group) : Bool :=
  g.owed == 0 && !s.containing && (upTo 48).all fun p => !g.mem.getLsbD p || g.votes.getLsbD p ||
    !((s.plot p).st == .serving || (s.plot p).st == .draining)

/-- A boundary: its publication, after which VOTEg is incremented (R396). -/
def State.boundary (s : State) (ctx n : Nat) : State :=
  (s.modGroup ctx n fun g => { g with mem := g.next, mg := g.mg + 1, votes := 0, owed := g.next }).publishCtx ctx

/-- Holds the boundaries of groups that wait for no site any more (R396). -/
def State.boundaries (s : State) : State :=
  s.contexts.foldl (fun s k => k.groups.foldl (fun s g =>
    if g.votes != 0 && s.allVoted g then s.boundary k.num g.num else s) s) s

/-- What follows the publication of a context's maps: HEAL for each hole that healed, VOTEg for the boundary of each group
(R394, R396). -/
def State.settleCtx (s : State) (k : Context) : State :=
  if !s.mapsDone k.num then s
  else
    let heal (s : State) (_ : Nat) : State := s.islands.foldl (fun s x => s.addCounter x.site k.num 0xFFF 1) s
    let vote (s : State) (g : Group) : State :=
      (upTo 48).foldl (fun s p => if g.owed.getLsbD p then s.addCounter p k.num (0xFE0 + g.num) 1 else s) s
    (k.groups.foldl vote (k.heals.foldl heal s)).modContext k.num fun k =>
      { k with heals := [], groups := k.groups.map fun g => { g with owed := 0 } }

/-- What follows the publication of maps. -/
def State.settleMaps (s : State) : State := (s.contexts.foldl State.settleCtx s).boundaries

/-- VOTE_COUNT (R396): one vote of a site in a generation; the last one makes a boundary. -/
def execVoteCount (site ctx group : Nat) (s : State) : Res :=
  let cast := (s.ctxAt? site ctx).any fun k => k.ballots.contains group
  match s.group? ctx group with
  | none => notEnabled "VOTE_COUNT"
  | some g =>
    if !cast || !s.presided then notEnabled "VOTE_COUNT"
    else
      let s1 := s.modCtxAt site ctx fun k => { k with ballots := k.ballots.erase group }
      if !g.mem.getLsbD site then .next s1
      else
        let h : Group := { g with votes := g.votes ||| BitVec.ofNat 48 (2 ^ site) }
        let s2 := s1.modGroup ctx group fun _ => h
        .next (if s2.allVoted h then s2.boundary ctx group else s2)

end Sys2Proof.Machine
end

