-- ==== Sys2Proof/Machine/EvLaunch.lean ====
section
/-! DEFINITION. From launch packet to gang: launch queues, packets, dealing, barter, admission, operating points; then
the vacating of cores and restore entry (spec 14, 16). -/

namespace Sys2Proof.Machine

/-! ### Launch queues (R305, R306) -/

def Context.queue? (k : Context) (q : Nat) : Option LaunchQueue := k.queues[q]?
def State.modQueue (s : State) (ctx q : Nat) (f : LaunchQueue → LaunchQueue) : State :=
  s.modContext ctx fun k => { k with queues := modNth f k.queues q }
def State.queue? (s : State) (ctx q : Nat) : Option LaunchQueue := (s.context? ctx).bind fun k => k.queue? q

/-- Halts a queue at the packet that QRD names. -/
def LaunchQueue.halt (q : LaunchQueue) (code : BitVec 8) : LaunchQueue := { q with qerr := code, qei := q.qrd }

/-- Whether the fault of R305 stands: QSZ above 12, or more packets than slots. -/
def LaunchQueue.broken (q : LaunchQueue) : Bool := 12 < q.qsz || 2 ^ (q.qsz + 4) < (q.qwr - q.qrd).toNat

/-- A queue after a host write: one that stands broken halts with code 1 (R305). -/
def LaunchQueue.checked (q : LaunchQueue) : LaunchQueue := if q.broken && q.qerr == 0 then q.halt 1 else q

/-- A write of QWR. -/
def LaunchQueue.doorbell (q : LaunchQueue) (qwr : Word) : LaunchQueue := LaunchQueue.checked { q with qwr := qwr }

/-- A write of QERR := 0: the packet that was refused is passed over, where there is one (R306) (assumption 62, DEDUCED). -/
def LaunchQueue.restart (q : LaunchQueue) : LaunchQueue :=
  if q.qerr == 0 then q
  else LaunchQueue.checked { q with qerr := 0, qrd := if q.qei == q.qrd && q.qrd == q.qwr then q.qrd else q.qei + 1 }

/-- Whether an interface lets the contexts of its partition run (R399). -/
def State.runs (s : State) (ctx : Nat) : Bool :=
  ((s.context? ctx).bind fun k => s.iface? k.iface).any fun i => i.st == .run

/-- LAUNCH_QUEUE_DOORBELL (R305). -/
def execLaunchQueueDoorbell (ctx queue : Nat) (qwr : Word) (s : State) : Res :=
  when ((s.queue? ctx queue).isSome && s.runs ctx) "LAUNCH_QUEUE_DOORBELL" (s.modQueue ctx queue fun q => q.doorbell qwr)

/-- QUEUE_RESTART (R306). -/
def execQueueRestart (ctx queue : Nat) (s : State) : Res :=
  when ((s.queue? ctx queue).isSome && s.runs ctx) "QUEUE_RESTART" (s.modQueue ctx queue LaunchQueue.restart)

/-! ### Packets (R307 to R309, R311) -/

/-- The physical address of a word that a context can read on an island. -/
def Island.readPa (x : Island) (ctx : Nat) (va : Dword) : Option Nat :=
  if !canonical va then none
  else match x.walkTo ctx .u .read va with
    | .ok pa _ => some pa
    | _ => none

/-- n words of a context's global memory on an island, none when one cannot be read. -/
def Island.readVa (x : Island) (ctx : Nat) (va : Dword) (n : Nat) : Option Lanes :=
  (upTo n).foldl (fun (acc : Option Lanes) k =>
    match acc, x.readPa ctx (va + BitVec.ofNat 64 (4 * k)) with
    | some l, some pa => some (l ++ [x.mem.word (pa / 4)])
    | _, _ => none) (some [])

/-- The bytes of words. -/
def byteIn (ws : Lanes) (k : Nat) : Byte := byteOf (laneAt ws (k / 4)).v (k % 4)

/-- Field of n bytes of a packet. -/
def pkt (ws : Lanes) (off n : Nat) : Nat := leBytes (byteIn ws) off n

/-- Code 1 of R308. -/
def packetBad (p : Lanes) : Bool :=
  pkt p 0x00 1 != 1 || pkt p 0x01 1 != 1 || pkt p 0x02 1 / 64 != 0 || pkt p 0x02 1 / 8 % 2 != 0 || pkt p 0x02 1 / 16 % 4 == 3 ||
  pkt p 0x03 1 / 16 != 0 || pkt p 0x04 4 == 0 || pkt p 0x08 8 % 32 != 0 || pkt p 0x1E 2 != 0 || pkt p 0x20 1 / 4 != 0 ||
  pkt p 0x21 1 != 0 || pkt p 0x26 2 / 4096 % 8 != 0 || pkt p 0x28 8 != 0 || pkt p 0x70 8 != 0 || pkt p 0x78 8 != 0 ||
  (upTo 4).any fun j => pkt p (0x38 + 16 * j) 2 / 4096 % 8 != 0 || pkt p (0x3A + 16 * j) 6 != 0

/-- The sites that a packet names. -/
def packetSites (p : Lanes) : List Nat := (upTo 48).filter fun k => pkt p 0x18 8 / 2 ^ k % 2 == 1

/-- A descriptor in a context's memory on an island (R62). -/
def Island.desc (x : Island) (ctx : Nat) (va : Dword) : Option Desc :=
  match x.readVa ctx va 8 with
  | none => none
  | some ws => if ws.any fun w => w.p then none else Desc.parse (byteIn ws)

/-- Code 2 of R308 on an island. -/
def Island.descBad (x : Island) (ctx : Nat) (p : Lanes) : Bool :=
  match x.desc ctx (BitVec.ofNat 64 (pkt p 0x08 8)) with
  | none => true
  | some d => d.args != 0 &&
      (pkt p 0x10 8 % 4 != 0 || (x.readVa ctx (BitVec.ofNat 64 (pkt p 0x10 8)) (d.args / 4)).isNone)

/-- The affinity bits that a context binds to a cluster (R311). -/
def CtxIsland.bits (k : CtxIsland) (cl : Nat) : List Nat :=
  (upTo 16).filter fun b => !k.clusters.isEmpty && k.clusters.getD (b % k.clusters.length) 99 == cl

/-- Clusters eligible for a launch, ascending in the lowest AFF bit that binds each (R311, R312). -/
def CtxIsland.eligible (k : CtxIsland) (die aff : Nat) : List Nat :=
  ((upTo 16).filterMap fun b =>
    if aff / 2 ^ b % 2 == 1 && !k.clusters.isEmpty then some (k.clusters.getD (b % k.clusters.length) 99) else none).eraseDups.filter
    fun cl => die / 2 ^ (cl / 8) % 2 == 1

/-- The bases of a workgroup's gangs, in gix order, given the free granules of each physical quarter (R313). -/
def placeGangs (w n : Nat) : Nat → List Nat → Option (List Nat)
  | 0, _ => some []
  | k + 1, free =>
    match (basesOf w).find? fun b => (upTo (w / 8)).all fun q => n ≤ free.getD (b + q) 0 with
    | none => none
    | some b =>
      let left := free.mapIdx fun i x => if b ≤ i && i < b + w / 8 then x - n else x
      (placeGangs w n k left).map fun l => b :: l

/-- Whether a workgroup with n gangs would fit an empty core with a number of bytes of scratch (R308, R313). -/
def Desc.fitsEmpty (d : Desc) (n scratch : Nat) : Bool :=
  (placeGangs d.width d.frame n (List.replicate 4 Config.poolGranules)).isSome && d.framemax ≤ 256 &&
    d.localBytes ≤ scratch && d.acc ≤ Config.coreTiles && d.bars ≤ Config.coreBarriers

/-- The refusal code of a packet, 0 when it passes (R308) (assumption 63, DEDUCED). A lost site is one where the context has no
island, from the loss on (R390). -/
def State.packetCode (s : State) (ctx : Nat) (p : Lanes) : BitVec 8 :=
  let sites := packetSites p
  let lost (n : Nat) : Bool := (s.plot n).st == .lost
  let here := (sites.filter fun n => !lost n).filterMap fun n => (s.island? n).bind fun x => (x.ctx? ctx).map fun k => (x, k)
  let desc (x : Island) : Desc := (x.desc ctx (BitVec.ofNat 64 (pkt p 0x08 8))).getD ⟨8, 1, 1, 1, false, 0, 0, 0, 0, 0, 0⟩
  let wrong (n : Nat) : Bool :=
    lost n || !s.bound ctx n || (s.plot n).st == .draining || ((s.island? n).map fun x => x.granary).getD true
  if packetBad p then 1
  else if here.any fun q => q.1.descBad ctx p then 2
  else if sites.isEmpty || sites.any wrong then 3
  else if here.any fun q => (q.2.eligible (pkt p 0x20 1) (pkt p 0x22 2)).isEmpty then 4
  else if here.any fun q => q.2.quota < (desc q.1).commons then 5
  else if here.any fun q => !(desc q.1).fitsEmpty (desc q.1).gangs (3 * 131072) then 6
  else 0

/-- A grid as a packet makes it on an island, with the argument block copied (R307, R309). -/
def Island.newGrid (x : Island) (num ctx : Nat) (label : Dword) (d : Desc) (p : Lanes) : Grid :=
  let args := (x.readVa ctx (BitVec.ofNat 64 (pkt p 0x10 8)) (d.args / 4)).getD []
  let put (m : Mem) (k : Nat) : Mem := m.write (wholeWrite k (laneAt args k))
  let valid (off : Nat) : Bool := pkt p off 2 / 2 ^ 15 == 1
  { num := num, ctx := ctx, prio := pkt p 0x02 1 % 8, pcls := pkt p 0x02 1 / 16 % 4, vfh := pkt p 0x03 1 % 16,
    count := pkt p 0x04 4, desc := d, args := (upTo args.length).foldl put .empty, die := pkt p 0x20 1,
    aff := pkt p 0x22 2, brt := pkt p 0x24 2, cmpl := if valid 0x26 then some (pkt p 0x26 2 % 4096) else none,
    deps := (upTo 4).filterMap fun j =>
      if valid (0x38 + 16 * j) then some (pkt p (0x38 + 16 * j) 2 % 4096, BitVec.ofNat 64 (pkt p (0x30 + 16 * j) 8)) else none,
    met := false, released := none, remaining := pkt p 0x04 4, complete := false, dropped := false, watched := false, dealt := 0,
    label := label }

/-- Routes a packet to one island; a dispatcher discards an index that it has received last (R306, R411)
(assumption 63, DEDUCED). -/
def State.routeTo (s : State) (ctx queue : Nat) (ix : Word) (p : Lanes) (site : Nat) : State :=
  match s.island? site with
  | none => s
  | some x =>
    if x.seen.any fun e => e.1 == ctx && e.2.1 == queue && e.2.2 == ix then s
    else match x.desc ctx (BitVec.ofNat 64 (pkt p 0x08 8)) with
      | none => s
      | some d =>
        let u := s.fresh
        let lo := u.2.free
        let hi := lo.2.free
        let g := x.newGrid u.1 ctx (joinWords lo.1 hi.1) d p
        hi.2.modIsland site fun y =>
          { Island.noteDeps { y with grids := y.grids ++ [g] } with seen := upsert (fun e => e.1 == ctx && e.2.1 == queue) (ctx, queue, ix) y.seen }

/-- The words of a capture record: a header of 32 bytes, then the payload, padded with zeros to 32 bytes (R413). -/
def captureWords (kind queue seq : Nat) (addr : Dword) (payload : List Word) : List Word :=
  let n := BitVec.ofNat 64 seq
  [BitVec.ofNat 32 (kind + 256 * queue), BitVec.ofNat 32 (4 * payload.length), loWord n, hiWord n, loWord addr, hiWord addr, 0, 0] ++
    payload ++ List.replicate ((8 - payload.length % 8) % 8) 0

/-- Appends a capture record when the operator has enabled capture (R413). -/
def Context.record' (k : Context) (kind queue : Nat) (addr : Dword) (payload : List Word) : Context :=
  if k.capture then { k with ring := k.ring ++ captureWords kind queue k.records addr payload, records := k.records + 1 } else k

/-- The lowest island where a context is bound: its command queues' memory is read there. -/
def State.homeOf (s : State) (ctx : Nat) : Option Island := s.islands.find? fun x => s.bound ctx x.site

/-- LAUNCH_PACKET (R306 to R309, R411, R413) (assumption 62, DEDUCED). A word of the packet with its poison bit is read as its plain
value (assumption 110, DESIGN CHOICE). -/
def execLaunchPacket (ctx queue : Nat) (s : State) : Res :=
  match s.context? ctx, s.queue? ctx queue, s.homeOf ctx with
  | some k, some q, some x =>
    if q.qerr != 0 || q.qrd == q.qwr || k.killed || !s.runs ctx || !s.presided then
      notEnabled "LAUNCH_PACKET"
    else if q.broken then .next (s.modQueue ctx queue fun q => q.halt 1)
    else match x.readVa ctx (q.qbase + BitVec.ofNat 64 (128 * (q.qrd.toNat % 2 ^ (q.qsz + 4)))) 32 with
      | none => notEnabled "LAUNCH_PACKET"
      | some p =>
        let s1 := s.modContext ctx fun k => k.record' 1 queue 0 (p.map fun w => w.v)
        let code := s1.packetCode ctx p
        if code != 0 then .next (s1.modQueue ctx queue fun q => q.halt code)
        else
          let s2 := (packetSites p).foldl (fun s n => s.routeTo ctx queue q.qrd p n) s1
          .next (s2.modQueue ctx queue fun q => { q with qrd := q.qrd + 1 })
  | _, _, _ => notEnabled "LAUNCH_PACKET"

/-! ### Release, dealing and completion (R310, R312, R164, R259) -/

/-- Clusters of an island that a grid may be dealt to. -/
def Island.eligible (x : Island) (g : Grid) : List Nat :=
  match x.ctx? g.ctx with
  | some k => k.eligible g.die g.aff
  | none => []

/-- Adds a workgroup to a queue: an unstarted one at the tail, a saved one at the head, where the saved ones stand in
ascending wgx (R312, R357). -/
def queueWg (u : Unstarted) : List Unstarted → List Unstarted
  | [] => [u]
  | v :: r => if u.saved.isSome && (v.saved.isNone || u.wgx < v.wgx) then u :: v :: r else v :: queueWg u r

/-- Puts a workgroup into a cluster's queue. -/
def Island.enqueue (x : Island) (cl n : Nat) (u : Unstarted) : Island :=
  let mine (q : ClusterQueue) : Bool := q.cluster == cl && q.grid == n
  let add (q : ClusterQueue) : ClusterQueue := { q with items := queueWg u q.items }
  if x.cqueues.any mine then { x with cqueues := modify mine add x.cqueues }
  else { x with cqueues := x.cqueues ++ [⟨cl, n, [u], cl, false⟩] }

/-- Deals one workgroup to the next cluster of a list in turn (R312). -/
def Island.deal (x : Island) (cls : List Nat) (n : Nat) (u : Unstarted) : Island :=
  match x.grid? n, cls with
  | some g, c0 :: _ =>
    (x.enqueue (cls.getD (g.dealt % cls.length) c0) n u).modGrid n fun g => { g with dealt := g.dealt + 1 }
  | _, _ => x

/-- Deals a grid's workgroups in ascending wgx. -/
def Island.dealAll (x : Island) (g : Grid) : Island :=
  let cls := x.eligible g
  let open' (x : Island) (cl : Nat) : Island := { x with cqueues := x.cqueues ++ [⟨cl, g.num, [], cl, false⟩] }
  (upTo g.count).foldl (fun x n => x.deal cls g.num ⟨n, none⟩) (cls.foldl open' x)

/-- GRID_RELEASE (R310, R312). -/
def execGridRelease (site grid : Nat) (s : State) : Res :=
  match s.island? site with
  | none => notEnabled "GRID_RELEASE"
  | some x => match x.grid? grid with
    | none => notEnabled "GRID_RELEASE"
    | some g =>
      let go (x : Island) : Island := (x.dealAll g).modGrid grid fun g => { g with released := some x.clock }
      when (g.released.isNone && !g.dropped && (g.met || x.depsHold g)) "GRID_RELEASE" (s.modIsland site go)

/-- Whether a transfer that a grid's gangs issued is still in flight (R297). -/
def State.gridBusy (s : State) (site grid : Nat) : Bool :=
  (s.rops.any fun o => o.site == site && o.grid == some grid) ||
  s.cores.any fun c => c.ref.site == some site && c.chans.any fun q => q.2.any fun k => k.grid == some grid

/-- GRID_COMPLETE (R164, R310): a grid that was dropped ends without completing (R393). A counter that the device keeps is
not incremented (R387) (assumption 63, DEDUCED). -/
def execGridComplete (site grid : Nat) (s : State) : Res :=
  match (s.island? site).bind fun x => x.grid? grid with
  | none => notEnabled "GRID_COMPLETE"
  | some g =>
    let s1 := s.modIsland site fun x => x.modGrid grid fun g => { g with complete := true }
    when (g.released.isSome && g.remaining == 0 && !g.complete && !g.dropped && !s.gridBusy site grid) "GRID_COMPLETE"
      (match g.cmpl with
        | some n => if n < 0xFE0 then s1.addCounter site g.ctx n 1 else s1
        | none => s1)

/-! ### Admission (R160 to R165, R213, R313 to R315) -/

/-- Bytes of scratch that a workgroup takes: units of 1 KiB. -/
def scratchUnits (n : Nat) : Nat := (n + 1023) / 1024 * 1024

/-- The lowest offset of a free run of scratch (R313). -/
def Core.scratchAt (c : Core) (n : Nat) : Option Nat :=
  let used := c.wgs.map fun w => (w.localBase, w.localBase + scratchUnits w.localBytes)
  let free (a : Nat) : Bool := a + n ≤ c.scratchBytes && used.all fun u => u.1 == u.2 || a + n ≤ u.1 || u.2 ≤ a
  if n == 0 then some 0 else (upTo 384).findSome? fun k => if free (1024 * k) then some (1024 * k) else none

/-- Free granules of each physical quarter. -/
def Core.freeList (c : Core) : List Nat := (upTo 4).map c.freeGran

/-- The gangs that an unstarted or saved workgroup brings: gix and save record. -/
def Unstarted.members (u : Unstarted) (d : Desc) : List (Nat × Option SavedGang) :=
  match u.saved with
  | some s => s.1.map fun g => (g.gix, some g)
  | none => (upTo d.gangs).map fun k => (k, none)

/-- Whether a core has the resources of R313 for a workgroup now. -/
def Core.hasRoom (c : Core) (d : Desc) (u : Unstarted) : Bool :=
  let n := (u.members d).length
  c.waiters.isEmpty && c.handReqs.isEmpty && c.gangs.length + n ≤ 32 &&
  (placeGangs d.width d.frame n c.freeList).isSome && d.framemax ≤ 256 && (c.scratchAt d.localBytes).isSome &&
  (c.wgs.map fun w => w.acc).sum + d.acc ≤ Config.coreTiles &&
  (c.wgs.map fun w => w.barriers.length).sum + d.bars ≤ Config.coreBarriers &&
  (!d.cbslot || (c.wgs.countP fun w => w.cb.isSome) < Config.coreShapes)

/-- Whether every resident workgroup of a core belongs to a context's partition (R165). -/
def State.samePartition (s : State) (c : Core) (ctx : Nat) : Bool :=
  let part (k : Option Nat) : Option Nat := (k.bind s.context?).map fun k => k.iface
  c.wgs.all fun w => part w.ctx == part (some ctx)

/-- Whether the launch for which a core was vacated may still bring it a workgroup: it has not been released, or its queue
for the cluster holds one (R357) (assumption 65, DEDUCED). -/
def State.stillAsks (s : State) (r : CoreRef) (n : Nat) : Bool :=
  (r.site.bind s.island?).any fun x => (x.grid? n).any fun g => !g.complete && !g.dropped && (x.eligible g).contains r.cluster &&
    (g.released.isNone || x.cqueues.any fun q => q.cluster == r.cluster && q.grid == n && !q.items.isEmpty)

/-- Whether a core would take in a workgroup of a grid now (R313, R357). -/
def State.admits (s : State) (r : CoreRef) (g : Grid) (u : Unstarted) : Bool :=
  let c := s.core r
  c.admission && !c.frozen && s.samePartition c g.ctx && c.hasRoom g.desc u &&
    c.askedBy.all fun n => n == g.num || !s.stillAsks r n

/-- Whether every domain with an eligible cluster has reported its operating point stable for a hint at least the grid's
(R315). -/
def State.stableFor (s : State) (x : Island) (g : Grid) : Bool :=
  (x.eligible g).all fun cl => x.oppoints.any fun p =>
    p.die == cl / 8 && p.domain == domainOf cl && g.vfh ≤ p.level && p.hint == s.hint x p.die p.domain

/-- Grids dealt to a cluster with an unstarted workgroup, in the order of R314. -/
def Island.offered (x : Island) (cl : Nat) : List Grid :=
  sortBy (fun g => g.prio) (x.grids.filter fun g => x.cqueues.any fun q => q.cluster == cl && q.grid == g.num && !q.items.isEmpty)

/-- The head of a cluster's queue for a grid. -/
def Island.head (x : Island) (cl n : Nat) : Option Unstarted :=
  (x.cqueues.find? fun q => q.cluster == cl && q.grid == n).bind fun q => q.items.head?

/-- Whether a core may take a grid's head: it admits it, and the head of every earlier grid would not fit the core even empty
(R314). -/
def State.mayTake (s : State) (x : Island) (r : CoreRef) (g : Grid) (u : Unstarted) : Bool :=
  let earlier := (x.offered r.cluster).takeWhile fun h => h.num != g.num
  let fits (h : Grid) : Bool := (x.head r.cluster h.num).any fun v => h.desc.fitsEmpty (v.members h.desc).length (s.core r).scratchBytes
  s.admits r g u && earlier.all fun h => !fits h

/-- Whether the order of R314 gives a grid's head to a core of a cluster: no lower core may take it. -/
def State.turnOf (s : State) (x : Island) (site die pos : Nat) (g : Grid) (u : Unstarted) : Bool :=
  s.mayTake x (.compute site die pos) g u &&
    (upTo (pos % 8)).all fun k => !s.mayTake x (.compute site die (pos / 8 * 8 + k)) g u

/-- A gang of a workgroup at admission (R10, R19, R22, R364). -/
def Gang.launch (uid slot base cluster : Nat) (wg : Nat) (k : Context) (g : Grid) (wgx : Word) (m : Nat × Option SavedGang) : Gang :=
  let d := g.desc
  let f := Gang.firmware uid slot d.width base wg d.frame d.framemax d.entry
  let h : Gang :=
    { f with
      gix := m.1
      wgx := wgx
      ctx := some g.ctx
      prio := g.prio
      pl := .u
      ppl := .u
      twin := k.twin
      psn := k.psn
      sysWg := wgx.setWidth 64
      sysGrid := g.label
      cluster := cluster }
  match m.2 with
  | none => h
  | some v =>
    { h with
      restore := some v.area
      failMask := v.failMask
      failure := v.failure
      body := { h.body with frames := [], grans := [] } }

/-- A workgroup at admission (R162, R207, R261, R262, R286, R364). -/
def Wg.admitted (id base : Nat) (g : Grid) (u : Unstarted) : Wg :=
  let d := g.desc
  { id := id, wgx := BitVec.ofNat 32 u.wgx, grid := some g.num, ctx := some g.ctx, gangs := d.gangs,
    localBytes := d.localBytes, localBase := base, acc := d.acc, scratch := .empty, tiles := [],
    barriers := List.replicate d.bars ⟨0, maskOf d.gangs, false, 0⟩,
    cb := if d.cbslot then some (List.replicate 192 ⟨0, false⟩) else none,
    chanQ := match u.saved with | some s => s.2.1 | none => List.replicate 8 0,
    chanW := match u.saved with | some s => s.2.2.1 | none => List.replicate 8 0,
    args := g.args, argBytes := d.args,
    live := match u.saved with | some s => s.2.2.2 | none => maskOf d.gangs,
    saved := [] }

/-- Free slots of a core, ascending. -/
def Core.freeSlots (c : Core) : List Nat := (upTo 32).filter fun k => !(c.gangs.any fun g => g.slot == k)

/-- Admits a workgroup (R162, R163, R259). -/
def State.takeIn (s : State) (r : CoreRef) (k : Context) (g : Grid) (cluster : Nat) (u : Unstarted) : State :=
  let c := s.core r
  let ms := u.members g.desc
  let bases := (placeGangs g.desc.width g.desc.frame ms.length c.freeList).getD []
  let id := s.fresh
  let wg := Wg.admitted id.1 ((c.scratchAt g.desc.localBytes).getD 0) g u
  let add (p : State × List Gang) (m : Nat × Option SavedGang) : State × List Gang :=
    let n := p.2.length
    let v := p.1.fresh
    (v.2, p.2 ++ [.launch v.1 (c.freeSlots.getD n 0) (bases.getD n 0) cluster id.1 k g wg.wgx m])
  let q := ms.foldl add (id.2, [])
  let put (c : Core) : Core := { c with wgs := c.wgs ++ [wg], gangs := q.2.foldl (fun l g => insertGang g l) c.gangs }
  (q.1.modCore r put).acquire r .i

/-- WORKGROUP_ADMIT (R313 to R315). -/
def execWorkgroupAdmit (core : CoreRef) (grid : Nat) (s : State) : Res :=
  match core with
  | .compute site die pos =>
    match s.island? site with
    | none => notEnabled "WORKGROUP_ADMIT"
    | some x =>
      let cl := 8 * die + pos / 8
      match x.grid? grid, x.head cl grid, (x.grid? grid).bind fun g => s.context? g.ctx with
      | some g, some u, some k =>
        let bit := ((x.ctx? g.ctx).bind fun c => (c.bits cl).head?).getD 0
        let drop (q : ClusterQueue) : ClusterQueue :=
          if q.cluster == cl && q.grid == grid then { q with items := q.items.drop 1 } else q
        when (die < 2 && pos < 64 && s.stableFor x g && s.turnOf x site die pos g u) "WORKGROUP_ADMIT"
          ((s.modIsland site fun x => { x with cqueues := x.cqueues.map drop }).takeIn core k g bit u)
      | _, _, _ => notEnabled "WORKGROUP_ADMIT"
  | _ => notEnabled "WORKGROUP_ADMIT"

/-- OPERATING_POINT_STABLE (R315): a domain reports its operating point stable for a hint: that of its grids, or, with no such
grid, a level that the firmware's default serves, which is the firmware's (assumption 64, DEDUCED). -/
def execOperatingPointStable (site die domain level : Nat) (s : State) : Res :=
  match s.island? site with
  | none => notEnabled "OPERATING_POINT_STABLE"
  | some x =>
    let hint := s.hint x die domain
    let put (x : Island) : Island :=
      { x with oppoints := upsert (fun p => p.die == die && p.domain == domain) ⟨die, domain, level, hint⟩ x.oppoints }
    when ((hint.all fun h => h == level) && die < 2 && domain < 4 && level < 16) "OPERATING_POINT_STABLE"
      (s.modIsland site put)

/-! ### Barter (R312) -/

/-- Workgroups of a queue that barter may move. -/
def ClusterQueue.movable (q : ClusterQueue) : Nat := q.items.countP fun u => u.saved.isNone

/-- The victims of a request, in rotating order from the one after the last victim: by cluster number, from the one after the
queue's own cluster before it has asked any (assumption 109, DESIGN CHOICE). -/
def Island.victims (x : Island) (g : Grid) (q : ClusterQueue) : List Nat :=
  let ok (cl : Nat) : Bool := cl != q.cluster &&
    ((x.ctx? g.ctx).any fun k => (k.bits cl).any fun b => g.brt / 2 ^ b % 2 == 1) && (x.eligible g).contains cl
  ((upTo 16).map fun k => (q.victim + 1 + k) % 16).filter ok

/-- BARTER_REQUEST (R312). -/
def execBarterRequest (site cluster grid : Nat) (s : State) : Res :=
  match s.island? site with
  | none => notEnabled "BARTER_REQUEST"
  | some x => match x.grid? grid, x.cqueues.find? fun q => q.cluster == cluster && q.grid == grid with
    | some g, some q =>
      let bound := (x.ctx? g.ctx).any fun k => (k.bits cluster).any fun b => g.brt / 2 ^ b % 2 == 1
      let cores := (upTo 8).map fun k => CoreRef.compute site (cluster / 8) (cluster % 8 * 8 + k)
      let has (cl : Nat) : Bool := x.cqueues.any fun v => v.cluster == cl && v.grid == grid && 2 ≤ v.movable
      match (x.victims g q).find? has with
      | none => notEnabled "BARTER_REQUEST"
      | some v =>
        let vq := (x.cqueues.find? fun q => q.cluster == v && q.grid == grid).getD q
        let young := (vq.items.filter fun u => u.saved.isNone).drop (vq.movable - vq.movable / 2)
        let move (z : ClusterQueue) : ClusterQueue :=
          if z.grid != grid then z
          else if z.cluster == v then { z with items := z.items.filter fun u => !young.contains u }
          else if z.cluster == cluster then { z with items := z.items ++ young, victim := v }
          else z
        when (q.items.isEmpty && bound && cores.any fun r => s.admits r g ⟨0, none⟩) "BARTER_REQUEST"
          (s.modIsland site fun x => { x with cqueues := x.cqueues.map move })
    | _, _ => notEnabled "BARTER_REQUEST"

/-! ### Vacating (R355 to R357) -/

/-- The cores of an island in cluster order. -/
def coresOf (site : Nat) : List CoreRef := (upTo 2).flatMap fun d => (upTo 64).map fun k => .compute site d k

/-- Whether a core's workgroups let it be vacated for a launch of a priority (R307, R355). -/
def State.mayVacate (s : State) (x : Island) (prio : Nat) (r : CoreRef) : Bool :=
  let c := s.core r
  !c.vacated && c.wgs.all fun w => match w.grid.bind x.grid? with
    | some g => g.pcls == 0 || (g.pcls == 1 && g.prio < prio)
    | none => false

/-- The trailing MMQs of a gang that the freeze returns, of one of its bodies: whole instructions, none of whose passes has started,
after the last one that stays; none when a flow waits in a BAR that it has arrived at or for replies, which it has issued
after its MMQs, or in an MWAIT, which the vacate completes first (R203, R325, R356, R366) (assumption 46, DEDUCED). -/
def Core.returned (c : Core) (b : Body) : List Trail :=
  let stays (e : Trail) : Bool := e.parts != 0 && (c.tops.countP fun t => t.instr == e.instr && t.unread) != e.parts
  let issued (f : Flow) : Bool := match f.run with
    | .wait (.bar _ _ _) _ | .wait .reply _ | .wait (.mwait _) _ => true
    | _ => false
  if b.flows.any issued then []
  else (b.trail.reverse.takeWhile fun e => !stays e).reverse.dropWhile fun e => e.parts == 0

/-- A body without the MMQs that are returned: the queue entries that they popped are there again (R356). -/
def Body.unissue (b : Body) (l : List Trail) : Body :=
  let undo (e : Trail) (b : Body) : Body := e.popped.foldr (fun q b => b.unpop q.1 q.2.1 q.2.2) b
  { l.foldr undo b with trail := b.trail.filter fun e => !l.contains e }

/-- The flow of a gang goes on at a returned MMQ; one that is to be replayed goes on at its region (R340, R356). -/
def Flow.backTo (pc : Dword) (f : Flow) : Flow :=
  if f.run == .replay then f else { f with pc := pc, run := .ready, due := none }

/-- A gang without its returned MMQs: it goes on at the earliest. One that is in its handler, waits for it, or is held goes on
there when it takes PREEMPT (R354, R356). -/
def Gang.unissue (c : Core) (g : Gang) : Gang :=
  let busy := g.trapReq.isSome || g.dbgHeld.isSome
  let main := c.returned g.body
  let g1 : Gang := { g with
    body := g.body.unissue main
    hand := g.hand.map fun h =>
      let l := c.returned h.body
      let b := h.body.unissue l
      { h with body := match l with | e :: _ => b.modFlow 0 (Flow.backTo e.pc) | [] => b } }
  match main with
  | [] => g1
  | e :: _ => if g.hand.isSome || busy then { g1 with reissue := some e.pc }
      else { g1 with body := g1.body.modFlow 0 (Flow.backTo e.pc) }

/-- Returns a gang's trailing MMQs (R356). -/
def State.returnMmqs (s : State) (r : CoreRef) (g : Gang) : State :=
  let c := s.core r
  let l := c.returned g.body ++ (match g.hand with | some h => c.returned h.body | none => [])
  if l.isEmpty then s
  else
    let gone (t : TileOp) : Bool := l.any fun e => e.parts != 0 && e.instr == t.instr
    let ids := (c.tops.filter gone).map fun t => t.id
    let clear (k : Core) : Core :=
      { k with
        tops := k.tops.filter fun t => !gone t
        passes := (k.passes.map fun p => { p with ops := p.ops.filter fun id => !ids.contains id }).filter fun p => !p.ops.isEmpty }
    ((s.modCore r clear).modGang r g.slot (Gang.unissue c)).leaveWaits r g.slot

/-- Starts every pass that stays: its B is read, and it has closed, before the freeze takes hold (R356). -/
def State.startRest (s : State) (r : CoreRef) : State :=
  let shut (q : Pass) : Pass := match q.st with
    | .gathering _ => { q with st := .closed }
    | _ => q
  (s.readRest r fun _ => true).modCore r fun c =>
    { c with
      passes := c.passes.map shut
      gangs := c.gangs.map fun g => g.modAct fun y => { y with flows := y.flows.map Flow.unhold } }

/-- Vacates one core for a launch, in one step (R355, R356). -/
def State.vacate (launch : Nat) (s : State) (r : CoreRef) : State :=
  let s1 := ((s.core r).gangs.foldl (fun s g => s.returnMmqs r g) s).startRest r
  let stop (c : Core) : Core :=
    { c with
      admission := false
      frozen := true
      vacated := true
      askedBy := some launch
      gangs := c.gangs.map fun g => g.addPending .preempt 0 }
  s1.modCore r stop

/-- Whether a core is vacated for another launch than the grid's: it is being vacated, or that launch still has its admission
(R357) (assumption 65, DEDUCED). -/
def State.taken (s : State) (r : CoreRef) (n : Nat) : Bool :=
  (s.core r).askedBy.any fun m => m != n && ((s.core r).vacated || s.stillAsks r m)

/-- The eligible clusters of a grid that have a core which is not vacated for another launch. -/
def State.openClusters (s : State) (x : Island) (g : Grid) : List Nat :=
  (x.eligible g).filter fun cl => (upTo 8).any fun k => !s.taken (.compute x.site (cl / 8) (cl % 8 * 8 + k)) g.num

/-- Deals the queues of clusters whose cores are all vacated again, among the others (R357)
(assumption 65, DEDUCED). -/
def State.redeal (s : State) (site : Nat) : State :=
  match s.island? site with
  | none => s
  | some x => x.grids.foldl (fun s g =>
      let open' := s.openClusters x g
      if open'.isEmpty then s
      else
        let shut (q : ClusterQueue) : Bool := q.grid == g.num && !open'.contains q.cluster
        let items := (x.cqueues.filter shut).flatMap fun q => q.items
        let empty (q : ClusterQueue) : ClusterQueue := if shut q then { q with items := [] } else q
        let go (x : Island) : Island :=
          (sortUp (fun u => u.wgx) items).foldl (fun x u => x.deal open' g.num u) { x with cqueues := x.cqueues.map empty }
        s.modIsland site go) s

/-- VACATE_REQUEST (R307, R355): for a launch that the island holds. -/
def execVacateRequest (site count grid : Nat) (s : State) : Res :=
  match s.island? site with
  | none => notEnabled "VACATE_REQUEST"
  | some x => match x.grid? grid with
    | none => notEnabled "VACATE_REQUEST"
    | some g =>
      let rs := ((coresOf site).filter (s.mayVacate x g.prio)).take count
      when (!x.granary && !rs.isEmpty) "VACATE_REQUEST" ((rs.foldl (State.vacate grid) s).redeal site)

/-- CORE_VACATED (R357): the saved workgroups go to the heads of their grids' queues, in ascending wgx, and admission reopens
to the launch that asked. Workgroups saved on a core that is not being vacated are placed in the same way (assumption 65,
DEDUCED). -/
def execCoreVacated (core : CoreRef) (s : State) : Res :=
  let site := core.site.getD 0
  let open' (c : Core) : Core :=
    if c.vacated then { c with frozen := false, vacated := false, admission := c.carveWant.isNone } else c
  let place (s : State) (v : CoreRef × Nat × Unstarted) : State :=
    match (s.island? site).bind fun x => (x.grid? v.2.1).map fun g => (s.openClusters x g, x.eligible g) with
    | none => s
    | some (l, cls) => s.modIsland site fun x => x.deal (if l.isEmpty then cls else l) v.2.1 v.2.2
  let mine := ((s.island? site).map fun x => x.savedWgs.filter fun v => v.1 == core).getD []
  let order := sortUp (fun (v : CoreRef × Nat × Unstarted) => v.2.2.wgx) mine
  when (if (s.core core).vacated then (s.core core).wgs.isEmpty else !mine.isEmpty) "CORE_VACATED"
    (((order.foldl place s).modIsland site fun x => { x with savedWgs := x.savedWgs.filter fun v => v.1 != core }).modCore core open')

end Sys2Proof.Machine
end

