-- ==== Sys2Proof/Machine/EvRestore.lean ====
section
/-! DEFINITION. Restore entry and the return from it (spec 16, R359, R364, R365). -/

namespace Sys2Proof.Machine

/-! ### The control record (R359) -/

/-- A word of a gang's save area at I, with the context's translation. -/
def State.saved (s : State) (r : CoreRef) (g : Gang) (area : Dword) (off : Nat) : Word :=
  match s.imageWord r g .read (area + BitVec.ofNat 64 off) with
  | some w => (s.wordI r w).v
  | none => 0

/-- A doubleword of the save area. -/
def State.savedD (s : State) (r : CoreRef) (g : Gang) (area : Dword) (off : Nat) : Dword :=
  joinWords (s.saved r g area off) (s.saved r g area (off + 4))

/-- A field of a doubleword. -/
def fieldOf (d : Dword) (lo n : Nat) : Nat := d.toNat / 2 ^ lo % 2 ^ n

/-- A queue definition as a frame record holds it (R136). -/
def QDef.ofField (f occ : Nat) : Option QDef :=
  let n := f / 256 % 8 + 1
  if f / 32768 % 2 == 1 then some ⟨f % 256, f / 2048 % 8 + 1, n, (upTo n).map fun j => occ / 16 ^ j % 16⟩ else none

/-- A frame from the five doublewords of its record (R136). -/
def Frame.ofRecord (d : Nat → Dword) : Frame :=
  let f := d 2
  { rpc := d 0, hpc := d 1, ord := fieldOf f 32 9, mid := BitVec.ofNat 8 (fieldOf f 24 8), mv := fieldOf f 22 1 == 1,
    mmsd := fieldOf f 16 6, msb := fieldOf f 10 6, abase := fieldOf f 5 5, ngr := fieldOf f 0 5,
    qd0 := QDef.ofField (fieldOf (d 3) 0 16) (fieldOf (d 4) 0 32), qd1 := QDef.ofField (fieldOf (d 3) 16 16) (fieldOf (d 4) 32 32) }

/-- Whether a reserved field of a frame record is set. -/
def recordBad (d : Nat → Dword) : Bool :=
  fieldOf (d 2) 41 23 != 0 || fieldOf (d 3) 32 32 != 0 || fieldOf (d 3) 14 1 != 0 || fieldOf (d 3) 30 1 != 0

/-- The physical address of a word of a context's page on an island, whatever the page permits. -/
def Island.ownPa (x : Island) (ctx : Nat) (va : Dword) : Option Nat :=
  match x.ctx? ctx with
  | some k => if canonical va then (walk x.mem x.bytes k.root ctx va).map fun e => e.phys va else none
  | none => none

/-- The instruction at an address of a context, as it stands at I, whatever its page permits. -/
def State.instrAt (s : State) (r : CoreRef) (g : Gang) (pc : Dword) : Option Instr :=
  let word (k : Nat) : Word := match r.site.bind s.island?, g.ctx with
    | some x, some c => ((x.ownPa c (pc + BitVec.ofNat 64 (4 * k))).map fun pa => (s.wordI r (pa / 4)).v).getD 0
    | _, _ => 0
  match decodeWords [word 0, word 1, word 2] with
  | .ok i => some i
  | .error _ => none

/-- A restored monitor: its line is not kept, and the next MWAIT returns status 2 (R203, R366)
(assumption 66, DEDUCED). -/
def restoredMonitor (armed : Bool) : Option Monitor := if armed then some ⟨.global, 0, false, true⟩ else none

/-- The flow of a joined gang from its record: a BAR wait goes on for the phase it waited for (R364, R366). A BAR whose page is
not mapped now is taken as one of the long form without .mx (assumption 67, DEDUCED). -/
def State.savedFlow (s : State) (r : CoreRef) (g : Gang) (a : Dword) : Flow :=
  let d (k : Nat) : Dword := s.savedD r g a (8 * k)
  let msd := fieldOf (d 1) 18 6
  let f := Flow.start g.width (d 0)
  let bar (mx : Bool) : Wait := .bar (fieldOf (d 2) 24 8) (BitVec.ofNat 32 (fieldOf (d 2) 32 32)) mx
  let run : Run := match fieldOf (d 1) 9 1 == 1, s.instrAt r g (d 0) with
    | true, some (.bar h mx o) => .wait (bar mx) (.bar h mx o)
    | true, _ => .wait (bar false) (.bar .plain false .z)
    | false, _ => .ready
  { f with
    xm := BitVec.ofNat 32 (fieldOf (d 1) 32 32)
    stack := ((upTo msd).map fun e => s.saved r g a (0x100 + 4 * e)).reverse
    mon := restoredMonitor (fieldOf (d 1) 10 1 == 1)
    run := run }

/-- The flow of a slice from its record; one that waited at REGANG waits again with its join id (R366) (assumption 67, DEDUCED). -/
def State.savedSlice (s : State) (r : CoreRef) (g : Gang) (a : Dword) (k : Nat) : Flow :=
  let o := 0x200 + 256 * k
  let pc := s.savedD r g a o
  let d := s.savedD r g a (o + 8)
  let f := Flow.start g.width pc
  let run : Run := if fieldOf d 38 1 == 1 then .ended
    else if fieldOf d 39 1 == 1 then
      let id := BitVec.ofNat 8 (fieldOf d 40 8)
      .wait (.regang id) ((s.instrAt r g pc).getD (.regang .plain id))
    else .ready
  { f with
    xm := BitVec.ofNat 32 (fieldOf d 0 32)
    stack := ((upTo (fieldOf d 32 6)).map fun e => s.saved r g a (o + 0x10 + 4 * e)).reverse
    mon := restoredMonitor (fieldOf d 48 1 == 1)
    run := run }

/-- Doubleword k of the record of frame n. -/
def State.savedRecord (s : State) (r : CoreRef) (g : Gang) (a : Dword) (n k : Nat) : Dword :=
  s.savedD r g a (0x1000 + 40 * n + 8 * k)

/-- Whether VER or a reserved field of a control record is wrong (R364). -/
def State.recordWrong (s : State) (r : CoreRef) (g : Gang) (a : Dword) : Bool :=
  let d (k : Nat) : Dword := s.savedD r g a (8 * k)
  let slices := if fieldOf (d 1) 11 1 == 1 then upTo (g.width / 4) else []
  fieldOf (d 2) 0 8 != 1 || fieldOf (d 1) 8 1 != 0 || fieldOf (d 2) 18 6 != 0 || fieldOf (d 3) 21 11 != 0 ||
    (slices.any fun k => fieldOf (s.savedD r g a (0x200 + 256 * k + 8)) 49 15 != 0) ||
    (upTo (fieldOf (d 1) 24 8)).any fun n => recordBad (s.savedRecord r g a n)

/-- The gang with the frames, masks and numbers of its control record; no granule is resident yet (R364). -/
def State.fromRecord (s : State) (r : CoreRef) (g : Gang) (a : Dword) : Gang :=
  let d (k : Nat) : Dword := s.savedD r g a (8 * k)
  let parted := fieldOf (d 1) 11 1 == 1
  let frames := ((upTo (fieldOf (d 1) 24 8)).map fun n => Frame.ofRecord (s.savedRecord r g a n)).reverse
  let flows := if parted then (upTo (g.width / 4)).map (s.savedSlice r g a) else [s.savedFlow r g a]
  let nob := fieldOf (d 3) 16 5
  let bnx : BitVec 16 := (d 3).setWidth 16
  { g with
    body := ⟨frames, List.replicate (ownedList frames).sum ⟨List.replicate 8 (zeroLanes g.width), false⟩, flows, parted,
      if parted then fieldOf (d 1) 12 6 else 0, []⟩
    epc := d 0
    filled := 0
    syTwin := BitVec.ofNat 64 (fieldOf (d 3) 32 32 * 2 ^ 32 + fieldOf (d 2) 16 2)
    mxp := fieldOf (d 1) 0 8
    nextBatch := bnx
    openBatches := (upTo nob).map fun k => bnx - BitVec.ofNat 16 (nob - k) }

/-! ### The images (R156, R359) -/

/-- Fills a granule from its image in the save area; false when the access waits or fails (R156). -/
def State.fillFrom (s : State) (r : CoreRef) (slot : Nat) (a : Dword) (o : Nat) : State × Bool :=
  match s.gang? r slot with
  | none => (s, false)
  | some g =>
    let base := a + BitVec.ofNat 64 (0x4000 + 1024 * o)
    match s.imageBad r g .read base with
    | some t => ((s.cellarTrouble r slot o false base t).1, false)
    | none =>
      let rd (p : List Lanes × State) (c : Nat × Nat) : List Lanes × State :=
        let v := p.2.imageRead r g base c.1 c.2
        (setNth p.1 c.1 (setNth (p.1.getD c.1 []) c.2 v.1), v.2)
      let q := (granCells g.width).foldl rd (List.replicate 8 (zeroLanes g.width), s)
      ((q.2.modGang r slot fun g => { g.setGran o ⟨q.1, true⟩ with filled := o + 1 }).note r 2, true)

/-- The gang in its handler after restore entry, with the monitor of a joined gang (R203, R364). -/
def Gang.restored (g : Gang) (a vec : Dword) : Gang :=
  let b := (Body.start g.width 2 vec).setMonitor g.body.monitor
  let row (w : Word) : Lanes := sameLanes g.width ⟨w, false⟩
  { g with
    hand := some ⟨.restore, .preempt, g.body.flows.findIdx fun f => f.pc == g.epc && f.run != .ended,
      (b.setRow 0 (row (loWord a))).setRow 1 (row (hiWord a)), false⟩
    restore := none
    cause := BitVec.ofNat 64 (Cause.code .preempt)
    tval := 0
    ppl := .u
    pl := .s }

/-- The page of an area whose access waits for the host, or fails (R224, R364). -/
def State.areaBad (s : State) (r : CoreRef) (g : Gang) (a : Dword) : Option CellarTr :=
  (pagesOf 0x4000 a).findSome? fun p => match s.cellarTr r g .read p with
    | .ok _ => none
    | t => some t

/-- RESTORE_ENTRY (R364): first the control record is read and the gang becomes a frame waiter for its first frame; each frame
is filled when its granules are free, and then the gang waits for the next one, and last for its handler frame, in which it enters
its handler (assumption 67, DEDUCED). -/
def execRestoreEntry (ag : AgentRef) (s : State) : Res :=
  let r := ag.core
  match s.gang? r ag.slot with
  | none => notEnabled "RESTORE_ENTRY"
  | some g => match g.restore, s.areaBad r g (g.restore.getD 0) with
    | none, _ => notEnabled "RESTORE_ENTRY"
    | some _, some t =>
      let q := s.cellarTrouble r ag.slot 0 false (g.restore.getD 0) t
      when q.2 "RESTORE_ENTRY" q.1
    | some a, none =>
      if g.body.frames.isEmpty then
        let s1 := s.acquire r .i
        if s1.recordWrong r g a then
          .next ((match g.ctx with | some k => s1.killContext k | none => s1).endGang r ag.slot true)
        else
          let wait (c : Core) : Core := { c with waiters := c.waiters ++ [(ag.slot, 0, c.cycle)] }
          .next ((s1.modGang r ag.slot fun g => s1.fromRecord r g a).modCore r wait)
      else
        let c := s.core r
        let first := c.handReqs.isEmpty && (c.waiters.head?.map fun p => p.1) == some ag.slot
        if !first || !c.fits g (g.needOf 0) then notEnabled "RESTORE_ENTRY"
        else
          let away (c : Core) : Core := { c with waiters := c.waiters.filter fun p => p.1 != ag.slot }
          let again (c : Core) : Core := { away c with waiters := (away c).waiters ++ [(ag.slot, 0, c.cycle)] }
          if g.filled < g.body.grans.length then
            let fill (p : State × Bool) (k : Nat) : State × Bool :=
              if p.2 then p.1.fillFrom r ag.slot a (g.filled + k) else p
            let q := (upTo (g.needOf 0)).foldl fill (s, true)
            if q.2 then .next (q.1.modCore r again) else when (q.1 != s) "RESTORE_ENTRY" q.1
          else .next ((s.modGang r ag.slot fun g => g.restored a (s.vector r g .context)).modCore r away)

/-- Whether a gang waits at its TRET after restore entry. -/
def Gang.atRestoreTret (g : Gang) : Bool :=
  g.act.flows.any fun f => match f.run with | .wait .restoreTret _ => true | _ => false

/-- RESTORE_TRET_RELEASE (R365): the TRETs of a workgroup complete together, when none of its gangs has been saved again, as a
release and an acquire at group scope on every path, the B reads of its handlers' MMQs among them. -/
def execRestoreTretRelease (core : CoreRef) (wg : Nat) (s : State) : Res :=
  let gs := (s.core core).gangs.filter fun g => g.wg == wg
  let back (s : State) (g : Gang) : State :=
    (s.modGang core g.slot Gang.settleTrail).returnTrap core g.slot
  let read := s.readRest core fun t => gs.any fun g => g.uid == t.gang
  when (!gs.isEmpty && gs.all Gang.atRestoreTret && ((s.core core).wg wg).saved.isEmpty) "RESTORE_TRET_RELEASE"
    (gs.foldl back ((read.release core .c).acquire core .c))

end Sys2Proof.Machine
end

