-- ==== Sys2Proof/Machine/EvPlot.lean ====
section
/-! DEFINITION. Plots: presence, the reset sequence, admission, loss; contexts: creation, withdrawal, rebinding; then
the registers that firmware writes (spec 17 R389 to R394; 18 R403; 09 R217, R218). An event that R389 does not list for
a plot's state leaves the state as it is. -/

namespace Sys2Proof.Machine

/-- Moves a plot to a state, published in every map (R389). -/
def State.movePlot (s : State) (site : Nat) (st : PlotSt) : State :=
  (s.modPlot site fun p => { p with st := st }).publishAll

/-- A transition of R389: an event moves a plot out of the states that a test picks out. The presiding reeve makes it. -/
def State.plotEvent (s : State) (site : Nat) (name : String) (c : PlotSt → Bool) (f : State → State) : Res :=
  if 48 ≤ site || !s.presided then notEnabled name
  else if c (s.plot site).st then .next (f s) else .next s

/-- States POWERED to DRAINING of R389. -/
def PlotSt.live : PlotSt → Bool
  | .powered | .measured | .trained | .admitted | .serving | .draining => true
  | _ => false

/-- Stops every core of a site (assumption 68, DEDUCED). -/
def State.dropCores (s : State) (site : Nat) : State :=
  { s with cores := s.cores.filter fun c => c.ref.site != some site }

/-- Removes what a module brought: cores, memory, what its gangs have in flight, its ports, its clusters. -/
def State.powerOff (s : State) (site : Nat) : State :=
  let t := s.dropCores site
  let cut (p : Partition) : Partition := { p with clusters := p.clusters.filter fun q => q.1 != site }
  let u : State :=
    { t with
      islands := t.islands.filter fun x => x.site != site
      rops := t.rops.filter fun o => o.site != site
      links := t.links.filter fun l => l.dir.site != site
      partitions := t.partitions.map cut }
  u.modPlot site fun p => { p with pup := 0, oup := 0 }

/-- An island at power-on: its trust die has left reset (R403, step 1) and holds its device key, and the firmware's key in
slot 0 (R402, R404); firmware entry 0 (assumption 12, DESIGN CHOICE). -/
def Island.powered (site : Nat) (granary : Bool) (device digest : BitVec 384) (key : Nat) : Island where
  site := site
  granary := granary
  mem := .empty
  l2 := []
  l3 := []
  retain := []
  clusterTlb := []
  dieTlb := []
  regions := []
  generation := 0
  routes := []
  sls := []
  slw := []
  lanes := []
  clock := 0
  clockOn := false
  resetStep := 1
  fwEntry := 0
  oppoints := []
  ctxs := []
  grids := []
  cqueues := []
  savedWgs := []
  seen := []
  keySlots := [⟨0, none, key⟩]
  digests := [digest, 0, 0, 0]
  device := device
  aliasOf := none
  corrected := 0

/-- A free digest, signature or key (assumption 2, DESIGN CHOICE). -/
def State.freeDigest (s : State) : BitVec 384 × State :=
  (Config.freeDigest s.freeCtr, { s with freeCtr := s.freeCtr + 1 })

/-- A plot becomes LOST: its cores stop, and its containment is to begin (R390). -/
def State.lose (s : State) (site : Nat) : State :=
  (s.dropCores site).modPlot site fun p => { p with st := .lost, lossOf := none, was := p.st }

/-! ### Presence, power and the reset sequence (R389, R403) -/

/-- PRESENCE_DETECTED. -/
def execPresenceDetected (plot : Nat) (m : ModuleDesc) (s : State) : Res :=
  if m.kind == .none then notEnabled "PRESENCE_DETECTED"
  else s.plotEvent plot "PRESENCE_DETECTED" (fun st => st == .vacant) fun s =>
    (s.modPlot plot fun p => { p with st := .seated, kind := m.kind, device := m.device, digests := m.digests }).publishAll

/-- PRESENCE_LOST. -/
def execPresenceLost (plot : Nat) (s : State) : Res :=
  s.plotEvent plot "PRESENCE_LOST" (fun st => st != .vacant && st != .lost) fun s =>
    if (s.plot plot).st.live then s.lose plot
    else ((s.powerOff plot).modPlot plot fun p => { p with st := .vacant, kind := .none, device := 0, digests := [] }).publishAll

/-- POWER_GOOD. -/
def execPowerGood (plot : Nat) (s : State) : Res :=
  s.plotEvent plot "POWER_GOOD" (fun st => st == .seated) fun s =>
    let p := s.plot plot
    let key := s.fresh
    let x := Island.powered plot (p.kind == .granary) p.device (p.digests.headD 0) key.1
    let t := key.2
    (({ t with islands := t.islands ++ [x] } : State)).movePlot plot .powered

/-- The module of a plot loses its power, and the plot is FENCED. -/
def State.fence (s : State) (plot : Nat) : State := (s.powerOff plot).movePlot plot .fenced

/-- Measures a digest of an island, all zeros for the microcode of a granary (R401). One that is not what the operator has
approved stops the sequence (R403) (assumption 104, DEDUCED). -/
def State.measure (s : State) (x : Island) (n : Nat) (k : State → State) : Res :=
  let p := s.plot x.site
  let d := if n == 2 && x.granary then 0 else p.digests.getD n 0
  let t := s.modIsland x.site fun x => { x with digests := setNth x.digests n d }
  .next (if p.approved[n]? == some d && p.approved.head? == x.digests.head? then k t else s.fence x.site)

/-- RESET_STEP_RELEASE (R403): the step after the last one completed. -/
def execResetStepRelease (plot : Nat) (s : State) : Res :=
  match s.island? plot with
  | none => notEnabled "RESET_STEP_RELEASE"
  | some x =>
    let s1 := s.modIsland plot fun x => { x with resetStep := x.resetStep + 1 }
    if (s.plot plot).st != .powered then notEnabled "RESET_STEP_RELEASE"
    else match x.resetStep with
      | 1 => s1.measure x 1 fun s =>
        let u := s.fresh
        u.2.modCore (.steward plot) fun _ => .booted (.steward plot) u.1 x.fwEntry
      | 2 => .next s1
      | 3 => s1.measure x 3 fun s => s
      | 4 => s1.measure x 2 fun s => s
      | _ =>
        let go (x : Island) : Island := { x with clock := 0, clockOn := true, aliasOf := some (Config.aliasKey x.device x.digests) }
        when s.presided "RESET_STEP_RELEASE" ((s1.modIsland plot go).movePlot plot .measured)

/-- MEASUREMENT_REFUSED: power is removed. -/
def execMeasurementRefused (plot : Nat) (s : State) : Res :=
  s.plotEvent plot "MEASUREMENT_REFUSED" (fun st => st == .powered || st == .measured) fun s => s.fence plot

/-- TRAINING_FAILED: power is removed. -/
def execTrainingFailed (plot : Nat) (s : State) : Res :=
  s.plotEvent plot "TRAINING_FAILED" (fun st => st == .powered || st == .measured) fun s => s.fence plot

/-- Whether a neighbour's ports are trained already. -/
def PlotSt.isTrained : PlotSt → Bool
  | .trained | .admitted | .serving | .draining | .released => true
  | _ => false

/-- Whether a neighbour can train a port. -/
def PlotSt.canTrain (st : PlotSt) : Bool := st.isTrained || st == .measured

/-- Brings a direction up. -/
def State.trainDir (s : State) (site port : Nat) : State :=
  (s.installLink ⟨site, port⟩).modPlot site fun p => { p with pup := p.pup ||| BitVec.ofNat 8 (2 ^ port) }

/-- PORTS_TRAINED: the ports to every neighbour that is in service, and perhaps to others that have been measured
(assumption 77, DEDUCED). -/
def execPortsTrained (plot : Nat) (pup : BitVec 8) (s : State) : Res :=
  let ok (port : Nat) : Bool := match hopTo plot port with
    | some t => if pup.getLsbD port then (s.plot t).st.canTrain else !(s.plot t).st.isTrained
    | none => !pup.getLsbD port
  let join (s : State) (port : Nat) : State := match pup.getLsbD port, hopTo plot port with
    | true, some t => (s.trainDir plot port).trainDir t (farPort port)
    | _, _ => s
  if (s.plot plot).st == .measured && !(upTo 8).all ok then notEnabled "PORTS_TRAINED"
  else s.plotEvent plot "PORTS_TRAINED" (fun st => st == .measured) fun s =>
    ((upTo 8).foldl join s).movePlot plot .trained

/-- PLOT_ADMIT. -/
def execPlotAdmit (plot : Nat) (s : State) : Res :=
  s.plotEvent plot "PLOT_ADMIT" (fun st => st == .trained) fun s =>
    (s.modPlot plot fun p => { p with inc := p.inc + 1 }).movePlot plot .admitted

/-- FIRST_BIND: a context is bound at an admitted plot. -/
def execFirstBind (plot ctx : Nat) (s : State) : Res :=
  if !s.bound ctx plot then notEnabled "FIRST_BIND"
  else s.plotEvent plot "FIRST_BIND" (fun st => st == .admitted) fun s => s.movePlot plot .serving

/-- A draining plot that every context has unbound is released; no boundary waits for its vote any more (R396) (assumption
78, DEDUCED). -/
def State.settleDrain (s : State) (site : Nat) : State :=
  let used := (s.island? site).any fun x => x.ctxs.any fun k => k.binding != .unbound
  if (s.plot site).st == .draining && !used then (s.movePlot site .released).boundaries else s

/-- DRAIN_REQUEST. -/
def execDrainRequest (plot : Nat) (s : State) : Res :=
  s.plotEvent plot "DRAIN_REQUEST" (fun st => st == .serving) fun s => (s.movePlot plot .draining).settleDrain plot

/-- SERVICE_REQUEST. -/
def execServiceRequest (plot : Nat) (s : State) : Res :=
  s.plotEvent plot "SERVICE_REQUEST" (fun st => st == .released) fun s => s.movePlot plot .admitted

/-- HEARTBEAT_MISS: three heartbeats of 1 ms missed. -/
def execHeartbeatMiss (plot : Nat) (s : State) : Res :=
  s.plotEvent plot "HEARTBEAT_MISS" PlotSt.live fun s => s.lose plot

/-- FATAL_ISLAND_ERROR. -/
def execFatalIslandError (plot : Nat) (s : State) : Res :=
  s.plotEvent plot "FATAL_ISLAND_ERROR" PlotSt.live fun s => s.lose plot

/-! ### Loss (R390) -/

/-- Fails every operation that a test picks out. -/
def State.failRops (s : State) (c : Rop → Bool) (cause : Cause) : State :=
  (s.rops.filter fun o => c o && o.st != .answered).foldl (fun s o => s.failRop o cause) s

/-- Removes a site from NEXT of every group. -/
def State.leaveGroups (s : State) (site : Nat) : State :=
  let out (g : Group) : Group := { g with next := g.next &&& ~~~(BitVec.ofNat 48 (2 ^ site)) }
  let f (k : Context) : Context := { k with groups := k.groups.map out }
  { s with contexts := s.contexts.map f }

/-- PLOT_LOSS (R390): steps 1 to 3, and step 4 asked for; then, when every map is published, steps 5 and 6, and the boundaries
that waited for the site alone. -/
def execPlotLoss (plot : Nat) (s : State) : Res :=
  let p := s.plot plot
  if p.st != .lost || !s.presided then notEnabled "PLOT_LOSS"
  else match p.lossOf with
    | none =>
      let mine (k : CtxIsland) : Option Nat := if k.binding == .bound then some k.ctx else none
      let bound := ((s.island? plot).map fun x => x.ctxs.filterMap mine).getD []
      let hole := s.setHole plot (fun _ => true) true
      let off : State := { hole with rops := hole.rops.filter fun o => o.site != plot }
      let failed := off.failRops (fun o => s.touches o plot) .siteLost
      .next (((failed.leaveGroups plot).powerOff plot).modPlot plot fun p => { p with lossOf := some bound }).publishAll
    | some bound =>
      let lossAt (ctx : Nat) (s : State) (x : Island) : State := s.addCounter x.site ctx 0xFFE 1
      let counted := bound.foldl (fun s ctx => s.islands.foldl (lossAt ctx) s) s
      when (s.contexts.all fun k => s.mapsDone k.num) "PLOT_LOSS"
        ((counted.modPlot plot fun p => { p with lossOf := none, st := .fenced }).publishAll).boundaries

/-- HEADER_UE (R347, R399): the partition of a device interface, whose contexts are killed with MC_HEADER_UE; the other
partitions' operations in flight over the link of the failed header, if it was a flit's, fail with SITE_LOST (R384). -/
def execHeaderUe (lost : FailedHeader) (s : State) : Res :=
  let s1 := (s.partition lost.iface).foldl (fun s n => (s.raiseIn n .mcHeaderUe 0).killWork n) s
  let s2 := s1.modIface lost.iface fun i => { i with st := .error, out := i.out ++ [.interfaceError] }
  when (s.iface? lost.iface).isSome "HEADER_UE"
    (match lost.hop with
      | none => s2
      | some h =>
        let ends := h :: ((hopTo h.1 h.2).map fun t => (t, farPort h.2)).toList
        s2.failRops (fun o => o.st != .held && o.path.any fun y => ends.contains y) .siteLost)

/-! ### Contexts (R298, R393, R394) -/

/-- The smallest key slot of an island that is free (R404). -/
def Island.freeKey (x : Island) : Option Nat :=
  (List.range' 1 1023).find? fun n => !x.keySlots.any fun p => p.slot == n

/-- Where a quota of the Commons may begin: the lowest boundary of 16 KiB with room (R215) (assumption 74, DESIGN CHOICE). -/
def Island.commonsAt (x : Island) (n : Nat) : Option Nat :=
  let clear (a : Nat) : Bool := a + n ≤ Config.commonsBytes &&
    x.ctxs.all fun k => a + n ≤ k.commonsBase || k.commonsBase + k.quota ≤ a
  if n == 0 then some 0
  else (upTo (Config.commonsBytes / Config.commonsUnit)).findSome? fun k =>
    if clear (Config.commonsUnit * k) then some (Config.commonsUnit * k) else none

/-- Whether the clusters of a site may be those of a partition: they are already, or it has none there and no other partition
holds one of them (R165, R397) (assumption 74, DESIGN CHOICE). -/
def State.clustersOk (s : State) (iface site : Nat) (cls : List Nat) : Bool :=
  let at' (p : Partition) : Option (List Nat) := (p.clusters.find? fun q => q.1 == site).map fun q => q.2
  s.partitions.all fun p => match at' p with
    | none => true
    | some l => if p.iface == iface then l == cls else cls.all fun c => !l.contains c

/-- Assigns the clusters of a site to a partition, which this may create. -/
def State.assign (s : State) (iface site : Nat) (cls : List Nat) : State :=
  let old := (s.partitions.find? fun p => p.iface == iface).getD ⟨iface, []⟩
  let new : Partition := { old with clusters := setAt site cls old.clusters }
  { s with partitions := upsert (fun p => p.iface == iface) new s.partitions }

/-- Whether a secured session stands on an interface or on the physical function of its port (R400, R404) (assumption 74, DESIGN
CHOICE). -/
def State.secured (s : State) (iface : Nat) : Bool :=
  (s.iface? iface).any (fun i => i.established) || (s.iface? (iface / 256 * 256)).any fun i => i.established

/-- Whether a plot takes a binding (R394). -/
def State.takesBinding (s : State) (site : Nat) : Bool := (s.plot site).st == .admitted || (s.plot site).st == .serving

/-- Whether the host can create or rebind a context of an interface's partition on an island as a descriptor says (R215, R298,
R404). -/
def State.canBind (s : State) (iface ctx : Nat) (d : IslandDesc) : Bool :=
  match s.island? d.site with
  | none => false
  | some x =>
    let taken (n : Nat) : Bool := x.ctxs.any fun k => k.lists.any fun l => l.num == n
    s.takesBinding d.site && (x.ctx? ctx).isNone && x.freeKey.isSome && (x.commonsAt d.quota).isSome &&
      s.secured iface && s.clustersOk iface d.site (sortUp (fun n => n) d.clusters) &&
      (d.lists.all fun b => b.list < 64 && b.capacity ≤ 1048576 && !taken b.list) && (d.lists.map fun b => b.list).Nodup &&
      (d.clusters.all fun c => c < 16) && d.clusters.Nodup

/-- The state of a context on an island at its creation (R164, R298, R311, R332, R348, R387). -/
def CtxIsland.created (ctx slot base : Nat) (holes : BitVec 48) (d : IslandDesc) : CtxIsland where
  ctx := ctx
  site := d.site
  root := d.root
  tvec := d.tvec &&& ~~~3
  pol := d.pol
  polhead := 0
  fullSeen := false
  lostPol := 0
  cellar := d.cellar
  quota := d.quota
  commonsBase := base
  commons := .empty
  counters := []
  lists := d.lists.map fun b => ⟨b.list, b.capacity, []⟩
  puts := []
  takers := []
  out := 0
  qt := true
  ep := 0
  mapFrame := d.mapFrame
  maps := []
  frames := d.frames
  keySlot := slot
  holes := holes
  clusters := sortUp (fun n => n) d.clusters
  watchdog := d.watchdog
  ballots := []
  binding := .bound

/-- Writes page-table entries of the host. -/
def State.hostWrites (s : State) (site : Nat) (l : List (Nat × Dword)) : State :=
  l.foldl (fun s p => s.performDword site p.1 p.2) s

/-- Adds a context of an interface's partition to an island. -/
def State.bind (s : State) (iface ctx : Nat) (holes : BitVec 48) (d : IslandDesc) : State :=
  let s1 := (s.hostWrites d.site d.entries).assign iface d.site (sortUp (fun n => n) d.clusters)
  s1.modIsland d.site fun x =>
    let n := x.freeKey.getD 0
    { x with
      ctxs := x.ctxs ++ [.created ctx n ((x.commonsAt d.quota).getD 0) holes d]
      keySlots := x.keySlots ++ [⟨n, some ctx, d.key⟩] }

/-- Sites as a mask. -/
def siteMask (l : List Nat) : BitVec 48 := l.foldl (fun m n => m ||| BitVec.ofNat 48 (2 ^ n)) 0

/-- Fills the frames that the host gives a context with zeros, poison bits clear (R394). -/
def State.zeroFrames (s : State) (site : Nat) (frames : List (Nat × Nat)) : State :=
  let zero (m : Mem) (p : Nat × Nat) : Mem := m.clear (16384 * p.1) (16384 * p.2)
  s.modIsland site fun x => { x with mem := frames.foldl zero x.mem }

/-- CONTEXT_CREATE (R298, R305, R395, R397, R399): by the operator, through the presiding reeve (assumption 74, DESIGN CHOICE). -/
def execContextCreate (d : ContextDesc) (s : State) : Res :=
  let sites := d.islands.map fun x => x.site
  let st := (s.iface? d.iface).map fun i => i.st
  let ok := s.presided && d.number < 256 && (s.context? d.number).isNone && (st == some .locked || st == some .run) &&
    d.iface % 256 != 0 && sites.Nodup && d.islands.all (fun x => s.canBind d.iface d.number x) && d.groups.all (fun g => g.group < 16) &&
    (d.groups.map fun g => g.group).Nodup
  let queue (n : Nat) : LaunchQueue := match d.queues[n]? with
    | some q => LaunchQueue.checked ⟨q.base &&& ~~~127, q.qsz % 16, 0, 0, 0, 0⟩
    | none => ⟨0, 0, 0, 0, 0, 0⟩
  let group (g : GroupDesc) : Group := ⟨g.group, g.mem, g.mem, g.set, 0, 0, 0⟩
  let k : Context :=
    { num := d.number, iface := d.iface, psn := d.psn, twin := d.twin, debugged := d.debugged, capture := d.capture,
      heapBase := d.heapBase, heapSize := d.heapSize, queues := (upTo 4).map queue, groups := d.groups.map group, heals := [],
      ring := [], records := 0, killed := false }
  let s1 : State := { s with contexts := s.contexts ++ [k] }
  when ok "CONTEXT_CREATE"
    (sites.foldl (fun s n => s.initMap n d.number)
      (d.islands.foldl (fun s x => s.bind d.iface d.number (~~~siteMask sites) x) s1))

/-- Whether a gang, a copy or a remote operation of a context on an island has still to end (R393, R406). -/
def State.ctxBusy (s : State) (ctx site : Nat) : Bool :=
  (s.cores.any fun c => c.ref.site == some site &&
    ((c.gangs.any fun g => g.ctx == some ctx) || c.chans.any fun q => q.2.any fun k => k.charge.ctx == some ctx)) ||
  s.rops.any fun o => o.site == site && o.charge.ctx == some ctx

/-- Ends the grids of a context on an island without completing them (R393). -/
def Island.dropGrids (x : Island) (ctx : Nat) : Island :=
  let y := x.dropWork ctx
  let drop (g : Grid) : Grid := if g.ctx == ctx then { g with dropped := true } else g
  { y with grids := y.grids.map drop }

/-- CONTEXT_WITHDRAW (R393): first steps 1 and 2; then, when nothing of the context is left there, steps 3 and 4. Step 5 is the
retirement of the key slot, a step of its own, once the maps are published (assumption 78, DEDUCED). -/
def execContextWithdraw (ctx site : Nat) (s : State) : Res :=
  let bindTo (b : Binding) (k : CtxIsland) : CtxIsland := { k with binding := b }
  match s.presided, s.ctxAt? site ctx with
  | false, _ | _, none => notEnabled "CONTEXT_WITHDRAW"
  | true, some k => match k.binding with
    | .unbound => notEnabled "CONTEXT_WITHDRAW"
    | .bound =>
      let s1 := (s.setHole site (fun n => n == ctx) true).modGangs (fun r g => r.site == some site && g.ctx == some ctx)
        fun g => g.addPending .vacate 2
      .next ((s1.modCtxAt site ctx (bindTo .leaving)).modIsland site fun x => x.dropGrids ctx)
    | .leaving =>
      let fail := s.failRops (fun o => s.ownPanel o && o.target == site && o.site != site && o.charge.ctx == some ctx) .remoteHole
      when (!s.ctxBusy ctx site) "CONTEXT_WITHDRAW" (((fail.modCtxAt site ctx (bindTo .unbound)).publishCtx ctx).settleDrain site)

/-- CONTEXT_REBIND (R394): steps 1 and 2, and step 3 asked for; HEAL follows its publication. -/
def execContextRebind (ctx : Nat) (d : IslandDesc) (s : State) : Res :=
  match s.context? ctx with
  | none => notEnabled "CONTEXT_REBIND"
  | some k =>
    let others := ((s.islands.filter fun x => x.site != d.site).filterMap fun x => x.ctx? ctx)
    let holes := (others.head?.map fun y => y.holes).getD (~~~0)
    let s1 := ((s.zeroFrames d.site d.frames).bind k.iface ctx holes d).setHole d.site (fun n => n == ctx) false
    let join (g : Group) : Group := if g.set.getLsbD d.site then { g with next := g.next ||| siteMask [d.site] } else g
    let joinAll (k : Context) : Context := { k with groups := k.groups.map join, heals := k.heals ++ [d.site] }
    when (s.presided && !k.killed && s.canBind k.iface ctx d) "CONTEXT_REBIND"
      (((s1.modContext ctx joinAll).initMap d.site ctx).publishCtx ctx).settleMaps

/-- MAP_PUBLISH (R375): the next step of the update of a map. -/
def execMapPublish (site ctx : Nat) (s : State) : Res :=
  match s.presided, s.island? site, s.ctxAt? site ctx with
  | true, some x, some k =>
    let p := s.publishStep x k k.maps
    when (!k.maps.isEmpty) "MAP_PUBLISH" (p.1.modCtxAt site ctx fun k => { k with maps := p.2 }).settleMaps
  | _, _, _ => notEnabled "MAP_PUBLISH"

/-! ### Registers that firmware writes (R18, R217, R218, R318, R351) -/

/-- FW_LAUNCH_REGISTER (R18). -/
def execFwLaunchRegister (core : CoreRef) (value : Dword) (s : State) : Res :=
  when ((s.core? core).isSome && !core.isCompute) "FW_LAUNCH_REGISTER" (s.fwLaunch core value)

/-- REGION_TABLE_REWRITE (R218): programs see no value change. Lines of the frames whose entry changes are written back and leave
L3. -/
def execRegionTableRewrite (site : Nat) (entries : List (Nat × Dword × Dword)) (s : State) : Res :=
  let put (x : Island) (e : Nat × Dword × Dword) : Island := (x.setRegion e.1 false e.2.1).setRegion e.1 true e.2.2
  when ((s.island? site).isSome && entries.all fun e => e.1 < 64) "REGION_TABLE_REWRITE"
    (s.modIsland site fun x =>
      let y := entries.foldl put x
      { y with generation := x.generation + 1, l3 := x.l3.filter fun n => x.regionOf (n / 512) == y.regionOf (n / 512)
               retain := x.retain.filter fun p => x.regionOf (p.1 / 512) == y.regionOf (p.1 / 512) })

/-- CONTROL_WINDOW_WRITE (R217, R318, R351, R370). A breakpoint is cleared by an address that is not a multiple of 4
(assumption 73, DESIGN CHOICE). -/
def execControlWindowWrite (site : Nat) (reg : WindowReg) (v : Dword) (s : State) : Res :=
  let n := v.toNat
  let bad := notEnabled "CONTROL_WINDOW_WRITE"
  match s.island? site, reg with
  | none, _ => bad
  | some _, .region e hi => if e < 64 then .next (s.modIsland site fun x => x.setRegion e hi v) else bad
  | some _, .generation => .next (s.modIsland site fun x => { x with generation := v.setWidth 16 })
  | some _, .route e hi => if 1 ≤ e && e < 256 then .next (s.modIsland site fun x => x.setRoute e hi v) else bad
  | some _, .sls die => if die < 2 && 1 ≤ n && n ≤ 64 then .next (s.modIsland site fun x => { x with sls := setAt die n x.sls }) else bad
  | some _, .slw die => if die < 2 && n < 256 then .next (s.modIsland site fun x => { x with slw := setAt die n x.slw }) else bad
  | some _, .breakpoint core i ctx =>
    let others (c : Core) : List Breakpoint := c.bps.filter fun b => b.index != i
    if core.site == some site && core.isCompute && i < 8 then
      .next (s.modCore core fun c => { c with bps := others c ++ (if n % 4 == 0 then [⟨i, ctx, v⟩] else []) })
    else bad

end Sys2Proof.Machine
end

