-- ==== Sys2Proof/Machine/EvHost.lean ====
section
/-! DEFINITION. Links and their keys, reeves, the host's messages and interfaces, key slots, off-panel lanes, power-on
(spec 18, R397 to R417). -/

namespace Sys2Proof.Machine

/-! ### Links (R407 to R409) -/


/-- A step of a direction that exists. -/
def State.linkStep (s : State) (name : String) (d : LinkDir) (c : Link → Bool) (f : Link → State) : Res :=
  match s.link? d with
  | some l => when (c l) name (f l)
  | none => notEnabled name

/-- Takes one direction's port or lane down; the direction's record goes with it. -/
def State.endDown (s : State) (d : LinkDir) : State :=
  let t : State := { s with links := s.links.filter fun l => l.dir != d }
  if d.port < 8 then t.modPlot d.site fun p => { p with pup := p.pup &&& ~~~(BitVec.ofNat 8 (2 ^ d.port)) }
  else t.modLane d.site (d.port % 4) fun l => { l with up := false }

/-- Takes a port down, with the port at the far end of an in-glass hop, or a lane; the operations in flight through it fail,
though another lane of its port may stay up (R409) (assumption 30, DEDUCED). -/
def State.portDown (s : State) (d : LinkDir) : State :=
  let far : List LinkDir := ((hopTo d.site d.port).map fun t => ⟨t, farPort d.port⟩).toList
  let s1 := (far.foldl State.endDown (s.endDown d)).publishAll
  s1.failRops (fun o => o.st != .held && (s.wayTo o.path).any fun h => (d :: far).contains h) .siteLost

/-- FLIT_TAG_FAIL (R409): the failure of a flit or of a retry of it; after three failed retries the port goes down
(assumption 70, DEDUCED). -/
def execFlitTagFail (link : LinkDir) (s : State) : Res :=
  s.linkStep "FLIT_TAG_FAIL" link (fun _ => true) fun l =>
    if l.retries < 3 then s.setLink { l with retries := l.retries + 1 } else s.portDown link

/-- The spare key slot. -/
def Link.spare (l : Link) : Option Nat := if l.active then l.key0 else l.key1
def Link.setSpare (l : Link) (k : Option Nat) : Link := if l.active then { l with key0 := k } else { l with key1 := k }

/-- KEY_INSTALL (R408, step 1): by the presiding reeve. -/
def execKeyInstall (link : LinkDir) (key : Nat) (s : State) : Res :=
  s.linkStep "KEY_INSTALL" link (fun l => s.presided && l.spare.isNone) fun l =>
    s.setLink { l.setSpare (some key) with installing := true, ackSender := false, ackReceiver := false }

/-- KEY_ACK (R408, steps 2 and 3): after both acknowledgements the sender uses the new index. -/
def execKeyAck (link : LinkDir) (sender : Bool) (s : State) : Res :=
  s.linkStep "KEY_ACK" link (fun l => l.installing && !(if sender then l.ackSender else l.ackReceiver)) fun l =>
    let m : Link := if sender then { l with ackSender := true } else { l with ackReceiver := true }
    s.setLink (if m.ackSender && m.ackReceiver then { m with active := !m.active, installing := false, counter := 0 } else m)

/-- OLD_KEY_RETIRE (R408, step 5). -/
def execOldKeyRetire (link : LinkDir) (s : State) : Res :=
  s.linkStep "OLD_KEY_RETIRE" link (fun l => !l.installing && l.spare.isSome) fun l => s.setLink (l.setSpare none)

/-! ### Reeves (R410 to R412) -/

/-- HEARTBEAT (R410): a presiding reeve sends it with its term. A higher term, or the same term of a lower reeve, has the
receiver stand by. -/
def execHeartbeat (reeve sender : Nat) (term : Word) (s : State) : Res :=
  match s.reeve? reeve, s.reeve? sender with
  | some r, some q =>
    let yields := r.term.toNat < term.toNat || (r.term == term && sender < reeve)
    when (!r.failed && sender != reeve && q.presiding && !q.failed && q.term == term) "HEARTBEAT"
      (if yields then s.modReeve reeve fun r => { r with presiding := false, term := term } else s)
  | _, _ => notEnabled "HEARTBEAT"

/-- Has a map that an update left torn rewritten whole, and GEN made even (R411). -/
def State.mendMap (s : State) (site ctx : Nat) : State :=
  match s.ctxAt? site ctx, s.island? site with
  | some k, some x =>
    let base := k.mapFrame * 65536
    let whole : MapJob := ⟨s.mapWords site ctx, true, true⟩
    let torn := (x.mem.dword base).getLsbD 0
    if torn then s.modCtxAt site ctx fun k => { k with maps := whole :: k.maps.filter fun j => !j.odd } else s
  | _, _ => s

/-- PRESIDENCY_CLAIM (R410, R411): a standby that has missed three heartbeats. -/
def execPresidencyClaim (reeve : Nat) (s : State) : Res :=
  match s.reeve? reeve with
  | some r =>
    let s1 := s.modReeve reeve fun r => { r with presiding := true, term := r.term + 1 }
    let mend (s : State) (x : Island) : State := x.ctxs.foldl (fun s k => s.mendMap x.site k.ctx) s
    when (!r.failed && !r.presiding) "PRESIDENCY_CLAIM" (s1.islands.foldl mend s1)
  | none => notEnabled "PRESIDENCY_CLAIM"

/-- Sends an interface to ERROR: its contexts are killed and their queues halted (R399). -/
def State.ifaceError (s : State) (n : Nat) : State :=
  let kill (s : State) (k : Nat) : State := if (s.context? k).any fun c => c.killed then s else s.killContext k
  ((s.partition n).foldl kill s).modIface n fun i => { i with st := .error, out := i.out ++ [.interfaceError] }

/-- REEVE_FAILURE (R412) (assumption 81, DEDUCED). -/
def execReeveFailure (reeve : Nat) (s : State) : Res :=
  let mine := ((s.ifaces.map fun i => i.num) ++ s.contexts.map fun k => k.iface).eraseDups.filter fun n => n / 512 == reeve
  let s1 := mine.foldl State.ifaceError s
  let s2 := s1.modReeve reeve fun r => { r with failed := true, presiding := false }
  when ((s.reeve? reeve).any fun r => !r.failed) "REEVE_FAILURE"
    { s2 with cores := s2.cores.filter fun c => c.ref != .reeve reeve }

/-- PANEL_POWER_ON (R412) (assumption 82, DESIGN CHOICE). -/
def execPanelPowerOn (s : State) : Res :=
  .next { State.reset with panel := s.panel, phys := s.phys, agenda := s.agenda, freeCtr := s.freeCtr }

/-! ### SPDM (R400 to R402) -/

/-- The presiding reeve answers a request on an interface. -/
def State.answerOn (s : State) (name : String) (iface : Nat) (f : Iface → Iface) : Res :=
  when (s.presided && (s.iface? iface).isSome) name (s.modIface iface f)

/-- Adds a message. -/
def Iface.say (i : Iface) (m : Message) : Iface := { i with out := i.out ++ [m] }

/-- GET_VERSION. -/
def execGetVersion (iface : Nat) (s : State) : Res := s.answerOn "GET_VERSION" iface fun i => i.say .version

/-- GET_CAPABILITIES. -/
def execGetCapabilities (iface : Nat) (s : State) : Res := s.answerOn "GET_CAPABILITIES" iface fun i => i.say .capabilities

/-- NEGOTIATE_ALGORITHMS: the only four (R401). -/
def execNegotiateAlgorithms (iface : Nat) (s : State) : Res :=
  s.answerOn "NEGOTIATE_ALGORITHMS" iface fun i => i.say (.algorithms [.ecdsaP384, .sha384, .ecdheP384, .aes256Gcm])

/-- The certificate chain of slot 0: from the Renide root to the device key of the presiding reeve (R401). -/
def State.chain (s : State) : List (BitVec 384) :=
  let n := ((s.reeves.find? fun r => r.presiding && !r.failed).map fun r => r.num).getD 0
  [Config.renideRoot, Config.certificate (Config.reeveKey n)]

/-- GET_DIGESTS: that of slot 0, a free value (assumption 2, DESIGN CHOICE). -/
def execGetDigests (iface : Nat) (s : State) : Res :=
  let d := s.freeDigest
  d.2.answerOn "GET_DIGESTS" iface fun i => i.say (.digests d.1)

/-- GET_CERTIFICATE. -/
def execGetCertificate (iface : Nat) (s : State) : Res :=
  s.answerOn "GET_CERTIFICATE" iface fun i => i.say (.certificate s.chain)

/-- CHALLENGE. -/
def execChallenge (iface : Nat) (nonce : BitVec 256) (s : State) : Res :=
  let d := s.freeDigest
  d.2.answerOn "CHALLENGE" iface fun i => i.say (.challengeAuth nonce d.1)

/-- The records that the trust dies in service sign with their alias keys, in ascending site order (R402). -/
def State.evidence (s : State) (nonce : BitVec 256) : List EvidenceRec :=
  (sortUp (fun (x : Island) => x.site) (s.islands.filter fun x => (s.plot x.site).st.open')).map fun x =>
    let inc := (s.plot x.site).inc
    let key := x.aliasOf.getD 0
    ⟨x.site, inc, x.digests, nonce, Config.signed key x.digests x.site inc nonce, Config.certificate key⟩

/-- The digest of a measurement index, none when it is absent (R401). -/
def State.measurement (s : State) (index : Nat) : Option (BitVec 384) :=
  if 1 ≤ index && index ≤ 3 then some (Config.reeveDigest (index - 1))
  else if index == 8 then some Config.handlerDigest
  else if 16 ≤ index && index < 16 + 4 * 48 && (s.plot ((index - 16) / 4)).st.open' then
    (s.island? ((index - 16) / 4)).bind fun x => x.digests[(index - 16) % 4]?
  else none

/-- GET_MEASUREMENTS. -/
def execGetMeasurements (iface index : Nat) (nonce : BitVec 256) (s : State) : Res :=
  if index == 254 then
    let d := s.freeDigest
    d.2.answerOn "GET_MEASUREMENTS" iface fun i => i.say (.evidence (s.evidence nonce) d.1)
  else s.answerOn "GET_MEASUREMENTS" iface fun i => i.say (.measurement index (s.measurement index))

/-- KEY_EXCHANGE: a session opens. -/
def execKeyExchange (iface key : Nat) (s : State) : Res :=
  let d := s.freeDigest
  d.2.answerOn "KEY_EXCHANGE" iface fun i => { i with sessionKey := some key, established := false }.say (.keyExchange d.1)

/-- FINISH: the session is secured (assumption 72, PRESUMED). -/
def execFinish (iface : Nat) (s : State) : Res :=
  s.answerOn "FINISH" iface fun i =>
    if i.sessionKey.isSome && !i.established then { i with established := true }.say .finished else i.say .refusedRequest

/-- KEY_UPDATE. -/
def execKeyUpdate (iface : Nat) (s : State) : Res :=
  let u := s.fresh
  u.2.answerOn "KEY_UPDATE" iface fun i =>
    if i.established then { i with sessionKey := some u.1 }.say .keyUpdated else i.say .refusedRequest

/-- END_SESSION. -/
def execEndSession (iface : Nat) (s : State) : Res :=
  s.answerOn "END_SESSION" iface fun i =>
    if i.established then { i with sessionKey := none, established := false }.say .ended else i.say .refusedRequest

/-- IDE_KM (R400): over a secured session. -/
def execIdeKm (iface key : Nat) (s : State) : Res :=
  s.answerOn "IDE_KM" iface fun i =>
    if i.established then { i with ideKey := some key }.say .keyProgrammed else i.say .refusedRequest

/-! ### TDISP (R399) -/

/-- Whether an interface is a virtual function: only those pass through the TDISP states (R397, R399). -/
def Iface.virtual (i : Iface) : Bool := i.num % 256 != 0

/-- LOCK_INTERFACE_REQUEST. -/
def execLockInterfaceRequest (iface : Nat) (s : State) : Res :=
  s.answerOn "LOCK_INTERFACE_REQUEST" iface fun i =>
    if i.virtual && i.st == .unlocked then { i with st := .locked }.say .accepted else i.say .refusedRequest

/-- START_INTERFACE_REQUEST: an interface in RUN has an IDE stream (R400) (assumption 72, PRESUMED). -/
def execStartInterfaceRequest (iface : Nat) (s : State) : Res :=
  s.answerOn "START_INTERFACE_REQUEST" iface fun i =>
    if i.virtual && i.st == .locked && i.ideKey.isSome then { i with st := .run }.say .accepted else i.say .refusedRequest

/-- Ends a STOP_INTERFACE_REQUEST once every key slot of the partition has been retired (R399, R406). -/
def State.settleStop (s : State) (iface : Nat) : State :=
  let mine := s.partition iface
  let bound := s.islands.any fun x => x.ctxs.any fun k => mine.contains k.ctx
  if (s.iface? iface).any (fun i => i.stopping) && !bound then
    let t : State :=
      { s with
        contexts := s.contexts.filter fun k => k.iface != iface
        partitions := s.partitions.filter fun p => p.iface != iface }
    t.modIface iface fun i =>
      { i with st := .unlocked, stopping := false, ideKey := none }.say .accepted
  else s

/-- STOP_INTERFACE_REQUEST (R399) (assumption 72, PRESUMED). -/
def execStopInterfaceRequest (iface : Nat) (s : State) : Res :=
  let kill (s : State) (k : Nat) : State := if (s.context? k).any fun c => c.killed then s else s.killContext k
  let mine := s.partition iface
  let unbind (k : CtxIsland) : CtxIsland := if mine.contains k.ctx then { k with binding := .unbound } else k
  let unbindAll (x : Island) : Island := { x with ctxs := x.ctxs.map unbind }
  let s1 := mine.foldl kill s
  let s2 : State := { s1 with islands := s1.islands.map unbindAll }
  let s3 := (s2.islands.map fun x => x.site).foldl State.settleDrain (mine.foldl State.publishCtx s2)
  let s4 := s3.modIface iface fun i => { i with stopping := true }
  if !s.presided then notEnabled "STOP_INTERFACE_REQUEST"
  else match s.iface? iface with
    | none => notEnabled "STOP_INTERFACE_REQUEST"
    | some i =>
      .next (if i.st == .unlocked || !i.virtual then s.modIface iface fun i => i.say .refusedRequest else s4.settleStop iface)

/-- HOST_CONFIG_WRITE (R399): which registers there are is not described, so an accepted write is only answered
(assumption 80, DESIGN CHOICE). -/
def execHostConfigWrite (iface _offset : Nat) (_value : Word) (s : State) : Res :=
  match s.iface? iface with
  | none => notEnabled "HOST_CONFIG_WRITE"
  | some i => match i.st with
    | .unlocked => .next (s.modIface iface fun i => i.say .accepted)
    | .locked => .next (s.ifaceError iface)
    | .run => .next (s.ifaceError iface)
    | .error => .next s

/-! ### TLPs (R398 to R400, R413) -/

/-- The queue block that an offset of BAR0 lies in: context slot and queue; the context must be of the interface's
partition (assumption 74, DESIGN CHOICE). -/
def State.barQueue (s : State) (iface off : Nat) : Option (Context × Nat × LaunchQueue) :=
  let c := (off - 0x10000) / 128
  let q := (off - 0x10000) / 32 % 4
  if off < 0x10000 || 256 ≤ c || off % 4 != 0 then none
  else match s.contexts.find? fun k => k.num == c && k.iface == iface with
    | some k => (k.queue? q).map fun b => (k, q, b)
    | none => none

/-- Word j of a queue block (R305). -/
def LaunchQueue.word (b : LaunchQueue) (j : Nat) : Word :=
  match j with
  | 0 => loWord b.qbase
  | 1 => hiWord b.qbase
  | 2 => BitVec.ofNat 32 b.qsz
  | 4 => b.qwr
  | 5 => b.qrd
  | 6 => b.qei <<< 8 ||| b.qerr.setWidth 32
  | 7 => b.qei >>> 24
  | _ => 0

/-- A host write of word j of a queue block (R305, R306). A write of QEI, and of QERR with another value than 0, changes nothing
(assumption 121, DESIGN CHOICE). -/
def LaunchQueue.setWord (b : LaunchQueue) (j : Nat) (v : Word) : LaunchQueue :=
  match j with
  | 0 => { b with qbase := joinWords (v &&& ~~~127) (hiWord b.qbase) }
  | 1 => { b with qbase := joinWords (loWord b.qbase) v }
  | 2 => LaunchQueue.checked { b with qsz := v.toNat % 16 }
  | 4 => b.doorbell v
  | 6 => if v.toNat % 256 == 0 then b.restart else b
  | _ => b

/-- Writes a host's words at I; those of a poisoned TLP with a new origin each (R400). -/
def State.hostWrite (s : State) (ctx site : Nat) (poisoned : Bool) (l : List (Nat × Word)) : State :=
  l.foldl (fun s p =>
    if poisoned then
      let o := s.newOrigin (interfaceCharge (some ctx) site (s.psnOf (some ctx))) 11 (BitVec.ofNat 64 p.1)
      o.2.performI site (wholeWrite (p.1 / 4) ⟨o.1, true⟩)
    else s.performI site (wholeWrite (p.1 / 4) ⟨p.2, false⟩)) s

/-- A TLP under the protection of the stream of an interface in RUN. -/
def State.tlpRun (s : State) (iface : Nat) (poisoned : Bool) (t : Tlp) : State :=
  let no := s.modIface iface fun i => i.say .unsupported
  match t with
  | .barRead off =>
    if off < 0x10000 then
      let w := s.free
      w.2.modIface iface fun i => i.say (.completion w.1)
    else match s.barQueue iface off with
      | some (_, _, b) => s.modIface iface fun i => i.say (.completion (b.word (off / 4 % 8)))
      | none => no
  | .barWrite off v =>
    if off < 0x10000 then s
    else match s.barQueue iface off with
      | some (k, q, _) => if k.killed then s else s.modQueue k.num q fun b => b.setWord (off / 4 % 8) v
      | none => no
  | .memWrite ctx site a data =>
    match s.island? site, s.partition iface |>.contains ctx with
    | some x, true =>
      let at' (n : Nat) : Option Nat := x.ownPa ctx (a + BitVec.ofNat 64 (4 * n))
      let l := data.mapIdx fun n v => (at' n, v)
      if a.toNat % 4 != 0 || l.any fun p => p.1.isNone then no
      else
        let s1 := s.modContext ctx fun k => k.record' 2 0 a data
        s1.hostWrite ctx site poisoned (l.map fun p => (p.1.getD 0, p.2))
    | _, _ => no
  | .capture .. | .approve .. => no

/-- What the operator asks of the presiding reeve on a physical function (R397, R403, R413) (assumption 74, DESIGN CHOICE). -/
def State.operatorAsks (s : State) (t : Tlp) : State :=
  match t with
  | .capture ctx on => s.modContext ctx fun k => { k with capture := on }
  | .approve plot l => if plot < 48 then s.modPlot plot fun p => { p with approved := l } else s
  | _ => s

/-- HOST_TLP (R398 to R400). -/
def execHostTlp (iface : Nat) (ide poisoned : Bool) (tlp : Tlp) (s : State) : Res :=
  let say (m : Message) : Res := .next (s.modIface iface fun i => i.say m)
  match s.iface? iface with
  | none => notEnabled "HOST_TLP"
  | some i => match i.st, tlp with
    | .run, t => if i.virtual && ide && i.ideKey.isSome then .next (s.tlpRun iface poisoned t) else say .unsupported
    | .error, .barRead _ => say (.completion 0xFFFFFFFF)
    | .error, _ => .next s
    | _, .barRead off => if off < 0x10000 then .next (s.tlpRun iface poisoned (.barRead off)) else say .unsupported
    | _, .barWrite off _ => if off < 0x10000 then .next s else say .unsupported
    | _, .memWrite .. => say .unsupported
    | _, t => if !i.virtual && s.presided then .next (s.operatorAsks t) else say .unsupported

/-! ### Key slots (R404 to R406) -/

/-- What the pages of a retired slot read as under another key: free words, poison bits kept (R405, R406)
(assumption 75, DEDUCED). -/
def State.scramble (s : State) (site : Nat) (frames : List (Nat × Nat)) : State :=
  let word (w : Nat) (s : State) (n : Nat) : State :=
    let f := s.free
    f.2.modIsland site fun x => { x with mem := x.mem.write ⟨w + n, ⟨f.1, false⟩, 15, false, false⟩ }
  frames.foldl (fun s p => (upTo (16384 * p.2)).foldl (word (16384 * p.1)) s) s

/-- KEY_SLOT_RETIRE (R393, R406), once the maps show that the context is unbound there: its lines and translations go, dirty
lines unwritten, the slot is zeroised, and its pages are returned. -/
def execKeySlotRetire (site slot : Nat) (s : State) : Res :=
  match (s.island? site).bind fun x => x.ctxs.find? fun k => k.keySlot == slot with
  | none => notEnabled "KEY_SLOT_RETIRE"
  | some k =>
    let mine (w : Nat) : Bool := k.frames.any fun p => p.1 ≤ w / 16384 && w / 16384 < p.1 + p.2
    let cut (c : Core) : Core := if c.ref.site == some site then { c with l1 := c.l1.filter fun t => !mine (8 * t.idx) } else c
    let queue (q : Nat × List DWrite) : Nat × List DWrite := (q.1, q.2.filter fun d => !mine d.word)
    let s1 : State := { s with cores := s.cores.map cut }
    let s2 := (s1.modIsland site fun x =>
      { x with l2 := x.l2.map queue, ctxs := x.ctxs.filter (fun j => j.ctx != k.ctx), keySlots := x.keySlots.filter fun p => p.slot != slot,
               l3 := x.l3.filter (fun n => !mine (32 * n)), retain := x.retain.filter (fun p => !mine (32 * p.1)), grids := x.grids.filter (fun g => g.ctx != k.ctx), seen := x.seen.filter fun e => e.1 != k.ctx }).dropTlb site
      fun e => e.ctx == k.ctx
    let s3 := (s2.scramble site k.frames).settleDrain site
    when (k.binding == .unbound && !s.ctxBusy k.ctx site && s.mapsDone k.ctx) "KEY_SLOT_RETIRE"
      (match s.context? k.ctx with
        | some c => s3.settleStop c.iface
        | none => s3)

/-! ### Off-panel lanes (R415 to R417) -/

/-- A write of a lane's registers. -/
def State.laneWrite (s : State) (name : String) (site lane : Nat) (f : OlLane → OlLane) : Res :=
  when ((s.island? site).isSome && lane < 4) name (s.modLane site lane f)

/-- ol.ctl as it stands, TRN clear. -/
def OlLane.ctl (l : OlLane) : Word := (l.read 0).getD 0

/-- Sets or clears bit k. -/
def setBit (v : Word) (k : Nat) (b : Bool) : Word := if b then v ||| oneBit k else v &&& ~~~oneBit k

/-- OL_LASER (R415): a write of ol.ctl that sets LEN and keeps the rest. -/
def execOlLaser (site lane : Nat) (on : Bool) (s : State) : Res :=
  s.laneWrite "OL_LASER" site lane fun l => l.writeCtl (setBit l.ctl 0 on)

/-- OL_TRAIN_START (R415): a write of ol.ctl with TRN = 1. -/
def execOlTrainStart (site lane slot : Nat) (s : State) : Res :=
  s.laneWrite "OL_TRAIN_START" site lane fun l =>
    l.writeCtl ((l.ctl &&& ~~~0xF00) ||| 2 ||| BitVec.ofNat 32 (slot % 16 * 256))

/-- OL_ACT (R417): a write of ol.ctl that sets ACT and keeps the rest. -/
def execOlAct (site lane : Nat) (on : Bool) (s : State) : Res :=
  s.laneWrite "OL_ACT" site lane fun l => l.writeCtl (setBit l.ctl 2 on)

/-- OL_LOCK_WRITE (R417). -/
def execOlLockWrite (site lane : Nat) (value : Word) (s : State) : Res :=
  s.laneWrite "OL_LOCK_WRITE" site lane fun l => l.write 0x008 value

/-- OL_MAP_WRITE (R417). -/
def execOlMapWrite (site lane : Nat) (hi : Bool) (value : Word) (s : State) : Res :=
  s.laneWrite "OL_MAP_WRITE" site lane fun l => l.write (if hi then 0x010 else 0x00C) value

/-- OL_RING_WRITE (R416). -/
def execOlRingWrite (site lane slot : Nat) (value : Word) (s : State) : Res :=
  if 12 ≤ slot then notEnabled "OL_RING_WRITE" else s.laneWrite "OL_RING_WRITE" site lane fun l => l.writeRing slot value

/-- Loads of the steward that wait for a measurement go on. -/
def Flow.ringReady (f : Flow) : Flow :=
  match f.run with
  | .wait .ringRead _ => { f with run := .ready }
  | _ => f

/-- OL_RING_READ (R416): the measurement of a ring exists, so a read of it can be made. -/
def execOlRingRead (site lane slot : Nat) (s : State) : Res :=
  let go (g : Gang) : Gang := g.modAct fun b => { b with flows := b.flows.map Flow.ringReady }
  when (slot < 12 && lane < 4 && (s.island? site).any fun x => !(x.lane lane).unmeasured.contains slot) "OL_RING_READ"
    (s.modGangs (fun r _ => r == .steward site) go)

/-- DROP_MEASUREMENT (R416). -/
def execDropMeasurement (site lane slot : Nat) (drop : BitVec 16) (s : State) : Res :=
  if 12 ≤ slot then notEnabled "DROP_MEASUREMENT"
  else s.laneWrite "DROP_MEASUREMENT" site lane fun l =>
    { l with drop := setAt slot drop l.drop, unmeasured := remove slot l.unmeasured }

/-- OL_TRAINING_DONE (R415). -/
def execOlTrainingDone (site lane : Nat) (eyeOk : Bool) (s : State) : Res :=
  if (s.island? site).any fun x => (x.lane lane).training.isSome then
    s.laneWrite "OL_TRAINING_DONE" site lane fun l => { l with training := none, tdone := true, eyeok := eyeOk }
  else notEnabled "OL_TRAINING_DONE"

/-- OL_LASER_STABLE (R415). -/
def execOlLaserStable (site lane : Nat) (s : State) : Res :=
  if (s.island? site).any fun x => (x.lane lane).len then s.laneWrite "OL_LASER_STABLE" site lane fun l => { l with lrdy := true }
  else notEnabled "OL_LASER_STABLE"

end Sys2Proof.Machine
end

