-- ==== Sys2Proof/Machine/Elementary.lean ====
section
/-! DEFINITION. The functions of the FPS class (spec 05, R119, R120): quotients and roots exactly, with a
sticky bit; the five transcendental functions in fixed point with 448 fraction bits, far more than the
distance between any value of theirs and a rounding boundary (assumption 16, PRESUMED). -/

namespace Sys2Proof.Machine

/-! ### Quotient and root -/

/-- m / n × 2^e with a sticky lowest bit, n not 0. -/
def quotNum (neg : Bool) (m n : Nat) (e : Int) : Num :=
  let k := 64 + n.log2
  let t := m * 2 ^ k
  .fin neg (2 * (t / n) + (if t % n == 0 then 0 else 1)) (e - k - 1)

/-- The integer square root, bit by bit. -/
def isqrt (n : Nat) : Nat → Nat → Nat
  | 0, r => r
  | b + 1, r => let t := r + 2 ^ b; isqrt n b (if t * t ≤ n then t else r)

/-- The square root of m × 2^e with a sticky lowest bit. -/
def sqrtNum (m : Nat) (e : Int) : Num :=
  let odd := e % 2 != 0
  let n := (if odd then 2 * m else m) * 2 ^ 128
  let f := (if odd then e - 1 else e) / 2
  let r := isqrt n ((n.log2 + 2) / 2) 0
  .fin false (2 * r + (if r * r == n then 0 else 1)) (f - 64 - 1)

/-- a / b (R120): none when invalid. -/
def Num.div (a b : Num) : Option Num :=
  match a, b with
  | .nan, _ | _, .nan => some .nan
  | .inf _, .inf _ => none
  | .inf s, .fin t _ _ => some (.inf (s != t))
  | .fin s _ _, .inf t => some (.fin (s != t) 0 0)
  | .fin s m e, .fin t n f =>
    if n == 0 then (if m == 0 then none else some (.inf (s != t)))
    else some (quotNum (s != t) m n (e - f))

/-- 1 / a. -/
def Num.rcp (a : Num) : Option Num := Num.div (.fin false 1 0) a

/-- Square root (R120). -/
def Num.sqrt (a : Num) : Option Num :=
  match a with
  | .nan => some .nan
  | .inf s => if s then none else some (.inf false)
  | .fin s m e => if m == 0 then some (.fin s 0 0) else if s then none else some (sqrtNum m e)

/-- 1 over the square root (R120): the root of 1 / a, the quotient's sticky bit kept below the root's. -/
def Num.rsq (a : Num) : Option Num :=
  match a with
  | .nan => some .nan
  | .inf s => if s then none else some (.fin false 0 0)
  | .fin s m e =>
    if m == 0 then some (.inf s)
    else if s then none
    else
      let k := 256 + m.log2
      let t := 2 ^ k
      some (sqrtNum (2 * (t / m) + (if t % m == 0 then 0 else 1)) (-e - k - 1))

/-! ### Fixed point -/

/-- Fraction bits. -/
def fixBits : Nat := 448
def fixOne : Nat := 2 ^ fixBits
def fixMul (a b : Nat) : Nat := a * b / fixOne

/-- Sum of t/(2j+1) × q^j over n terms from j on, with t multiplied by q/2^fixBits each term. -/
def atanhSum (q : Nat) : Nat → Nat → Nat → Nat
  | 0, _, _ => 0
  | n + 1, j, t => t / (2 * j + 1) + atanhSum q n (j + 1) (fixMul t q)

/-- atanh of a fixed-point number of at most 1/3. -/
def atanhFix (t : Nat) : Nat := atanhSum (fixMul t t) 150 0 t

/-- ln 2. -/
def ln2Fix : Nat := 2 * atanhFix (fixOne / 3)

/-- Alternating sum of 1/((2j+1) k^(2j+1)): arc tangent of 1/k. -/
def atanInv (k : Nat) : Nat → Nat → Nat → Int
  | 0, _, _ => 0
  | n + 1, j, p => ((p / (2 * j + 1) : Nat) : Int) - atanInv k n (j + 1) (p / (k * k))

/-- 2π, by Machin's formula. -/
def twoPiFix : Nat := (2 * (16 * atanInv 5 100 0 (fixOne / 5) - 4 * atanInv 239 32 0 (fixOne / 239))).toNat

/-- Sum of the series of exp from term n on: t is the term, y the argument. -/
def expSum (y : Nat) : Nat → Nat → Nat → Nat
  | 0, _, _ => 0
  | f + 1, n, t => t + expSum y f (n + 1) (fixMul t y / (n + 1))

/-- exp of a fixed-point number below 1. -/
def expFix (y : Nat) : Nat := expSum y 100 0 fixOne

/-- Alternating series t - t y²/((n+1)(n+2)) + ...: sine from n = 1 with t = y, cosine from n = 0 with t = 1. -/
def trigSum (y2 : Nat) : Nat → Nat → Nat → Int
  | 0, _, _ => 0
  | f + 1, n, t => (t : Int) - trigSum y2 f (n + 2) (fixMul t y2 / ((n + 1) * (n + 2)))

def sinFix (y : Nat) : Nat := (trigSum (fixMul y y) 60 1 y).toNat
def cosFix (y : Nat) : Nat := (trigSum (fixMul y y) 60 0 fixOne).toNat

/-! ### The five functions -/

/-- 2^x (R120). An argument beyond ±512 is out of every format's range. -/
def Num.exp2 (a : Num) : Option Num :=
  match a with
  | .nan => some .nan
  | .inf s => some (if s then .fin false 0 0 else .inf false)
  | .fin s m e =>
    if m == 0 then some (.fin false 1 0)
    else if 9 ≤ (m.log2 : Int) + e then some (.fin false 1 (if s then -512 else 512))
    else
      let x : Int := (if s then -1 else 1) * (scale m (e + fixBits) : Nat)
      let n := x.fdiv fixOne
      let f := (x.fmod fixOne).toNat
      if f == 0 then some (.fin false 1 n)
      else some (.fin false (2 * expFix (fixMul f ln2Fix) + 1) (n - fixBits - 1))

/-- log2 x (R120). -/
def Num.log2f (a : Num) : Option Num :=
  match a with
  | .nan => some .nan
  | .inf s => if s then none else some (.inf false)
  | .fin s m e =>
    if m == 0 then some (.inf true)
    else if s then none
    else
      let k : Int := (m.log2 : Int) + e
      let p := 2 ^ m.log2
      if m == p then some (.fin (k < 0) k.natAbs 0)
      else
        let l := 2 * atanhFix ((m - p) * fixOne / (m + p)) * fixOne / ln2Fix
        let v : Int := k * (fixOne : Nat) + (l : Nat)
        some (.fin (v < 0) (2 * v.natAbs + 1) (-(fixBits : Int) - 1))

/-- sin and cos of y turns for y of at most 1/8. -/
def sinTurn (y : Nat) : Nat := sinFix (fixMul y twoPiFix)
def cosTurn (y : Nat) : Nat := cosFix (fixMul y twoPiFix)

/-- sin(2πr) for 0 < r < 1 in fixed point, r no multiple of 1/4: sign and magnitude. -/
def sinUnit (r : Nat) : Bool × Nat :=
  let neg := fixOne / 2 < r
  let h := if neg then r - fixOne / 2 else r
  let q := if fixOne / 4 < h then fixOne / 2 - h else h
  (neg, if q ≤ fixOne / 8 then sinTurn q else cosTurn (fixOne / 4 - q))

/-- sin(2πx + π/2 × c) for x = (-1)^s m 2^e, c = 0 for FSIN and 1 for FCOS (R119, R120). -/
def turnNum (c : Nat) (s : Bool) (m : Nat) (e : Int) : Num :=
  let f := scale m (e + fixBits) % fixOne
  let r0 := if s then (fixOne - f) % fixOne else f
  let r := (r0 + c * (fixOne / 4)) % fixOne
  if r == 0 || r == fixOne / 2 then .fin (c == 0 && s) 0 0
  else if r == fixOne / 4 then .fin false 1 0
  else if r == 3 * (fixOne / 4) then .fin true 1 0
  else
    let v := sinUnit r
    .fin v.1 (2 * v.2 + 1) (-(fixBits : Int) - 1)

def Num.turn (c : Nat) (a : Num) : Option Num :=
  match a with
  | .nan => some .nan
  | .inf _ => none
  | .fin s m e => some (turnNum c s m e)

/-- tanh (R120). Beyond 64 the value lies closer to 1 than any format's spacing. -/
def Num.tanh (a : Num) : Option Num :=
  match a with
  | .nan => some .nan
  | .inf s => some (.fin s 1 0)
  | .fin s m e =>
    if m == 0 then some (.fin s 0 0)
    else if 6 ≤ (m.log2 : Int) + e then some (.fin s (2 ^ 100 - 1) (-100))
    else
      let y := 2 * scale m (e + fixBits)
      let k := y / ln2Fix
      let x := expFix (y - k * ln2Fix) * 2 ^ k
      some (.fin s (2 * ((x - fixOne) * fixOne / (x + fixOne)) + 1) (-(fixBits : Int) - 1))

end Sys2Proof.Machine
end

