-- ==== Sys2Proof/Machine/Fps.lean ====
section
/-! DEFINITION. The FPS class: quotients, roots, transcendentals, conversions and MX blocks in registers
(spec 05, R119 to R128). -/

namespace Sys2Proof.Machine

/-- Completes a function of A. -/
def Ex.fun1 (fm : FpMod) (ty : FTy) (f : Num → Option Num) (x : Ex) : Res :=
  x.fpOp fm ty [1] fun i k => f (x.fp ty 1 i k)

/-- An element of n bits of a format, extended to its destination registers: signed integers by sign (R122). -/
def extendEl (f : Fmt) : El → El
  | .val c => .val (if fmtSigned f && fmtBits f < 32 then codeOf 32 (intVal true (fmtBits f) c) else c)
  | .fresh k c => .fresh k (if fmtSigned f && fmtBits f < 32 then codeOf 32 (intVal true (fmtBits f) c) else c)

/-- The result of a conversion of one element (R81 to R83, R122). -/
def convert (src dst : Fmt) (mode : RMode) (sat : Bool) (c : Nat) : El :=
  if !src.isFloat then toFloat dst mode sat (.ofInt (intVal (fmtSigned src) (fmtBits src) c))
  else if dst.isFloat then toFloat dst mode sat (fmtDecode src c)
  else toInteger dst mode sat (fmtDecode src c)

/-- CVTFF, CVTFI and CVTIF (R122). -/
def Ex.cvt (fm : FpMod) (src dst : Fmt) (x : Ex) : Res :=
  x.packed dst.regs (32 * dst.regs) [1] fun i _ =>
    extendEl dst (convert src dst fm.mode fm.sat (x.num 1 i % 2 ^ fmtBits src))

/-- FPACK: A's registers, then B's (R123). The sources of the merge are the registers. -/
def Ex.fpack (fm : FpMod) (dst : Fmt) (x : Ex) : Res :=
  x.check [] (x.lanewise 1 fun i s =>
    let rs := x.regs 1 i ++ x.regs 2 i
    s.tag (x.charge i) rs 1 (fmtBits dst) (rs.map fun r => convert .f32 dst fm.mode fm.sat r.v.toNat))

/-- FUNPK (R124). -/
def Ex.funpk (src : Fmt) (x : Ex) : Res :=
  let b := fmtBits src
  x.packed (32 / b) 32 [1] fun i k => convert src .f32 .rne false (x.elt 1 i b k)

/-! ### MX blocks (R125 to R128) -/

/-- emax of an element format (R126). -/
def emaxOf : Fmt → Int
  | .e4m3 => 8 | .e5m2 => 15
  | _ => 2

/-- floor(log2) of a finite value that is not zero. -/
def Num.floorLog (v : Num) : Int :=
  match v with
  | .fin _ m e => (m.log2 : Int) + e
  | _ => 0

/-- X of a clean finite block (R126). -/
def mxScale (dst : Fmt) (els : List Num) : Int :=
  (els.filter fun v => !v.isZero).foldl (fun a v => max a (v.floorLog - emaxOf dst)) (-127)

/-- One element over 2^X, clamped (R126). -/
def mxElement (dst : Fmt) (mode : RMode) (x : Int) (v : Num) : Nat :=
  match v with
  | .fin s m e =>
    match (fmtLayout dst).round mode s m (e - x) with
    | .code c => c
    | .over b => (fmtLayout dst).signed b (fmtLayout dst).maxMag
  | _ => 0

/-- The 32 source registers of a quarter's block, in element order (R125). -/
def Ex.block (x : Ex) (q : Nat) : List LV := (upTo 8).flatMap fun j => x.regs 1 (8 * q + j)

/-- The two result registers of each lane of quarter q (R126, R127). -/
def Ex.mxencQuarter (x : Ex) (dst : Fmt) (mode : RMode) (q : Nat) (s : State) : List (Nat × List LV) × State :=
  let rs := x.block q
  let els := rs.map fun r => lf32.decode r.v.toNat
  let marked (mark : Nat) : List (Nat × List LV) := (upTo 8).map fun j =>
    (8 * q + j, [⟨BitVec.ofNat 32 (if j == 0 then mark else 0), false⟩, ⟨0xFF, false⟩])
  match merge rs with
  | some w => (marked (blockMark (provOrigin w) (provKind w)), s)
  | none =>
    if els.any fun v => match v with | .fin _ _ _ => false | _ => true then
      if x.g.psn then
        let lane := (x.set.find? fun i => i / 8 == q).getD (8 * q)
        let o := s.newOrigin (x.charge lane) 2 0
        (marked (blockMark (provOrigin o.1) 2), o.2)
      else (marked (blockMark 0x1FFF 0), s)
    else
      let e := mxScale dst els
      ((upTo 8).map fun j =>
        (8 * q + j, [⟨BitVec.ofNat 32 (joinEls (fmtBits dst) ((upTo 4).map fun k =>
            mxElement dst mode e (els.getD (4 * j + k) .nan))), false⟩, ⟨BitVec.ofNat 32 (e + 127).toNat, false⟩]), s)

/-- Quarters one after another. -/
def eachQuarter (f : Nat → State → List (Nat × List LV) × State) : List Nat → State → List (Nat × List LV) × State
  | [], s => ([], s)
  | q :: qs, s =>
    let r := f q s
    let t := eachQuarter f qs r.2
    (r.1 ++ t.1, t.2)

/-- MXENC (R125 to R127). -/
def Ex.mxenc (fm : FpMod) (dst : Fmt) (x : Ex) : Res :=
  let qs := (upTo (x.w / 8)).filter fun q => x.set.any fun i => i / 8 == q
  let r := eachQuarter (x.mxencQuarter dst fm.mode) qs x.s
  x.check (x.whole 0) (x.result r.2 (rowsOf x.w 2 r.1))

/-- MXDEC (R128). -/
def Ex.mxdec (fm : FpMod) (src : Fmt) (x : Ex) : Res :=
  x.check (x.whole 0) (x.lanewise 4 fun i s =>
    let words := (upTo 8).map fun j => x.lv 1 (alignDown i 8 + j)
    let sc := x.lv 2 i
    let e := sc.v.toNat % 256
    match blockPoison words sc e with
    | some w => (List.replicate 4 ⟨w, true⟩, s)
    | none =>
      ((upTo 4).map fun k =>
        let v := ((fmtDecode src (x.elt 1 i (fmtBits src) k)).scaleBy ((e : Int) - 127))
        ⟨BitVec.ofNat 32 (lf32.finish fm.mode fm.sat v), false⟩, s))

def execFrcp (h : Hdr) (fm : FpMod) (ty : FTy) (d a : Opnd) (s : State) : Res :=
  issue (.frcp h fm ty d a) s (Ex.fun1 fm ty Num.rcp)
def execFrsq (h : Hdr) (fm : FpMod) (ty : FTy) (d a : Opnd) (s : State) : Res :=
  issue (.frsq h fm ty d a) s (Ex.fun1 fm ty Num.rsq)
def execFsqrt (h : Hdr) (fm : FpMod) (ty : FTy) (d a : Opnd) (s : State) : Res :=
  issue (.fsqrt h fm ty d a) s (Ex.fun1 fm ty Num.sqrt)
def execFdiv (h : Hdr) (fm : FpMod) (ty : FTy) (d a b : Opnd) (s : State) : Res :=
  issue (.fdiv h fm ty d a b) s fun x => x.fpOp fm ty [1, 2] fun i k => Num.div (x.fp ty 1 i k) (x.fp ty 2 i k)
def execFexp2 (h : Hdr) (fm : FpMod) (ty : FTy) (d a : Opnd) (s : State) : Res :=
  issue (.fexp2 h fm ty d a) s (Ex.fun1 fm ty Num.exp2)
def execFlog2 (h : Hdr) (fm : FpMod) (ty : FTy) (d a : Opnd) (s : State) : Res :=
  issue (.flog2 h fm ty d a) s (Ex.fun1 fm ty Num.log2f)
def execFsin (h : Hdr) (fm : FpMod) (ty : FTy) (d a : Opnd) (s : State) : Res :=
  issue (.fsin h fm ty d a) s (Ex.fun1 fm ty (Num.turn 0))
def execFcos (h : Hdr) (fm : FpMod) (ty : FTy) (d a : Opnd) (s : State) : Res :=
  issue (.fcos h fm ty d a) s (Ex.fun1 fm ty (Num.turn 1))
def execFtanh (h : Hdr) (fm : FpMod) (ty : FTy) (d a : Opnd) (s : State) : Res :=
  issue (.ftanh h fm ty d a) s (Ex.fun1 fm ty Num.tanh)
def execCvtff (h : Hdr) (fm : FpMod) (src dst : Fmt) (d a : Opnd) (s : State) : Res :=
  issue (.cvtff h fm src dst d a) s (Ex.cvt fm src dst)
def execCvtfi (h : Hdr) (fm : FpMod) (src dst : Fmt) (d a : Opnd) (s : State) : Res :=
  issue (.cvtfi h fm src dst d a) s (Ex.cvt fm src dst)
def execCvtif (h : Hdr) (fm : FpMod) (src dst : Fmt) (d a : Opnd) (s : State) : Res :=
  issue (.cvtif h fm src dst d a) s (Ex.cvt fm src dst)
def execFpack (h : Hdr) (fm : FpMod) (src dst : Fmt) (d a b : Opnd) (s : State) : Res :=
  issue (.fpack h fm src dst d a b) s (Ex.fpack fm dst)
def execFunpk (h : Hdr) (fm : FpMod) (src dst : Fmt) (d a : Opnd) (s : State) : Res :=
  issue (.funpk h fm src dst d a) s (Ex.funpk src)
def execMxenc (h : Hdr) (fm : FpMod) (src dst : Fmt) (d a : Opnd) (s : State) : Res :=
  issue (.mxenc h fm src dst d a) s (Ex.mxenc fm dst)
def execMxdec (h : Hdr) (fm : FpMod) (src dst : Fmt) (d a b : Opnd) (s : State) : Res :=
  issue (.mxdec h fm src dst d a b) s (Ex.mxdec fm src)

end Sys2Proof.Machine
end

