-- ==== Sys2Proof/Machine/Int.lean ====
section
/-! DEFINITION. The INT class (spec 05, R97 to R104). -/

namespace Sys2Proof.Machine

/-- Completes an INT instruction whose sources A and B and result have the element type (R97). -/
def Ex.int2 (x : Ex) (md : IntMod) (n : Nat) (f : Int → Int → Int) : Res :=
  x.intOp md n [1, 2] fun i k => f (x.int md 1 i k) (x.int md 2 i k)

def Ex.iadd (md : IntMod) (x : Ex) : Res := x.int2 md 1 (· + ·)
def Ex.isub (md : IntMod) (x : Ex) : Res := x.int2 md 1 (· - ·)
def Ex.imul (md : IntMod) (x : Ex) : Res := x.int2 md md.w.regs (· * ·)
def Ex.imin (md : IntMod) (x : Ex) : Res := x.int2 md 1 min
def Ex.imax (md : IntMod) (x : Ex) : Res := x.int2 md 1 max

/-- IMULH: floor(a × b / 2^w). -/
def Ex.imulh (md : IntMod) (x : Ex) : Res := x.int2 md md.w.regs fun a b => (a * b).fdiv (2 ^ md.w.bits)

/-- IMAD: at width 64 A and B are single registers (R98). -/
def Ex.imad (md : IntMod) (x : Ex) : Res :=
  let m : IntMod := if md.w == .w64 then { md with w := .w32 } else md
  x.intOp md md.w.regs [1, 2, 3] fun i k => x.int m 1 i k * x.int m 2 i k + x.int md 3 i k

def Ex.iabs (md : IntMod) (x : Ex) : Res := x.intOp md 1 [1] fun i k => (x.int md 1 i k).natAbs

/-- IDIV (R99). -/
def Ex.idiv (md : IntMod) (x : Ex) : Res :=
  x.packed md.w.regs md.w.bits [1, 2] fun i k =>
    if x.int md 2 i k == 0 then .fresh 1 (2 ^ md.w.bits - 1)
    else .val (fitInt md.fmt md.sat ((x.int md 1 i k).tdiv (x.int md 2 i k)))

/-- IREM (R99). -/
def Ex.irem (md : IntMod) (x : Ex) : Res :=
  x.packed md.w.regs md.w.bits [1, 2] fun i k =>
    if x.int md 2 i k == 0 then .fresh 1 (x.elt 1 i md.w.bits k)
    else .val (fitInt md.fmt false ((x.int md 1 i k).tmod (x.int md 2 i k)))

/-- A condition on integers (R101). -/
def Cond.holds (c : Cond) (a b : Int) : Bool :=
  match c with
  | .eq => a == b | .ne => a != b
  | .lt => a < b | .le => a ≤ b
  | .gt => b < a | .ge => b ≤ a

/-- ICMP (R101). -/
def Ex.icmp (md : IntMod) (c : Cond) (one : Bool) (x : Ex) : Res :=
  x.packed 1 md.w.bits [1, 2] fun i k =>
    truth md.w.bits one (Cond.holds c (x.int md 1 i k) (x.int md 2 i k))

/-- DCMP: pairs in, one register out (R101). -/
def Ex.dcmp (md : IntMod) (c : Cond) (one : Bool) (x : Ex) : Res :=
  x.packed 1 32 [1, 2] fun i _ => truth 32 one (Cond.holds c (x.int md 1 i 0) (x.int md 2 i 0))

/-- ISEL: only the selected source counts when C is clean (R102); a poisoned pair follows R89
(assumption 38, DEDUCED). -/
def Ex.isel (md : IntMod) (x : Ex) : Res :=
  let n := md.w.regs
  x.check [] (x.lanewise n fun i s =>
    let c := x.lv 3 i
    let j := if c.v != 0 then 1 else 2
    let srcs := if c.p then [x.one 1 i, x.one 2 i, c] else [x.one j i]
    s.tag (x.charge i) srcs n (32 * n) [.val (x.num j i)])

/-- DADD and DSUB (R97). -/
def Ex.dadd (md : IntMod) (x : Ex) : Res := x.int2 md 2 (· + ·)
def Ex.dsub (md : IntMod) (x : Ex) : Res := x.int2 md 2 (· - ·)

/-- LEA (R103). -/
def Ex.lea (sh : BitVec 3) (sb : Bool) (x : Ex) : Res :=
  x.wide 2 [1, 2] fun i => codeOf 64 ((x.num 1 i : Int) + intVal sb 32 (x.num 2 i) * 2 ^ sh.toNat)

/-- Sum over the elements of A and B added to C (R104); C is natural in ISAD. -/
def Ex.dot (md : IntMod) (cs : Bool) (f : Int → Int → Int) (x : Ex) : Res :=
  x.wide 1 [1, 2, 3] fun i =>
    let t := ((upTo (32 / md.w.bits)).map fun k => f (x.int md 1 i k) (x.int md 2 i k)).sum
    fitInt (if cs then .s32 else .n32) md.sat (intVal cs 32 (x.num 3 i) + t)

def execIadd (h : Hdr) (md : IntMod) (d a b : Opnd) (s : State) : Res := issue (.iadd h md d a b) s (Ex.iadd md)
def execIsub (h : Hdr) (md : IntMod) (d a b : Opnd) (s : State) : Res := issue (.isub h md d a b) s (Ex.isub md)
def execImul (h : Hdr) (md : IntMod) (d a b : Opnd) (s : State) : Res := issue (.imul h md d a b) s (Ex.imul md)
def execImulh (h : Hdr) (md : IntMod) (d a b : Opnd) (s : State) : Res := issue (.imulh h md d a b) s (Ex.imulh md)
def execImad (h : Hdr) (md : IntMod) (d a b c : Opnd) (s : State) : Res := issue (.imad h md d a b c) s (Ex.imad md)
def execImin (h : Hdr) (md : IntMod) (d a b : Opnd) (s : State) : Res := issue (.imin h md d a b) s (Ex.imin md)
def execImax (h : Hdr) (md : IntMod) (d a b : Opnd) (s : State) : Res := issue (.imax h md d a b) s (Ex.imax md)
def execIabs (h : Hdr) (md : IntMod) (d a : Opnd) (s : State) : Res := issue (.iabs h md d a) s (Ex.iabs md)
def execIdiv (h : Hdr) (md : IntMod) (d a b : Opnd) (s : State) : Res := issue (.idiv h md d a b) s (Ex.idiv md)
def execIrem (h : Hdr) (md : IntMod) (d a b : Opnd) (s : State) : Res := issue (.irem h md d a b) s (Ex.irem md)
def execIcmp (h : Hdr) (md : IntMod) (c : Cond) (one : Bool) (d a b : Opnd) (s : State) : Res :=
  issue (.icmp h md c one d a b) s (Ex.icmp md c one)
def execIsel (h : Hdr) (md : IntMod) (d a b c : Opnd) (s : State) : Res := issue (.isel h md d a b c) s (Ex.isel md)
def execDadd (h : Hdr) (md : IntMod) (d a b : Opnd) (s : State) : Res := issue (.dadd h md d a b) s (Ex.dadd md)
def execDsub (h : Hdr) (md : IntMod) (d a b : Opnd) (s : State) : Res := issue (.dsub h md d a b) s (Ex.dsub md)
def execLea (h : Hdr) (sh : BitVec 3) (sb : Bool) (d a b : Opnd) (s : State) : Res :=
  issue (.lea h sh sb d a b) s (Ex.lea sh sb)
def execDcmp (h : Hdr) (md : IntMod) (c : Cond) (one : Bool) (d a b : Opnd) (s : State) : Res :=
  issue (.dcmp h md c one d a b) s (Ex.dcmp md c one)
def execDot4 (h : Hdr) (md : IntMod) (d a b c : Opnd) (s : State) : Res :=
  issue (.dot4 h md d a b c) s (Ex.dot md md.s (· * ·))
def execDot2 (h : Hdr) (md : IntMod) (d a b c : Opnd) (s : State) : Res :=
  issue (.dot2 h md d a b c) s (Ex.dot md md.s (· * ·))
def execIsad (h : Hdr) (md : IntMod) (d a b c : Opnd) (s : State) : Res :=
  issue (.isad h md d a b c) s (Ex.dot md false fun a b => (a - b).natAbs)

end Sys2Proof.Machine
end

