-- ==== Sys2Proof/Machine/Xln.lean ====
section
/-! DEFINITION. The XLN class: values between lanes, votes, matches, elections, reductions and scans (spec 08,
R180 to R189). -/

namespace Sys2Proof

/-- Lanes a width code names (R39). -/
def SubW.lanes : SubW → Nat
  | .w2 => 2 | .w4 => 4 | .w8 => 8 | .w16 => 16 | .w32 => 32

/-- The result of an exclusive scan over no participant (R189). -/
def RedOp.identity : RedOp → Word
  | .addi | .maxn | .orb | .xorb => 0
  | .mins => 0x7FFFFFFF | .maxs => 0x80000000
  | .minn | .andb => 0xFFFFFFFF
  | .addf => 0x80000000 | .minf => 0x7F800000 | .maxf => 0xFF800000

end Sys2Proof

namespace Sys2Proof.Machine

/-- The width of a sub-group (R180). -/
def Ex.sub (x : Ex) (sw : SubW) : Nat := min sw.lanes (if x.b.parted then 4 else x.w)

/-- Base lane of a lane's sub-group. -/
def baseOf (sz i : Nat) : Nat := alignDown i sz

/-- The participants of lane i's sub-group (R180). -/
def Ex.parts (x : Ex) (sz i : Nat) : List Nat := x.set.filter fun k => baseOf sz k == baseOf sz i

/-- Completes with one value per lane of the lane set. -/
def Ex.lanes1 (x : Ex) (s : State) (f : Nat → LV) : Res :=
  x.result s [(upTo x.w).map fun i => if x.inSet i then f i else ⟨0, false⟩]

/-- The source position of SHFL (R183). -/
def shflPos (mode : ShflMode) (edge : Bool) (s j t : Nat) : Nat :=
  let u : Int := match mode with
    | .idx => t
    | .up => (j : Int) - t
    | .down => (j : Int) + t
    | .xorm => (Nat.xor j t : Nat)
  if u < 0 || (s : Int) ≤ u then
    if edge then (if mode == .up then 0 else s - 1) else (u % s).toNat
  else u.toNat

/-- SHFL (R183). -/
def Ex.shfl (sw : SubW) (mode : ShflMode) (edge : Bool) (x : Ex) : Res :=
  let sz := x.sub sw
  x.check (x.set.flatMap fun i => poisons 0 .poisonLaneIndex i [x.lv 2 i])
    (x.lanes1 x.s fun i =>
      let k := baseOf sz i + shflPos mode edge sz (i % sz) (x.lv 2 i).v.toNat
      x.lv 1 (if x.inSet k then k else i))

/-- BCAST (R184). -/
def Ex.bcast (sw : SubW) (x : Ex) : Res :=
  let sz := x.sub sw
  let low (i : Nat) : Nat := (x.parts sz i).headD i
  x.check (x.set.flatMap fun i => if low i == i then poisons 0 .poisonLaneIndex i [x.lv 2 i] else [])
    (x.lanes1 x.s fun i =>
      let k := baseOf sz i + (x.lv 2 (low i)).v.toNat % sz
      x.lv 1 (if x.inSet k then k else i))

/-- A result over the A values of the participants, poisoned when one of them is (R182). -/
def Ex.overParts (sw : SubW) (f : List Nat → Nat → Word) (x : Ex) : Res :=
  let sz := x.sub sw
  x.check [] (x.lanes1 x.s fun i =>
    let ps := x.parts sz i
    match merge (ps.map (x.lv 1)) with
    | some w => ⟨w, true⟩
    | none => ⟨f ps i, false⟩)

/-- The result of VOTE (R185): cond and equality to the lowest participant. -/
def voteResult (kind : VoteKind) (cnt : Bool) (cond same : List Nat) (n : Nat) : Word :=
  match kind, cnt with
  | .same, true => BitVec.ofNat 32 same.length
  | .same, false => allOnes (same.length == n)
  | _, true => BitVec.ofNat 32 cond.length
  | .any, false => allOnes (!cond.isEmpty)
  | .all, false => allOnes (cond.length == n)
  | .ballot, false => maskBy fun k => cond.contains k

/-- VOTE (R185). -/
def Ex.vote (sw : SubW) (kind : VoteKind) (cnt : Bool) (x : Ex) : Res :=
  x.overParts sw fun ps i =>
    voteResult kind cnt (ps.filter fun k => (x.lv 1 k).v != 0)
      (ps.filter fun k => (x.lv 1 k).v == (x.lv 1 (ps.headD i)).v) ps.length

/-- Equality of MATCH keys (R186). -/
def keyEq (f : Bool) (a b : Word) : Bool :=
  if !f then a == b
  else
    let x := lf32.decode a.toNat
    let y := lf32.decode b.toNat
    if x.isNan || y.isNan then x.isNan && y.isNan else Num.cmp x y == 0

/-- MATCH (R186). -/
def Ex.matchKeys (sw : SubW) (f : Bool) (x : Ex) : Res :=
  x.overParts sw fun ps i => maskBy fun k => ps.contains k && keyEq f (x.lv 1 i).v (x.lv 1 k).v

/-- The value of one reduction node on clean sources (R188). -/
def nodeEl (op : RedOp) (a b : Word) : El :=
  let sx := a.toInt
  let sy := b.toInt
  let fx := lf32.decode a.toNat
  let fy := lf32.decode b.toNat
  match op with
  | .addi => .val (a + b).toNat
  | .mins => .val (if sx ≤ sy then a else b).toNat
  | .maxs => .val (if sy ≤ sx then a else b).toNat
  | .minn => .val (min a.toNat b.toNat)
  | .maxn => .val (max a.toNat b.toNat)
  | .andb => .val (a &&& b).toNat
  | .orb => .val (a ||| b).toNat
  | .xorb => .val (a ^^^ b).toNat
  | .addf => lf32.el .rne false (fx.isNan || fy.isNan) (Num.add .rne fx fy)
  | .minf => lf32.el .rne false false (some (Num.pick true fx fy))
  | .maxf => lf32.el .rne false false (some (Num.pick false fx fy))

/-- A node of the tree (R188). -/
def node (op : RedOp) (ch : Charge) (a b : Option LV) (s : State) : Option LV × State :=
  match a, b with
  | none, y => (y, s)
  | y, none => (y, s)
  | some u, some v =>
    let r := s.tag ch [u, v] 1 32 [nodeEl op u.v v.v]
    (r.1.head?, r.2)

/-- One level of the tree, neighbours in pairs. -/
def treeLevel (op : RedOp) (ch : Charge) : List (Option LV) → State → List (Option LV) × State
  | a :: b :: r, s =>
    let p := node op ch a b s
    let q := treeLevel op ch r p.2
    (p.1 :: q.1, q.2)
  | l, s => (l, s)

/-- The fixed tree over n levels (R188). -/
def tree (op : RedOp) (ch : Charge) : Nat → List (Option LV) → State → Option LV × State
  | 0, l, s => (l.headD none, s)
  | n + 1, l, s =>
    let r := treeLevel op ch l s
    tree op ch n r.1 r.2

/-- The leaves of a sub-group: participants up to a position. -/
def Ex.leaves (x : Ex) (base sz top : Nat) : List (Option LV) :=
  (upTo sz).map fun j => if j < top && x.inSet (base + j) then some (x.lv 1 (base + j)) else none

/-- Sub-groups one after another, each giving its participants one value. -/
def eachGroup (f : Nat → State → List (Nat × List LV) × State) : List Nat → State → List (Nat × List LV) × State
  | [], s => ([], s)
  | b :: bs, s =>
    let r := f b s
    let t := eachGroup f bs r.2
    (r.1 ++ t.1, t.2)

/-- REDG (R188). -/
def Ex.redg (sw : SubW) (op : RedOp) (x : Ex) : Res :=
  let sz := x.sub sw
  let bases := (x.set.map (baseOf sz)).eraseDups
  let r := eachGroup (fun b s =>
    let ps := x.parts sz b
    let t := tree op (x.charge (ps.headD b)) 5 (x.leaves b sz sz) s
    (ps.map fun k => (k, [t.1.getD ⟨0, false⟩]), t.2)) bases x.s
  x.check [] (x.result r.2 (rowsOf x.w 1 r.1))

/-- SCAN (R189). -/
def Ex.scan (sw : SubW) (op : RedOp) (excl : Bool) (x : Ex) : Res :=
  let sz := x.sub sw
  x.check [] (x.lanewise 1 fun i s =>
    let t := tree op (x.charge i) 5 (x.leaves (baseOf sz i) sz (i % sz + (if excl then 0 else 1))) s
    ([t.1.getD ⟨op.identity, false⟩], t.2))

/-- ELECT (R187). -/
def Ex.elect (sw : SubW) (x : Ex) : Res :=
  let sz := x.sub sw
  x.check [] (x.lanes1 x.s fun i => ⟨allOnes ((x.parts sz i).head? == some i), false⟩)

def execShfl (h : Hdr) (sw : SubW) (m : ShflMode) (e : Bool) (d a b : Opnd) (s : State) : Res :=
  issue (.shfl h sw m e d a b) s (Ex.shfl sw m e)
def execVote (h : Hdr) (sw : SubW) (k : VoteKind) (c : Bool) (d a : Opnd) (s : State) : Res :=
  issue (.vote h sw k c d a) s (Ex.vote sw k c)
def execMatchI (h : Hdr) (sw : SubW) (f : Bool) (d a : Opnd) (s : State) : Res :=
  issue (.matchI h sw f d a) s (Ex.matchKeys sw f)
def execRedg (h : Hdr) (sw : SubW) (op : RedOp) (d a : Opnd) (s : State) : Res :=
  issue (.redg h sw op d a) s (Ex.redg sw op)
def execScan (h : Hdr) (sw : SubW) (op : RedOp) (e : Bool) (d a : Opnd) (s : State) : Res :=
  issue (.scan h sw op e d a) s (Ex.scan sw op e)
def execBcast (h : Hdr) (sw : SubW) (d a b : Opnd) (s : State) : Res := issue (.bcast h sw d a b) s (Ex.bcast sw)
def execElect (h : Hdr) (sw : SubW) (d : Opnd) (s : State) : Res := issue (.elect h sw d) s (Ex.elect sw)

end Sys2Proof.Machine
end

