-- ==== Sys2Proof/Machine/Short.lean ====
section
/-! DEFINITION. The short-A and short-B forms: each is the named long instruction with the modifiers of its row;
the immediate of a short-B form takes an operand's place and, in a memory access, adds no displacement of its own
(spec 02, R42 and R43). -/

namespace Sys2Proof.Machine

def execIaddS32ShortA (d a b : Opnd) (s : State) : Res := issue (.iaddS32ShortA d a b) s (Ex.iadd ⟨.w32, true, false⟩)
def execIsubS32ShortA (d a b : Opnd) (s : State) : Res := issue (.isubS32ShortA d a b) s (Ex.isub ⟨.w32, true, false⟩)
def execImulS32ShortA (d a b : Opnd) (s : State) : Res := issue (.imulS32ShortA d a b) s (Ex.imul ⟨.w32, true, false⟩)
def execIminS32ShortA (d a b : Opnd) (s : State) : Res := issue (.iminS32ShortA d a b) s (Ex.imin ⟨.w32, true, false⟩)
def execImaxS32ShortA (d a b : Opnd) (s : State) : Res := issue (.imaxS32ShortA d a b) s (Ex.imax ⟨.w32, true, false⟩)
def execIminN32ShortA (d a b : Opnd) (s : State) : Res := issue (.iminN32ShortA d a b) s (Ex.imin ⟨.w32, false, false⟩)
def execImaxN32ShortA (d a b : Opnd) (s : State) : Res := issue (.imaxN32ShortA d a b) s (Ex.imax ⟨.w32, false, false⟩)
def execAndShortA (d a b : Opnd) (s : State) : Res := issue (.andShortA d a b) s Ex.and
def execOrShortA (d a b : Opnd) (s : State) : Res := issue (.orShortA d a b) s Ex.or
def execXorShortA (d a b : Opnd) (s : State) : Res := issue (.xorShortA d a b) s Ex.xor
def execAndnShortA (d a b : Opnd) (s : State) : Res := issue (.andnShortA d a b) s Ex.andn
def execShlShortA (d a b : Opnd) (s : State) : Res := issue (.shlShortA d a b) s (Ex.shl .w32)
def execShrShortA (d a b : Opnd) (s : State) : Res := issue (.shrShortA d a b) s (Ex.shr .w32)
def execShaShortA (d a b : Opnd) (s : State) : Res := issue (.shaShortA d a b) s (Ex.sha .w32)
def execMovShortA (d a : Opnd) (s : State) : Res := issue (.movShortA d a) s Ex.mov
def execDaddShortA (d a b : Opnd) (s : State) : Res := issue (.daddShortA d a b) s (Ex.dadd ⟨.w64, false, false⟩)
def execFaddF32ShortA (d a b : Opnd) (s : State) : Res :=
  issue (.faddF32ShortA d a b) s (Ex.fadd ⟨.rne, false⟩ .f32 false false)
def execFsubF32ShortA (d a b : Opnd) (s : State) : Res :=
  issue (.fsubF32ShortA d a b) s (Ex.fsub ⟨.rne, false⟩ .f32 false false)
def execFmulF32ShortA (d a b : Opnd) (s : State) : Res :=
  issue (.fmulF32ShortA d a b) s (Ex.fmul ⟨.rne, false⟩ .f32 false false)
def execFminF32ShortA (d a b : Opnd) (s : State) : Res :=
  issue (.fminF32ShortA d a b) s (Ex.fpick true ⟨.rne, false⟩ .f32)
def execFmaxF32ShortA (d a b : Opnd) (s : State) : Res :=
  issue (.fmaxF32ShortA d a b) s (Ex.fpick false ⟨.rne, false⟩ .f32)
def execFaddF16x2ShortA (d a b : Opnd) (s : State) : Res :=
  issue (.faddF16x2ShortA d a b) s (Ex.fadd ⟨.rne, false⟩ .f16x2 false false)
def execFmulF16x2ShortA (d a b : Opnd) (s : State) : Res :=
  issue (.fmulF16x2ShortA d a b) s (Ex.fmul ⟨.rne, false⟩ .f16x2 false false)
def execFaddBf16x2ShortA (d a b : Opnd) (s : State) : Res :=
  issue (.faddBf16x2ShortA d a b) s (Ex.fadd ⟨.rne, false⟩ .bf16x2 false false)
def execFmulBf16x2ShortA (d a b : Opnd) (s : State) : Res :=
  issue (.fmulBf16x2ShortA d a b) s (Ex.fmul ⟨.rne, false⟩ .bf16x2 false false)
def execIcmpEqShortA (d a b : Opnd) (s : State) : Res :=
  issue (.icmpEqShortA d a b) s (Ex.icmp ⟨.w32, false, false⟩ .eq false)
def execIcmpLtS32ShortA (d a b : Opnd) (s : State) : Res :=
  issue (.icmpLtS32ShortA d a b) s (Ex.icmp ⟨.w32, true, false⟩ .lt false)
def execIcmpLtN32ShortA (d a b : Opnd) (s : State) : Res :=
  issue (.icmpLtN32ShortA d a b) s (Ex.icmp ⟨.w32, false, false⟩ .lt false)
def execFcmpLtShortA (d a b : Opnd) (s : State) : Res := issue (.fcmpLtShortA d a b) s (Ex.fcmp .f32 .lt)
def execFcmpEqShortA (d a b : Opnd) (s : State) : Res := issue (.fcmpEqShortA d a b) s (Ex.fcmp .f32 .eq)
def execFrcpShortA (d a : Opnd) (s : State) : Res := issue (.frcpShortA d a) s (Ex.fun1 ⟨.rne, false⟩ .f32 Num.rcp)
def execFrsqShortA (d a : Opnd) (s : State) : Res := issue (.frsqShortA d a) s (Ex.fun1 ⟨.rne, false⟩ .f32 Num.rsq)
def execPopcShortA (d a : Opnd) (s : State) : Res := issue (.popcShortA d a) s Ex.popc
def execClzShortA (d a : Opnd) (s : State) : Res := issue (.clzShortA d a) s Ex.clz
def execShflIdxShortA (d a b : Opnd) (s : State) : Res := issue (.shflIdxShortA d a b) s (Ex.shfl .w32 .idx false)
def execShflXorShortA (d a b : Opnd) (s : State) : Res := issue (.shflXorShortA d a b) s (Ex.shfl .w32 .xorm false)
def execVoteBallotShortA (d a : Opnd) (s : State) : Res := issue (.voteBallotShortA d a) s (Ex.vote .w32 .ballot false)
def execBcastShortA (d a b : Opnd) (s : State) : Res := issue (.bcastShortA d a b) s (Ex.bcast .w32)
def execLeaShortA (d a b : Opnd) (s : State) : Res := issue (.leaShortA d a b) s (Ex.lea 0 false)
def execLdlB32ShortA (d a b : Opnd) (s : State) : Res :=
  issue (.ldlB32ShortA d a b) s (Ex.loadIn (some .scratch) .b32 0)
def execStlB32ShortA (d a b : Opnd) (s : State) : Res :=
  issue (.stlB32ShortA d a b) s (Ex.storeIn .scratch .b32 false 0)
def execLdcB32ShortA (d a b : Opnd) (s : State) : Res :=
  issue (.ldcB32ShortA d a b) s (Ex.loadIn (some .commons) .b32 0)
def execStcB32ShortA (d a b : Opnd) (s : State) : Res :=
  issue (.stcB32ShortA d a b) s (Ex.storeIn .commons .b32 false 0)
def execIaddShortB (d a : Opnd) (imm : BitVec 8) (s : State) : Res :=
  issue (.iaddShortB d a imm) s (Ex.iadd ⟨.w32, false, false⟩)
def execIsubShortB (d a : Opnd) (imm : BitVec 8) (s : State) : Res :=
  issue (.isubShortB d a imm) s (Ex.isub ⟨.w32, false, false⟩)
def execAndShortB (d a : Opnd) (imm : BitVec 8) (s : State) : Res := issue (.andShortB d a imm) s Ex.and
def execOrShortB (d a : Opnd) (imm : BitVec 8) (s : State) : Res := issue (.orShortB d a imm) s Ex.or
def execXorShortB (d a : Opnd) (imm : BitVec 8) (s : State) : Res := issue (.xorShortB d a imm) s Ex.xor
def execShlShortB (d a : Opnd) (imm : BitVec 5) (s : State) : Res := issue (.shlShortB d a imm) s (Ex.shl .w32)
def execShrShortB (d a : Opnd) (imm : BitVec 5) (s : State) : Res := issue (.shrShortB d a imm) s (Ex.shr .w32)
def execShaShortB (d a : Opnd) (imm : BitVec 5) (s : State) : Res := issue (.shaShortB d a imm) s (Ex.sha .w32)
def execMovShortB (d : Opnd) (imm : BitVec 8) (s : State) : Res := issue (.movShortB d imm) s Ex.mov
def execIcmpEqShortB (d a : Opnd) (imm : BitVec 8) (s : State) : Res :=
  issue (.icmpEqShortB d a imm) s (Ex.icmp ⟨.w32, false, false⟩ .eq false)
def execIcmpLtS32ShortB (d a : Opnd) (imm : BitVec 8) (s : State) : Res :=
  issue (.icmpLtS32ShortB d a imm) s (Ex.icmp ⟨.w32, true, false⟩ .lt false)
def execShflXorShortB (d a : Opnd) (imm : BitVec 5) (s : State) : Res :=
  issue (.shflXorShortB d a imm) s (Ex.shfl .w32 .xorm false)
def execShflUpShortB (d a : Opnd) (imm : BitVec 5) (s : State) : Res :=
  issue (.shflUpShortB d a imm) s (Ex.shfl .w32 .up false)
def execShflDownShortB (d a : Opnd) (imm : BitVec 5) (s : State) : Res :=
  issue (.shflDownShortB d a imm) s (Ex.shfl .w32 .down false)
def execLdlB32ShortB (d a : Opnd) (imm : BitVec 8) (s : State) : Res :=
  issue (.ldlB32ShortB d a imm) s (Ex.loadIn (some .scratch) .b32 0)
def execStlB32ShortB (d a : Opnd) (imm : BitVec 8) (s : State) : Res :=
  issue (.stlB32ShortB d a imm) s (Ex.storeIn .scratch .b32 false 0)
def execLdkB32ShortB (d : Opnd) (imm : BitVec 8) (s : State) : Res :=
  issue (.ldkB32ShortB d imm) s (Ex.loadIn none .b32 0)

end Sys2Proof.Machine
end

