-- ==== Sys2Proof/Machine/Dispatch.lean ====
section
/-! DEFINITION. The meaning of every instruction and step: one direct call each. -/

namespace Sys2Proof.Machine

def exec (i : Instr) (s : State) : Host.Outcome State Fault Refusal :=
  match i with
  | .iadd h md d a b => Sys2Proof.Machine.execIadd h md d a b s
  | .isub h md d a b => Sys2Proof.Machine.execIsub h md d a b s
  | .imul h md d a b => Sys2Proof.Machine.execImul h md d a b s
  | .imulh h md d a b => Sys2Proof.Machine.execImulh h md d a b s
  | .imad h md d a b c => Sys2Proof.Machine.execImad h md d a b c s
  | .imin h md d a b => Sys2Proof.Machine.execImin h md d a b s
  | .imax h md d a b => Sys2Proof.Machine.execImax h md d a b s
  | .iabs h md d a => Sys2Proof.Machine.execIabs h md d a s
  | .idiv h md d a b => Sys2Proof.Machine.execIdiv h md d a b s
  | .irem h md d a b => Sys2Proof.Machine.execIrem h md d a b s
  | .icmp h md cond one d a b => Sys2Proof.Machine.execIcmp h md cond one d a b s
  | .isel h md d a b c => Sys2Proof.Machine.execIsel h md d a b c s
  | .dadd h md d a b => Sys2Proof.Machine.execDadd h md d a b s
  | .dsub h md d a b => Sys2Proof.Machine.execDsub h md d a b s
  | .lea h sh sb d a b => Sys2Proof.Machine.execLea h sh sb d a b s
  | .dcmp h md cond one d a b => Sys2Proof.Machine.execDcmp h md cond one d a b s
  | .dot4 h md d a b c => Sys2Proof.Machine.execDot4 h md d a b c s
  | .dot2 h md d a b c => Sys2Proof.Machine.execDot2 h md d a b c s
  | .isad h md d a b c => Sys2Proof.Machine.execIsad h md d a b c s
  | .mov h d a => Sys2Proof.Machine.execMov h d a s
  | .andI h d a b => Sys2Proof.Machine.execAndI h d a b s
  | .orI h d a b => Sys2Proof.Machine.execOrI h d a b s
  | .xorI h d a b => Sys2Proof.Machine.execXorI h d a b s
  | .andn h d a b => Sys2Proof.Machine.execAndn h d a b s
  | .notI h d a => Sys2Proof.Machine.execNotI h d a s
  | .shl h w d a b => Sys2Proof.Machine.execShl h w d a b s
  | .shr h w d a b => Sys2Proof.Machine.execShr h w d a b s
  | .sha h w d a b => Sys2Proof.Machine.execSha h w d a b s
  | .rot h w d a b => Sys2Proof.Machine.execRot h w d a b s
  | .bfe h sel d a b => Sys2Proof.Machine.execBfe h sel d a b s
  | .bfi h d a b c => Sys2Proof.Machine.execBfi h d a b c s
  | .popc h d a => Sys2Proof.Machine.execPopc h d a s
  | .clz h d a => Sys2Proof.Machine.execClz h d a s
  | .ffs h d a => Sys2Proof.Machine.execFfs h d a s
  | .brev h d a => Sys2Proof.Machine.execBrev h d a s
  | .permb h top sel d a b => Sys2Proof.Machine.execPermb h top sel d a b s
  | .lop3 h table d a b c => Sys2Proof.Machine.execLop3 h table d a b c s
  | .dshl h d a b => Sys2Proof.Machine.execDshl h d a b s
  | .dshr h sel d a b => Sys2Proof.Machine.execDshr h sel d a b s
  | .movd h d a => Sys2Proof.Machine.execMovd h d a s
  | .fadd h fm ty na nb d a b => Sys2Proof.Machine.execFadd h fm ty na nb d a b s
  | .fsub h fm ty na nb d a b => Sys2Proof.Machine.execFsub h fm ty na nb d a b s
  | .fmul h fm ty na nb d a b => Sys2Proof.Machine.execFmul h fm ty na nb d a b s
  | .ffma h fm ty na nb nc d a b c => Sys2Proof.Machine.execFfma h fm ty na nb nc d a b c s
  | .fmin h fm ty d a b => Sys2Proof.Machine.execFmin h fm ty d a b s
  | .fmax h fm ty d a b => Sys2Proof.Machine.execFmax h fm ty d a b s
  | .fcmp h fm ty cond d a b => Sys2Proof.Machine.execFcmp h fm ty cond d a b s
  | .fdot2 h fm ty d a b c => Sys2Proof.Machine.execFdot2 h fm ty d a b c s
  | .fscale h fm ty d a b => Sys2Proof.Machine.execFscale h fm ty d a b s
  | .ffract h fm ty d a => Sys2Proof.Machine.execFfract h fm ty d a s
  | .frnd h fm ty d a => Sys2Proof.Machine.execFrnd h fm ty d a s
  | .fclass h fm ty d a => Sys2Proof.Machine.execFclass h fm ty d a s
  | .frcp h fm ty d a => Sys2Proof.Machine.execFrcp h fm ty d a s
  | .frsq h fm ty d a => Sys2Proof.Machine.execFrsq h fm ty d a s
  | .fsqrt h fm ty d a => Sys2Proof.Machine.execFsqrt h fm ty d a s
  | .fdiv h fm ty d a b => Sys2Proof.Machine.execFdiv h fm ty d a b s
  | .fexp2 h fm ty d a => Sys2Proof.Machine.execFexp2 h fm ty d a s
  | .flog2 h fm ty d a => Sys2Proof.Machine.execFlog2 h fm ty d a s
  | .fsin h fm ty d a => Sys2Proof.Machine.execFsin h fm ty d a s
  | .fcos h fm ty d a => Sys2Proof.Machine.execFcos h fm ty d a s
  | .ftanh h fm ty d a => Sys2Proof.Machine.execFtanh h fm ty d a s
  | .cvtff h fm src dst d a => Sys2Proof.Machine.execCvtff h fm src dst d a s
  | .cvtfi h fm src dst d a => Sys2Proof.Machine.execCvtfi h fm src dst d a s
  | .cvtif h fm src dst d a => Sys2Proof.Machine.execCvtif h fm src dst d a s
  | .fpack h fm src dst d a b => Sys2Proof.Machine.execFpack h fm src dst d a b s
  | .funpk h fm src dst d a => Sys2Proof.Machine.execFunpk h fm src dst d a s
  | .mxenc h fm src dst d a => Sys2Proof.Machine.execMxenc h fm src dst d a s
  | .mxdec h fm src dst d a b => Sys2Proof.Machine.execMxdec h fm src dst d a b s
  | .shfl h sw mode edge d a b => Sys2Proof.Machine.execShfl h sw mode edge d a b s
  | .vote h sw kind cnt d a => Sys2Proof.Machine.execVote h sw kind cnt d a s
  | .matchI h sw f d a => Sys2Proof.Machine.execMatchI h sw f d a s
  | .redg h sw op d a => Sys2Proof.Machine.execRedg h sw op d a s
  | .scan h sw op excl d a => Sys2Proof.Machine.execScan h sw op excl d a s
  | .bcast h sw d a b => Sys2Proof.Machine.execBcast h sw d a b s
  | .elect h sw d => Sys2Proof.Machine.execElect h sw d s
  | .ifI h inv a off => Sys2Proof.Machine.execIfI h inv a off s
  | .elseI h off => Sys2Proof.Machine.execElseI h off s
  | .endif h => Sys2Proof.Machine.execEndif h s
  | .loop h off => Sys2Proof.Machine.execLoop h off s
  | .endl h off => Sys2Proof.Machine.execEndl h off s
  | .breakI h inv n a off => Sys2Proof.Machine.execBreakI h inv n a off s
  | .cont h inv n a off => Sys2Proof.Machine.execCont h inv n a off s
  | .jmp h kind a off => Sys2Proof.Machine.execJmp h kind a off s
  | .call h demand d off => Sys2Proof.Machine.execCall h demand d off s
  | .calli h demand d a => Sys2Proof.Machine.execCalli h demand d a s
  | .ret h => Sys2Proof.Machine.execRet h s
  | .mark h clr id off => Sys2Proof.Machine.execMark h clr id off s
  | .unwind h id => Sys2Proof.Machine.execUnwind h id s
  | .part h => Sys2Proof.Machine.execPart h s
  | .regang h id => Sys2Proof.Machine.execRegang h id s
  | .exit h => Sys2Proof.Machine.execExit h s
  | .yield h => Sys2Proof.Machine.execYield h s
  | .nop h => Sys2Proof.Machine.execNop h s
  | .brk h => Sys2Proof.Machine.execBrk h s
  | .rgn h => Sys2Proof.Machine.execRgn h s
  | .qdef h dm1 km1 d => Sys2Proof.Machine.execQdef h dm1 km1 d s
  | .qclr h d => Sys2Proof.Machine.execQclr h d s
  | .qocc h d a => Sys2Proof.Machine.execQocc h d a s
  | .qrd h e d a => Sys2Proof.Machine.execQrd h e d a s
  | .qwr h e d a => Sys2Proof.Machine.execQwr h e d a s
  | .winrd h k d => Sys2Proof.Machine.execWinrd h k d s
  | .winwr h k d => Sys2Proof.Machine.execWinwr h k d s
  | .mskrd h tgt e d => Sys2Proof.Machine.execMskrd h tgt e d s
  | .mskwr h op e d => Sys2Proof.Machine.execMskwr h op e d s
  | .frmq h dw d a => Sys2Proof.Machine.execFrmq h dw d a s
  | .frmrd h d a b => Sys2Proof.Machine.execFrmrd h d a b s
  | .ld h size pol hint d a b => Sys2Proof.Machine.execLd h size pol hint d a b s
  | .st h size pz pol hint d a b => Sys2Proof.Machine.execSt h size pz pol hint d a b s
  | .ldl h size d a b => Sys2Proof.Machine.execLdl h size d a b s
  | .stl h size pz d a b => Sys2Proof.Machine.execStl h size pz d a b s
  | .ldc h size d a b => Sys2Proof.Machine.execLdc h size d a b s
  | .stc h size pz d a b => Sys2Proof.Machine.execStc h size pz d a b s
  | .ldk h size d a b => Sys2Proof.Machine.execLdk h size d a b s
  | .ldacq h size scope space d a b => Sys2Proof.Machine.execLdacq h size scope space d a b s
  | .strel h size scope space pz d a b => Sys2Proof.Machine.execStrel h size scope space pz d a b s
  | .cctl h op a b => Sys2Proof.Machine.execCctl h op a b s
  | .atom h op scope ret d a b c => Sys2Proof.Machine.execAtom h op scope ret d a b c s
  | .acas h w scope ret d a b c => Sys2Proof.Machine.execAcas h w scope ret d a b c s
  | .atoml h op scope ret d a b c => Sys2Proof.Machine.execAtoml h op scope ret d a b c s
  | .acasl h w scope ret d a b c => Sys2Proof.Machine.execAcasl h w scope ret d a b c s
  | .atomc h op scope ret d a b c => Sys2Proof.Machine.execAtomc h op scope ret d a b c s
  | .acasc h w scope ret d a b c => Sys2Proof.Machine.execAcasc h w scope ret d a b c s
  | .bankop h op scope a b c => Sys2Proof.Machine.execBankop h op scope a b c s
  | .bankred h op scope ret d a b c => Sys2Proof.Machine.execBankred h op scope ret d a b c s
  | .cpy h dsp ssp ch d a b => Sys2Proof.Machine.execCpy h dsp ssp ch d a b s
  | .cpys h dsp ssp ch d a b c => Sys2Proof.Machine.execCpys h dsp ssp ch d a b c s
  | .seal h d => Sys2Proof.Machine.execSeal h d s
  | .bwait h a => Sys2Proof.Machine.execBwait h a s
  | .cpwp h issued d a => Sys2Proof.Machine.execCpwp h issued d a s
  | .cpwait h a b => Sys2Proof.Machine.execCpwait h a b s
  | .wlput h a b => Sys2Proof.Machine.execWlput h a b s
  | .wltake h d a => Sys2Proof.Machine.execWltake h d a s
  | .wldone h hold => Sys2Proof.Machine.execWldone h hold s
  | .wlquiet h d => Sys2Proof.Machine.execWlquiet h d s
  | .put h sp nt d a b c => Sys2Proof.Machine.execPut h sp nt d a b c s
  | .putn h sp nt d a b c => Sys2Proof.Machine.execPutn h sp nt d a b c s
  | .get h sp nt d a b c => Sys2Proof.Machine.execGet h sp nt d a b c s
  | .ratom h op nt ret d a b c => Sys2Proof.Machine.execRatom h op nt ret d a b c s
  | .rcas h w nt ret d a b c => Sys2Proof.Machine.execRcas h w nt ret d a b c s
  | .notify h nt d a => Sys2Proof.Machine.execNotify h nt d a s
  | .nwait h a b => Sys2Proof.Machine.execNwait h a b s
  | .nrd h d a => Sys2Proof.Machine.execNrd h d a s
  | .rfence h => Sys2Proof.Machine.execRfence h s
  | .rquiet h nt d => Sys2Proof.Machine.execRquiet h nt d s
  | .bar h mx a => Sys2Proof.Machine.execBar h mx a s
  | .bara h d a => Sys2Proof.Machine.execBara h d a s
  | .barw h mx a b => Sys2Proof.Machine.execBarw h mx a b s
  | .barinit h a b => Sys2Proof.Machine.execBarinit h a b s
  | .barrd h live sel d a => Sys2Proof.Machine.execBarrd h live sel d a s
  | .barwr h sel d a => Sys2Proof.Machine.execBarwr h sel d a s
  | .fence h paths scope => Sys2Proof.Machine.execFence h paths scope s
  | .mon h space a => Sys2Proof.Machine.execMon h space a s
  | .mwait h d a => Sys2Proof.Machine.execMwait h d a s
  | .clock h d => Sys2Proof.Machine.execClock h d s
  | .mmq h keep af bf commons d a b c => Sys2Proof.Machine.execMmq h keep af bf commons d a b c s
  | .accz h d => Sys2Proof.Machine.execAccz h d s
  | .accrd h mode d a => Sys2Proof.Machine.execAccrd h mode d a s
  | .accwr h mode d a => Sys2Proof.Machine.execAccwr h mode d a s
  | .accpro h d => Sys2Proof.Machine.execAccpro h d s
  | .mxset h a => Sys2Proof.Machine.execMxset h a s
  | .cbload h space a b => Sys2Proof.Machine.execCbload h space a b s
  | .cbrd h d a => Sys2Proof.Machine.execCbrd h d a s
  | .mxwait h => Sys2Proof.Machine.execMxwait h s
  | .pchk h tr one d a => Sys2Proof.Machine.execPchk h tr one d a s
  | .pset h d a => Sys2Proof.Machine.execPset h d a s
  | .pclr h d a => Sys2Proof.Machine.execPclr h d a s
  | .porg h f d a => Sys2Proof.Machine.execPorg h f d a s
  | .srd h d a => Sys2Proof.Machine.execSrd h d a s
  | .swr h d a => Sys2Proof.Machine.execSwr h d a s
  | .trap h code => Sys2Proof.Machine.execTrap h code s
  | .tret h => Sys2Proof.Machine.execTret h s
  | .savedone h => Sys2Proof.Machine.execSavedone h s
  | .icinv h => Sys2Proof.Machine.execIcinv h s
  | .wfi h => Sys2Proof.Machine.execWfi h s
  | .halt h => Sys2Proof.Machine.execHalt h s
  | .iaddS32ShortA d a b => Sys2Proof.Machine.execIaddS32ShortA d a b s
  | .isubS32ShortA d a b => Sys2Proof.Machine.execIsubS32ShortA d a b s
  | .imulS32ShortA d a b => Sys2Proof.Machine.execImulS32ShortA d a b s
  | .iminS32ShortA d a b => Sys2Proof.Machine.execIminS32ShortA d a b s
  | .imaxS32ShortA d a b => Sys2Proof.Machine.execImaxS32ShortA d a b s
  | .iminN32ShortA d a b => Sys2Proof.Machine.execIminN32ShortA d a b s
  | .imaxN32ShortA d a b => Sys2Proof.Machine.execImaxN32ShortA d a b s
  | .andShortA d a b => Sys2Proof.Machine.execAndShortA d a b s
  | .orShortA d a b => Sys2Proof.Machine.execOrShortA d a b s
  | .xorShortA d a b => Sys2Proof.Machine.execXorShortA d a b s
  | .andnShortA d a b => Sys2Proof.Machine.execAndnShortA d a b s
  | .shlShortA d a b => Sys2Proof.Machine.execShlShortA d a b s
  | .shrShortA d a b => Sys2Proof.Machine.execShrShortA d a b s
  | .shaShortA d a b => Sys2Proof.Machine.execShaShortA d a b s
  | .movShortA d a => Sys2Proof.Machine.execMovShortA d a s
  | .daddShortA d a b => Sys2Proof.Machine.execDaddShortA d a b s
  | .faddF32ShortA d a b => Sys2Proof.Machine.execFaddF32ShortA d a b s
  | .fsubF32ShortA d a b => Sys2Proof.Machine.execFsubF32ShortA d a b s
  | .fmulF32ShortA d a b => Sys2Proof.Machine.execFmulF32ShortA d a b s
  | .fminF32ShortA d a b => Sys2Proof.Machine.execFminF32ShortA d a b s
  | .fmaxF32ShortA d a b => Sys2Proof.Machine.execFmaxF32ShortA d a b s
  | .faddF16x2ShortA d a b => Sys2Proof.Machine.execFaddF16x2ShortA d a b s
  | .fmulF16x2ShortA d a b => Sys2Proof.Machine.execFmulF16x2ShortA d a b s
  | .faddBf16x2ShortA d a b => Sys2Proof.Machine.execFaddBf16x2ShortA d a b s
  | .fmulBf16x2ShortA d a b => Sys2Proof.Machine.execFmulBf16x2ShortA d a b s
  | .icmpEqShortA d a b => Sys2Proof.Machine.execIcmpEqShortA d a b s
  | .icmpLtS32ShortA d a b => Sys2Proof.Machine.execIcmpLtS32ShortA d a b s
  | .icmpLtN32ShortA d a b => Sys2Proof.Machine.execIcmpLtN32ShortA d a b s
  | .fcmpLtShortA d a b => Sys2Proof.Machine.execFcmpLtShortA d a b s
  | .fcmpEqShortA d a b => Sys2Proof.Machine.execFcmpEqShortA d a b s
  | .frcpShortA d a => Sys2Proof.Machine.execFrcpShortA d a s
  | .frsqShortA d a => Sys2Proof.Machine.execFrsqShortA d a s
  | .popcShortA d a => Sys2Proof.Machine.execPopcShortA d a s
  | .clzShortA d a => Sys2Proof.Machine.execClzShortA d a s
  | .shflIdxShortA d a b => Sys2Proof.Machine.execShflIdxShortA d a b s
  | .shflXorShortA d a b => Sys2Proof.Machine.execShflXorShortA d a b s
  | .voteBallotShortA d a => Sys2Proof.Machine.execVoteBallotShortA d a s
  | .bcastShortA d a b => Sys2Proof.Machine.execBcastShortA d a b s
  | .leaShortA d a b => Sys2Proof.Machine.execLeaShortA d a b s
  | .ldlB32ShortA d a b => Sys2Proof.Machine.execLdlB32ShortA d a b s
  | .stlB32ShortA d a b => Sys2Proof.Machine.execStlB32ShortA d a b s
  | .ldcB32ShortA d a b => Sys2Proof.Machine.execLdcB32ShortA d a b s
  | .stcB32ShortA d a b => Sys2Proof.Machine.execStcB32ShortA d a b s
  | .iaddShortB d a imm => Sys2Proof.Machine.execIaddShortB d a imm s
  | .isubShortB d a imm => Sys2Proof.Machine.execIsubShortB d a imm s
  | .andShortB d a imm => Sys2Proof.Machine.execAndShortB d a imm s
  | .orShortB d a imm => Sys2Proof.Machine.execOrShortB d a imm s
  | .xorShortB d a imm => Sys2Proof.Machine.execXorShortB d a imm s
  | .shlShortB d a imm => Sys2Proof.Machine.execShlShortB d a imm s
  | .shrShortB d a imm => Sys2Proof.Machine.execShrShortB d a imm s
  | .shaShortB d a imm => Sys2Proof.Machine.execShaShortB d a imm s
  | .movShortB d imm => Sys2Proof.Machine.execMovShortB d imm s
  | .icmpEqShortB d a imm => Sys2Proof.Machine.execIcmpEqShortB d a imm s
  | .icmpLtS32ShortB d a imm => Sys2Proof.Machine.execIcmpLtS32ShortB d a imm s
  | .shflXorShortB d a imm => Sys2Proof.Machine.execShflXorShortB d a imm s
  | .shflUpShortB d a imm => Sys2Proof.Machine.execShflUpShortB d a imm s
  | .shflDownShortB d a imm => Sys2Proof.Machine.execShflDownShortB d a imm s
  | .ldlB32ShortB d a imm => Sys2Proof.Machine.execLdlB32ShortB d a imm s
  | .stlB32ShortB d a imm => Sys2Proof.Machine.execStlB32ShortB d a imm s
  | .ldkB32ShortB d imm => Sys2Proof.Machine.execLdkB32ShortB d imm s
  | .trapEntry ag => Sys2Proof.Machine.execTrapEntry ag s
  | .machineTrapEntry ag => Sys2Proof.Machine.execMachineTrapEntry ag s
  | .pendingCauseTaken ag => Sys2Proof.Machine.execPendingCauseTaken ag s
  | .barrierWaitEnd ag => Sys2Proof.Machine.execBarrierWaitEnd ag s
  | .sluiceReleaseDelay ag => Sys2Proof.Machine.execSluiceReleaseDelay ag s
  | .frameWait core => Sys2Proof.Machine.execFrameWait core s
  | .handlerFrameGrant core => Sys2Proof.Machine.execHandlerFrameGrant core s
  | .cellarTimeout core => Sys2Proof.Machine.execCellarTimeout core s
  | .cellarSpill core => Sys2Proof.Machine.execCellarSpill core s
  | .tlbWalkDone ag => Sys2Proof.Machine.execTlbWalkDone ag s
  | .pageFaultServiced who writes => Sys2Proof.Machine.execPageFaultServiced who writes s
  | .pageFaultRefused who => Sys2Proof.Machine.execPageFaultRefused who s
  | .mwaitWake ag => Sys2Proof.Machine.execMwaitWake ag s
  | .mwaitTimeout ag => Sys2Proof.Machine.execMwaitTimeout ag s
  | .copyEntryGrant core ch => Sys2Proof.Machine.execCopyEntryGrant core ch s
  | .copyPerform core ch => Sys2Proof.Machine.execCopyPerform core ch s
  | .bwaitWake ag => Sys2Proof.Machine.execBwaitWake ag s
  | .cpwaitWake ag => Sys2Proof.Machine.execCpwaitWake ag s
  | .wlputAppend site ctx index => Sys2Proof.Machine.execWlputAppend site ctx index s
  | .wltakeWake ag => Sys2Proof.Machine.execWltakeWake ag s
  | .matrixPassClose core => Sys2Proof.Machine.execMatrixPassClose core s
  | .matrixPassStart core => Sys2Proof.Machine.execMatrixPassStart core s
  | .matrixPassEnd core => Sys2Proof.Machine.execMatrixPassEnd core s
  | .mxwaitWake ag => Sys2Proof.Machine.execMxwaitWake ag s
  | .accrdWake ag => Sys2Proof.Machine.execAccrdWake ag s
  | .regionReplay ag => Sys2Proof.Machine.execRegionReplay ag s
  | .scrubUe site address => Sys2Proof.Machine.execScrubUe site address s
  | .l1WriteOnward core sector => Sys2Proof.Machine.execL1WriteOnward core sector s
  | .l2WriteToL3 site die => Sys2Proof.Machine.execL2WriteToL3 site die s
  | .remoteSlotGrant core => Sys2Proof.Machine.execRemoteSlotGrant core s
  | .remoteWriteArrival op => Sys2Proof.Machine.execRemoteWriteArrival op s
  | .putnIncrement op => Sys2Proof.Machine.execPutnIncrement op s
  | .getDataArrival op => Sys2Proof.Machine.execGetDataArrival op s
  | .remoteAtomicAtTarget op => Sys2Proof.Machine.execRemoteAtomicAtTarget op s
  | .remoteReplyArrival op => Sys2Proof.Machine.execRemoteReplyArrival op s
  | .notifyIncrement op => Sys2Proof.Machine.execNotifyIncrement op s
  | .remoteOpFail op => Sys2Proof.Machine.execRemoteOpFail op s
  | .nwaitWake ag => Sys2Proof.Machine.execNwaitWake ag s
  | .rquietWake ag => Sys2Proof.Machine.execRquietWake ag s
  | .voteCount site ctx group => Sys2Proof.Machine.execVoteCount site ctx group s
  | .launchQueueDoorbell ctx queue qwr => Sys2Proof.Machine.execLaunchQueueDoorbell ctx queue qwr s
  | .queueRestart ctx queue => Sys2Proof.Machine.execQueueRestart ctx queue s
  | .launchPacket ctx queue => Sys2Proof.Machine.execLaunchPacket ctx queue s
  | .gridRelease site grid => Sys2Proof.Machine.execGridRelease site grid s
  | .gridComplete site grid => Sys2Proof.Machine.execGridComplete site grid s
  | .workgroupAdmit core grid => Sys2Proof.Machine.execWorkgroupAdmit core grid s
  | .barterRequest site cluster grid => Sys2Proof.Machine.execBarterRequest site cluster grid s
  | .carveChange core => Sys2Proof.Machine.execCarveChange core s
  | .operatingPointStable site die domain level => Sys2Proof.Machine.execOperatingPointStable site die domain level s
  | .agedPromotion ag => Sys2Proof.Machine.execAgedPromotion ag s
  | .watchdog site grid => Sys2Proof.Machine.execWatchdog site grid s
  | .vacateRequest site count grid => Sys2Proof.Machine.execVacateRequest site count grid s
  | .coreVacated core => Sys2Proof.Machine.execCoreVacated core s
  | .restoreEntry ag => Sys2Proof.Machine.execRestoreEntry ag s
  | .restoreTretRelease core wg => Sys2Proof.Machine.execRestoreTretRelease core wg s
  | .contextKill ctx => Sys2Proof.Machine.execContextKill ctx s
  | .headerUe lost => Sys2Proof.Machine.execHeaderUe lost s
  | .mcStateUe ag => Sys2Proof.Machine.execMcStateUe ag s
  | .fwLaunchRegister core value => Sys2Proof.Machine.execFwLaunchRegister core value s
  | .regionTableRewrite site entries => Sys2Proof.Machine.execRegionTableRewrite site entries s
  | .tlbInvalidate site ctx address => Sys2Proof.Machine.execTlbInvalidate site ctx address s
  | .controlWindowWrite site reg value => Sys2Proof.Machine.execControlWindowWrite site reg value s
  | .mapPublish site ctx => Sys2Proof.Machine.execMapPublish site ctx s
  | .presenceDetected plot m => Sys2Proof.Machine.execPresenceDetected plot m s
  | .presenceLost plot => Sys2Proof.Machine.execPresenceLost plot s
  | .powerGood plot => Sys2Proof.Machine.execPowerGood plot s
  | .resetStepRelease plot => Sys2Proof.Machine.execResetStepRelease plot s
  | .measurementRefused plot => Sys2Proof.Machine.execMeasurementRefused plot s
  | .trainingFailed plot => Sys2Proof.Machine.execTrainingFailed plot s
  | .portsTrained plot pup => Sys2Proof.Machine.execPortsTrained plot pup s
  | .plotAdmit plot => Sys2Proof.Machine.execPlotAdmit plot s
  | .firstBind plot ctx => Sys2Proof.Machine.execFirstBind plot ctx s
  | .drainRequest plot => Sys2Proof.Machine.execDrainRequest plot s
  | .serviceRequest plot => Sys2Proof.Machine.execServiceRequest plot s
  | .heartbeatMiss plot => Sys2Proof.Machine.execHeartbeatMiss plot s
  | .fatalIslandError plot => Sys2Proof.Machine.execFatalIslandError plot s
  | .plotLoss plot => Sys2Proof.Machine.execPlotLoss plot s
  | .contextCreate desc => Sys2Proof.Machine.execContextCreate desc s
  | .contextWithdraw ctx site => Sys2Proof.Machine.execContextWithdraw ctx site s
  | .contextRebind ctx desc => Sys2Proof.Machine.execContextRebind ctx desc s
  | .flitTagFail link => Sys2Proof.Machine.execFlitTagFail link s
  | .keyInstall link key => Sys2Proof.Machine.execKeyInstall link key s
  | .keyAck link sender => Sys2Proof.Machine.execKeyAck link sender s
  | .oldKeyRetire link => Sys2Proof.Machine.execOldKeyRetire link s
  | .heartbeat reeve sender term => Sys2Proof.Machine.execHeartbeat reeve sender term s
  | .presidencyClaim reeve => Sys2Proof.Machine.execPresidencyClaim reeve s
  | .getVersion iface => Sys2Proof.Machine.execGetVersion iface s
  | .getCapabilities iface => Sys2Proof.Machine.execGetCapabilities iface s
  | .negotiateAlgorithms iface => Sys2Proof.Machine.execNegotiateAlgorithms iface s
  | .getDigests iface => Sys2Proof.Machine.execGetDigests iface s
  | .getCertificate iface => Sys2Proof.Machine.execGetCertificate iface s
  | .challenge iface nonce => Sys2Proof.Machine.execChallenge iface nonce s
  | .getMeasurements iface index nonce => Sys2Proof.Machine.execGetMeasurements iface index nonce s
  | .keyExchange iface key => Sys2Proof.Machine.execKeyExchange iface key s
  | .finish iface => Sys2Proof.Machine.execFinish iface s
  | .keyUpdate iface => Sys2Proof.Machine.execKeyUpdate iface s
  | .endSession iface => Sys2Proof.Machine.execEndSession iface s
  | .ideKm iface key => Sys2Proof.Machine.execIdeKm iface key s
  | .stopInterfaceRequest iface => Sys2Proof.Machine.execStopInterfaceRequest iface s
  | .hostConfigWrite iface offset value => Sys2Proof.Machine.execHostConfigWrite iface offset value s
  | .hostTlp iface ide poisoned tlp => Sys2Proof.Machine.execHostTlp iface ide poisoned tlp s
  | .keySlotRetire site slot => Sys2Proof.Machine.execKeySlotRetire site slot s
  | .olLaser site lane on => Sys2Proof.Machine.execOlLaser site lane on s
  | .olTrainStart site lane slot => Sys2Proof.Machine.execOlTrainStart site lane slot s
  | .olAct site lane on => Sys2Proof.Machine.execOlAct site lane on s
  | .olLockWrite site lane value => Sys2Proof.Machine.execOlLockWrite site lane value s
  | .olMapWrite site lane hi value => Sys2Proof.Machine.execOlMapWrite site lane hi value s
  | .olRingWrite site lane slot value => Sys2Proof.Machine.execOlRingWrite site lane slot value s
  | .olRingRead site lane slot => Sys2Proof.Machine.execOlRingRead site lane slot s
  | .olTrainingDone site lane eyeOk => Sys2Proof.Machine.execOlTrainingDone site lane eyeOk s
  | .olLaserStable site lane => Sys2Proof.Machine.execOlLaserStable site lane s
  | .wfiEvent core => Sys2Proof.Machine.execWfiEvent core s
  | .coreReset core => Sys2Proof.Machine.execCoreReset core s
  | .debugResume ag => Sys2Proof.Machine.execDebugResume ag s
  | .reeveFailure reeve => Sys2Proof.Machine.execReeveFailure reeve s
  | .lockInterfaceRequest iface => Sys2Proof.Machine.execLockInterfaceRequest iface s
  | .startInterfaceRequest iface => Sys2Proof.Machine.execStartInterfaceRequest iface s
  | .debuggerCoreStop core => Sys2Proof.Machine.execDebuggerCoreStop core s
  | .panelPowerOn => Sys2Proof.Machine.execPanelPowerOn s
  | .getTargetRead op => Sys2Proof.Machine.execGetTargetRead op s
  | .dropMeasurement site lane slot drop => Sys2Proof.Machine.execDropMeasurement site lane slot drop s

end Sys2Proof.Machine
end

