-- ==== Sys2Proof/Machine/Engines.lean ====
section
/-! DEFINITION. The agents that act on their own: which of their steps may be enabled, and how a turn is made of an
instruction, the passing of time and one step of an engine (assumption 29, DESIGN CHOICE). The agenda gives every other order. -/

namespace Sys2Proof.Machine

/-- A step of an agent, as its meaning. -/
abbrev Action := State → Res

/-- Steps that a flow may take next, by what it waits for. -/
def Flow.steps (clock : Dword) (ag : AgentRef) (f : Flow) : List Action :=
  (if f.due.isSome then [execSluiceReleaseDelay ag] else []) ++
  match f.run with
  | .wait w _ => match w with
    | .bar _ _ _ | .barw _ _ => [execBarrierWaitEnd ag]
    | .bwait => [execBwaitWake ag]
    | .cpwait => [execCpwaitWake ag]
    | .nwait => [execNwaitWake ag]
    | .wltake => [execWltakeWake ag]
    | .mxwait => [execMxwaitWake ag]
    | .accrd => [execAccrdWake ag]
    | .rquiet => [execRquietWake ag]
    | .mwait d => execMwaitWake ag :: (match d with
      | some t => if t.toNat ≤ clock.toNat then [execMwaitTimeout ag] else []
      | none => [])
    | .regang _ | .copyEntry | .remoteSlot | .reply | .savedone | .restoreTret | .storeHold | .ringRead | .wfi => []
  | .parked p => if p.fault.isNone then [execTlbWalkDone ag] else []
  | .replay => [execRegionReplay ag]
  | .ready => if Config.agedCycles ≤ f.readyFor && !f.aged then [execAgedPromotion ag] else []
  | .frameWait _ _ | .ended => []

/-- Steps of a gang's agents. -/
def Gang.steps (clock : Dword) (r : CoreRef) (g : Gang) : List Action :=
  let ag (k : Nat) : AgentRef := ⟨r, g.slot, k⟩
  (if g.restore.isSome then [execRestoreEntry (ag 0)] else []) ++
  (g.act.flows.mapIdx fun k f => (k, f)).flatMap fun p =>
    (if g.nextPending.isSome && p.2.run != .ready then [execPendingCauseTaken (ag p.1)] else []) ++ p.2.steps clock (ag p.1)

/-- Steps of a core's engines and agents. -/
def Core.steps (clock : Dword) (c : Core) : List Action :=
  let r := c.ref
  let dirty := (c.l1.find? fun t => !t.dirtyWrites.isEmpty).toList
  (if c.waiters.isEmpty then [] else [execFrameWait r, execCellarTimeout r]) ++
  (if c.handReqs.isEmpty then [] else [execHandlerFrameGrant r]) ++
  (if c.waiters.isEmpty && c.handReqs.isEmpty then [] else [execCellarSpill r]) ++
  (if c.passes.isEmpty then [] else [execMatrixPassClose r, execMatrixPassStart r, execMatrixPassEnd r]) ++
  ((c.chans.filter fun q => !q.2.isEmpty).map fun q => execCopyPerform r q.1) ++
  ((c.copyWaits.map fun q => q.1).eraseDups.map fun n => execCopyEntryGrant r n) ++
  (if c.remoteWaits.isEmpty then [] else [execRemoteSlotGrant r]) ++
  (if c.vacated then [execCoreVacated r] else []) ++
  (if c.carveWant.isSome then [execCarveChange r] else []) ++
  ((c.wgs.filter fun w => c.gangs.any fun g => g.wg == w.id && g.atRestoreTret).map fun w => execRestoreTretRelease r w.id) ++
  (dirty.map fun t => execL1WriteOnward r t.idx) ++
  c.gangs.flatMap (Gang.steps clock r)

/-- Steps of a remote operation. -/
def Rop.steps (o : Rop) : List Action :=
  (match o.kind with
    | .put => [execRemoteWriteArrival o.id]
    | .putn => [execRemoteWriteArrival o.id, execPutnIncrement o.id]
    | .get => [execGetTargetRead o.id, execGetDataArrival o.id]
    | .ratom _ | .rcas _ => [execRemoteAtomicAtTarget o.id, execRemoteReplyArrival o.id]
    | .notify => [execNotifyIncrement o.id]) ++ [execRemoteOpFail o.id]

/-- Steps of the dispatcher for a queue of unstarted workgroups. -/
def State.queueSteps (s : State) (x : Island) (q : ClusterQueue) : List Action :=
  let cores := (upTo 8).map fun k => CoreRef.compute x.site (q.cluster / 8) (q.cluster % 8 * 8 + k)
  if q.items.isEmpty then [execBarterRequest x.site q.cluster q.grid]
  else (cores.map fun r => execCarveChange r) ++ (cores.map fun r => execWorkgroupAdmit r q.grid) ++
    (match x.grid? q.grid with
      | some g => if s.stableFor x g then [] else
          (x.eligible g).map fun cl =>
            execOperatingPointStable x.site (cl / 8) (domainOf cl) ((s.hint x (cl / 8) (domainOf cl)).getD g.vfh)
      | none => [])

/-- Steps of a context on an island. -/
def CtxIsland.steps (site : Nat) (k : CtxIsland) : List Action :=
  (if k.puts.isEmpty then [] else [execWlputAppend site k.ctx 0]) ++
  (k.ballots.eraseDups.map fun g => execVoteCount site k.ctx g) ++
  (match k.binding with
    | .bound => []
    | .leaving => [execContextWithdraw k.ctx site]
    | .unbound => [execKeySlotRetire site k.keySlot])

/-- Steps of an island's engines. -/
def State.islandSteps (s : State) (x : Island) : List Action :=
  ((x.l2.filter fun q => !q.2.isEmpty).map fun q => execL2WriteToL3 x.site q.1) ++
  x.ctxs.flatMap (CtxIsland.steps x.site) ++
  ((x.grids.filter fun g => !g.complete && !g.dropped).flatMap fun g =>
    if g.released.isNone then [execGridRelease x.site g.num] else [execGridComplete x.site g.num, execWatchdog x.site g.num]) ++
  x.cqueues.flatMap (s.queueSteps x) ++ ((x.savedWgs.map fun v => v.1).eraseDups.map fun r => execCoreVacated r) ++
  ((x.lanes.filter fun l => l.1 < 4).flatMap fun l => (upTo 12).map fun n => execOlRingRead x.site l.1 n)

/-- Steps of the reeve for a plot. -/
def State.plotSteps (s : State) (p : Plot) : List Action :=
  match p.st with
  | .powered => [execResetStepRelease p.site]
  | .admitted => ((s.contexts.filter fun k => s.bound k.num p.site).map fun k => execFirstBind p.site k.num).take 1
  | .lost => [execPlotLoss p.site]
  | _ => []

/-- Steps of the reeve for a context. -/
def State.contextSteps (s : State) (k : Context) : List Action :=
  ((k.queues.mapIdx fun n q => (n, q)).filterMap fun p =>
    if p.2.qrd != p.2.qwr && p.2.qerr == 0 then some (execLaunchPacket k.num p.1) else none) ++
  ((s.islands.filter fun x => (x.ctx? k.num).any fun c => !c.maps.isEmpty).map fun x => execMapPublish x.site k.num)

/-- The steps that agents of their own may take now. -/
def State.candidates (s : State) : List Action :=
  let clock (c : Core) : Dword := ((c.ref.site.bind s.island?).map fun x => x.clock).getD 0
  (s.cores.flatMap fun c => c.steps (clock c)) ++ s.rops.flatMap Rop.steps ++ s.islands.flatMap s.islandSteps ++
    s.plots.flatMap s.plotSteps ++ s.contexts.flatMap s.contextSteps

/-- The first of some steps that is enabled. -/
def firstEnabled (s : State) : List Action → Option State
  | [] => none
  | f :: r => match f s with
    | .next t => some t
    | _ => firstEnabled s r

/-- A list from its n-th entry round. -/
def rotate (n : Nat) (l : List Action) : List Action := l.drop (n % l.length) ++ l.take (n % l.length)

/-- One step of an engine, if one is enabled; they take turns with the cycles. -/
def State.engine (s : State) : State :=
  (firstEnabled s (rotate (s.core s.cur.core).cycle s.candidates)).getD s

/-- After a turn: time passes, an engine takes a step, and the next core's selector picks its agent. -/
def advance (r : Res) : Res :=
  match r with
  | .next s => .next s.tick.engine.choose
  | r => r

/-- A turn of the agent `cur`: a pending cause at the boundary, else its next instruction (R23, R324). -/
def turn (s : State) : Res :=
  match (s.gang? s.cur.core s.cur.slot).bind Gang.nextPending with
  | some _ => execPendingCauseTaken s.cur s
  | none => match s.front with
    | .stop r => advance r
    | .run i s1 => advance (exec i s1)

/-- A turn that the agenda gives: a step of another agent, or one issue of a core. No engine acts by itself then
(assumption 4, DESIGN CHOICE). -/
def agendaTurn (t : Turn) (s : State) : Res :=
  match t with
  | .event i => if !i.isEvent then .next s else match exec i s with
    | .next t => .next t.settlePoints
    | o => o
  | .issue r =>
    let tickAfter (o : Res) : Res := match o with
      | .next u => .next u.tick
      | o => o
    match s.select r with
    | none => .next ({ s with cur := ⟨r, 0, 0⟩ }).tick
    | some a =>
      let s0 := { s with cur := a }
      match (s0.gang? a.core a.slot).bind Gang.nextPending with
      | some _ => execPendingCauseTaken a s0
      | none => match s0.front with
        | .stop o => tickAfter o
        | .run i s1 => tickAfter (exec i s1)

/-- A turn without an agenda: the agent that the selector of the core of `cur` picks, or a cycle without an issue
(R178, R316). -/
def ownTurn (s : State) : Res :=
  match s.select s.cur.core with
    | some a => turn { s with cur := a }
    | none => advance (.next s)

/-- A word stored in the memory that an agent's core fetches from. -/
def State.placeWord (s : State) (r : CoreRef) (pa : Nat) (w : Word) : State :=
  (s.writeI r (wholeWrite (pa / 4) ⟨w, false⟩)).modCore r fun c => { c with icache := c.icache.filter fun p => p.1 != pa / 4 }

end Sys2Proof.Machine
end

