-- ==== Sys2Proof/Machine/Step.lean ====
section
/-! DEFINITION. One step of the panel: the head of the agenda, else a turn of the agent `cur`; and how an
instruction is placed where the next step fetches. -/

namespace Sys2Proof.Machine

/-- One step. -/
def step (s : State) : Host.Outcome State Fault Refusal :=
  match s.agenda with
  | t :: rest => agendaTurn t { s with agenda := rest }
  | [] => ownTurn s

/-- A state in which the instruction of the given bits is stored where step fetches its next instruction. The
agenda is emptied, so that the next step fetches (assumption 3, DESIGN CHOICE). -/
def State.withFetchWord (s : State) (nbits w : Nat) : State :=
  let ag := (s.select s.cur.core).getD s.cur
  match s.gang? ag.core ag.slot with
  | none => s
  | some g =>
    let pc := (g.act.flow (g.act.fi ag.slice)).pc
    let put (s : State) (p : Nat × Word) : State :=
      match translate (s.withTlbs s.cur.core) g.ctx g.pl .fetch (pc + BitVec.ofNat 64 (4 * p.1)) with
      | .ok pa _ => s.placeWord s.cur.core pa p.2
      | _ => s
    ((wordsOfBytes (bytesOfNat 12 (w % 2 ^ nbits))).mapIdx fun k x => (k, x)).foldl put { s with agenda := [] }

end Sys2Proof.Machine
end

