-- ==== Sys2Proof/Laws/Decode.lean ====
section
/-! SUPPORT. What the decoder and the encoder say to each other: codes of operands and modifiers, the
fields of a long form, and the way from a well-formed instruction to its own decoding. -/

namespace Sys2Proof

theorem Opnd.ofCode_code (o : Opnd) : Opnd.ofCode o.code = o := by
  cases o with
  | v n =>
    have h : (BitVec.ofNat 8 n.val).toNat = n.val := by simp; omega
    simp only [Opnd.code, Opnd.ofCode, h, n.isLt, dif_pos]
  | w k => obtain ⟨k, hk⟩ := k; interval_cases k <;> simp [Opnd.code, Opnd.ofCode]
  | _ => simp [Opnd.code, Opnd.ofCode]

theorem Opnd.code_eq_z (o : Opnd) : (o.code == 0xF0) = (o == .z) := by
  cases o with
  | v n =>
    have h : BitVec.ofNat 8 n.val ≠ 0xF0#8 := by
      intro h; have := congrArg BitVec.toNat h; simp at this; omega
    have h' : (Opnd.v n == Opnd.z) = false := rfl
    rw [h']; simpa [Opnd.code] using h
  | w k => obtain ⟨k, hk⟩ := k; interval_cases k <;> rfl
  | _ => rfl

theorem IntMod.ofBits_bits (md : IntMod) : IntMod.ofBits md.bits = md := by
  obtain ⟨w, s, t⟩ := md; cases w <;> cases s <;> cases t <;> rfl

theorem FpMod.ofBits_bits (fm : FpMod) : FpMod.ofBits fm.bits = some fm := by
  obtain ⟨w, t⟩ := fm; cases w <;> cases t <;> rfl

theorem Raw.hdr_mk (cls idx m x kp h d a b c) :
    (Raw.mk cls idx m x kp (Hdr.nw h) h.gn d a b c h.g.code h.lit).hdr = h := by
  simp [Raw.hdr, Opnd.ofCode_code]

theorem Raw.ofWords_words (r : Raw) : Raw.ofWords r.word0 r.word1 r.lit = r := by
  obtain ⟨cls, idx, m, x, kp, nw, gn, d, a, b, c, g, lit⟩ := r
  simp only [Raw.ofWords, Raw.word0, Raw.word1, Raw.mk.injEq]
  generalize (if lit.isSome then 0b11#2 else 0b10#2) = two
  refine ⟨?_, ?_, ?_, ?_, ?_, ?_, ?_, ?_, ?_, ?_, ?_, ?_, trivial⟩ <;>
  first
  | (apply BitVec.eq_of_getLsbD_eq; intro i hi
     simp only [BitVec.getLsbD_extractLsb', BitVec.getLsbD_append, hi]
     interval_cases i <;> simp)
  | (simp only [BitVec.getLsbD_append]
     cases kp <;> cases nw <;> cases gn <;> simp [bit])

theorem Raw.two_word0 (r : Raw) :
    (r.word0.extractLsb' 0 2).toNat = if r.lit.isSome then 3 else 2 := by
  have h : r.word0.extractLsb' 0 2 = if r.lit.isSome then 0b11#2 else 0b10#2 := by
    simp only [Raw.word0]
    generalize (if r.lit.isSome then 0b11#2 else 0b10#2) = two
    apply BitVec.eq_of_getLsbD_eq; intro i hi
    simp only [BitVec.getLsbD_extractLsb', BitVec.getLsbD_append, hi]
    interval_cases i <;> simp
  rw [h]; split <;> rfl

theorem decodeWords_words (r : Raw) : decodeWords r.words = decodeLong r := by
  have h := r.two_word0
  have hr := r.ofWords_words
  cases hl : r.lit with
  | none => rw [hl] at h hr; simp [Raw.words, decodeWords, hl, h, hr]
  | some l => rw [hl] at h hr; simp [Raw.words, decodeWords, hl, h, hr]

theorem Instr.checked_of_wf {i : Instr} (h : i.wf = true) : i.checked = .ok i := by
  unfold Instr.wf at h; unfold Instr.checked
  split at h <;> simp_all

theorem Instr.unused_of_wf {i : Instr} (h : i.wf = true) : i.unusedOk = true := by
  unfold Instr.wf at h
  split at h <;> simp_all

theorem mark_mod {h : Hdr} {clr : Bool} {id : BitVec 8} {off : BitVec 16}
    (hw : (Instr.mark h clr id off).wf = true) : (!clr || (id == 0 && off == 0xF0F0)) = true := by
  have h1 : (Instr.mark h clr id off).info =
    some (.gang h (!clr || (id == 0 && off == 0xF0F0)) []) := rfl
  unfold Instr.wf at hw; rw [h1] at hw
  simp only [Info.gang, Bool.and_eq_true] at hw
  exact hw.1.2

theorem and_all4 (m : BitVec 4) : ((m &&& ~~~15) == 0) = true := by revert m; decide
theorem and_all5 (m : BitVec 5) : ((m &&& ~~~31) == 0) = true := by revert m; decide

theorem off_halves (off : BitVec 16) : off.extractLsb' 8 8 ++ off.extractLsb' 0 8 = off := by
  apply BitVec.eq_of_getLsbD_eq; intro i hi
  simp only [BitVec.getLsbD_extractLsb', BitVec.getLsbD_append]
  interval_cases i <;> simp

/-- The way from a well-formed long form to its decoding: its row, its fields, what the row builds. -/
theorem long_roundTrip {i : Instr} {n : Info} {u : RowUse} {cls idx m x d a b c kp}
    {h : Hdr} {j : Option Instr} (hn : i.info = some n) (hh : n.h = h) (he : encode i = encLong h cls idx m x d a b c kp)
    (hu : rowUse (Raw.mk cls idx m x kp h.nw h.gn d a b c h.g.code h.lit) = some u)
    (hg : u.guard = n.guard) (hr : u.result = n.result)
    (hm : ((m &&& ~~~u.m) == 0) = true) (hx : ((x &&& ~~~u.x) == 0) = true)
    (hd : (u.d || d == 0xF0) = true) (ha : (u.a || a == 0xF0) = true)
    (hb : (u.b || b == 0xF0) = true) (hc : (u.c || c == 0xF0) = true) (hk : (u.kp || !kp) = true)
    (hi : rowBuild (Raw.mk cls idx m x kp h.nw h.gn d a b c h.g.code h.lit) = j) (hj : j = some i)
    (hw : i.wf = true) : decodeWords (encode i) = .ok i := by
  subst hh
  have hl := Instr.checked_of_wf hw
  have hh : n.hdrOk = true := by unfold Instr.wf at hw; rw [hn] at hw; simp_all
  rw [he, encLong, decodeWords_words, decodeLong, hu]
  have hok : u.ok (Raw.mk cls idx m x kp n.h.nw n.h.gn d a b c n.h.g.code n.h.lit) = true := by
    simp only [Info.hdrOk, RowUse.ok, Opnd.code_eq_z, hg, hr, bne, Bool.and_eq_true] at *
    tauto
  simp [hok, hi, hj, hl]

theorem byte_of_append {w : BitVec 8} {x : BitVec 8} {y : BitVec 8} {s : BitVec 6} {t : BitVec 2} :
    (w ++ x ++ y ++ s ++ t).extractLsb' 24 8 = w ∧ (w ++ x ++ y ++ s ++ t).extractLsb' 16 8 = x ∧
    (w ++ x ++ y ++ s ++ t).extractLsb' 8 8 = y ∧ (w ++ x ++ y ++ s ++ t).extractLsb' 2 6 = s ∧
    (w ++ x ++ y ++ s ++ t).extractLsb' 0 2 = t := by
  refine ⟨?_, ?_, ?_, ?_, ?_⟩ <;> apply BitVec.eq_of_getLsbD_eq <;> intro i hi <;>
    simp only [BitVec.getLsbD_extractLsb', BitVec.getLsbD_append, hi] <;> interval_cases i <;> simp

/-- The way from a short-A form to its decoding. -/
theorem shortA_roundTrip {i : Instr} {sop : BitVec 6} {d a b : Opnd} {bz : Bool}
    (he : encode i = encA sop d a b) (hs : shortAOf d a b sop.toNat = some (bz, i))
    (hb : (!bz || b == .z) = true) (hw : i.wf = true) : decodeWords (encode i) = .ok i := by
  obtain ⟨h1, h2, h3, h4, h5⟩ := @byte_of_append b.code a.code d.code sop 0b00#2
  have hl := Instr.checked_of_wf hw
  have hz : (bz && b.code != 0xF0) = false := by
    rw [bne, Opnd.code_eq_z]; cases bz <;> simp_all
  simp only [he, encA, decodeWords, h5]
  show decodeShortA _ = _
  simp only [decodeShortA, h1, h2, h3, h4, Opnd.ofCode_code, hs, hz, hl]
  rfl

theorem imm5_back (k : BitVec 5) : (k.setWidth 8).setWidth 5 = k := by revert k; decide
theorem imm5_low (k : BitVec 5) : (!true || (k.setWidth 8).extractLsb' 5 3 == 0) = true := by
  revert k; decide

/-- The way from a short-B form to its decoding. -/
theorem shortB_roundTrip {i : Instr} {sop : BitVec 6} {d a : Opnd} {imm : BitVec 8} {lim az : Bool}
    (he : encode i = encB sop d a imm) (hs : shortBOf d a imm sop.toNat = some (lim, az, i))
    (hi : (!lim || imm.extractLsb' 5 3 == 0) = true) (ha : (!az || a == .z) = true)
    (hw : i.wf = true) : decodeWords (encode i) = .ok i := by
  obtain ⟨h1, h2, h3, h4, h5⟩ := @byte_of_append imm a.code d.code sop 0b01#2
  have hl := Instr.checked_of_wf hw
  have hz : ((lim && imm.extractLsb' 5 3 != 0) || (az && a.code != 0xF0)) = false := by
    rw [bne, bne, Opnd.code_eq_z]; cases lim <;> cases az <;> simp_all
  simp only [he, encB, decodeWords, h5]
  show decodeShortB _ = _
  simp only [decodeShortB, h1, h2, h3, h4, Opnd.ofCode_code, hs, hz, hl]
  rfl

end Sys2Proof
end

