-- ==== Sys2Proof/Laws/PerInstr.lean ====
section
/-! SUPPORT. The family RoundTrip: decoding what the encoder writes for a well-formed instruction gives
the instruction back, one lemma for each constructor of `Instr`. -/

namespace Sys2Proof.Laws

/-- The decoder reads back the encoding of a well-formed instruction (R28 to R45). -/
def RoundTrip.Statement (i : Instr) : Prop := i.wf = true → decodeWords (encode i) = .ok i

theorem build_iadd (m x kp nw gn d a b c g lit) : rowBuild (Raw.mk 0x0 0x00 m x kp nw gn d a b c g lit) =
    (some (Instr.iadd (Hdr.mk lit (.ofCode g) gn nw) (IntMod.ofBits m) (.ofCode d) (.ofCode a) (.ofCode b))) := rfl

theorem build_isub (m x kp nw gn d a b c g lit) : rowBuild (Raw.mk 0x0 0x01 m x kp nw gn d a b c g lit) =
    (some (Instr.isub (Hdr.mk lit (.ofCode g) gn nw) (IntMod.ofBits m) (.ofCode d) (.ofCode a) (.ofCode b))) := rfl

theorem build_imul (m x kp nw gn d a b c g lit) : rowBuild (Raw.mk 0x0 0x02 m x kp nw gn d a b c g lit) =
    (some (Instr.imul (Hdr.mk lit (.ofCode g) gn nw) (IntMod.ofBits m) (.ofCode d) (.ofCode a) (.ofCode b))) := rfl

theorem build_imulh (m x kp nw gn d a b c g lit) : rowBuild (Raw.mk 0x0 0x03 m x kp nw gn d a b c g lit) =
    (some (Instr.imulh (Hdr.mk lit (.ofCode g) gn nw) (IntMod.ofBits m) (.ofCode d) (.ofCode a) (.ofCode b))) := rfl

theorem build_imad (m x kp nw gn d a b c g lit) : rowBuild (Raw.mk 0x0 0x04 m x kp nw gn d a b c g lit) =
    (some (Instr.imad (Hdr.mk lit (.ofCode g) gn nw) (IntMod.ofBits m) (.ofCode d) (.ofCode a) (.ofCode b) (.ofCode c))) := rfl

theorem build_imin (m x kp nw gn d a b c g lit) : rowBuild (Raw.mk 0x0 0x05 m x kp nw gn d a b c g lit) =
    (some (Instr.imin (Hdr.mk lit (.ofCode g) gn nw) (IntMod.ofBits m) (.ofCode d) (.ofCode a) (.ofCode b))) := rfl

theorem build_imax (m x kp nw gn d a b c g lit) : rowBuild (Raw.mk 0x0 0x06 m x kp nw gn d a b c g lit) =
    (some (Instr.imax (Hdr.mk lit (.ofCode g) gn nw) (IntMod.ofBits m) (.ofCode d) (.ofCode a) (.ofCode b))) := rfl

theorem build_iabs (m x kp nw gn d a b c g lit) : rowBuild (Raw.mk 0x0 0x07 m x kp nw gn d a b c g lit) =
    (some (Instr.iabs (Hdr.mk lit (.ofCode g) gn nw) (IntMod.ofBits m) (.ofCode d) (.ofCode a))) := rfl

theorem build_idiv (m x kp nw gn d a b c g lit) : rowBuild (Raw.mk 0x0 0x08 m x kp nw gn d a b c g lit) =
    (some (Instr.idiv (Hdr.mk lit (.ofCode g) gn nw) (IntMod.ofBits m) (.ofCode d) (.ofCode a) (.ofCode b))) := rfl

theorem build_irem (m x kp nw gn d a b c g lit) : rowBuild (Raw.mk 0x0 0x09 m x kp nw gn d a b c g lit) =
    (some (Instr.irem (Hdr.mk lit (.ofCode g) gn nw) (IntMod.ofBits m) (.ofCode d) (.ofCode a) (.ofCode b))) := rfl

theorem build_icmp (m x kp nw gn d a b c g lit) : rowBuild (Raw.mk 0x0 0x0A m x kp nw gn d a b c g lit) =
    (do let cond ← Cond.ofField (x.setWidth 3).toNat; some (Instr.icmp (Hdr.mk lit (.ofCode g) gn nw) (IntMod.ofBits m) cond (x.getLsbD 3) (.ofCode d) (.ofCode a) (.ofCode b))) := rfl

theorem build_isel (m x kp nw gn d a b c g lit) : rowBuild (Raw.mk 0x0 0x0B m x kp nw gn d a b c g lit) =
    (some (Instr.isel (Hdr.mk lit (.ofCode g) gn nw) (IntMod.ofBits m) (.ofCode d) (.ofCode a) (.ofCode b) (.ofCode c))) := rfl

theorem build_dadd (m x kp nw gn d a b c g lit) : rowBuild (Raw.mk 0x0 0x0C m x kp nw gn d a b c g lit) =
    (some (Instr.dadd (Hdr.mk lit (.ofCode g) gn nw) (IntMod.ofBits m) (.ofCode d) (.ofCode a) (.ofCode b))) := rfl

theorem build_dsub (m x kp nw gn d a b c g lit) : rowBuild (Raw.mk 0x0 0x0D m x kp nw gn d a b c g lit) =
    (some (Instr.dsub (Hdr.mk lit (.ofCode g) gn nw) (IntMod.ofBits m) (.ofCode d) (.ofCode a) (.ofCode b))) := rfl

theorem build_lea (m x kp nw gn d a b c g lit) : rowBuild (Raw.mk 0x0 0x0E m x kp nw gn d a b c g lit) =
    (if m == 0 then some (Instr.lea (Hdr.mk lit (.ofCode g) gn nw) (x.setWidth 3) (x.getLsbD 3) (.ofCode d) (.ofCode a) (.ofCode b)) else none) := rfl

theorem build_dcmp (m x kp nw gn d a b c g lit) : rowBuild (Raw.mk 0x0 0x0F m x kp nw gn d a b c g lit) =
    (do let cond ← Cond.ofField (x.setWidth 3).toNat; some (Instr.dcmp (Hdr.mk lit (.ofCode g) gn nw) (IntMod.ofBits m) cond (x.getLsbD 3) (.ofCode d) (.ofCode a) (.ofCode b))) := rfl

theorem build_dot4 (m x kp nw gn d a b c g lit) : rowBuild (Raw.mk 0x0 0x10 m x kp nw gn d a b c g lit) =
    (some (Instr.dot4 (Hdr.mk lit (.ofCode g) gn nw) (IntMod.ofBits m) (.ofCode d) (.ofCode a) (.ofCode b) (.ofCode c))) := rfl

theorem build_dot2 (m x kp nw gn d a b c g lit) : rowBuild (Raw.mk 0x0 0x11 m x kp nw gn d a b c g lit) =
    (some (Instr.dot2 (Hdr.mk lit (.ofCode g) gn nw) (IntMod.ofBits m) (.ofCode d) (.ofCode a) (.ofCode b) (.ofCode c))) := rfl

theorem build_isad (m x kp nw gn d a b c g lit) : rowBuild (Raw.mk 0x0 0x12 m x kp nw gn d a b c g lit) =
    (some (Instr.isad (Hdr.mk lit (.ofCode g) gn nw) (IntMod.ofBits m) (.ofCode d) (.ofCode a) (.ofCode b) (.ofCode c))) := rfl

theorem build_mov (m x kp nw gn d a b c g lit) : rowBuild (Raw.mk 0x1 0x00 m x kp nw gn d a b c g lit) =
    (some (Instr.mov (Hdr.mk lit (.ofCode g) gn nw) (.ofCode d) (.ofCode a))) := rfl

theorem build_andI (m x kp nw gn d a b c g lit) : rowBuild (Raw.mk 0x1 0x01 m x kp nw gn d a b c g lit) =
    (some (Instr.andI (Hdr.mk lit (.ofCode g) gn nw) (.ofCode d) (.ofCode a) (.ofCode b))) := rfl

theorem build_orI (m x kp nw gn d a b c g lit) : rowBuild (Raw.mk 0x1 0x02 m x kp nw gn d a b c g lit) =
    (some (Instr.orI (Hdr.mk lit (.ofCode g) gn nw) (.ofCode d) (.ofCode a) (.ofCode b))) := rfl

theorem build_xorI (m x kp nw gn d a b c g lit) : rowBuild (Raw.mk 0x1 0x03 m x kp nw gn d a b c g lit) =
    (some (Instr.xorI (Hdr.mk lit (.ofCode g) gn nw) (.ofCode d) (.ofCode a) (.ofCode b))) := rfl

theorem build_andn (m x kp nw gn d a b c g lit) : rowBuild (Raw.mk 0x1 0x04 m x kp nw gn d a b c g lit) =
    (some (Instr.andn (Hdr.mk lit (.ofCode g) gn nw) (.ofCode d) (.ofCode a) (.ofCode b))) := rfl

theorem build_notI (m x kp nw gn d a b c g lit) : rowBuild (Raw.mk 0x1 0x05 m x kp nw gn d a b c g lit) =
    (some (Instr.notI (Hdr.mk lit (.ofCode g) gn nw) (.ofCode d) (.ofCode a))) := rfl

theorem build_shl (m x kp nw gn d a b c g lit) : rowBuild (Raw.mk 0x1 0x06 m x kp nw gn d a b c g lit) =
    (do let w ← ShW.ofField (m.setWidth 2).toNat; some (Instr.shl (Hdr.mk lit (.ofCode g) gn nw) w (.ofCode d) (.ofCode a) (.ofCode b))) := rfl

theorem build_shr (m x kp nw gn d a b c g lit) : rowBuild (Raw.mk 0x1 0x07 m x kp nw gn d a b c g lit) =
    (do let w ← ShW.ofField (m.setWidth 2).toNat; some (Instr.shr (Hdr.mk lit (.ofCode g) gn nw) w (.ofCode d) (.ofCode a) (.ofCode b))) := rfl

theorem build_sha (m x kp nw gn d a b c g lit) : rowBuild (Raw.mk 0x1 0x08 m x kp nw gn d a b c g lit) =
    (do let w ← ShW.ofField (m.setWidth 2).toNat; some (Instr.sha (Hdr.mk lit (.ofCode g) gn nw) w (.ofCode d) (.ofCode a) (.ofCode b))) := rfl

theorem build_rot (m x kp nw gn d a b c g lit) : rowBuild (Raw.mk 0x1 0x09 m x kp nw gn d a b c g lit) =
    (do let w ← ShW.ofField (m.setWidth 2).toNat; some (Instr.rot (Hdr.mk lit (.ofCode g) gn nw) w (.ofCode d) (.ofCode a) (.ofCode b))) := rfl

theorem build_bfe (m x kp nw gn d a b c g lit) : rowBuild (Raw.mk 0x1 0x0A m x kp nw gn d a b c g lit) =
    (some (Instr.bfe (Hdr.mk lit (.ofCode g) gn nw) (x.getLsbD 0) (.ofCode d) (.ofCode a) (.ofCode b))) := rfl

theorem build_bfi (m x kp nw gn d a b c g lit) : rowBuild (Raw.mk 0x1 0x0B m x kp nw gn d a b c g lit) =
    (some (Instr.bfi (Hdr.mk lit (.ofCode g) gn nw) (.ofCode d) (.ofCode a) (.ofCode b) (.ofCode c))) := rfl

theorem build_popc (m x kp nw gn d a b c g lit) : rowBuild (Raw.mk 0x1 0x0C m x kp nw gn d a b c g lit) =
    (some (Instr.popc (Hdr.mk lit (.ofCode g) gn nw) (.ofCode d) (.ofCode a))) := rfl

theorem build_clz (m x kp nw gn d a b c g lit) : rowBuild (Raw.mk 0x1 0x0D m x kp nw gn d a b c g lit) =
    (some (Instr.clz (Hdr.mk lit (.ofCode g) gn nw) (.ofCode d) (.ofCode a))) := rfl

theorem build_ffs (m x kp nw gn d a b c g lit) : rowBuild (Raw.mk 0x1 0x0E m x kp nw gn d a b c g lit) =
    (some (Instr.ffs (Hdr.mk lit (.ofCode g) gn nw) (.ofCode d) (.ofCode a))) := rfl

theorem build_brev (m x kp nw gn d a b c g lit) : rowBuild (Raw.mk 0x1 0x0F m x kp nw gn d a b c g lit) =
    (some (Instr.brev (Hdr.mk lit (.ofCode g) gn nw) (.ofCode d) (.ofCode a))) := rfl

theorem build_permb (m x kp nw gn d a b c g lit) : rowBuild (Raw.mk 0x1 0x10 m x kp nw gn d a b c g lit) =
    (some (Instr.permb (Hdr.mk lit (.ofCode g) gn nw) (x.setWidth 4) c (.ofCode d) (.ofCode a) (.ofCode b))) := rfl

theorem build_lop3 (m x kp nw gn d a b c g lit) : rowBuild (Raw.mk 0x1 0x11 m x kp nw gn d a b c g lit) =
    (some (Instr.lop3 (Hdr.mk lit (.ofCode g) gn nw) (m ++ x.setWidth 4) (.ofCode d) (.ofCode a) (.ofCode b) (.ofCode c))) := rfl

theorem build_dshl (m x kp nw gn d a b c g lit) : rowBuild (Raw.mk 0x1 0x12 m x kp nw gn d a b c g lit) =
    (some (Instr.dshl (Hdr.mk lit (.ofCode g) gn nw) (.ofCode d) (.ofCode a) (.ofCode b))) := rfl

theorem build_dshr (m x kp nw gn d a b c g lit) : rowBuild (Raw.mk 0x1 0x13 m x kp nw gn d a b c g lit) =
    (some (Instr.dshr (Hdr.mk lit (.ofCode g) gn nw) (x.getLsbD 0) (.ofCode d) (.ofCode a) (.ofCode b))) := rfl

theorem build_movd (m x kp nw gn d a b c g lit) : rowBuild (Raw.mk 0x1 0x14 m x kp nw gn d a b c g lit) =
    (some (Instr.movd (Hdr.mk lit (.ofCode g) gn nw) (.ofCode d) (.ofCode a))) := rfl

theorem build_fadd (m x kp nw gn d a b c g lit) : rowBuild (Raw.mk 0x2 0x00 m x kp nw gn d a b c g lit) =
    (do let fm ← FpMod.ofBits m; let ty ← FTy.ofField (x.setWidth 2).toNat; if x.getLsbD 4 then none else some (Instr.fadd (Hdr.mk lit (.ofCode g) gn nw) fm ty (x.getLsbD 2) (x.getLsbD 3) (.ofCode d) (.ofCode a) (.ofCode b))) := rfl

theorem build_fsub (m x kp nw gn d a b c g lit) : rowBuild (Raw.mk 0x2 0x01 m x kp nw gn d a b c g lit) =
    (do let fm ← FpMod.ofBits m; let ty ← FTy.ofField (x.setWidth 2).toNat; if x.getLsbD 4 then none else some (Instr.fsub (Hdr.mk lit (.ofCode g) gn nw) fm ty (x.getLsbD 2) (x.getLsbD 3) (.ofCode d) (.ofCode a) (.ofCode b))) := rfl

theorem build_fmul (m x kp nw gn d a b c g lit) : rowBuild (Raw.mk 0x2 0x02 m x kp nw gn d a b c g lit) =
    (do let fm ← FpMod.ofBits m; let ty ← FTy.ofField (x.setWidth 2).toNat; if x.getLsbD 4 then none else some (Instr.fmul (Hdr.mk lit (.ofCode g) gn nw) fm ty (x.getLsbD 2) (x.getLsbD 3) (.ofCode d) (.ofCode a) (.ofCode b))) := rfl

theorem build_ffma (m x kp nw gn d a b c g lit) : rowBuild (Raw.mk 0x2 0x03 m x kp nw gn d a b c g lit) =
    (do let fm ← FpMod.ofBits m; let ty ← FTy.ofField (x.setWidth 2).toNat; some (Instr.ffma (Hdr.mk lit (.ofCode g) gn nw) fm ty (x.getLsbD 2) (x.getLsbD 3) (x.getLsbD 4) (.ofCode d) (.ofCode a) (.ofCode b) (.ofCode c))) := rfl

theorem build_fmin (m x kp nw gn d a b c g lit) : rowBuild (Raw.mk 0x2 0x04 m x kp nw gn d a b c g lit) =
    (do let fm ← FpMod.ofBits m; let ty ← FTy.ofField (x.setWidth 2).toNat; some (Instr.fmin (Hdr.mk lit (.ofCode g) gn nw) fm ty (.ofCode d) (.ofCode a) (.ofCode b))) := rfl

theorem build_fmax (m x kp nw gn d a b c g lit) : rowBuild (Raw.mk 0x2 0x05 m x kp nw gn d a b c g lit) =
    (do let fm ← FpMod.ofBits m; let ty ← FTy.ofField (x.setWidth 2).toNat; some (Instr.fmax (Hdr.mk lit (.ofCode g) gn nw) fm ty (.ofCode d) (.ofCode a) (.ofCode b))) := rfl

theorem build_fcmp (m x kp nw gn d a b c g lit) : rowBuild (Raw.mk 0x2 0x06 m x kp nw gn d a b c g lit) =
    (do let fm ← FpMod.ofBits m; let ty ← FTy.ofField (x.setWidth 2).toNat; let cond ← FCond.ofField (x.extractLsb' 2 3).toNat; some (Instr.fcmp (Hdr.mk lit (.ofCode g) gn nw) fm ty cond (.ofCode d) (.ofCode a) (.ofCode b))) := rfl

theorem build_fdot2 (m x kp nw gn d a b c g lit) : rowBuild (Raw.mk 0x2 0x07 m x kp nw gn d a b c g lit) =
    (do let fm ← FpMod.ofBits m; let ty ← FTy.ofField (x.setWidth 2).toNat; some (Instr.fdot2 (Hdr.mk lit (.ofCode g) gn nw) fm ty (.ofCode d) (.ofCode a) (.ofCode b) (.ofCode c))) := rfl

theorem build_fscale (m x kp nw gn d a b c g lit) : rowBuild (Raw.mk 0x2 0x08 m x kp nw gn d a b c g lit) =
    (do let fm ← FpMod.ofBits m; let ty ← FTy.ofField (x.setWidth 2).toNat; some (Instr.fscale (Hdr.mk lit (.ofCode g) gn nw) fm ty (.ofCode d) (.ofCode a) (.ofCode b))) := rfl

theorem build_ffract (m x kp nw gn d a b c g lit) : rowBuild (Raw.mk 0x2 0x09 m x kp nw gn d a b c g lit) =
    (do let fm ← FpMod.ofBits m; let ty ← FTy.ofField (x.setWidth 2).toNat; some (Instr.ffract (Hdr.mk lit (.ofCode g) gn nw) fm ty (.ofCode d) (.ofCode a))) := rfl

theorem build_frnd (m x kp nw gn d a b c g lit) : rowBuild (Raw.mk 0x2 0x0A m x kp nw gn d a b c g lit) =
    (do let fm ← FpMod.ofBits m; let ty ← FTy.ofField (x.setWidth 2).toNat; some (Instr.frnd (Hdr.mk lit (.ofCode g) gn nw) fm ty (.ofCode d) (.ofCode a))) := rfl

theorem build_fclass (m x kp nw gn d a b c g lit) : rowBuild (Raw.mk 0x2 0x0B m x kp nw gn d a b c g lit) =
    (do let fm ← FpMod.ofBits m; let ty ← FTy.ofField (x.setWidth 2).toNat; some (Instr.fclass (Hdr.mk lit (.ofCode g) gn nw) fm ty (.ofCode d) (.ofCode a))) := rfl

theorem build_frcp (m x kp nw gn d a b c g lit) : rowBuild (Raw.mk 0x3 0x00 m x kp nw gn d a b c g lit) =
    (do let fm ← FpMod.ofBits m; let ty ← FTy.ofField (x.setWidth 2).toNat; some (Instr.frcp (Hdr.mk lit (.ofCode g) gn nw) fm ty (.ofCode d) (.ofCode a))) := rfl

theorem build_frsq (m x kp nw gn d a b c g lit) : rowBuild (Raw.mk 0x3 0x01 m x kp nw gn d a b c g lit) =
    (do let fm ← FpMod.ofBits m; let ty ← FTy.ofField (x.setWidth 2).toNat; some (Instr.frsq (Hdr.mk lit (.ofCode g) gn nw) fm ty (.ofCode d) (.ofCode a))) := rfl

theorem build_fsqrt (m x kp nw gn d a b c g lit) : rowBuild (Raw.mk 0x3 0x02 m x kp nw gn d a b c g lit) =
    (do let fm ← FpMod.ofBits m; let ty ← FTy.ofField (x.setWidth 2).toNat; some (Instr.fsqrt (Hdr.mk lit (.ofCode g) gn nw) fm ty (.ofCode d) (.ofCode a))) := rfl

theorem build_fdiv (m x kp nw gn d a b c g lit) : rowBuild (Raw.mk 0x3 0x03 m x kp nw gn d a b c g lit) =
    (do let fm ← FpMod.ofBits m; let ty ← FTy.ofField (x.setWidth 2).toNat; some (Instr.fdiv (Hdr.mk lit (.ofCode g) gn nw) fm ty (.ofCode d) (.ofCode a) (.ofCode b))) := rfl

theorem build_fexp2 (m x kp nw gn d a b c g lit) : rowBuild (Raw.mk 0x3 0x04 m x kp nw gn d a b c g lit) =
    (do let fm ← FpMod.ofBits m; let ty ← FTy.ofField (x.setWidth 2).toNat; some (Instr.fexp2 (Hdr.mk lit (.ofCode g) gn nw) fm ty (.ofCode d) (.ofCode a))) := rfl

theorem build_flog2 (m x kp nw gn d a b c g lit) : rowBuild (Raw.mk 0x3 0x05 m x kp nw gn d a b c g lit) =
    (do let fm ← FpMod.ofBits m; let ty ← FTy.ofField (x.setWidth 2).toNat; some (Instr.flog2 (Hdr.mk lit (.ofCode g) gn nw) fm ty (.ofCode d) (.ofCode a))) := rfl

theorem build_fsin (m x kp nw gn d a b c g lit) : rowBuild (Raw.mk 0x3 0x06 m x kp nw gn d a b c g lit) =
    (do let fm ← FpMod.ofBits m; let ty ← FTy.ofField (x.setWidth 2).toNat; some (Instr.fsin (Hdr.mk lit (.ofCode g) gn nw) fm ty (.ofCode d) (.ofCode a))) := rfl

theorem build_fcos (m x kp nw gn d a b c g lit) : rowBuild (Raw.mk 0x3 0x07 m x kp nw gn d a b c g lit) =
    (do let fm ← FpMod.ofBits m; let ty ← FTy.ofField (x.setWidth 2).toNat; some (Instr.fcos (Hdr.mk lit (.ofCode g) gn nw) fm ty (.ofCode d) (.ofCode a))) := rfl

theorem build_ftanh (m x kp nw gn d a b c g lit) : rowBuild (Raw.mk 0x3 0x08 m x kp nw gn d a b c g lit) =
    (do let fm ← FpMod.ofBits m; let ty ← FTy.ofField (x.setWidth 2).toNat; some (Instr.ftanh (Hdr.mk lit (.ofCode g) gn nw) fm ty (.ofCode d) (.ofCode a))) := rfl

theorem build_cvtff (m x kp nw gn d a b c g lit) : rowBuild (Raw.mk 0x3 0x09 m x kp nw gn d a b c g lit) =
    (do let fm ← FpMod.ofBits m; let s ← Fmt.ofField (x.setWidth 4).toNat; let t ← Fmt.ofField c.toNat; some (Instr.cvtff (Hdr.mk lit (.ofCode g) gn nw) fm s t (.ofCode d) (.ofCode a))) := rfl

theorem build_cvtfi (m x kp nw gn d a b c g lit) : rowBuild (Raw.mk 0x3 0x0A m x kp nw gn d a b c g lit) =
    (do let fm ← FpMod.ofBits m; let s ← Fmt.ofField (x.setWidth 4).toNat; let t ← Fmt.ofField c.toNat; some (Instr.cvtfi (Hdr.mk lit (.ofCode g) gn nw) fm s t (.ofCode d) (.ofCode a))) := rfl

theorem build_cvtif (m x kp nw gn d a b c g lit) : rowBuild (Raw.mk 0x3 0x0B m x kp nw gn d a b c g lit) =
    (do let fm ← FpMod.ofBits m; let s ← Fmt.ofField (x.setWidth 4).toNat; let t ← Fmt.ofField c.toNat; some (Instr.cvtif (Hdr.mk lit (.ofCode g) gn nw) fm s t (.ofCode d) (.ofCode a))) := rfl

theorem build_fpack (m x kp nw gn d a b c g lit) : rowBuild (Raw.mk 0x3 0x0C m x kp nw gn d a b c g lit) =
    (do let fm ← FpMod.ofBits m; let s ← Fmt.ofField (x.setWidth 4).toNat; let t ← Fmt.ofField c.toNat; some (Instr.fpack (Hdr.mk lit (.ofCode g) gn nw) fm s t (.ofCode d) (.ofCode a) (.ofCode b))) := rfl

theorem build_funpk (m x kp nw gn d a b c g lit) : rowBuild (Raw.mk 0x3 0x0D m x kp nw gn d a b c g lit) =
    (do let fm ← FpMod.ofBits m; let s ← Fmt.ofField (x.setWidth 4).toNat; let t ← Fmt.ofField c.toNat; some (Instr.funpk (Hdr.mk lit (.ofCode g) gn nw) fm s t (.ofCode d) (.ofCode a))) := rfl

theorem build_mxenc (m x kp nw gn d a b c g lit) : rowBuild (Raw.mk 0x3 0x0E m x kp nw gn d a b c g lit) =
    (do let fm ← FpMod.ofBits m; let s ← Fmt.ofField (x.setWidth 4).toNat; let t ← Fmt.ofField c.toNat; some (Instr.mxenc (Hdr.mk lit (.ofCode g) gn nw) fm s t (.ofCode d) (.ofCode a))) := rfl

theorem build_mxdec (m x kp nw gn d a b c g lit) : rowBuild (Raw.mk 0x3 0x0F m x kp nw gn d a b c g lit) =
    (do let fm ← FpMod.ofBits m; let s ← Fmt.ofField (x.setWidth 4).toNat; let t ← Fmt.ofField c.toNat; some (Instr.mxdec (Hdr.mk lit (.ofCode g) gn nw) fm s t (.ofCode d) (.ofCode a) (.ofCode b))) := rfl

theorem build_shfl (m x kp nw gn d a b c g lit) : rowBuild (Raw.mk 0x4 0x00 m x kp nw gn d a b c g lit) =
    (do let sw ← SubW.ofField (m.setWidth 3).toNat; let mode ← ShflMode.ofField (x.setWidth 2).toNat; some (Instr.shfl (Hdr.mk lit (.ofCode g) gn nw) sw mode (x.getLsbD 2) (.ofCode d) (.ofCode a) (.ofCode b))) := rfl

theorem build_vote (m x kp nw gn d a b c g lit) : rowBuild (Raw.mk 0x4 0x01 m x kp nw gn d a b c g lit) =
    (do let sw ← SubW.ofField (m.setWidth 3).toNat; let kind ← VoteKind.ofField (x.setWidth 2).toNat; some (Instr.vote (Hdr.mk lit (.ofCode g) gn nw) sw kind (x.getLsbD 2) (.ofCode d) (.ofCode a))) := rfl

theorem build_matchI (m x kp nw gn d a b c g lit) : rowBuild (Raw.mk 0x4 0x02 m x kp nw gn d a b c g lit) =
    (do let sw ← SubW.ofField (m.setWidth 3).toNat; some (Instr.matchI (Hdr.mk lit (.ofCode g) gn nw) sw (x.getLsbD 0) (.ofCode d) (.ofCode a))) := rfl

theorem build_redg (m x kp nw gn d a b c g lit) : rowBuild (Raw.mk 0x4 0x03 m x kp nw gn d a b c g lit) =
    (do let sw ← SubW.ofField (m.setWidth 3).toNat; let op ← RedOp.ofField (x.setWidth 4).toNat; some (Instr.redg (Hdr.mk lit (.ofCode g) gn nw) sw op (.ofCode d) (.ofCode a))) := rfl

theorem build_scan (m x kp nw gn d a b c g lit) : rowBuild (Raw.mk 0x4 0x04 m x kp nw gn d a b c g lit) =
    (do let sw ← SubW.ofField (m.setWidth 3).toNat; let op ← RedOp.ofField (x.setWidth 4).toNat; some (Instr.scan (Hdr.mk lit (.ofCode g) gn nw) sw op (x.getLsbD 4) (.ofCode d) (.ofCode a))) := rfl

theorem build_bcast (m x kp nw gn d a b c g lit) : rowBuild (Raw.mk 0x4 0x05 m x kp nw gn d a b c g lit) =
    (do let sw ← SubW.ofField (m.setWidth 3).toNat; some (Instr.bcast (Hdr.mk lit (.ofCode g) gn nw) sw (.ofCode d) (.ofCode a) (.ofCode b))) := rfl

theorem build_elect (m x kp nw gn d a b c g lit) : rowBuild (Raw.mk 0x4 0x06 m x kp nw gn d a b c g lit) =
    (do let sw ← SubW.ofField (m.setWidth 3).toNat; some (Instr.elect (Hdr.mk lit (.ofCode g) gn nw) sw (.ofCode d))) := rfl

theorem build_ifI (m x kp nw gn d a b c g lit) : rowBuild (Raw.mk 0x5 0x00 m x kp nw gn d a b c g lit) =
    (some (Instr.ifI (Hdr.mk lit (.ofCode g) gn nw) (m.getLsbD 0) (.ofCode a) (c ++ b))) := rfl

theorem build_elseI (m x kp nw gn d a b c g lit) : rowBuild (Raw.mk 0x5 0x01 m x kp nw gn d a b c g lit) =
    (some (Instr.elseI (Hdr.mk lit (.ofCode g) gn nw) (c ++ b))) := rfl

theorem build_endif (m x kp nw gn d a b c g lit) : rowBuild (Raw.mk 0x5 0x02 m x kp nw gn d a b c g lit) =
    (some (Instr.endif (Hdr.mk lit (.ofCode g) gn nw))) := rfl

theorem build_loop (m x kp nw gn d a b c g lit) : rowBuild (Raw.mk 0x5 0x03 m x kp nw gn d a b c g lit) =
    (some (Instr.loop (Hdr.mk lit (.ofCode g) gn nw) (c ++ b))) := rfl

theorem build_endl (m x kp nw gn d a b c g lit) : rowBuild (Raw.mk 0x5 0x04 m x kp nw gn d a b c g lit) =
    (some (Instr.endl (Hdr.mk lit (.ofCode g) gn nw) (c ++ b))) := rfl

theorem build_breakI (m x kp nw gn d a b c g lit) : rowBuild (Raw.mk 0x5 0x05 m x kp nw gn d a b c g lit) =
    (some (Instr.breakI (Hdr.mk lit (.ofCode g) gn nw) (m.getLsbD 0) x (.ofCode a) (c ++ b))) := rfl

theorem build_cont (m x kp nw gn d a b c g lit) : rowBuild (Raw.mk 0x5 0x06 m x kp nw gn d a b c g lit) =
    (some (Instr.cont (Hdr.mk lit (.ofCode g) gn nw) (m.getLsbD 0) x (.ofCode a) (c ++ b))) := rfl

theorem build_jmp (m x kp nw gn d a b c g lit) : rowBuild (Raw.mk 0x5 0x07 m x kp nw gn d a b c g lit) =
    (do let kind ← JmpKind.ofField (m.setWidth 2).toNat; some (Instr.jmp (Hdr.mk lit (.ofCode g) gn nw) kind (.ofCode a) (c ++ b))) := rfl

theorem use_jmp (m x kp nw gn d a b c g lit) : rowUse (Raw.mk 0x5 0x07 m x kp nw gn d a b c g lit) =
    some ⟨3, 0, false, (m.setWidth 2) != 0, true, true, false, false, false⟩ := rfl

theorem build_call (m x kp nw gn d a b c g lit) : rowBuild (Raw.mk 0x5 0x08 m x kp nw gn d a b c g lit) =
    (some (Instr.call (Hdr.mk lit (.ofCode g) gn nw) (bit (x.getLsbD 0) ++ m) (.ofCode d) (c ++ b))) := rfl

theorem build_calli (m x kp nw gn d a b c g lit) : rowBuild (Raw.mk 0x5 0x09 m x kp nw gn d a b c g lit) =
    (some (Instr.calli (Hdr.mk lit (.ofCode g) gn nw) (bit (x.getLsbD 0) ++ m) (.ofCode d) (.ofCode a))) := rfl

theorem build_ret (m x kp nw gn d a b c g lit) : rowBuild (Raw.mk 0x5 0x0A m x kp nw gn d a b c g lit) =
    (some (Instr.ret (Hdr.mk lit (.ofCode g) gn nw))) := rfl

theorem build_mark (m x kp nw gn d a b c g lit) : rowBuild (Raw.mk 0x5 0x0B m x kp nw gn d a b c g lit) =
    (some (Instr.mark (Hdr.mk lit (.ofCode g) gn nw) (m.getLsbD 0) d (c ++ b))) := rfl

theorem use_mark (m x kp nw gn d a b c g lit) : rowUse (Raw.mk 0x5 0x0B m x kp nw gn d a b c g lit) =
    some ⟨if m.getLsbD 0 && d != 0 then 0 else 1, 0, true, false, !m.getLsbD 0, !m.getLsbD 0, false, false, false⟩ := rfl

theorem build_unwind (m x kp nw gn d a b c g lit) : rowBuild (Raw.mk 0x5 0x0C m x kp nw gn d a b c g lit) =
    (some (Instr.unwind (Hdr.mk lit (.ofCode g) gn nw) d)) := rfl

theorem build_part (m x kp nw gn d a b c g lit) : rowBuild (Raw.mk 0x5 0x0D m x kp nw gn d a b c g lit) =
    (some (Instr.part (Hdr.mk lit (.ofCode g) gn nw))) := rfl

theorem build_regang (m x kp nw gn d a b c g lit) : rowBuild (Raw.mk 0x5 0x0E m x kp nw gn d a b c g lit) =
    (some (Instr.regang (Hdr.mk lit (.ofCode g) gn nw) d)) := rfl

theorem build_exit (m x kp nw gn d a b c g lit) : rowBuild (Raw.mk 0x5 0x0F m x kp nw gn d a b c g lit) =
    (some (Instr.exit (Hdr.mk lit (.ofCode g) gn nw))) := rfl

theorem build_yield (m x kp nw gn d a b c g lit) : rowBuild (Raw.mk 0x5 0x10 m x kp nw gn d a b c g lit) =
    (some (Instr.yield (Hdr.mk lit (.ofCode g) gn nw))) := rfl

theorem build_nop (m x kp nw gn d a b c g lit) : rowBuild (Raw.mk 0x5 0x11 m x kp nw gn d a b c g lit) =
    (some (Instr.nop (Hdr.mk lit (.ofCode g) gn nw))) := rfl

theorem build_brk (m x kp nw gn d a b c g lit) : rowBuild (Raw.mk 0x5 0x12 m x kp nw gn d a b c g lit) =
    (some (Instr.brk (Hdr.mk lit (.ofCode g) gn nw))) := rfl

theorem build_rgn (m x kp nw gn d a b c g lit) : rowBuild (Raw.mk 0x5 0x13 m x kp nw gn d a b c g lit) =
    (some (Instr.rgn (Hdr.mk lit (.ofCode g) gn nw))) := rfl

theorem build_qdef (m x kp nw gn d a b c g lit) : rowBuild (Raw.mk 0x6 0x00 m x kp nw gn d a b c g lit) =
    (some (Instr.qdef (Hdr.mk lit (.ofCode g) gn nw) (m.setWidth 3) (x.setWidth 3) (.ofCode d))) := rfl

theorem build_qclr (m x kp nw gn d a b c g lit) : rowBuild (Raw.mk 0x6 0x01 m x kp nw gn d a b c g lit) =
    (some (Instr.qclr (Hdr.mk lit (.ofCode g) gn nw) (.ofCode d))) := rfl

theorem build_qocc (m x kp nw gn d a b c g lit) : rowBuild (Raw.mk 0x6 0x02 m x kp nw gn d a b c g lit) =
    (some (Instr.qocc (Hdr.mk lit (.ofCode g) gn nw) (.ofCode d) (.ofCode a))) := rfl

theorem build_qrd (m x kp nw gn d a b c g lit) : rowBuild (Raw.mk 0x6 0x03 m x kp nw gn d a b c g lit) =
    (some (Instr.qrd (Hdr.mk lit (.ofCode g) gn nw) (x.setWidth 3) (.ofCode d) (.ofCode a))) := rfl

theorem build_qwr (m x kp nw gn d a b c g lit) : rowBuild (Raw.mk 0x6 0x04 m x kp nw gn d a b c g lit) =
    (some (Instr.qwr (Hdr.mk lit (.ofCode g) gn nw) (x.setWidth 3) (.ofCode d) (.ofCode a))) := rfl

theorem build_winrd (m x kp nw gn d a b c g lit) : rowBuild (Raw.mk 0x6 0x05 m x kp nw gn d a b c g lit) =
    (let k := (x.setWidth 4).toNat
      if hk : k < 9 then some (Instr.winrd (Hdr.mk lit (.ofCode g) gn nw) ⟨k, hk⟩ (.ofCode d)) else none) := rfl

theorem use_winrd (m x kp nw gn d a b c g lit) : rowUse (Raw.mk 0x6 0x05 m x kp nw gn d a b c g lit) =
    some ⟨0, 15, true, false, false, false, true, true, false⟩ := rfl

theorem build_winwr (m x kp nw gn d a b c g lit) : rowBuild (Raw.mk 0x6 0x06 m x kp nw gn d a b c g lit) =
    (let k := (x.setWidth 4).toNat
      if hk : k < 9 then some (Instr.winwr (Hdr.mk lit (.ofCode g) gn nw) ⟨k, hk⟩ (.ofCode d)) else none) := rfl

theorem use_winwr (m x kp nw gn d a b c g lit) : rowUse (Raw.mk 0x6 0x06 m x kp nw gn d a b c g lit) =
    some ⟨0, 15, true, false, false, false, true, false, false⟩ := rfl

theorem build_mskrd (m x kp nw gn d a b c g lit) : rowBuild (Raw.mk 0x6 0x07 m x kp nw gn d a b c g lit) =
    (some (Instr.mskrd (Hdr.mk lit (.ofCode g) gn nw) (m.getLsbD 0) x (.ofCode d))) := rfl

theorem build_mskwr (m x kp nw gn d a b c g lit) : rowBuild (Raw.mk 0x6 0x08 m x kp nw gn d a b c g lit) =
    (do let op ← MskOp.ofField (m.setWidth 2).toNat; some (Instr.mskwr (Hdr.mk lit (.ofCode g) gn nw) op x (.ofCode d))) := rfl

theorem build_frmq (m x kp nw gn d a b c g lit) : rowBuild (Raw.mk 0x6 0x09 m x kp nw gn d a b c g lit) =
    (let k := (x.setWidth 3).toNat
      if hk : k < 5 then some (Instr.frmq (Hdr.mk lit (.ofCode g) gn nw) ⟨k, hk⟩ (.ofCode d) (.ofCode a)) else none) := rfl

theorem use_frmq (m x kp nw gn d a b c g lit) : rowUse (Raw.mk 0x6 0x09 m x kp nw gn d a b c g lit) =
    some ⟨0, 7, true, true, false, false, true, true, false⟩ := rfl

theorem build_frmrd (m x kp nw gn d a b c g lit) : rowBuild (Raw.mk 0x6 0x0A m x kp nw gn d a b c g lit) =
    (some (Instr.frmrd (Hdr.mk lit (.ofCode g) gn nw) (.ofCode d) (.ofCode a) (.ofCode b))) := rfl

theorem build_ld (m x kp nw gn d a b c g lit) : rowBuild (Raw.mk 0x7 0x00 m x kp nw gn d a b c g lit) =
    (do let sz ← MemSize.ofField (m.setWidth 3).toNat; let pol ← Policy.ofField (x.setWidth 2).toNat; let hint ← hintOf (x.getLsbD 3) (x.getLsbD 4); some (Instr.ld (Hdr.mk lit (.ofCode g) gn nw) sz pol hint (.ofCode d) (.ofCode a) (.ofCode b))) := rfl

theorem build_st (m x kp nw gn d a b c g lit) : rowBuild (Raw.mk 0x7 0x01 m x kp nw gn d a b c g lit) =
    (do let sz ← MemSize.ofField (m.setWidth 3).toNat; let pol ← Policy.ofField (x.setWidth 2).toNat; let hint ← hintOf (x.getLsbD 3) (x.getLsbD 4); some (Instr.st (Hdr.mk lit (.ofCode g) gn nw) sz (m.getLsbD 3) pol hint (.ofCode d) (.ofCode a) (.ofCode b))) := rfl

theorem build_ldl (m x kp nw gn d a b c g lit) : rowBuild (Raw.mk 0x7 0x02 m x kp nw gn d a b c g lit) =
    (do let sz ← MemSize.ofField (m.setWidth 3).toNat; some (Instr.ldl (Hdr.mk lit (.ofCode g) gn nw) sz (.ofCode d) (.ofCode a) (.ofCode b))) := rfl

theorem build_stl (m x kp nw gn d a b c g lit) : rowBuild (Raw.mk 0x7 0x03 m x kp nw gn d a b c g lit) =
    (do let sz ← MemSize.ofField (m.setWidth 3).toNat; some (Instr.stl (Hdr.mk lit (.ofCode g) gn nw) sz (m.getLsbD 3) (.ofCode d) (.ofCode a) (.ofCode b))) := rfl

theorem build_ldc (m x kp nw gn d a b c g lit) : rowBuild (Raw.mk 0x7 0x04 m x kp nw gn d a b c g lit) =
    (do let sz ← MemSize.ofField (m.setWidth 3).toNat; some (Instr.ldc (Hdr.mk lit (.ofCode g) gn nw) sz (.ofCode d) (.ofCode a) (.ofCode b))) := rfl

theorem build_stc (m x kp nw gn d a b c g lit) : rowBuild (Raw.mk 0x7 0x05 m x kp nw gn d a b c g lit) =
    (do let sz ← MemSize.ofField (m.setWidth 3).toNat; some (Instr.stc (Hdr.mk lit (.ofCode g) gn nw) sz (m.getLsbD 3) (.ofCode d) (.ofCode a) (.ofCode b))) := rfl

theorem build_ldk (m x kp nw gn d a b c g lit) : rowBuild (Raw.mk 0x7 0x06 m x kp nw gn d a b c g lit) =
    (do let sz ← MemSize.ofField (m.setWidth 3).toNat; some (Instr.ldk (Hdr.mk lit (.ofCode g) gn nw) sz (.ofCode d) (.ofCode a) (.ofCode b))) := rfl

theorem build_ldacq (m x kp nw gn d a b c g lit) : rowBuild (Raw.mk 0x7 0x07 m x kp nw gn d a b c g lit) =
    (do let sz ← MemSize.ofField (m.setWidth 3).toNat; let sc ← Scope.ofField (x.setWidth 3).toNat; let sp ← Space.ofField (x.extractLsb' 3 2).toNat; some (Instr.ldacq (Hdr.mk lit (.ofCode g) gn nw) sz sc sp (.ofCode d) (.ofCode a) (.ofCode b))) := rfl

theorem build_strel (m x kp nw gn d a b c g lit) : rowBuild (Raw.mk 0x7 0x08 m x kp nw gn d a b c g lit) =
    (do let sz ← MemSize.ofField (m.setWidth 3).toNat; let sc ← Scope.ofField (x.setWidth 3).toNat; let sp ← Space.ofField (x.extractLsb' 3 2).toNat; some (Instr.strel (Hdr.mk lit (.ofCode g) gn nw) sz sc sp (m.getLsbD 3) (.ofCode d) (.ofCode a) (.ofCode b))) := rfl

theorem build_cctl (m x kp nw gn d a b c g lit) : rowBuild (Raw.mk 0x7 0x09 m x kp nw gn d a b c g lit) =
    (do let op ← CctlOp.ofField (m.setWidth 2).toNat; some (Instr.cctl (Hdr.mk lit (.ofCode g) gn nw) op (.ofCode a) (.ofCode b))) := rfl

theorem build_atom (m x kp nw gn d a b c g lit) : rowBuild (Raw.mk 0x8 0x00 m x kp nw gn d a b c g lit) =
    (do let op ← AtomOp.ofBits m (x.getLsbD 4); let sc ← Scope.ofField (x.setWidth 3).toNat; some (Instr.atom (Hdr.mk lit (.ofCode g) gn nw) op sc (x.getLsbD 3) (.ofCode d) (.ofCode a) (.ofCode b) (.ofCode c))) := rfl

theorem use_atom (m x kp nw gn d a b c g lit) : rowUse (Raw.mk 0x8 0x00 m x kp nw gn d a b c g lit) =
    some ⟨15, 31, x.getLsbD 3, true, true, true, true, x.getLsbD 3, false⟩ := rfl

theorem build_acas (m x kp nw gn d a b c g lit) : rowBuild (Raw.mk 0x8 0x01 m x kp nw gn d a b c g lit) =
    (do let w ← CasW.ofField m.toNat; let sc ← Scope.ofField (x.setWidth 3).toNat; some (Instr.acas (Hdr.mk lit (.ofCode g) gn nw) w sc (x.getLsbD 3) (.ofCode d) (.ofCode a) (.ofCode b) (.ofCode c))) := rfl

theorem use_acas (m x kp nw gn d a b c g lit) : rowUse (Raw.mk 0x8 0x01 m x kp nw gn d a b c g lit) =
    some ⟨15, 15, x.getLsbD 3, true, true, true, true, x.getLsbD 3, false⟩ := rfl

theorem build_atoml (m x kp nw gn d a b c g lit) : rowBuild (Raw.mk 0x8 0x02 m x kp nw gn d a b c g lit) =
    (do let op ← AtomOp.ofBits m (x.getLsbD 4); let sc ← Scope.ofField (x.setWidth 3).toNat; some (Instr.atoml (Hdr.mk lit (.ofCode g) gn nw) op sc (x.getLsbD 3) (.ofCode d) (.ofCode a) (.ofCode b) (.ofCode c))) := rfl

theorem use_atoml (m x kp nw gn d a b c g lit) : rowUse (Raw.mk 0x8 0x02 m x kp nw gn d a b c g lit) =
    some ⟨15, 31, x.getLsbD 3, true, true, true, true, x.getLsbD 3, false⟩ := rfl

theorem build_acasl (m x kp nw gn d a b c g lit) : rowBuild (Raw.mk 0x8 0x03 m x kp nw gn d a b c g lit) =
    (do let w ← CasW.ofField m.toNat; let sc ← Scope.ofField (x.setWidth 3).toNat; some (Instr.acasl (Hdr.mk lit (.ofCode g) gn nw) w sc (x.getLsbD 3) (.ofCode d) (.ofCode a) (.ofCode b) (.ofCode c))) := rfl

theorem use_acasl (m x kp nw gn d a b c g lit) : rowUse (Raw.mk 0x8 0x03 m x kp nw gn d a b c g lit) =
    some ⟨15, 15, x.getLsbD 3, true, true, true, true, x.getLsbD 3, false⟩ := rfl

theorem build_atomc (m x kp nw gn d a b c g lit) : rowBuild (Raw.mk 0x8 0x04 m x kp nw gn d a b c g lit) =
    (do let op ← AtomOp.ofBits m (x.getLsbD 4); let sc ← Scope.ofField (x.setWidth 3).toNat; some (Instr.atomc (Hdr.mk lit (.ofCode g) gn nw) op sc (x.getLsbD 3) (.ofCode d) (.ofCode a) (.ofCode b) (.ofCode c))) := rfl

theorem use_atomc (m x kp nw gn d a b c g lit) : rowUse (Raw.mk 0x8 0x04 m x kp nw gn d a b c g lit) =
    some ⟨15, 31, x.getLsbD 3, true, true, true, true, x.getLsbD 3, false⟩ := rfl

theorem build_acasc (m x kp nw gn d a b c g lit) : rowBuild (Raw.mk 0x8 0x05 m x kp nw gn d a b c g lit) =
    (do let w ← CasW.ofField m.toNat; let sc ← Scope.ofField (x.setWidth 3).toNat; some (Instr.acasc (Hdr.mk lit (.ofCode g) gn nw) w sc (x.getLsbD 3) (.ofCode d) (.ofCode a) (.ofCode b) (.ofCode c))) := rfl

theorem use_acasc (m x kp nw gn d a b c g lit) : rowUse (Raw.mk 0x8 0x05 m x kp nw gn d a b c g lit) =
    some ⟨15, 15, x.getLsbD 3, true, true, true, true, x.getLsbD 3, false⟩ := rfl

theorem build_bankop (m x kp nw gn d a b c g lit) : rowBuild (Raw.mk 0x8 0x06 m x kp nw gn d a b c g lit) =
    (do let op ← AtomOp.ofBits m (x.getLsbD 4); let sc ← Scope.ofField (x.setWidth 3).toNat; if x.getLsbD 3 then none else some (Instr.bankop (Hdr.mk lit (.ofCode g) gn nw) op sc (.ofCode a) (.ofCode b) (.ofCode c))) := rfl

theorem build_bankred (m x kp nw gn d a b c g lit) : rowBuild (Raw.mk 0x8 0x07 m x kp nw gn d a b c g lit) =
    (do let op ← AtomOp.ofBits m (x.getLsbD 4); let sc ← Scope.ofField (x.setWidth 3).toNat; some (Instr.bankred (Hdr.mk lit (.ofCode g) gn nw) op sc (x.getLsbD 3) (.ofCode d) (.ofCode a) (.ofCode b) (.ofCode c))) := rfl

theorem use_bankred (m x kp nw gn d a b c g lit) : rowUse (Raw.mk 0x8 0x07 m x kp nw gn d a b c g lit) =
    some ⟨15, 31, x.getLsbD 3, true, true, true, true, x.getLsbD 3, false⟩ := rfl

theorem build_cpy (m x kp nw gn d a b c g lit) : rowBuild (Raw.mk 0x9 0x00 m x kp nw gn d a b c g lit) =
    (do let t ← Space.ofField (m.setWidth 2).toNat; let f ← Space.ofField (m.extractLsb' 2 2).toNat; some (Instr.cpy (Hdr.mk lit (.ofCode g) gn nw) t f (x.setWidth 3) (.ofCode d) (.ofCode a) (.ofCode b))) := rfl

theorem build_cpys (m x kp nw gn d a b c g lit) : rowBuild (Raw.mk 0x9 0x01 m x kp nw gn d a b c g lit) =
    (do let t ← Space.ofField (m.setWidth 2).toNat; let f ← Space.ofField (m.extractLsb' 2 2).toNat; some (Instr.cpys (Hdr.mk lit (.ofCode g) gn nw) t f (x.setWidth 3) (.ofCode d) (.ofCode a) (.ofCode b) (.ofCode c))) := rfl

theorem build_seal (m x kp nw gn d a b c g lit) : rowBuild (Raw.mk 0x9 0x02 m x kp nw gn d a b c g lit) =
    (some (Instr.seal (Hdr.mk lit (.ofCode g) gn nw) (.ofCode d))) := rfl

theorem build_bwait (m x kp nw gn d a b c g lit) : rowBuild (Raw.mk 0x9 0x03 m x kp nw gn d a b c g lit) =
    (some (Instr.bwait (Hdr.mk lit (.ofCode g) gn nw) (.ofCode a))) := rfl

theorem build_cpwp (m x kp nw gn d a b c g lit) : rowBuild (Raw.mk 0x9 0x04 m x kp nw gn d a b c g lit) =
    (some (Instr.cpwp (Hdr.mk lit (.ofCode g) gn nw) (m.getLsbD 0) (.ofCode d) (.ofCode a))) := rfl

theorem build_cpwait (m x kp nw gn d a b c g lit) : rowBuild (Raw.mk 0x9 0x05 m x kp nw gn d a b c g lit) =
    (some (Instr.cpwait (Hdr.mk lit (.ofCode g) gn nw) (.ofCode a) (.ofCode b))) := rfl

theorem build_wlput (m x kp nw gn d a b c g lit) : rowBuild (Raw.mk 0x9 0x06 m x kp nw gn d a b c g lit) =
    (some (Instr.wlput (Hdr.mk lit (.ofCode g) gn nw) (.ofCode a) (.ofCode b))) := rfl

theorem build_wltake (m x kp nw gn d a b c g lit) : rowBuild (Raw.mk 0x9 0x07 m x kp nw gn d a b c g lit) =
    (some (Instr.wltake (Hdr.mk lit (.ofCode g) gn nw) (.ofCode d) (.ofCode a))) := rfl

theorem build_wldone (m x kp nw gn d a b c g lit) : rowBuild (Raw.mk 0x9 0x08 m x kp nw gn d a b c g lit) =
    (some (Instr.wldone (Hdr.mk lit (.ofCode g) gn nw) (m.getLsbD 0))) := rfl

theorem build_wlquiet (m x kp nw gn d a b c g lit) : rowBuild (Raw.mk 0x9 0x09 m x kp nw gn d a b c g lit) =
    (some (Instr.wlquiet (Hdr.mk lit (.ofCode g) gn nw) (.ofCode d))) := rfl

theorem build_put (m x kp nw gn d a b c g lit) : rowBuild (Raw.mk 0xA 0x00 m x kp nw gn d a b c g lit) =
    (do let sp ← Space.ofField (m.setWidth 2).toNat; some (Instr.put (Hdr.mk lit (.ofCode g) gn nw) sp (x.getLsbD 0) (.ofCode d) (.ofCode a) (.ofCode b) (.ofCode c))) := rfl

theorem build_putn (m x kp nw gn d a b c g lit) : rowBuild (Raw.mk 0xA 0x01 m x kp nw gn d a b c g lit) =
    (do let sp ← Space.ofField (m.setWidth 2).toNat; some (Instr.putn (Hdr.mk lit (.ofCode g) gn nw) sp (x.getLsbD 0) (.ofCode d) (.ofCode a) (.ofCode b) (.ofCode c))) := rfl

theorem build_get (m x kp nw gn d a b c g lit) : rowBuild (Raw.mk 0xA 0x02 m x kp nw gn d a b c g lit) =
    (do let sp ← Space.ofField (m.setWidth 2).toNat; some (Instr.get (Hdr.mk lit (.ofCode g) gn nw) sp (x.getLsbD 0) (.ofCode d) (.ofCode a) (.ofCode b) (.ofCode c))) := rfl

theorem build_ratom (m x kp nw gn d a b c g lit) : rowBuild (Raw.mk 0xA 0x03 m x kp nw gn d a b c g lit) =
    (do let op ← AtomOp.ofBits m (x.getLsbD 4); some (Instr.ratom (Hdr.mk lit (.ofCode g) gn nw) op (x.getLsbD 0) (x.getLsbD 3) (.ofCode d) (.ofCode a) (.ofCode b) (.ofCode c))) := rfl

theorem use_ratom (m x kp nw gn d a b c g lit) : rowUse (Raw.mk 0xA 0x03 m x kp nw gn d a b c g lit) =
    some ⟨15, 25, x.getLsbD 3, true, true, true, true, x.getLsbD 3, false⟩ := rfl

theorem build_rcas (m x kp nw gn d a b c g lit) : rowBuild (Raw.mk 0xA 0x04 m x kp nw gn d a b c g lit) =
    (do let w ← CasW.ofField m.toNat; some (Instr.rcas (Hdr.mk lit (.ofCode g) gn nw) w (x.getLsbD 0) (x.getLsbD 3) (.ofCode d) (.ofCode a) (.ofCode b) (.ofCode c))) := rfl

theorem use_rcas (m x kp nw gn d a b c g lit) : rowUse (Raw.mk 0xA 0x04 m x kp nw gn d a b c g lit) =
    some ⟨15, 9, x.getLsbD 3, true, true, true, true, x.getLsbD 3, false⟩ := rfl

theorem build_notify (m x kp nw gn d a b c g lit) : rowBuild (Raw.mk 0xA 0x05 m x kp nw gn d a b c g lit) =
    (some (Instr.notify (Hdr.mk lit (.ofCode g) gn nw) (x.getLsbD 0) (.ofCode d) (.ofCode a))) := rfl

theorem build_nwait (m x kp nw gn d a b c g lit) : rowBuild (Raw.mk 0xA 0x06 m x kp nw gn d a b c g lit) =
    (some (Instr.nwait (Hdr.mk lit (.ofCode g) gn nw) (.ofCode a) (.ofCode b))) := rfl

theorem build_nrd (m x kp nw gn d a b c g lit) : rowBuild (Raw.mk 0xA 0x07 m x kp nw gn d a b c g lit) =
    (some (Instr.nrd (Hdr.mk lit (.ofCode g) gn nw) (.ofCode d) (.ofCode a))) := rfl

theorem build_rfence (m x kp nw gn d a b c g lit) : rowBuild (Raw.mk 0xA 0x08 m x kp nw gn d a b c g lit) =
    (some (Instr.rfence (Hdr.mk lit (.ofCode g) gn nw))) := rfl

theorem build_rquiet (m x kp nw gn d a b c g lit) : rowBuild (Raw.mk 0xA 0x09 m x kp nw gn d a b c g lit) =
    (some (Instr.rquiet (Hdr.mk lit (.ofCode g) gn nw) (x.getLsbD 0) (.ofCode d))) := rfl

theorem use_rquiet (m x kp nw gn d a b c g lit) : rowUse (Raw.mk 0xA 0x09 m x kp nw gn d a b c g lit) =
    some ⟨0, 1, x.getLsbD 0, false, false, false, false, x.getLsbD 0, false⟩ := rfl

theorem build_bar (m x kp nw gn d a b c g lit) : rowBuild (Raw.mk 0xB 0x00 m x kp nw gn d a b c g lit) =
    (some (Instr.bar (Hdr.mk lit (.ofCode g) gn nw) (m.getLsbD 0) (.ofCode a))) := rfl

theorem build_bara (m x kp nw gn d a b c g lit) : rowBuild (Raw.mk 0xB 0x01 m x kp nw gn d a b c g lit) =
    (some (Instr.bara (Hdr.mk lit (.ofCode g) gn nw) (.ofCode d) (.ofCode a))) := rfl

theorem build_barw (m x kp nw gn d a b c g lit) : rowBuild (Raw.mk 0xB 0x02 m x kp nw gn d a b c g lit) =
    (some (Instr.barw (Hdr.mk lit (.ofCode g) gn nw) (m.getLsbD 0) (.ofCode a) (.ofCode b))) := rfl

theorem build_barinit (m x kp nw gn d a b c g lit) : rowBuild (Raw.mk 0xB 0x03 m x kp nw gn d a b c g lit) =
    (some (Instr.barinit (Hdr.mk lit (.ofCode g) gn nw) (.ofCode a) (.ofCode b))) := rfl

theorem build_barrd (m x kp nw gn d a b c g lit) : rowBuild (Raw.mk 0xB 0x04 m x kp nw gn d a b c g lit) =
    (some (Instr.barrd (Hdr.mk lit (.ofCode g) gn nw) (m.getLsbD 0) (x.getLsbD 0) (.ofCode d) (.ofCode a))) := rfl

theorem use_barrd (m x kp nw gn d a b c g lit) : rowUse (Raw.mk 0xB 0x04 m x kp nw gn d a b c g lit) =
    some ⟨1, (if m.getLsbD 0 then 0 else 1), true, !m.getLsbD 0, false, false, true, true, false⟩ := rfl

theorem build_barwr (m x kp nw gn d a b c g lit) : rowBuild (Raw.mk 0xB 0x05 m x kp nw gn d a b c g lit) =
    (some (Instr.barwr (Hdr.mk lit (.ofCode g) gn nw) (x.getLsbD 0) (.ofCode d) (.ofCode a))) := rfl

theorem build_fence (m x kp nw gn d a b c g lit) : rowBuild (Raw.mk 0xB 0x06 m x kp nw gn d a b c g lit) =
    (do let sc ← Scope.ofField (x.setWidth 3).toNat; some (Instr.fence (Hdr.mk lit (.ofCode g) gn nw) m sc)) := rfl

theorem build_mon (m x kp nw gn d a b c g lit) : rowBuild (Raw.mk 0xB 0x07 m x kp nw gn d a b c g lit) =
    (do let sp ← Space.ofField (m.setWidth 2).toNat; some (Instr.mon (Hdr.mk lit (.ofCode g) gn nw) sp (.ofCode a))) := rfl

theorem build_mwait (m x kp nw gn d a b c g lit) : rowBuild (Raw.mk 0xB 0x08 m x kp nw gn d a b c g lit) =
    (some (Instr.mwait (Hdr.mk lit (.ofCode g) gn nw) (.ofCode d) (.ofCode a))) := rfl

theorem build_clock (m x kp nw gn d a b c g lit) : rowBuild (Raw.mk 0xB 0x09 m x kp nw gn d a b c g lit) =
    (some (Instr.clock (Hdr.mk lit (.ofCode g) gn nw) (.ofCode d))) := rfl

theorem build_mmq (m x kp nw gn d a b c g lit) : rowBuild (Raw.mk 0xC 0x00 m x kp nw gn d a b c g lit) =
    (do let af ← AFmt.ofField (m.setWidth 3).toNat; let bf ← BFmt.ofField (x.setWidth 3).toNat; some (Instr.mmq (Hdr.mk lit (.ofCode g) gn nw) kp af bf (x.getLsbD 3) (.ofCode d) (.ofCode a) (.ofCode b) (.ofCode c))) := rfl

theorem use_mmq (m x kp nw gn d a b c g lit) : rowUse (Raw.mk 0xC 0x00 m x kp nw gn d a b c g lit) =
    some ⟨7, 15, true, true, true, 3 < (m.setWidth 3).toNat && (m.setWidth 3).toNat < 7, true, false, true⟩ := rfl

theorem build_accz (m x kp nw gn d a b c g lit) : rowBuild (Raw.mk 0xC 0x01 m x kp nw gn d a b c g lit) =
    (some (Instr.accz (Hdr.mk lit (.ofCode g) gn nw) (.ofCode d))) := rfl

theorem build_accrd (m x kp nw gn d a b c g lit) : rowBuild (Raw.mk 0xC 0x02 m x kp nw gn d a b c g lit) =
    (do let mode ← AccMode.ofField (m.setWidth 2).toNat; some (Instr.accrd (Hdr.mk lit (.ofCode g) gn nw) mode (.ofCode d) (.ofCode a))) := rfl

theorem build_accwr (m x kp nw gn d a b c g lit) : rowBuild (Raw.mk 0xC 0x03 m x kp nw gn d a b c g lit) =
    (do let mode ← AccMode.ofField (m.setWidth 2).toNat; some (Instr.accwr (Hdr.mk lit (.ofCode g) gn nw) mode (.ofCode d) (.ofCode a))) := rfl

theorem build_accpro (m x kp nw gn d a b c g lit) : rowBuild (Raw.mk 0xC 0x04 m x kp nw gn d a b c g lit) =
    (some (Instr.accpro (Hdr.mk lit (.ofCode g) gn nw) (.ofCode d))) := rfl

theorem build_mxset (m x kp nw gn d a b c g lit) : rowBuild (Raw.mk 0xC 0x05 m x kp nw gn d a b c g lit) =
    (some (Instr.mxset (Hdr.mk lit (.ofCode g) gn nw) (.ofCode a))) := rfl

theorem build_cbload (m x kp nw gn d a b c g lit) : rowBuild (Raw.mk 0xC 0x06 m x kp nw gn d a b c g lit) =
    (do let sp ← Space.ofField (m.setWidth 2).toNat; some (Instr.cbload (Hdr.mk lit (.ofCode g) gn nw) sp (.ofCode a) (.ofCode b))) := rfl

theorem build_cbrd (m x kp nw gn d a b c g lit) : rowBuild (Raw.mk 0xC 0x07 m x kp nw gn d a b c g lit) =
    (some (Instr.cbrd (Hdr.mk lit (.ofCode g) gn nw) (.ofCode d) (.ofCode a))) := rfl

theorem build_mxwait (m x kp nw gn d a b c g lit) : rowBuild (Raw.mk 0xC 0x08 m x kp nw gn d a b c g lit) =
    (some (Instr.mxwait (Hdr.mk lit (.ofCode g) gn nw))) := rfl

theorem build_pchk (m x kp nw gn d a b c g lit) : rowBuild (Raw.mk 0xD 0x00 m x kp nw gn d a b c g lit) =
    (some (Instr.pchk (Hdr.mk lit (.ofCode g) gn nw) (m.getLsbD 0) (x.getLsbD 0) (.ofCode d) (.ofCode a))) := rfl

theorem build_pset (m x kp nw gn d a b c g lit) : rowBuild (Raw.mk 0xD 0x01 m x kp nw gn d a b c g lit) =
    (some (Instr.pset (Hdr.mk lit (.ofCode g) gn nw) (.ofCode d) (.ofCode a))) := rfl

theorem build_pclr (m x kp nw gn d a b c g lit) : rowBuild (Raw.mk 0xD 0x02 m x kp nw gn d a b c g lit) =
    (some (Instr.pclr (Hdr.mk lit (.ofCode g) gn nw) (.ofCode d) (.ofCode a))) := rfl

theorem build_porg (m x kp nw gn d a b c g lit) : rowBuild (Raw.mk 0xD 0x03 m x kp nw gn d a b c g lit) =
    (some (Instr.porg (Hdr.mk lit (.ofCode g) gn nw) (x.setWidth 2) (.ofCode d) (.ofCode a))) := rfl

theorem build_srd (m x kp nw gn d a b c g lit) : rowBuild (Raw.mk 0xE 0x00 m x kp nw gn d a b c g lit) =
    (some (Instr.srd (Hdr.mk lit (.ofCode g) gn nw) (.ofCode d) (.ofCode a))) := rfl

theorem build_swr (m x kp nw gn d a b c g lit) : rowBuild (Raw.mk 0xE 0x01 m x kp nw gn d a b c g lit) =
    (some (Instr.swr (Hdr.mk lit (.ofCode g) gn nw) (.ofCode d) (.ofCode a))) := rfl

theorem build_trap (m x kp nw gn d a b c g lit) : rowBuild (Raw.mk 0xE 0x02 m x kp nw gn d a b c g lit) =
    (some (Instr.trap (Hdr.mk lit (.ofCode g) gn nw) d)) := rfl

theorem build_tret (m x kp nw gn d a b c g lit) : rowBuild (Raw.mk 0xE 0x03 m x kp nw gn d a b c g lit) =
    (some (Instr.tret (Hdr.mk lit (.ofCode g) gn nw))) := rfl

theorem build_savedone (m x kp nw gn d a b c g lit) : rowBuild (Raw.mk 0xE 0x04 m x kp nw gn d a b c g lit) =
    (some (Instr.savedone (Hdr.mk lit (.ofCode g) gn nw))) := rfl

theorem build_icinv (m x kp nw gn d a b c g lit) : rowBuild (Raw.mk 0xE 0x05 m x kp nw gn d a b c g lit) =
    (some (Instr.icinv (Hdr.mk lit (.ofCode g) gn nw))) := rfl

theorem build_wfi (m x kp nw gn d a b c g lit) : rowBuild (Raw.mk 0xE 0x06 m x kp nw gn d a b c g lit) =
    (some (Instr.wfi (Hdr.mk lit (.ofCode g) gn nw))) := rfl

theorem build_halt (m x kp nw gn d a b c g lit) : rowBuild (Raw.mk 0xE 0x07 m x kp nw gn d a b c g lit) =
    (some (Instr.halt (Hdr.mk lit (.ofCode g) gn nw))) := rfl

theorem RoundTrip.iadd (h : Hdr) (md : IntMod) (d : Opnd) (a : Opnd) (b : Opnd) :
    Statement (.iadd h md d a b) :=
  long_roundTrip (h := h) rfl rfl rfl rfl rfl rfl (and_all4 _) (rfl) rfl rfl rfl rfl rfl
    (build_iadd ..)
    (by simp only [Opnd.ofCode_code, IntMod.ofBits_bits])

theorem RoundTrip.isub (h : Hdr) (md : IntMod) (d : Opnd) (a : Opnd) (b : Opnd) :
    Statement (.isub h md d a b) :=
  long_roundTrip (h := h) rfl rfl rfl rfl rfl rfl (and_all4 _) (rfl) rfl rfl rfl rfl rfl
    (build_isub ..)
    (by simp only [Opnd.ofCode_code, IntMod.ofBits_bits])

theorem RoundTrip.imul (h : Hdr) (md : IntMod) (d : Opnd) (a : Opnd) (b : Opnd) :
    Statement (.imul h md d a b) :=
  long_roundTrip (h := h) rfl rfl rfl rfl rfl rfl (and_all4 _) (rfl) rfl rfl rfl rfl rfl
    (build_imul ..)
    (by simp only [Opnd.ofCode_code, IntMod.ofBits_bits])

theorem RoundTrip.imulh (h : Hdr) (md : IntMod) (d : Opnd) (a : Opnd) (b : Opnd) :
    Statement (.imulh h md d a b) :=
  long_roundTrip (h := h) rfl rfl rfl rfl rfl rfl (and_all4 _) (rfl) rfl rfl rfl rfl rfl
    (build_imulh ..)
    (by simp only [Opnd.ofCode_code, IntMod.ofBits_bits])

theorem RoundTrip.imad (h : Hdr) (md : IntMod) (d : Opnd) (a : Opnd) (b : Opnd) (c : Opnd) :
    Statement (.imad h md d a b c) :=
  long_roundTrip (h := h) rfl rfl rfl rfl rfl rfl (and_all4 _) (rfl) rfl rfl rfl rfl rfl
    (build_imad ..)
    (by simp only [Opnd.ofCode_code, IntMod.ofBits_bits])

theorem RoundTrip.imin (h : Hdr) (md : IntMod) (d : Opnd) (a : Opnd) (b : Opnd) :
    Statement (.imin h md d a b) :=
  long_roundTrip (h := h) rfl rfl rfl rfl rfl rfl (and_all4 _) (rfl) rfl rfl rfl rfl rfl
    (build_imin ..)
    (by simp only [Opnd.ofCode_code, IntMod.ofBits_bits])

theorem RoundTrip.imax (h : Hdr) (md : IntMod) (d : Opnd) (a : Opnd) (b : Opnd) :
    Statement (.imax h md d a b) :=
  long_roundTrip (h := h) rfl rfl rfl rfl rfl rfl (and_all4 _) (rfl) rfl rfl rfl rfl rfl
    (build_imax ..)
    (by simp only [Opnd.ofCode_code, IntMod.ofBits_bits])

theorem RoundTrip.iabs (h : Hdr) (md : IntMod) (d : Opnd) (a : Opnd) :
    Statement (.iabs h md d a) :=
  long_roundTrip (h := h) rfl rfl rfl rfl rfl rfl (and_all4 _) (rfl) rfl rfl rfl rfl rfl
    (build_iabs ..)
    (by simp only [Opnd.ofCode_code, IntMod.ofBits_bits])

theorem RoundTrip.idiv (h : Hdr) (md : IntMod) (d : Opnd) (a : Opnd) (b : Opnd) :
    Statement (.idiv h md d a b) :=
  long_roundTrip (h := h) rfl rfl rfl rfl rfl rfl (and_all4 _) (rfl) rfl rfl rfl rfl rfl
    (build_idiv ..)
    (by simp only [Opnd.ofCode_code, IntMod.ofBits_bits])

theorem RoundTrip.irem (h : Hdr) (md : IntMod) (d : Opnd) (a : Opnd) (b : Opnd) :
    Statement (.irem h md d a b) :=
  long_roundTrip (h := h) rfl rfl rfl rfl rfl rfl (and_all4 _) (rfl) rfl rfl rfl rfl rfl
    (build_irem ..)
    (by simp only [Opnd.ofCode_code, IntMod.ofBits_bits])

theorem RoundTrip.icmp (h : Hdr) (md : IntMod) (cond : Cond) (one : Bool) (d : Opnd) (a : Opnd) (b : Opnd) :
    Statement (.icmp h md cond one d a b) :=
  have f1 : Cond.ofField ((0#1 ++ bit one ++ BitVec.ofNat 3 cond.code).setWidth 3).toNat = some cond := by cases cond <;> cases one <;> rfl
  have f2 : ((0#1 ++ bit one ++ BitVec.ofNat 3 cond.code).getLsbD 3) = one := by cases cond <;> cases one <;> rfl
  long_roundTrip (h := h) rfl rfl rfl rfl rfl rfl (and_all4 _) (by cases cond <;> cases one <;> rfl) rfl rfl rfl rfl rfl
    (build_icmp ..)
    (by simp only [Opnd.ofCode_code, IntMod.ofBits_bits, Option.bind_eq_bind, Option.bind_some, f1, f2])

theorem RoundTrip.isel (h : Hdr) (md : IntMod) (d : Opnd) (a : Opnd) (b : Opnd) (c : Opnd) :
    Statement (.isel h md d a b c) :=
  long_roundTrip (h := h) rfl rfl rfl rfl rfl rfl (and_all4 _) (rfl) rfl rfl rfl rfl rfl
    (build_isel ..)
    (by simp only [Opnd.ofCode_code, IntMod.ofBits_bits])

theorem RoundTrip.dadd (h : Hdr) (md : IntMod) (d : Opnd) (a : Opnd) (b : Opnd) :
    Statement (.dadd h md d a b) :=
  long_roundTrip (h := h) rfl rfl rfl rfl rfl rfl (and_all4 _) (rfl) rfl rfl rfl rfl rfl
    (build_dadd ..)
    (by simp only [Opnd.ofCode_code, IntMod.ofBits_bits])

theorem RoundTrip.dsub (h : Hdr) (md : IntMod) (d : Opnd) (a : Opnd) (b : Opnd) :
    Statement (.dsub h md d a b) :=
  long_roundTrip (h := h) rfl rfl rfl rfl rfl rfl (and_all4 _) (rfl) rfl rfl rfl rfl rfl
    (build_dsub ..)
    (by simp only [Opnd.ofCode_code, IntMod.ofBits_bits])

theorem RoundTrip.lea (h : Hdr) (sh : BitVec 3) (sb : Bool) (d : Opnd) (a : Opnd) (b : Opnd) :
    Statement (.lea h sh sb d a b) :=
  have f1 : ((0#1 ++ bit sb ++ sh).setWidth 3) = sh := by cases sb <;> (revert sh; decide)
  have f2 : ((0#1 ++ bit sb ++ sh).getLsbD 3) = sb := by cases sb <;> (revert sh; decide)
  long_roundTrip (h := h) rfl rfl rfl rfl rfl rfl (and_all4 _) (by cases sb <;> (revert sh; decide)) rfl rfl rfl rfl rfl
    (build_lea ..)
    (by simp only [Opnd.ofCode_code, beq_self_eq_true, reduceIte, f1, f2])

theorem RoundTrip.dcmp (h : Hdr) (md : IntMod) (cond : Cond) (one : Bool) (d : Opnd) (a : Opnd) (b : Opnd) :
    Statement (.dcmp h md cond one d a b) :=
  have f1 : Cond.ofField ((0#1 ++ bit one ++ BitVec.ofNat 3 cond.code).setWidth 3).toNat = some cond := by cases cond <;> cases one <;> rfl
  have f2 : ((0#1 ++ bit one ++ BitVec.ofNat 3 cond.code).getLsbD 3) = one := by cases cond <;> cases one <;> rfl
  long_roundTrip (h := h) rfl rfl rfl rfl rfl rfl (and_all4 _) (by cases cond <;> cases one <;> rfl) rfl rfl rfl rfl rfl
    (build_dcmp ..)
    (by simp only [Opnd.ofCode_code, IntMod.ofBits_bits, Option.bind_eq_bind, Option.bind_some, f1, f2])

theorem RoundTrip.dot4 (h : Hdr) (md : IntMod) (d : Opnd) (a : Opnd) (b : Opnd) (c : Opnd) :
    Statement (.dot4 h md d a b c) :=
  long_roundTrip (h := h) rfl rfl rfl rfl rfl rfl (and_all4 _) (rfl) rfl rfl rfl rfl rfl
    (build_dot4 ..)
    (by simp only [Opnd.ofCode_code, IntMod.ofBits_bits])

theorem RoundTrip.dot2 (h : Hdr) (md : IntMod) (d : Opnd) (a : Opnd) (b : Opnd) (c : Opnd) :
    Statement (.dot2 h md d a b c) :=
  long_roundTrip (h := h) rfl rfl rfl rfl rfl rfl (and_all4 _) (rfl) rfl rfl rfl rfl rfl
    (build_dot2 ..)
    (by simp only [Opnd.ofCode_code, IntMod.ofBits_bits])

theorem RoundTrip.isad (h : Hdr) (md : IntMod) (d : Opnd) (a : Opnd) (b : Opnd) (c : Opnd) :
    Statement (.isad h md d a b c) :=
  long_roundTrip (h := h) rfl rfl rfl rfl rfl rfl (and_all4 _) (rfl) rfl rfl rfl rfl rfl
    (build_isad ..)
    (by simp only [Opnd.ofCode_code, IntMod.ofBits_bits])

theorem RoundTrip.mov (h : Hdr) (d : Opnd) (a : Opnd) :
    Statement (.mov h d a) :=
  long_roundTrip (h := h) rfl rfl rfl rfl rfl rfl (rfl) (rfl) rfl rfl rfl rfl rfl
    (build_mov ..)
    (by simp only [Opnd.ofCode_code])

theorem RoundTrip.andI (h : Hdr) (d : Opnd) (a : Opnd) (b : Opnd) :
    Statement (.andI h d a b) :=
  long_roundTrip (h := h) rfl rfl rfl rfl rfl rfl (rfl) (rfl) rfl rfl rfl rfl rfl
    (build_andI ..)
    (by simp only [Opnd.ofCode_code])

theorem RoundTrip.orI (h : Hdr) (d : Opnd) (a : Opnd) (b : Opnd) :
    Statement (.orI h d a b) :=
  long_roundTrip (h := h) rfl rfl rfl rfl rfl rfl (rfl) (rfl) rfl rfl rfl rfl rfl
    (build_orI ..)
    (by simp only [Opnd.ofCode_code])

theorem RoundTrip.xorI (h : Hdr) (d : Opnd) (a : Opnd) (b : Opnd) :
    Statement (.xorI h d a b) :=
  long_roundTrip (h := h) rfl rfl rfl rfl rfl rfl (rfl) (rfl) rfl rfl rfl rfl rfl
    (build_xorI ..)
    (by simp only [Opnd.ofCode_code])

theorem RoundTrip.andn (h : Hdr) (d : Opnd) (a : Opnd) (b : Opnd) :
    Statement (.andn h d a b) :=
  long_roundTrip (h := h) rfl rfl rfl rfl rfl rfl (rfl) (rfl) rfl rfl rfl rfl rfl
    (build_andn ..)
    (by simp only [Opnd.ofCode_code])

theorem RoundTrip.notI (h : Hdr) (d : Opnd) (a : Opnd) :
    Statement (.notI h d a) :=
  long_roundTrip (h := h) rfl rfl rfl rfl rfl rfl (rfl) (rfl) rfl rfl rfl rfl rfl
    (build_notI ..)
    (by simp only [Opnd.ofCode_code])

theorem RoundTrip.shl (h : Hdr) (w : ShW) (d : Opnd) (a : Opnd) (b : Opnd) :
    Statement (.shl h w d a b) :=
  have f1 : ShW.ofField ((BitVec.ofNat 4 w.code).setWidth 2).toNat = some w := by cases w <;> rfl
  long_roundTrip (h := h) rfl rfl rfl rfl rfl rfl (by cases w <;> rfl) (rfl) rfl rfl rfl rfl rfl
    (build_shl ..)
    (by simp only [Opnd.ofCode_code, Option.bind_eq_bind, Option.bind_some, f1])

theorem RoundTrip.shr (h : Hdr) (w : ShW) (d : Opnd) (a : Opnd) (b : Opnd) :
    Statement (.shr h w d a b) :=
  have f1 : ShW.ofField ((BitVec.ofNat 4 w.code).setWidth 2).toNat = some w := by cases w <;> rfl
  long_roundTrip (h := h) rfl rfl rfl rfl rfl rfl (by cases w <;> rfl) (rfl) rfl rfl rfl rfl rfl
    (build_shr ..)
    (by simp only [Opnd.ofCode_code, Option.bind_eq_bind, Option.bind_some, f1])

theorem RoundTrip.sha (h : Hdr) (w : ShW) (d : Opnd) (a : Opnd) (b : Opnd) :
    Statement (.sha h w d a b) :=
  have f1 : ShW.ofField ((BitVec.ofNat 4 w.code).setWidth 2).toNat = some w := by cases w <;> rfl
  long_roundTrip (h := h) rfl rfl rfl rfl rfl rfl (by cases w <;> rfl) (rfl) rfl rfl rfl rfl rfl
    (build_sha ..)
    (by simp only [Opnd.ofCode_code, Option.bind_eq_bind, Option.bind_some, f1])

theorem RoundTrip.rot (h : Hdr) (w : ShW) (d : Opnd) (a : Opnd) (b : Opnd) :
    Statement (.rot h w d a b) :=
  have f1 : ShW.ofField ((BitVec.ofNat 4 w.code).setWidth 2).toNat = some w := by cases w <;> rfl
  long_roundTrip (h := h) rfl rfl rfl rfl rfl rfl (by cases w <;> rfl) (rfl) rfl rfl rfl rfl rfl
    (build_rot ..)
    (by simp only [Opnd.ofCode_code, Option.bind_eq_bind, Option.bind_some, f1])

theorem RoundTrip.bfe (h : Hdr) (s : Bool) (d : Opnd) (a : Opnd) (b : Opnd) :
    Statement (.bfe h s d a b) :=
  have f1 : ((0#4 ++ bit s).getLsbD 0) = s := by cases s <;> rfl
  long_roundTrip (h := h) rfl rfl rfl rfl rfl rfl (rfl) (by cases s <;> rfl) rfl rfl rfl rfl rfl
    (build_bfe ..)
    (by simp only [Opnd.ofCode_code, f1])

theorem RoundTrip.bfi (h : Hdr) (d : Opnd) (a : Opnd) (b : Opnd) (c : Opnd) :
    Statement (.bfi h d a b c) :=
  long_roundTrip (h := h) rfl rfl rfl rfl rfl rfl (rfl) (rfl) rfl rfl rfl rfl rfl
    (build_bfi ..)
    (by simp only [Opnd.ofCode_code])

theorem RoundTrip.popc (h : Hdr) (d : Opnd) (a : Opnd) :
    Statement (.popc h d a) :=
  long_roundTrip (h := h) rfl rfl rfl rfl rfl rfl (rfl) (rfl) rfl rfl rfl rfl rfl
    (build_popc ..)
    (by simp only [Opnd.ofCode_code])

theorem RoundTrip.clz (h : Hdr) (d : Opnd) (a : Opnd) :
    Statement (.clz h d a) :=
  long_roundTrip (h := h) rfl rfl rfl rfl rfl rfl (rfl) (rfl) rfl rfl rfl rfl rfl
    (build_clz ..)
    (by simp only [Opnd.ofCode_code])

theorem RoundTrip.ffs (h : Hdr) (d : Opnd) (a : Opnd) :
    Statement (.ffs h d a) :=
  long_roundTrip (h := h) rfl rfl rfl rfl rfl rfl (rfl) (rfl) rfl rfl rfl rfl rfl
    (build_ffs ..)
    (by simp only [Opnd.ofCode_code])

theorem RoundTrip.brev (h : Hdr) (d : Opnd) (a : Opnd) :
    Statement (.brev h d a) :=
  long_roundTrip (h := h) rfl rfl rfl rfl rfl rfl (rfl) (rfl) rfl rfl rfl rfl rfl
    (build_brev ..)
    (by simp only [Opnd.ofCode_code])

theorem RoundTrip.permb (h : Hdr) (top : BitVec 4) (sel : BitVec 8) (d : Opnd) (a : Opnd) (b : Opnd) :
    Statement (.permb h top sel d a b) :=
  have f1 : ((0#1 ++ top).setWidth 4) = top := by (revert top; decide)
  long_roundTrip (h := h) rfl rfl rfl rfl rfl rfl (rfl) (by (revert top; decide)) rfl rfl rfl rfl rfl
    (build_permb ..)
    (by simp only [Opnd.ofCode_code, f1])

theorem RoundTrip.lop3 (h : Hdr) (table : BitVec 8) (d : Opnd) (a : Opnd) (b : Opnd) (c : Opnd) :
    Statement (.lop3 h table d a b c) :=
  have f1 : ((table.extractLsb' 4 4) ++ (0#1 ++ table.extractLsb' 0 4).setWidth 4) = table := by (revert table; decide)
  long_roundTrip (h := h) rfl rfl rfl rfl rfl rfl (and_all4 _) (by (revert table; decide)) rfl rfl rfl rfl rfl
    (build_lop3 ..)
    (by simp only [Opnd.ofCode_code, f1])

theorem RoundTrip.dshl (h : Hdr) (d : Opnd) (a : Opnd) (b : Opnd) :
    Statement (.dshl h d a b) :=
  long_roundTrip (h := h) rfl rfl rfl rfl rfl rfl (rfl) (rfl) rfl rfl rfl rfl rfl
    (build_dshl ..)
    (by simp only [Opnd.ofCode_code])

theorem RoundTrip.dshr (h : Hdr) (s : Bool) (d : Opnd) (a : Opnd) (b : Opnd) :
    Statement (.dshr h s d a b) :=
  have f1 : ((0#4 ++ bit s).getLsbD 0) = s := by cases s <;> rfl
  long_roundTrip (h := h) rfl rfl rfl rfl rfl rfl (rfl) (by cases s <;> rfl) rfl rfl rfl rfl rfl
    (build_dshr ..)
    (by simp only [Opnd.ofCode_code, f1])

theorem RoundTrip.movd (h : Hdr) (d : Opnd) (a : Opnd) :
    Statement (.movd h d a) :=
  long_roundTrip (h := h) rfl rfl rfl rfl rfl rfl (rfl) (rfl) rfl rfl rfl rfl rfl
    (build_movd ..)
    (by simp only [Opnd.ofCode_code])

theorem RoundTrip.fadd (h : Hdr) (fm : FpMod) (ty : FTy) (na : Bool) (nb : Bool) (d : Opnd) (a : Opnd) (b : Opnd) :
    Statement (.fadd h fm ty na nb d a b) :=
  have f1 : FTy.ofField ((0#1 ++ bit nb ++ bit na ++ BitVec.ofNat 2 ty.code).setWidth 2).toNat = some ty := by cases ty <;> cases na <;> cases nb <;> rfl
  have f2 : ((0#1 ++ bit nb ++ bit na ++ BitVec.ofNat 2 ty.code).getLsbD 2) = na := by cases ty <;> cases na <;> cases nb <;> rfl
  have f3 : ((0#1 ++ bit nb ++ bit na ++ BitVec.ofNat 2 ty.code).getLsbD 3) = nb := by cases ty <;> cases na <;> cases nb <;> rfl
  have f4 : ((0#1 ++ bit nb ++ bit na ++ BitVec.ofNat 2 ty.code).getLsbD 4) = false := by cases ty <;> cases na <;> cases nb <;> rfl
  long_roundTrip (h := h) rfl rfl rfl rfl rfl rfl (and_all4 _) (and_all5 _) rfl rfl rfl rfl rfl
    (build_fadd ..)
    (by simp only [Opnd.ofCode_code, FpMod.ofBits_bits, Option.bind_eq_bind, Option.bind_some, Bool.false_eq_true, reduceIte, f1, f2, f3, f4])

theorem RoundTrip.fsub (h : Hdr) (fm : FpMod) (ty : FTy) (na : Bool) (nb : Bool) (d : Opnd) (a : Opnd) (b : Opnd) :
    Statement (.fsub h fm ty na nb d a b) :=
  have f1 : FTy.ofField ((0#1 ++ bit nb ++ bit na ++ BitVec.ofNat 2 ty.code).setWidth 2).toNat = some ty := by cases ty <;> cases na <;> cases nb <;> rfl
  have f2 : ((0#1 ++ bit nb ++ bit na ++ BitVec.ofNat 2 ty.code).getLsbD 2) = na := by cases ty <;> cases na <;> cases nb <;> rfl
  have f3 : ((0#1 ++ bit nb ++ bit na ++ BitVec.ofNat 2 ty.code).getLsbD 3) = nb := by cases ty <;> cases na <;> cases nb <;> rfl
  have f4 : ((0#1 ++ bit nb ++ bit na ++ BitVec.ofNat 2 ty.code).getLsbD 4) = false := by cases ty <;> cases na <;> cases nb <;> rfl
  long_roundTrip (h := h) rfl rfl rfl rfl rfl rfl (and_all4 _) (and_all5 _) rfl rfl rfl rfl rfl
    (build_fsub ..)
    (by simp only [Opnd.ofCode_code, FpMod.ofBits_bits, Option.bind_eq_bind, Option.bind_some, Bool.false_eq_true, reduceIte, f1, f2, f3, f4])

theorem RoundTrip.fmul (h : Hdr) (fm : FpMod) (ty : FTy) (na : Bool) (nb : Bool) (d : Opnd) (a : Opnd) (b : Opnd) :
    Statement (.fmul h fm ty na nb d a b) :=
  have f1 : FTy.ofField ((0#1 ++ bit nb ++ bit na ++ BitVec.ofNat 2 ty.code).setWidth 2).toNat = some ty := by cases ty <;> cases na <;> cases nb <;> rfl
  have f2 : ((0#1 ++ bit nb ++ bit na ++ BitVec.ofNat 2 ty.code).getLsbD 2) = na := by cases ty <;> cases na <;> cases nb <;> rfl
  have f3 : ((0#1 ++ bit nb ++ bit na ++ BitVec.ofNat 2 ty.code).getLsbD 3) = nb := by cases ty <;> cases na <;> cases nb <;> rfl
  have f4 : ((0#1 ++ bit nb ++ bit na ++ BitVec.ofNat 2 ty.code).getLsbD 4) = false := by cases ty <;> cases na <;> cases nb <;> rfl
  long_roundTrip (h := h) rfl rfl rfl rfl rfl rfl (and_all4 _) (and_all5 _) rfl rfl rfl rfl rfl
    (build_fmul ..)
    (by simp only [Opnd.ofCode_code, FpMod.ofBits_bits, Option.bind_eq_bind, Option.bind_some, Bool.false_eq_true, reduceIte, f1, f2, f3, f4])

theorem RoundTrip.ffma (h : Hdr) (fm : FpMod) (ty : FTy) (na : Bool) (nb : Bool) (nc : Bool) (d : Opnd) (a : Opnd) (b : Opnd) (c : Opnd) :
    Statement (.ffma h fm ty na nb nc d a b c) :=
  have f1 : FTy.ofField ((bit nc ++ bit nb ++ bit na ++ BitVec.ofNat 2 ty.code).setWidth 2).toNat = some ty := by cases ty <;> cases na <;> cases nb <;> cases nc <;> rfl
  have f2 : ((bit nc ++ bit nb ++ bit na ++ BitVec.ofNat 2 ty.code).getLsbD 2) = na := by cases ty <;> cases na <;> cases nb <;> cases nc <;> rfl
  have f3 : ((bit nc ++ bit nb ++ bit na ++ BitVec.ofNat 2 ty.code).getLsbD 3) = nb := by cases ty <;> cases na <;> cases nb <;> cases nc <;> rfl
  have f4 : ((bit nc ++ bit nb ++ bit na ++ BitVec.ofNat 2 ty.code).getLsbD 4) = nc := by cases ty <;> cases na <;> cases nb <;> cases nc <;> rfl
  long_roundTrip (h := h) rfl rfl rfl rfl rfl rfl (and_all4 _) (and_all5 _) rfl rfl rfl rfl rfl
    (build_ffma ..)
    (by simp only [Opnd.ofCode_code, FpMod.ofBits_bits, Option.bind_eq_bind, Option.bind_some, f1, f2, f3, f4])

theorem RoundTrip.fmin (h : Hdr) (fm : FpMod) (ty : FTy) (d : Opnd) (a : Opnd) (b : Opnd) :
    Statement (.fmin h fm ty d a b) :=
  have f1 : FTy.ofField ((0#3 ++ BitVec.ofNat 2 ty.code).setWidth 2).toNat = some ty := by cases ty <;> rfl
  long_roundTrip (h := h) rfl rfl rfl rfl rfl rfl (and_all4 _) (by cases ty <;> rfl) rfl rfl rfl rfl rfl
    (build_fmin ..)
    (by simp only [Opnd.ofCode_code, FpMod.ofBits_bits, Option.bind_eq_bind, Option.bind_some, f1])

theorem RoundTrip.fmax (h : Hdr) (fm : FpMod) (ty : FTy) (d : Opnd) (a : Opnd) (b : Opnd) :
    Statement (.fmax h fm ty d a b) :=
  have f1 : FTy.ofField ((0#3 ++ BitVec.ofNat 2 ty.code).setWidth 2).toNat = some ty := by cases ty <;> rfl
  long_roundTrip (h := h) rfl rfl rfl rfl rfl rfl (and_all4 _) (by cases ty <;> rfl) rfl rfl rfl rfl rfl
    (build_fmax ..)
    (by simp only [Opnd.ofCode_code, FpMod.ofBits_bits, Option.bind_eq_bind, Option.bind_some, f1])

theorem RoundTrip.fcmp (h : Hdr) (fm : FpMod) (ty : FTy) (cond : FCond) (d : Opnd) (a : Opnd) (b : Opnd) :
    Statement (.fcmp h fm ty cond d a b) :=
  have f1 : FTy.ofField ((BitVec.ofNat 3 cond.code ++ BitVec.ofNat 2 ty.code).setWidth 2).toNat = some ty := by cases ty <;> cases cond <;> rfl
  have f2 : FCond.ofField ((BitVec.ofNat 3 cond.code ++ BitVec.ofNat 2 ty.code).extractLsb' 2 3).toNat = some cond := by cases ty <;> cases cond <;> rfl
  long_roundTrip (h := h) rfl rfl rfl rfl rfl rfl (and_all4 _) (and_all5 _) rfl rfl rfl rfl rfl
    (build_fcmp ..)
    (by simp only [Opnd.ofCode_code, FpMod.ofBits_bits, Option.bind_eq_bind, Option.bind_some, f1, f2])

theorem RoundTrip.fdot2 (h : Hdr) (fm : FpMod) (ty : FTy) (d : Opnd) (a : Opnd) (b : Opnd) (c : Opnd) :
    Statement (.fdot2 h fm ty d a b c) :=
  have f1 : FTy.ofField ((0#3 ++ BitVec.ofNat 2 ty.code).setWidth 2).toNat = some ty := by cases ty <;> rfl
  long_roundTrip (h := h) rfl rfl rfl rfl rfl rfl (and_all4 _) (by cases ty <;> rfl) rfl rfl rfl rfl rfl
    (build_fdot2 ..)
    (by simp only [Opnd.ofCode_code, FpMod.ofBits_bits, Option.bind_eq_bind, Option.bind_some, f1])

theorem RoundTrip.fscale (h : Hdr) (fm : FpMod) (ty : FTy) (d : Opnd) (a : Opnd) (b : Opnd) :
    Statement (.fscale h fm ty d a b) :=
  have f1 : FTy.ofField ((0#3 ++ BitVec.ofNat 2 ty.code).setWidth 2).toNat = some ty := by cases ty <;> rfl
  long_roundTrip (h := h) rfl rfl rfl rfl rfl rfl (and_all4 _) (by cases ty <;> rfl) rfl rfl rfl rfl rfl
    (build_fscale ..)
    (by simp only [Opnd.ofCode_code, FpMod.ofBits_bits, Option.bind_eq_bind, Option.bind_some, f1])

theorem RoundTrip.ffract (h : Hdr) (fm : FpMod) (ty : FTy) (d : Opnd) (a : Opnd) :
    Statement (.ffract h fm ty d a) :=
  have f1 : FTy.ofField ((0#3 ++ BitVec.ofNat 2 ty.code).setWidth 2).toNat = some ty := by cases ty <;> rfl
  long_roundTrip (h := h) rfl rfl rfl rfl rfl rfl (and_all4 _) (by cases ty <;> rfl) rfl rfl rfl rfl rfl
    (build_ffract ..)
    (by simp only [Opnd.ofCode_code, FpMod.ofBits_bits, Option.bind_eq_bind, Option.bind_some, f1])

theorem RoundTrip.frnd (h : Hdr) (fm : FpMod) (ty : FTy) (d : Opnd) (a : Opnd) :
    Statement (.frnd h fm ty d a) :=
  have f1 : FTy.ofField ((0#3 ++ BitVec.ofNat 2 ty.code).setWidth 2).toNat = some ty := by cases ty <;> rfl
  long_roundTrip (h := h) rfl rfl rfl rfl rfl rfl (and_all4 _) (by cases ty <;> rfl) rfl rfl rfl rfl rfl
    (build_frnd ..)
    (by simp only [Opnd.ofCode_code, FpMod.ofBits_bits, Option.bind_eq_bind, Option.bind_some, f1])

theorem RoundTrip.fclass (h : Hdr) (fm : FpMod) (ty : FTy) (d : Opnd) (a : Opnd) :
    Statement (.fclass h fm ty d a) :=
  have f1 : FTy.ofField ((0#3 ++ BitVec.ofNat 2 ty.code).setWidth 2).toNat = some ty := by cases ty <;> rfl
  long_roundTrip (h := h) rfl rfl rfl rfl rfl rfl (and_all4 _) (by cases ty <;> rfl) rfl rfl rfl rfl rfl
    (build_fclass ..)
    (by simp only [Opnd.ofCode_code, FpMod.ofBits_bits, Option.bind_eq_bind, Option.bind_some, f1])

theorem RoundTrip.frcp (h : Hdr) (fm : FpMod) (ty : FTy) (d : Opnd) (a : Opnd) :
    Statement (.frcp h fm ty d a) :=
  have f1 : FTy.ofField ((0#3 ++ BitVec.ofNat 2 ty.code).setWidth 2).toNat = some ty := by cases ty <;> rfl
  long_roundTrip (h := h) rfl rfl rfl rfl rfl rfl (and_all4 _) (by cases ty <;> rfl) rfl rfl rfl rfl rfl
    (build_frcp ..)
    (by simp only [Opnd.ofCode_code, FpMod.ofBits_bits, Option.bind_eq_bind, Option.bind_some, f1])

theorem RoundTrip.frsq (h : Hdr) (fm : FpMod) (ty : FTy) (d : Opnd) (a : Opnd) :
    Statement (.frsq h fm ty d a) :=
  have f1 : FTy.ofField ((0#3 ++ BitVec.ofNat 2 ty.code).setWidth 2).toNat = some ty := by cases ty <;> rfl
  long_roundTrip (h := h) rfl rfl rfl rfl rfl rfl (and_all4 _) (by cases ty <;> rfl) rfl rfl rfl rfl rfl
    (build_frsq ..)
    (by simp only [Opnd.ofCode_code, FpMod.ofBits_bits, Option.bind_eq_bind, Option.bind_some, f1])

theorem RoundTrip.fsqrt (h : Hdr) (fm : FpMod) (ty : FTy) (d : Opnd) (a : Opnd) :
    Statement (.fsqrt h fm ty d a) :=
  have f1 : FTy.ofField ((0#3 ++ BitVec.ofNat 2 ty.code).setWidth 2).toNat = some ty := by cases ty <;> rfl
  long_roundTrip (h := h) rfl rfl rfl rfl rfl rfl (and_all4 _) (by cases ty <;> rfl) rfl rfl rfl rfl rfl
    (build_fsqrt ..)
    (by simp only [Opnd.ofCode_code, FpMod.ofBits_bits, Option.bind_eq_bind, Option.bind_some, f1])

theorem RoundTrip.fdiv (h : Hdr) (fm : FpMod) (ty : FTy) (d : Opnd) (a : Opnd) (b : Opnd) :
    Statement (.fdiv h fm ty d a b) :=
  have f1 : FTy.ofField ((0#3 ++ BitVec.ofNat 2 ty.code).setWidth 2).toNat = some ty := by cases ty <;> rfl
  long_roundTrip (h := h) rfl rfl rfl rfl rfl rfl (and_all4 _) (by cases ty <;> rfl) rfl rfl rfl rfl rfl
    (build_fdiv ..)
    (by simp only [Opnd.ofCode_code, FpMod.ofBits_bits, Option.bind_eq_bind, Option.bind_some, f1])

theorem RoundTrip.fexp2 (h : Hdr) (fm : FpMod) (ty : FTy) (d : Opnd) (a : Opnd) :
    Statement (.fexp2 h fm ty d a) :=
  have f1 : FTy.ofField ((0#3 ++ BitVec.ofNat 2 ty.code).setWidth 2).toNat = some ty := by cases ty <;> rfl
  long_roundTrip (h := h) rfl rfl rfl rfl rfl rfl (and_all4 _) (by cases ty <;> rfl) rfl rfl rfl rfl rfl
    (build_fexp2 ..)
    (by simp only [Opnd.ofCode_code, FpMod.ofBits_bits, Option.bind_eq_bind, Option.bind_some, f1])

theorem RoundTrip.flog2 (h : Hdr) (fm : FpMod) (ty : FTy) (d : Opnd) (a : Opnd) :
    Statement (.flog2 h fm ty d a) :=
  have f1 : FTy.ofField ((0#3 ++ BitVec.ofNat 2 ty.code).setWidth 2).toNat = some ty := by cases ty <;> rfl
  long_roundTrip (h := h) rfl rfl rfl rfl rfl rfl (and_all4 _) (by cases ty <;> rfl) rfl rfl rfl rfl rfl
    (build_flog2 ..)
    (by simp only [Opnd.ofCode_code, FpMod.ofBits_bits, Option.bind_eq_bind, Option.bind_some, f1])

theorem RoundTrip.fsin (h : Hdr) (fm : FpMod) (ty : FTy) (d : Opnd) (a : Opnd) :
    Statement (.fsin h fm ty d a) :=
  have f1 : FTy.ofField ((0#3 ++ BitVec.ofNat 2 ty.code).setWidth 2).toNat = some ty := by cases ty <;> rfl
  long_roundTrip (h := h) rfl rfl rfl rfl rfl rfl (and_all4 _) (by cases ty <;> rfl) rfl rfl rfl rfl rfl
    (build_fsin ..)
    (by simp only [Opnd.ofCode_code, FpMod.ofBits_bits, Option.bind_eq_bind, Option.bind_some, f1])

theorem RoundTrip.fcos (h : Hdr) (fm : FpMod) (ty : FTy) (d : Opnd) (a : Opnd) :
    Statement (.fcos h fm ty d a) :=
  have f1 : FTy.ofField ((0#3 ++ BitVec.ofNat 2 ty.code).setWidth 2).toNat = some ty := by cases ty <;> rfl
  long_roundTrip (h := h) rfl rfl rfl rfl rfl rfl (and_all4 _) (by cases ty <;> rfl) rfl rfl rfl rfl rfl
    (build_fcos ..)
    (by simp only [Opnd.ofCode_code, FpMod.ofBits_bits, Option.bind_eq_bind, Option.bind_some, f1])

theorem RoundTrip.ftanh (h : Hdr) (fm : FpMod) (ty : FTy) (d : Opnd) (a : Opnd) :
    Statement (.ftanh h fm ty d a) :=
  have f1 : FTy.ofField ((0#3 ++ BitVec.ofNat 2 ty.code).setWidth 2).toNat = some ty := by cases ty <;> rfl
  long_roundTrip (h := h) rfl rfl rfl rfl rfl rfl (and_all4 _) (by cases ty <;> rfl) rfl rfl rfl rfl rfl
    (build_ftanh ..)
    (by simp only [Opnd.ofCode_code, FpMod.ofBits_bits, Option.bind_eq_bind, Option.bind_some, f1])

theorem RoundTrip.cvtff (h : Hdr) (fm : FpMod) (src : Fmt) (dst : Fmt) (d : Opnd) (a : Opnd) :
    Statement (.cvtff h fm src dst d a) :=
  have f1 : Fmt.ofField ((BitVec.ofNat 5 src.code).setWidth 4).toNat = some src := by cases src <;> rfl
  have f2 : Fmt.ofField ((BitVec.ofNat 8 dst.code)).toNat = some dst := by cases dst <;> rfl
  long_roundTrip (h := h) rfl rfl rfl rfl rfl rfl (and_all4 _) (by cases src <;> rfl) rfl rfl rfl rfl rfl
    (build_cvtff ..)
    (by simp only [Opnd.ofCode_code, FpMod.ofBits_bits, Option.bind_eq_bind, Option.bind_some, f1, f2])

theorem RoundTrip.cvtfi (h : Hdr) (fm : FpMod) (src : Fmt) (dst : Fmt) (d : Opnd) (a : Opnd) :
    Statement (.cvtfi h fm src dst d a) :=
  have f1 : Fmt.ofField ((BitVec.ofNat 5 src.code).setWidth 4).toNat = some src := by cases src <;> rfl
  have f2 : Fmt.ofField ((BitVec.ofNat 8 dst.code)).toNat = some dst := by cases dst <;> rfl
  long_roundTrip (h := h) rfl rfl rfl rfl rfl rfl (and_all4 _) (by cases src <;> rfl) rfl rfl rfl rfl rfl
    (build_cvtfi ..)
    (by simp only [Opnd.ofCode_code, FpMod.ofBits_bits, Option.bind_eq_bind, Option.bind_some, f1, f2])

theorem RoundTrip.cvtif (h : Hdr) (fm : FpMod) (src : Fmt) (dst : Fmt) (d : Opnd) (a : Opnd) :
    Statement (.cvtif h fm src dst d a) :=
  have f1 : Fmt.ofField ((BitVec.ofNat 5 src.code).setWidth 4).toNat = some src := by cases src <;> rfl
  have f2 : Fmt.ofField ((BitVec.ofNat 8 dst.code)).toNat = some dst := by cases dst <;> rfl
  long_roundTrip (h := h) rfl rfl rfl rfl rfl rfl (and_all4 _) (by cases src <;> rfl) rfl rfl rfl rfl rfl
    (build_cvtif ..)
    (by simp only [Opnd.ofCode_code, FpMod.ofBits_bits, Option.bind_eq_bind, Option.bind_some, f1, f2])

theorem RoundTrip.fpack (h : Hdr) (fm : FpMod) (src : Fmt) (dst : Fmt) (d : Opnd) (a : Opnd) (b : Opnd) :
    Statement (.fpack h fm src dst d a b) :=
  have f1 : Fmt.ofField ((BitVec.ofNat 5 src.code).setWidth 4).toNat = some src := by cases src <;> rfl
  have f2 : Fmt.ofField ((BitVec.ofNat 8 dst.code)).toNat = some dst := by cases dst <;> rfl
  long_roundTrip (h := h) rfl rfl rfl rfl rfl rfl (and_all4 _) (by cases src <;> rfl) rfl rfl rfl rfl rfl
    (build_fpack ..)
    (by simp only [Opnd.ofCode_code, FpMod.ofBits_bits, Option.bind_eq_bind, Option.bind_some, f1, f2])

theorem RoundTrip.funpk (h : Hdr) (fm : FpMod) (src : Fmt) (dst : Fmt) (d : Opnd) (a : Opnd) :
    Statement (.funpk h fm src dst d a) :=
  have f1 : Fmt.ofField ((BitVec.ofNat 5 src.code).setWidth 4).toNat = some src := by cases src <;> rfl
  have f2 : Fmt.ofField ((BitVec.ofNat 8 dst.code)).toNat = some dst := by cases dst <;> rfl
  long_roundTrip (h := h) rfl rfl rfl rfl rfl rfl (and_all4 _) (by cases src <;> rfl) rfl rfl rfl rfl rfl
    (build_funpk ..)
    (by simp only [Opnd.ofCode_code, FpMod.ofBits_bits, Option.bind_eq_bind, Option.bind_some, f1, f2])

theorem RoundTrip.mxenc (h : Hdr) (fm : FpMod) (src : Fmt) (dst : Fmt) (d : Opnd) (a : Opnd) :
    Statement (.mxenc h fm src dst d a) :=
  have f1 : Fmt.ofField ((BitVec.ofNat 5 src.code).setWidth 4).toNat = some src := by cases src <;> rfl
  have f2 : Fmt.ofField ((BitVec.ofNat 8 dst.code)).toNat = some dst := by cases dst <;> rfl
  long_roundTrip (h := h) rfl rfl rfl rfl rfl rfl (and_all4 _) (by cases src <;> rfl) rfl rfl rfl rfl rfl
    (build_mxenc ..)
    (by simp only [Opnd.ofCode_code, FpMod.ofBits_bits, Option.bind_eq_bind, Option.bind_some, f1, f2])

theorem RoundTrip.mxdec (h : Hdr) (fm : FpMod) (src : Fmt) (dst : Fmt) (d : Opnd) (a : Opnd) (b : Opnd) :
    Statement (.mxdec h fm src dst d a b) :=
  have f1 : Fmt.ofField ((BitVec.ofNat 5 src.code).setWidth 4).toNat = some src := by cases src <;> rfl
  have f2 : Fmt.ofField ((BitVec.ofNat 8 dst.code)).toNat = some dst := by cases dst <;> rfl
  long_roundTrip (h := h) rfl rfl rfl rfl rfl rfl (and_all4 _) (by cases src <;> rfl) rfl rfl rfl rfl rfl
    (build_mxdec ..)
    (by simp only [Opnd.ofCode_code, FpMod.ofBits_bits, Option.bind_eq_bind, Option.bind_some, f1, f2])

theorem RoundTrip.shfl (h : Hdr) (sw : SubW) (mode : ShflMode) (edge : Bool) (d : Opnd) (a : Opnd) (b : Opnd) :
    Statement (.shfl h sw mode edge d a b) :=
  have f1 : SubW.ofField ((BitVec.ofNat 4 sw.code).setWidth 3).toNat = some sw := by cases sw <;> rfl
  have f2 : ShflMode.ofField ((0#2 ++ bit edge ++ BitVec.ofNat 2 mode.code).setWidth 2).toNat = some mode := by cases mode <;> cases edge <;> rfl
  have f3 : ((0#2 ++ bit edge ++ BitVec.ofNat 2 mode.code).getLsbD 2) = edge := by cases mode <;> cases edge <;> rfl
  long_roundTrip (h := h) rfl rfl rfl rfl rfl rfl (by cases sw <;> rfl) (by cases mode <;> cases edge <;> rfl) rfl rfl rfl rfl rfl
    (build_shfl ..)
    (by simp only [Opnd.ofCode_code, Option.bind_eq_bind, Option.bind_some, f1, f2, f3])

theorem RoundTrip.vote (h : Hdr) (sw : SubW) (kind : VoteKind) (cnt : Bool) (d : Opnd) (a : Opnd) :
    Statement (.vote h sw kind cnt d a) :=
  have f1 : SubW.ofField ((BitVec.ofNat 4 sw.code).setWidth 3).toNat = some sw := by cases sw <;> rfl
  have f2 : VoteKind.ofField ((0#2 ++ bit cnt ++ BitVec.ofNat 2 kind.code).setWidth 2).toNat = some kind := by cases kind <;> cases cnt <;> rfl
  have f3 : ((0#2 ++ bit cnt ++ BitVec.ofNat 2 kind.code).getLsbD 2) = cnt := by cases kind <;> cases cnt <;> rfl
  long_roundTrip (h := h) rfl rfl rfl rfl rfl rfl (by cases sw <;> rfl) (by cases kind <;> cases cnt <;> rfl) rfl rfl rfl rfl rfl
    (build_vote ..)
    (by simp only [Opnd.ofCode_code, Option.bind_eq_bind, Option.bind_some, f1, f2, f3])

theorem RoundTrip.matchI (h : Hdr) (sw : SubW) (f : Bool) (d : Opnd) (a : Opnd) :
    Statement (.matchI h sw f d a) :=
  have f1 : SubW.ofField ((BitVec.ofNat 4 sw.code).setWidth 3).toNat = some sw := by cases sw <;> rfl
  have f2 : ((0#4 ++ bit f).getLsbD 0) = f := by cases f <;> rfl
  long_roundTrip (h := h) rfl rfl rfl rfl rfl rfl (by cases sw <;> rfl) (by cases f <;> rfl) rfl rfl rfl rfl rfl
    (build_matchI ..)
    (by simp only [Opnd.ofCode_code, Option.bind_eq_bind, Option.bind_some, f1, f2])

theorem RoundTrip.redg (h : Hdr) (sw : SubW) (op : RedOp) (d : Opnd) (a : Opnd) :
    Statement (.redg h sw op d a) :=
  have f1 : SubW.ofField ((BitVec.ofNat 4 sw.code).setWidth 3).toNat = some sw := by cases sw <;> rfl
  have f2 : RedOp.ofField ((BitVec.ofNat 5 op.code).setWidth 4).toNat = some op := by cases op <;> rfl
  long_roundTrip (h := h) rfl rfl rfl rfl rfl rfl (by cases sw <;> rfl) (by cases op <;> rfl) rfl rfl rfl rfl rfl
    (build_redg ..)
    (by simp only [Opnd.ofCode_code, Option.bind_eq_bind, Option.bind_some, f1, f2])

theorem RoundTrip.scan (h : Hdr) (sw : SubW) (op : RedOp) (excl : Bool) (d : Opnd) (a : Opnd) :
    Statement (.scan h sw op excl d a) :=
  have f1 : SubW.ofField ((BitVec.ofNat 4 sw.code).setWidth 3).toNat = some sw := by cases sw <;> rfl
  have f2 : RedOp.ofField ((bit excl ++ BitVec.ofNat 4 op.code).setWidth 4).toNat = some op := by cases op <;> cases excl <;> rfl
  have f3 : ((bit excl ++ BitVec.ofNat 4 op.code).getLsbD 4) = excl := by cases op <;> cases excl <;> rfl
  long_roundTrip (h := h) rfl rfl rfl rfl rfl rfl (by cases sw <;> rfl) (and_all5 _) rfl rfl rfl rfl rfl
    (build_scan ..)
    (by simp only [Opnd.ofCode_code, Option.bind_eq_bind, Option.bind_some, f1, f2, f3])

theorem RoundTrip.bcast (h : Hdr) (sw : SubW) (d : Opnd) (a : Opnd) (b : Opnd) :
    Statement (.bcast h sw d a b) :=
  have f1 : SubW.ofField ((BitVec.ofNat 4 sw.code).setWidth 3).toNat = some sw := by cases sw <;> rfl
  long_roundTrip (h := h) rfl rfl rfl rfl rfl rfl (by cases sw <;> rfl) (rfl) rfl rfl rfl rfl rfl
    (build_bcast ..)
    (by simp only [Opnd.ofCode_code, Option.bind_eq_bind, Option.bind_some, f1])

theorem RoundTrip.elect (h : Hdr) (sw : SubW) (d : Opnd) :
    Statement (.elect h sw d) :=
  have f1 : SubW.ofField ((BitVec.ofNat 4 sw.code).setWidth 3).toNat = some sw := by cases sw <;> rfl
  long_roundTrip (h := h) rfl rfl rfl rfl rfl rfl (by cases sw <;> rfl) (rfl) rfl rfl rfl rfl rfl
    (build_elect ..)
    (by simp only [Opnd.ofCode_code, Option.bind_eq_bind, Option.bind_some, f1])

theorem RoundTrip.ifI (h : Hdr) (inv : Bool) (a : Opnd) (off : BitVec 16) :
    Statement (.ifI h inv a off) :=
  have f1 : ((0#3 ++ bit inv).getLsbD 0) = inv := by cases inv <;> rfl
  long_roundTrip (h := h) rfl rfl rfl rfl rfl rfl (by cases inv <;> rfl) (rfl) rfl rfl rfl rfl rfl
    (build_ifI ..)
    (by simp only [Opnd.ofCode_code, off_halves, f1])

theorem RoundTrip.elseI (h : Hdr) (off : BitVec 16) :
    Statement (.elseI h off) :=
  long_roundTrip (h := h) rfl rfl rfl rfl rfl rfl (rfl) (rfl) rfl rfl rfl rfl rfl
    (build_elseI ..)
    (by simp only [Opnd.ofCode_code, off_halves])

theorem RoundTrip.endif (h : Hdr) :
    Statement (.endif h) :=
  long_roundTrip (h := h) rfl rfl rfl rfl rfl rfl (rfl) (rfl) rfl rfl rfl rfl rfl
    (build_endif ..)
    (by simp only [Opnd.ofCode_code])

theorem RoundTrip.loop (h : Hdr) (off : BitVec 16) :
    Statement (.loop h off) :=
  long_roundTrip (h := h) rfl rfl rfl rfl rfl rfl (rfl) (rfl) rfl rfl rfl rfl rfl
    (build_loop ..)
    (by simp only [Opnd.ofCode_code, off_halves])

theorem RoundTrip.endl (h : Hdr) (off : BitVec 16) :
    Statement (.endl h off) :=
  long_roundTrip (h := h) rfl rfl rfl rfl rfl rfl (rfl) (rfl) rfl rfl rfl rfl rfl
    (build_endl ..)
    (by simp only [Opnd.ofCode_code, off_halves])

theorem RoundTrip.breakI (h : Hdr) (inv : Bool) (n : BitVec 5) (a : Opnd) (off : BitVec 16) :
    Statement (.breakI h inv n a off) :=
  have f1 : ((0#3 ++ bit inv).getLsbD 0) = inv := by cases inv <;> rfl
  long_roundTrip (h := h) rfl rfl rfl rfl rfl rfl (by cases inv <;> rfl) (and_all5 _) rfl rfl rfl rfl rfl
    (build_breakI ..)
    (by simp only [Opnd.ofCode_code, off_halves, f1])

theorem RoundTrip.cont (h : Hdr) (inv : Bool) (n : BitVec 5) (a : Opnd) (off : BitVec 16) :
    Statement (.cont h inv n a off) :=
  have f1 : ((0#3 ++ bit inv).getLsbD 0) = inv := by cases inv <;> rfl
  long_roundTrip (h := h) rfl rfl rfl rfl rfl rfl (by cases inv <;> rfl) (and_all5 _) rfl rfl rfl rfl rfl
    (build_cont ..)
    (by simp only [Opnd.ofCode_code, off_halves, f1])

theorem RoundTrip.jmp (h : Hdr) (kind : JmpKind) (a : Opnd) (off : BitVec 16) :
    Statement (.jmp h kind a off) :=
  fun hw =>
  have f1 : JmpKind.ofField ((BitVec.ofNat 4 kind.code).setWidth 2).toNat = some kind := by cases kind <;> rfl
  have f2 : (((BitVec.ofNat 4 kind.code).setWidth 2) != 0) = (kind != .always) := by cases kind <;> rfl
  long_roundTrip (h := h) rfl rfl rfl (use_jmp ..) rfl rfl (by show (((BitVec.ofNat 4 kind.code) &&& ~~~(3 : BitVec 4)) == 0) = true; cases kind <;> rfl) (by show ((0 &&& ~~~(0 : BitVec 5)) == 0) = true; rfl) rfl (by have := Instr.unused_of_wf hw; simpa only [Instr.unusedOk, f2, Opnd.code_eq_z] using this) rfl rfl rfl
    (build_jmp ..)
    (by simp only [Opnd.ofCode_code, off_halves, Option.bind_eq_bind, Option.bind_some, f1]) hw

theorem RoundTrip.call (h : Hdr) (demand : BitVec 5) (d : Opnd) (off : BitVec 16) :
    Statement (.call h demand d off) :=
  have f1 : (bit ((0#4 ++ demand.extractLsb' 4 1).getLsbD 0) ++ (demand.extractLsb' 0 4)) = demand := by (revert demand; decide)
  long_roundTrip (h := h) rfl rfl rfl rfl rfl rfl (and_all4 _) (by (revert demand; decide)) rfl rfl rfl rfl rfl
    (build_call ..)
    (by simp only [Opnd.ofCode_code, off_halves, f1])

theorem RoundTrip.calli (h : Hdr) (demand : BitVec 5) (d : Opnd) (a : Opnd) :
    Statement (.calli h demand d a) :=
  have f1 : (bit ((0#4 ++ demand.extractLsb' 4 1).getLsbD 0) ++ (demand.extractLsb' 0 4)) = demand := by (revert demand; decide)
  long_roundTrip (h := h) rfl rfl rfl rfl rfl rfl (and_all4 _) (by (revert demand; decide)) rfl rfl rfl rfl rfl
    (build_calli ..)
    (by simp only [Opnd.ofCode_code, f1])

theorem RoundTrip.ret (h : Hdr) :
    Statement (.ret h) :=
  long_roundTrip (h := h) rfl rfl rfl rfl rfl rfl (rfl) (rfl) rfl rfl rfl rfl rfl
    (build_ret ..)
    (by simp only [Opnd.ofCode_code])

theorem RoundTrip.mark (h : Hdr) (clr : Bool) (id : BitVec 8) (off : BitVec 16) :
    Statement (.mark h clr id off) :=
  fun hw =>
  have f1 : ((0#3 ++ bit clr).getLsbD 0) = clr := by cases clr <;> rfl
  have f2 : (!clr || (id == 0 && off == 0xF0F0)) = true := mark_mod hw
  long_roundTrip (h := h) rfl rfl rfl (use_mark ..) rfl rfl (by simp only [f1]; cases clr <;> simp_all [bit]) (by show ((0 &&& ~~~(0 : BitVec 5)) == 0) = true; rfl) rfl rfl (by simp only [f1]; cases clr <;> simp_all) (by simp only [f1]; cases clr <;> simp_all) rfl
    (build_mark ..)
    (by simp only [Opnd.ofCode_code, off_halves, f1]) hw

theorem RoundTrip.unwind (h : Hdr) (id : BitVec 8) :
    Statement (.unwind h id) :=
  long_roundTrip (h := h) rfl rfl rfl rfl rfl rfl (rfl) (rfl) rfl rfl rfl rfl rfl
    (build_unwind ..)
    (by simp only [Opnd.ofCode_code])

theorem RoundTrip.part (h : Hdr) :
    Statement (.part h) :=
  long_roundTrip (h := h) rfl rfl rfl rfl rfl rfl (rfl) (rfl) rfl rfl rfl rfl rfl
    (build_part ..)
    (by simp only [Opnd.ofCode_code])

theorem RoundTrip.regang (h : Hdr) (id : BitVec 8) :
    Statement (.regang h id) :=
  long_roundTrip (h := h) rfl rfl rfl rfl rfl rfl (rfl) (rfl) rfl rfl rfl rfl rfl
    (build_regang ..)
    (by simp only [Opnd.ofCode_code])

theorem RoundTrip.exit (h : Hdr) :
    Statement (.exit h) :=
  long_roundTrip (h := h) rfl rfl rfl rfl rfl rfl (rfl) (rfl) rfl rfl rfl rfl rfl
    (build_exit ..)
    (by simp only [Opnd.ofCode_code])

theorem RoundTrip.yield (h : Hdr) :
    Statement (.yield h) :=
  long_roundTrip (h := h) rfl rfl rfl rfl rfl rfl (rfl) (rfl) rfl rfl rfl rfl rfl
    (build_yield ..)
    (by simp only [Opnd.ofCode_code])

theorem RoundTrip.nop (h : Hdr) :
    Statement (.nop h) :=
  long_roundTrip (h := h) rfl rfl rfl rfl rfl rfl (rfl) (rfl) rfl rfl rfl rfl rfl
    (build_nop ..)
    (by simp only [Opnd.ofCode_code])

theorem RoundTrip.brk (h : Hdr) :
    Statement (.brk h) :=
  long_roundTrip (h := h) rfl rfl rfl rfl rfl rfl (rfl) (rfl) rfl rfl rfl rfl rfl
    (build_brk ..)
    (by simp only [Opnd.ofCode_code])

theorem RoundTrip.rgn (h : Hdr) :
    Statement (.rgn h) :=
  long_roundTrip (h := h) rfl rfl rfl rfl rfl rfl (rfl) (rfl) rfl rfl rfl rfl rfl
    (build_rgn ..)
    (by simp only [Opnd.ofCode_code])

theorem RoundTrip.qdef (h : Hdr) (dm1 : BitVec 3) (km1 : BitVec 3) (d : Opnd) :
    Statement (.qdef h dm1 km1 d) :=
  have f1 : ((0#1 ++ dm1).setWidth 3) = dm1 := by (revert dm1; decide)
  have f2 : ((0#2 ++ km1).setWidth 3) = km1 := by (revert km1; decide)
  long_roundTrip (h := h) rfl rfl rfl rfl rfl rfl (by (revert dm1; decide)) (by (revert km1; decide)) rfl rfl rfl rfl rfl
    (build_qdef ..)
    (by simp only [Opnd.ofCode_code, f1, f2])

theorem RoundTrip.qclr (h : Hdr) (d : Opnd) :
    Statement (.qclr h d) :=
  long_roundTrip (h := h) rfl rfl rfl rfl rfl rfl (rfl) (rfl) rfl rfl rfl rfl rfl
    (build_qclr ..)
    (by simp only [Opnd.ofCode_code])

theorem RoundTrip.qocc (h : Hdr) (d : Opnd) (a : Opnd) :
    Statement (.qocc h d a) :=
  long_roundTrip (h := h) rfl rfl rfl rfl rfl rfl (rfl) (rfl) rfl rfl rfl rfl rfl
    (build_qocc ..)
    (by simp only [Opnd.ofCode_code])

theorem RoundTrip.qrd (h : Hdr) (e : BitVec 3) (d : Opnd) (a : Opnd) :
    Statement (.qrd h e d a) :=
  have f1 : ((0#2 ++ e).setWidth 3) = e := by (revert e; decide)
  long_roundTrip (h := h) rfl rfl rfl rfl rfl rfl (rfl) (by (revert e; decide)) rfl rfl rfl rfl rfl
    (build_qrd ..)
    (by simp only [Opnd.ofCode_code, f1])

theorem RoundTrip.qwr (h : Hdr) (e : BitVec 3) (d : Opnd) (a : Opnd) :
    Statement (.qwr h e d a) :=
  have f1 : ((0#2 ++ e).setWidth 3) = e := by (revert e; decide)
  long_roundTrip (h := h) rfl rfl rfl rfl rfl rfl (rfl) (by (revert e; decide)) rfl rfl rfl rfl rfl
    (build_qwr ..)
    (by simp only [Opnd.ofCode_code, f1])

theorem RoundTrip.winrd (h : Hdr) (k : Fin 9) (d : Opnd) :
    Statement (.winrd h k d) :=
  long_roundTrip (h := h) rfl rfl rfl (use_winrd ..) rfl rfl (by show ((0 &&& ~~~(0 : BitVec 4)) == 0) = true; rfl) (by show (((BitVec.ofNat 5 k.val) &&& ~~~(15 : BitVec 5)) == 0) = true; (revert k; decide)) rfl rfl rfl rfl rfl
    (build_winrd ..)
    (by
      have f : ((BitVec.ofNat 5 k.val).setWidth 4).toNat = k.val := by revert k; decide
      simp only [Opnd.ofCode_code, f, k.isLt, dif_pos])

theorem RoundTrip.winwr (h : Hdr) (k : Fin 9) (d : Opnd) :
    Statement (.winwr h k d) :=
  long_roundTrip (h := h) rfl rfl rfl (use_winwr ..) rfl rfl (by show ((0 &&& ~~~(0 : BitVec 4)) == 0) = true; rfl) (by show (((BitVec.ofNat 5 k.val) &&& ~~~(15 : BitVec 5)) == 0) = true; (revert k; decide)) rfl rfl rfl rfl rfl
    (build_winwr ..)
    (by
      have f : ((BitVec.ofNat 5 k.val).setWidth 4).toNat = k.val := by revert k; decide
      simp only [Opnd.ofCode_code, f, k.isLt, dif_pos])

theorem RoundTrip.mskrd (h : Hdr) (tgt : Bool) (e : BitVec 5) (d : Opnd) :
    Statement (.mskrd h tgt e d) :=
  have f1 : ((0#3 ++ bit tgt).getLsbD 0) = tgt := by cases tgt <;> rfl
  long_roundTrip (h := h) rfl rfl rfl rfl rfl rfl (by cases tgt <;> rfl) (and_all5 _) rfl rfl rfl rfl rfl
    (build_mskrd ..)
    (by simp only [Opnd.ofCode_code, f1])

theorem RoundTrip.mskwr (h : Hdr) (op : MskOp) (e : BitVec 5) (d : Opnd) :
    Statement (.mskwr h op e d) :=
  have f1 : MskOp.ofField ((BitVec.ofNat 4 op.code).setWidth 2).toNat = some op := by cases op <;> rfl
  long_roundTrip (h := h) rfl rfl rfl rfl rfl rfl (by cases op <;> rfl) (and_all5 _) rfl rfl rfl rfl rfl
    (build_mskwr ..)
    (by simp only [Opnd.ofCode_code, Option.bind_eq_bind, Option.bind_some, f1])

theorem RoundTrip.frmq (h : Hdr) (dw : Fin 5) (d : Opnd) (a : Opnd) :
    Statement (.frmq h dw d a) :=
  long_roundTrip (h := h) rfl rfl rfl (use_frmq ..) rfl rfl (by show ((0 &&& ~~~(0 : BitVec 4)) == 0) = true; rfl) (by show (((BitVec.ofNat 5 dw.val) &&& ~~~(7 : BitVec 5)) == 0) = true; (revert dw; decide)) rfl rfl rfl rfl rfl
    (build_frmq ..)
    (by
      have f : ((BitVec.ofNat 5 dw.val).setWidth 3).toNat = dw.val := by revert dw; decide
      simp only [Opnd.ofCode_code, f, dw.isLt, dif_pos])

theorem RoundTrip.frmrd (h : Hdr) (d : Opnd) (a : Opnd) (b : Opnd) :
    Statement (.frmrd h d a b) :=
  long_roundTrip (h := h) rfl rfl rfl rfl rfl rfl (rfl) (rfl) rfl rfl rfl rfl rfl
    (build_frmrd ..)
    (by simp only [Opnd.ofCode_code])

theorem RoundTrip.ld (h : Hdr) (size : MemSize) (pol : Policy) (hint : Option Bool) (d : Opnd) (a : Opnd) (b : Opnd) :
    Statement (.ld h size pol hint d a b) :=
  have f1 : MemSize.ofField ((BitVec.ofNat 4 size.code).setWidth 3).toNat = some size := by cases size <;> rfl
  have f2 : Policy.ofField ((hintBits hint ++ 0#1 ++ BitVec.ofNat 2 pol.code).setWidth 2).toNat = some pol := by cases pol <;> rcases hint with _ | _ | _ <;> rfl
  have f3 : hintOf ((hintBits hint ++ 0#1 ++ BitVec.ofNat 2 pol.code).getLsbD 3) ((hintBits hint ++ 0#1 ++ BitVec.ofNat 2 pol.code).getLsbD 4) = some hint := by cases pol <;> rcases hint with _ | _ | _ <;> rfl
  long_roundTrip (h := h) rfl rfl rfl rfl rfl rfl (by cases size <;> rfl) (by cases pol <;> rcases hint with _ | _ | _ <;> rfl) rfl rfl rfl rfl rfl
    (build_ld ..)
    (by simp only [Opnd.ofCode_code, Option.bind_eq_bind, Option.bind_some, f1, f2, f3])

theorem RoundTrip.st (h : Hdr) (size : MemSize) (pz : Bool) (pol : Policy) (hint : Option Bool) (d : Opnd) (a : Opnd) (b : Opnd) :
    Statement (.st h size pz pol hint d a b) :=
  have f1 : MemSize.ofField ((bit pz ++ BitVec.ofNat 3 size.code).setWidth 3).toNat = some size := by cases size <;> cases pz <;> rfl
  have f2 : ((bit pz ++ BitVec.ofNat 3 size.code).getLsbD 3) = pz := by cases size <;> cases pz <;> rfl
  have f3 : Policy.ofField ((hintBits hint ++ 0#1 ++ BitVec.ofNat 2 pol.code).setWidth 2).toNat = some pol := by cases pol <;> rcases hint with _ | _ | _ <;> rfl
  have f4 : hintOf ((hintBits hint ++ 0#1 ++ BitVec.ofNat 2 pol.code).getLsbD 3) ((hintBits hint ++ 0#1 ++ BitVec.ofNat 2 pol.code).getLsbD 4) = some hint := by cases pol <;> rcases hint with _ | _ | _ <;> rfl
  long_roundTrip (h := h) rfl rfl rfl rfl rfl rfl (and_all4 _) (by cases pol <;> rcases hint with _ | _ | _ <;> rfl) rfl rfl rfl rfl rfl
    (build_st ..)
    (by simp only [Opnd.ofCode_code, Option.bind_eq_bind, Option.bind_some, f1, f2, f3, f4])

theorem RoundTrip.ldl (h : Hdr) (size : MemSize) (d : Opnd) (a : Opnd) (b : Opnd) :
    Statement (.ldl h size d a b) :=
  have f1 : MemSize.ofField ((BitVec.ofNat 4 size.code).setWidth 3).toNat = some size := by cases size <;> rfl
  long_roundTrip (h := h) rfl rfl rfl rfl rfl rfl (by cases size <;> rfl) (rfl) rfl rfl rfl rfl rfl
    (build_ldl ..)
    (by simp only [Opnd.ofCode_code, Option.bind_eq_bind, Option.bind_some, f1])

theorem RoundTrip.stl (h : Hdr) (size : MemSize) (pz : Bool) (d : Opnd) (a : Opnd) (b : Opnd) :
    Statement (.stl h size pz d a b) :=
  have f1 : MemSize.ofField ((bit pz ++ BitVec.ofNat 3 size.code).setWidth 3).toNat = some size := by cases size <;> cases pz <;> rfl
  have f2 : ((bit pz ++ BitVec.ofNat 3 size.code).getLsbD 3) = pz := by cases size <;> cases pz <;> rfl
  long_roundTrip (h := h) rfl rfl rfl rfl rfl rfl (and_all4 _) (rfl) rfl rfl rfl rfl rfl
    (build_stl ..)
    (by simp only [Opnd.ofCode_code, Option.bind_eq_bind, Option.bind_some, f1, f2])

theorem RoundTrip.ldc (h : Hdr) (size : MemSize) (d : Opnd) (a : Opnd) (b : Opnd) :
    Statement (.ldc h size d a b) :=
  have f1 : MemSize.ofField ((BitVec.ofNat 4 size.code).setWidth 3).toNat = some size := by cases size <;> rfl
  long_roundTrip (h := h) rfl rfl rfl rfl rfl rfl (by cases size <;> rfl) (rfl) rfl rfl rfl rfl rfl
    (build_ldc ..)
    (by simp only [Opnd.ofCode_code, Option.bind_eq_bind, Option.bind_some, f1])

theorem RoundTrip.stc (h : Hdr) (size : MemSize) (pz : Bool) (d : Opnd) (a : Opnd) (b : Opnd) :
    Statement (.stc h size pz d a b) :=
  have f1 : MemSize.ofField ((bit pz ++ BitVec.ofNat 3 size.code).setWidth 3).toNat = some size := by cases size <;> cases pz <;> rfl
  have f2 : ((bit pz ++ BitVec.ofNat 3 size.code).getLsbD 3) = pz := by cases size <;> cases pz <;> rfl
  long_roundTrip (h := h) rfl rfl rfl rfl rfl rfl (and_all4 _) (rfl) rfl rfl rfl rfl rfl
    (build_stc ..)
    (by simp only [Opnd.ofCode_code, Option.bind_eq_bind, Option.bind_some, f1, f2])

theorem RoundTrip.ldk (h : Hdr) (size : MemSize) (d : Opnd) (a : Opnd) (b : Opnd) :
    Statement (.ldk h size d a b) :=
  have f1 : MemSize.ofField ((BitVec.ofNat 4 size.code).setWidth 3).toNat = some size := by cases size <;> rfl
  long_roundTrip (h := h) rfl rfl rfl rfl rfl rfl (by cases size <;> rfl) (rfl) rfl rfl rfl rfl rfl
    (build_ldk ..)
    (by simp only [Opnd.ofCode_code, Option.bind_eq_bind, Option.bind_some, f1])

theorem RoundTrip.ldacq (h : Hdr) (size : MemSize) (scope : Scope) (space : Space) (d : Opnd) (a : Opnd) (b : Opnd) :
    Statement (.ldacq h size scope space d a b) :=
  have f1 : MemSize.ofField ((BitVec.ofNat 4 size.code).setWidth 3).toNat = some size := by cases size <;> rfl
  have f2 : Scope.ofField ((BitVec.ofNat 2 space.code ++ BitVec.ofNat 3 scope.code).setWidth 3).toNat = some scope := by cases scope <;> cases space <;> rfl
  have f3 : Space.ofField ((BitVec.ofNat 2 space.code ++ BitVec.ofNat 3 scope.code).extractLsb' 3 2).toNat = some space := by cases scope <;> cases space <;> rfl
  long_roundTrip (h := h) rfl rfl rfl rfl rfl rfl (by cases size <;> rfl) (and_all5 _) rfl rfl rfl rfl rfl
    (build_ldacq ..)
    (by simp only [Opnd.ofCode_code, Option.bind_eq_bind, Option.bind_some, f1, f2, f3])

theorem RoundTrip.strel (h : Hdr) (size : MemSize) (scope : Scope) (space : Space) (pz : Bool) (d : Opnd) (a : Opnd) (b : Opnd) :
    Statement (.strel h size scope space pz d a b) :=
  have f1 : MemSize.ofField ((bit pz ++ BitVec.ofNat 3 size.code).setWidth 3).toNat = some size := by cases size <;> cases pz <;> rfl
  have f2 : Scope.ofField ((BitVec.ofNat 2 space.code ++ BitVec.ofNat 3 scope.code).setWidth 3).toNat = some scope := by cases scope <;> cases space <;> rfl
  have f3 : Space.ofField ((BitVec.ofNat 2 space.code ++ BitVec.ofNat 3 scope.code).extractLsb' 3 2).toNat = some space := by cases scope <;> cases space <;> rfl
  have f4 : ((bit pz ++ BitVec.ofNat 3 size.code).getLsbD 3) = pz := by cases size <;> cases pz <;> rfl
  long_roundTrip (h := h) rfl rfl rfl rfl rfl rfl (and_all4 _) (and_all5 _) rfl rfl rfl rfl rfl
    (build_strel ..)
    (by simp only [Opnd.ofCode_code, Option.bind_eq_bind, Option.bind_some, f1, f2, f3, f4])

theorem RoundTrip.cctl (h : Hdr) (op : CctlOp) (a : Opnd) (b : Opnd) :
    Statement (.cctl h op a b) :=
  have f1 : CctlOp.ofField ((BitVec.ofNat 4 op.code).setWidth 2).toNat = some op := by cases op <;> rfl
  long_roundTrip (h := h) rfl rfl rfl rfl rfl rfl (by cases op <;> rfl) (rfl) rfl rfl rfl rfl rfl
    (build_cctl ..)
    (by simp only [Opnd.ofCode_code, Option.bind_eq_bind, Option.bind_some, f1])

theorem RoundTrip.atom (h : Hdr) (op : AtomOp) (scope : Scope) (ret : Bool) (d : Opnd) (a : Opnd) (b : Opnd) (c : Opnd) :
    Statement (.atom h op scope ret d a b c) :=
  fun hw =>
  have f1 : AtomOp.ofBits (BitVec.ofNat 4 op.code) ((bit op.pk ++ bit ret ++ BitVec.ofNat 3 scope.code).getLsbD 4) = some op := by cases op <;> cases scope <;> cases ret <;> rfl
  have f2 : Scope.ofField ((bit op.pk ++ bit ret ++ BitVec.ofNat 3 scope.code).setWidth 3).toNat = some scope := by cases op <;> cases scope <;> cases ret <;> rfl
  have f3 : ((bit op.pk ++ bit ret ++ BitVec.ofNat 3 scope.code).getLsbD 3) = ret := by cases op <;> cases scope <;> cases ret <;> rfl
  long_roundTrip (h := h) rfl rfl rfl (use_atom ..) rfl f3 (and_all4 _) (and_all5 _) (by have := Instr.unused_of_wf hw; simpa only [Instr.unusedOk, f3, Opnd.code_eq_z] using this) rfl rfl rfl rfl
    (build_atom ..)
    (by simp only [Opnd.ofCode_code, Option.bind_eq_bind, Option.bind_some, f1, f2, f3]) hw

theorem RoundTrip.acas (h : Hdr) (w : CasW) (scope : Scope) (ret : Bool) (d : Opnd) (a : Opnd) (b : Opnd) (c : Opnd) :
    Statement (.acas h w scope ret d a b c) :=
  fun hw =>
  have f1 : CasW.ofField (BitVec.ofNat 4 w.code).toNat = some w := by cases w <;> rfl
  have f2 : Scope.ofField ((0#1 ++ bit ret ++ BitVec.ofNat 3 scope.code).setWidth 3).toNat = some scope := by cases scope <;> cases ret <;> rfl
  have f3 : ((0#1 ++ bit ret ++ BitVec.ofNat 3 scope.code).getLsbD 3) = ret := by cases scope <;> cases ret <;> rfl
  long_roundTrip (h := h) rfl rfl rfl (use_acas ..) rfl f3 (and_all4 _) (by show (((0#1 ++ bit ret ++ BitVec.ofNat 3 scope.code) &&& ~~~(15 : BitVec 5)) == 0) = true; cases scope <;> cases ret <;> rfl) (by have := Instr.unused_of_wf hw; simpa only [Instr.unusedOk, f3, Opnd.code_eq_z] using this) rfl rfl rfl rfl
    (build_acas ..)
    (by simp only [Opnd.ofCode_code, Option.bind_eq_bind, Option.bind_some, f1, f2, f3]) hw

theorem RoundTrip.atoml (h : Hdr) (op : AtomOp) (scope : Scope) (ret : Bool) (d : Opnd) (a : Opnd) (b : Opnd) (c : Opnd) :
    Statement (.atoml h op scope ret d a b c) :=
  fun hw =>
  have f1 : AtomOp.ofBits (BitVec.ofNat 4 op.code) ((bit op.pk ++ bit ret ++ BitVec.ofNat 3 scope.code).getLsbD 4) = some op := by cases op <;> cases scope <;> cases ret <;> rfl
  have f2 : Scope.ofField ((bit op.pk ++ bit ret ++ BitVec.ofNat 3 scope.code).setWidth 3).toNat = some scope := by cases op <;> cases scope <;> cases ret <;> rfl
  have f3 : ((bit op.pk ++ bit ret ++ BitVec.ofNat 3 scope.code).getLsbD 3) = ret := by cases op <;> cases scope <;> cases ret <;> rfl
  long_roundTrip (h := h) rfl rfl rfl (use_atoml ..) rfl f3 (and_all4 _) (and_all5 _) (by have := Instr.unused_of_wf hw; simpa only [Instr.unusedOk, f3, Opnd.code_eq_z] using this) rfl rfl rfl rfl
    (build_atoml ..)
    (by simp only [Opnd.ofCode_code, Option.bind_eq_bind, Option.bind_some, f1, f2, f3]) hw

theorem RoundTrip.acasl (h : Hdr) (w : CasW) (scope : Scope) (ret : Bool) (d : Opnd) (a : Opnd) (b : Opnd) (c : Opnd) :
    Statement (.acasl h w scope ret d a b c) :=
  fun hw =>
  have f1 : CasW.ofField (BitVec.ofNat 4 w.code).toNat = some w := by cases w <;> rfl
  have f2 : Scope.ofField ((0#1 ++ bit ret ++ BitVec.ofNat 3 scope.code).setWidth 3).toNat = some scope := by cases scope <;> cases ret <;> rfl
  have f3 : ((0#1 ++ bit ret ++ BitVec.ofNat 3 scope.code).getLsbD 3) = ret := by cases scope <;> cases ret <;> rfl
  long_roundTrip (h := h) rfl rfl rfl (use_acasl ..) rfl f3 (and_all4 _) (by show (((0#1 ++ bit ret ++ BitVec.ofNat 3 scope.code) &&& ~~~(15 : BitVec 5)) == 0) = true; cases scope <;> cases ret <;> rfl) (by have := Instr.unused_of_wf hw; simpa only [Instr.unusedOk, f3, Opnd.code_eq_z] using this) rfl rfl rfl rfl
    (build_acasl ..)
    (by simp only [Opnd.ofCode_code, Option.bind_eq_bind, Option.bind_some, f1, f2, f3]) hw

theorem RoundTrip.atomc (h : Hdr) (op : AtomOp) (scope : Scope) (ret : Bool) (d : Opnd) (a : Opnd) (b : Opnd) (c : Opnd) :
    Statement (.atomc h op scope ret d a b c) :=
  fun hw =>
  have f1 : AtomOp.ofBits (BitVec.ofNat 4 op.code) ((bit op.pk ++ bit ret ++ BitVec.ofNat 3 scope.code).getLsbD 4) = some op := by cases op <;> cases scope <;> cases ret <;> rfl
  have f2 : Scope.ofField ((bit op.pk ++ bit ret ++ BitVec.ofNat 3 scope.code).setWidth 3).toNat = some scope := by cases op <;> cases scope <;> cases ret <;> rfl
  have f3 : ((bit op.pk ++ bit ret ++ BitVec.ofNat 3 scope.code).getLsbD 3) = ret := by cases op <;> cases scope <;> cases ret <;> rfl
  long_roundTrip (h := h) rfl rfl rfl (use_atomc ..) rfl f3 (and_all4 _) (and_all5 _) (by have := Instr.unused_of_wf hw; simpa only [Instr.unusedOk, f3, Opnd.code_eq_z] using this) rfl rfl rfl rfl
    (build_atomc ..)
    (by simp only [Opnd.ofCode_code, Option.bind_eq_bind, Option.bind_some, f1, f2, f3]) hw

theorem RoundTrip.acasc (h : Hdr) (w : CasW) (scope : Scope) (ret : Bool) (d : Opnd) (a : Opnd) (b : Opnd) (c : Opnd) :
    Statement (.acasc h w scope ret d a b c) :=
  fun hw =>
  have f1 : CasW.ofField (BitVec.ofNat 4 w.code).toNat = some w := by cases w <;> rfl
  have f2 : Scope.ofField ((0#1 ++ bit ret ++ BitVec.ofNat 3 scope.code).setWidth 3).toNat = some scope := by cases scope <;> cases ret <;> rfl
  have f3 : ((0#1 ++ bit ret ++ BitVec.ofNat 3 scope.code).getLsbD 3) = ret := by cases scope <;> cases ret <;> rfl
  long_roundTrip (h := h) rfl rfl rfl (use_acasc ..) rfl f3 (and_all4 _) (by show (((0#1 ++ bit ret ++ BitVec.ofNat 3 scope.code) &&& ~~~(15 : BitVec 5)) == 0) = true; cases scope <;> cases ret <;> rfl) (by have := Instr.unused_of_wf hw; simpa only [Instr.unusedOk, f3, Opnd.code_eq_z] using this) rfl rfl rfl rfl
    (build_acasc ..)
    (by simp only [Opnd.ofCode_code, Option.bind_eq_bind, Option.bind_some, f1, f2, f3]) hw

theorem RoundTrip.bankop (h : Hdr) (op : AtomOp) (scope : Scope) (a : Opnd) (b : Opnd) (c : Opnd) :
    Statement (.bankop h op scope a b c) :=
  have f1 : AtomOp.ofBits (BitVec.ofNat 4 op.code) ((bit op.pk ++ 0#1 ++ BitVec.ofNat 3 scope.code).getLsbD 4) = some op := by cases op <;> cases scope <;> rfl
  have f2 : Scope.ofField ((bit op.pk ++ 0#1 ++ BitVec.ofNat 3 scope.code).setWidth 3).toNat = some scope := by cases op <;> cases scope <;> rfl
  have f3 : ((bit op.pk ++ 0#1 ++ BitVec.ofNat 3 scope.code).getLsbD 3) = false := by cases op <;> cases scope <;> rfl
  long_roundTrip (h := h) rfl rfl rfl rfl rfl rfl (and_all4 _) (and_all5 _) rfl rfl rfl rfl rfl
    (build_bankop ..)
    (by simp only [Opnd.ofCode_code, Option.bind_eq_bind, Option.bind_some, Bool.false_eq_true, reduceIte, f1, f2, f3])

theorem RoundTrip.bankred (h : Hdr) (op : AtomOp) (scope : Scope) (ret : Bool) (d : Opnd) (a : Opnd) (b : Opnd) (c : Opnd) :
    Statement (.bankred h op scope ret d a b c) :=
  fun hw =>
  have f1 : AtomOp.ofBits (BitVec.ofNat 4 op.code) ((bit op.pk ++ bit ret ++ BitVec.ofNat 3 scope.code).getLsbD 4) = some op := by cases op <;> cases scope <;> cases ret <;> rfl
  have f2 : Scope.ofField ((bit op.pk ++ bit ret ++ BitVec.ofNat 3 scope.code).setWidth 3).toNat = some scope := by cases op <;> cases scope <;> cases ret <;> rfl
  have f3 : ((bit op.pk ++ bit ret ++ BitVec.ofNat 3 scope.code).getLsbD 3) = ret := by cases op <;> cases scope <;> cases ret <;> rfl
  long_roundTrip (h := h) rfl rfl rfl (use_bankred ..) rfl f3 (and_all4 _) (and_all5 _) (by have := Instr.unused_of_wf hw; simpa only [Instr.unusedOk, f3, Opnd.code_eq_z] using this) rfl rfl rfl rfl
    (build_bankred ..)
    (by simp only [Opnd.ofCode_code, Option.bind_eq_bind, Option.bind_some, f1, f2, f3]) hw

theorem RoundTrip.cpy (h : Hdr) (dsp : Space) (ssp : Space) (ch : BitVec 3) (d : Opnd) (a : Opnd) (b : Opnd) :
    Statement (.cpy h dsp ssp ch d a b) :=
  have f1 : Space.ofField ((BitVec.ofNat 2 ssp.code ++ BitVec.ofNat 2 dsp.code).setWidth 2).toNat = some dsp := by cases dsp <;> cases ssp <;> rfl
  have f2 : Space.ofField ((BitVec.ofNat 2 ssp.code ++ BitVec.ofNat 2 dsp.code).extractLsb' 2 2).toNat = some ssp := by cases dsp <;> cases ssp <;> rfl
  have f3 : ((0#2 ++ ch).setWidth 3) = ch := by (revert ch; decide)
  long_roundTrip (h := h) rfl rfl rfl rfl rfl rfl (and_all4 _) (by (revert ch; decide)) rfl rfl rfl rfl rfl
    (build_cpy ..)
    (by simp only [Opnd.ofCode_code, Option.bind_eq_bind, Option.bind_some, f1, f2, f3])

theorem RoundTrip.cpys (h : Hdr) (dsp : Space) (ssp : Space) (ch : BitVec 3) (d : Opnd) (a : Opnd) (b : Opnd) (c : Opnd) :
    Statement (.cpys h dsp ssp ch d a b c) :=
  have f1 : Space.ofField ((BitVec.ofNat 2 ssp.code ++ BitVec.ofNat 2 dsp.code).setWidth 2).toNat = some dsp := by cases dsp <;> cases ssp <;> rfl
  have f2 : Space.ofField ((BitVec.ofNat 2 ssp.code ++ BitVec.ofNat 2 dsp.code).extractLsb' 2 2).toNat = some ssp := by cases dsp <;> cases ssp <;> rfl
  have f3 : ((0#2 ++ ch).setWidth 3) = ch := by (revert ch; decide)
  long_roundTrip (h := h) rfl rfl rfl rfl rfl rfl (and_all4 _) (by (revert ch; decide)) rfl rfl rfl rfl rfl
    (build_cpys ..)
    (by simp only [Opnd.ofCode_code, Option.bind_eq_bind, Option.bind_some, f1, f2, f3])

theorem RoundTrip.seal (h : Hdr) (d : Opnd) :
    Statement (.seal h d) :=
  long_roundTrip (h := h) rfl rfl rfl rfl rfl rfl (rfl) (rfl) rfl rfl rfl rfl rfl
    (build_seal ..)
    (by simp only [Opnd.ofCode_code])

theorem RoundTrip.bwait (h : Hdr) (a : Opnd) :
    Statement (.bwait h a) :=
  long_roundTrip (h := h) rfl rfl rfl rfl rfl rfl (rfl) (rfl) rfl rfl rfl rfl rfl
    (build_bwait ..)
    (by simp only [Opnd.ofCode_code])

theorem RoundTrip.cpwp (h : Hdr) (issued : Bool) (d : Opnd) (a : Opnd) :
    Statement (.cpwp h issued d a) :=
  have f1 : ((0#3 ++ bit issued).getLsbD 0) = issued := by cases issued <;> rfl
  long_roundTrip (h := h) rfl rfl rfl rfl rfl rfl (by cases issued <;> rfl) (rfl) rfl rfl rfl rfl rfl
    (build_cpwp ..)
    (by simp only [Opnd.ofCode_code, f1])

theorem RoundTrip.cpwait (h : Hdr) (a : Opnd) (b : Opnd) :
    Statement (.cpwait h a b) :=
  long_roundTrip (h := h) rfl rfl rfl rfl rfl rfl (rfl) (rfl) rfl rfl rfl rfl rfl
    (build_cpwait ..)
    (by simp only [Opnd.ofCode_code])

theorem RoundTrip.wlput (h : Hdr) (a : Opnd) (b : Opnd) :
    Statement (.wlput h a b) :=
  long_roundTrip (h := h) rfl rfl rfl rfl rfl rfl (rfl) (rfl) rfl rfl rfl rfl rfl
    (build_wlput ..)
    (by simp only [Opnd.ofCode_code])

theorem RoundTrip.wltake (h : Hdr) (d : Opnd) (a : Opnd) :
    Statement (.wltake h d a) :=
  long_roundTrip (h := h) rfl rfl rfl rfl rfl rfl (rfl) (rfl) rfl rfl rfl rfl rfl
    (build_wltake ..)
    (by simp only [Opnd.ofCode_code])

theorem RoundTrip.wldone (h : Hdr) (hold : Bool) :
    Statement (.wldone h hold) :=
  have f1 : ((0#3 ++ bit hold).getLsbD 0) = hold := by cases hold <;> rfl
  long_roundTrip (h := h) rfl rfl rfl rfl rfl rfl (by cases hold <;> rfl) (rfl) rfl rfl rfl rfl rfl
    (build_wldone ..)
    (by simp only [Opnd.ofCode_code, f1])

theorem RoundTrip.wlquiet (h : Hdr) (d : Opnd) :
    Statement (.wlquiet h d) :=
  long_roundTrip (h := h) rfl rfl rfl rfl rfl rfl (rfl) (rfl) rfl rfl rfl rfl rfl
    (build_wlquiet ..)
    (by simp only [Opnd.ofCode_code])

theorem RoundTrip.put (h : Hdr) (sp : Space) (nt : Bool) (d : Opnd) (a : Opnd) (b : Opnd) (c : Opnd) :
    Statement (.put h sp nt d a b c) :=
  have f1 : Space.ofField ((BitVec.ofNat 4 sp.code).setWidth 2).toNat = some sp := by cases sp <;> rfl
  have f2 : ((0#4 ++ bit nt).getLsbD 0) = nt := by cases nt <;> rfl
  long_roundTrip (h := h) rfl rfl rfl rfl rfl rfl (by cases sp <;> rfl) (by cases nt <;> rfl) rfl rfl rfl rfl rfl
    (build_put ..)
    (by simp only [Opnd.ofCode_code, Option.bind_eq_bind, Option.bind_some, f1, f2])

theorem RoundTrip.putn (h : Hdr) (sp : Space) (nt : Bool) (d : Opnd) (a : Opnd) (b : Opnd) (c : Opnd) :
    Statement (.putn h sp nt d a b c) :=
  have f1 : Space.ofField ((BitVec.ofNat 4 sp.code).setWidth 2).toNat = some sp := by cases sp <;> rfl
  have f2 : ((0#4 ++ bit nt).getLsbD 0) = nt := by cases nt <;> rfl
  long_roundTrip (h := h) rfl rfl rfl rfl rfl rfl (by cases sp <;> rfl) (by cases nt <;> rfl) rfl rfl rfl rfl rfl
    (build_putn ..)
    (by simp only [Opnd.ofCode_code, Option.bind_eq_bind, Option.bind_some, f1, f2])

theorem RoundTrip.get (h : Hdr) (sp : Space) (nt : Bool) (d : Opnd) (a : Opnd) (b : Opnd) (c : Opnd) :
    Statement (.get h sp nt d a b c) :=
  have f1 : Space.ofField ((BitVec.ofNat 4 sp.code).setWidth 2).toNat = some sp := by cases sp <;> rfl
  have f2 : ((0#4 ++ bit nt).getLsbD 0) = nt := by cases nt <;> rfl
  long_roundTrip (h := h) rfl rfl rfl rfl rfl rfl (by cases sp <;> rfl) (by cases nt <;> rfl) rfl rfl rfl rfl rfl
    (build_get ..)
    (by simp only [Opnd.ofCode_code, Option.bind_eq_bind, Option.bind_some, f1, f2])

theorem RoundTrip.ratom (h : Hdr) (op : AtomOp) (nt : Bool) (ret : Bool) (d : Opnd) (a : Opnd) (b : Opnd) (c : Opnd) :
    Statement (.ratom h op nt ret d a b c) :=
  fun hw =>
  have f1 : AtomOp.ofBits (BitVec.ofNat 4 op.code) ((bit op.pk ++ bit ret ++ 0#2 ++ bit nt).getLsbD 4) = some op := by cases op <;> cases nt <;> cases ret <;> rfl
  have f2 : ((bit op.pk ++ bit ret ++ 0#2 ++ bit nt).getLsbD 0) = nt := by cases op <;> cases nt <;> cases ret <;> rfl
  have f3 : ((bit op.pk ++ bit ret ++ 0#2 ++ bit nt).getLsbD 3) = ret := by cases op <;> cases nt <;> cases ret <;> rfl
  long_roundTrip (h := h) rfl rfl rfl (use_ratom ..) rfl f3 (and_all4 _) (by show (((bit op.pk ++ bit ret ++ 0#2 ++ bit nt) &&& ~~~(25 : BitVec 5)) == 0) = true; cases op <;> cases nt <;> cases ret <;> rfl) (by have := Instr.unused_of_wf hw; simpa only [Instr.unusedOk, f3, Opnd.code_eq_z] using this) rfl rfl rfl rfl
    (build_ratom ..)
    (by simp only [Opnd.ofCode_code, Option.bind_eq_bind, Option.bind_some, f1, f2, f3]) hw

theorem RoundTrip.rcas (h : Hdr) (w : CasW) (nt : Bool) (ret : Bool) (d : Opnd) (a : Opnd) (b : Opnd) (c : Opnd) :
    Statement (.rcas h w nt ret d a b c) :=
  fun hw =>
  have f1 : CasW.ofField (BitVec.ofNat 4 w.code).toNat = some w := by cases w <;> rfl
  have f2 : ((0#1 ++ bit ret ++ 0#2 ++ bit nt).getLsbD 0) = nt := by cases nt <;> cases ret <;> rfl
  have f3 : ((0#1 ++ bit ret ++ 0#2 ++ bit nt).getLsbD 3) = ret := by cases nt <;> cases ret <;> rfl
  long_roundTrip (h := h) rfl rfl rfl (use_rcas ..) rfl f3 (and_all4 _) (by show (((0#1 ++ bit ret ++ 0#2 ++ bit nt) &&& ~~~(9 : BitVec 5)) == 0) = true; cases nt <;> cases ret <;> rfl) (by have := Instr.unused_of_wf hw; simpa only [Instr.unusedOk, f3, Opnd.code_eq_z] using this) rfl rfl rfl rfl
    (build_rcas ..)
    (by simp only [Opnd.ofCode_code, Option.bind_eq_bind, Option.bind_some, f1, f2, f3]) hw

theorem RoundTrip.notify (h : Hdr) (nt : Bool) (d : Opnd) (a : Opnd) :
    Statement (.notify h nt d a) :=
  have f1 : ((0#4 ++ bit nt).getLsbD 0) = nt := by cases nt <;> rfl
  long_roundTrip (h := h) rfl rfl rfl rfl rfl rfl (rfl) (by cases nt <;> rfl) rfl rfl rfl rfl rfl
    (build_notify ..)
    (by simp only [Opnd.ofCode_code, f1])

theorem RoundTrip.nwait (h : Hdr) (a : Opnd) (b : Opnd) :
    Statement (.nwait h a b) :=
  long_roundTrip (h := h) rfl rfl rfl rfl rfl rfl (rfl) (rfl) rfl rfl rfl rfl rfl
    (build_nwait ..)
    (by simp only [Opnd.ofCode_code])

theorem RoundTrip.nrd (h : Hdr) (d : Opnd) (a : Opnd) :
    Statement (.nrd h d a) :=
  long_roundTrip (h := h) rfl rfl rfl rfl rfl rfl (rfl) (rfl) rfl rfl rfl rfl rfl
    (build_nrd ..)
    (by simp only [Opnd.ofCode_code])

theorem RoundTrip.rfence (h : Hdr) :
    Statement (.rfence h) :=
  long_roundTrip (h := h) rfl rfl rfl rfl rfl rfl (rfl) (rfl) rfl rfl rfl rfl rfl
    (build_rfence ..)
    (by simp only [Opnd.ofCode_code])

theorem RoundTrip.rquiet (h : Hdr) (nt : Bool) (d : Opnd) :
    Statement (.rquiet h nt d) :=
  fun hw =>
  have f1 : ((0#4 ++ bit nt).getLsbD 0) = nt := by cases nt <;> rfl
  long_roundTrip (h := h) rfl rfl rfl (use_rquiet ..) rfl f1 (by show ((0 &&& ~~~(0 : BitVec 4)) == 0) = true; rfl) (by show (((0#4 ++ bit nt) &&& ~~~(1 : BitVec 5)) == 0) = true; cases nt <;> rfl) (by have := Instr.unused_of_wf hw; simpa only [Instr.unusedOk, f1, Opnd.code_eq_z] using this) rfl rfl rfl rfl
    (build_rquiet ..)
    (by simp only [Opnd.ofCode_code, f1]) hw

theorem RoundTrip.bar (h : Hdr) (mx : Bool) (a : Opnd) :
    Statement (.bar h mx a) :=
  have f1 : ((0#3 ++ bit mx).getLsbD 0) = mx := by cases mx <;> rfl
  long_roundTrip (h := h) rfl rfl rfl rfl rfl rfl (by cases mx <;> rfl) (rfl) rfl rfl rfl rfl rfl
    (build_bar ..)
    (by simp only [Opnd.ofCode_code, f1])

theorem RoundTrip.bara (h : Hdr) (d : Opnd) (a : Opnd) :
    Statement (.bara h d a) :=
  long_roundTrip (h := h) rfl rfl rfl rfl rfl rfl (rfl) (rfl) rfl rfl rfl rfl rfl
    (build_bara ..)
    (by simp only [Opnd.ofCode_code])

theorem RoundTrip.barw (h : Hdr) (mx : Bool) (a : Opnd) (b : Opnd) :
    Statement (.barw h mx a b) :=
  have f1 : ((0#3 ++ bit mx).getLsbD 0) = mx := by cases mx <;> rfl
  long_roundTrip (h := h) rfl rfl rfl rfl rfl rfl (by cases mx <;> rfl) (rfl) rfl rfl rfl rfl rfl
    (build_barw ..)
    (by simp only [Opnd.ofCode_code, f1])

theorem RoundTrip.barinit (h : Hdr) (a : Opnd) (b : Opnd) :
    Statement (.barinit h a b) :=
  long_roundTrip (h := h) rfl rfl rfl rfl rfl rfl (rfl) (rfl) rfl rfl rfl rfl rfl
    (build_barinit ..)
    (by simp only [Opnd.ofCode_code])

theorem RoundTrip.barrd (h : Hdr) (live : Bool) (s : Bool) (d : Opnd) (a : Opnd) :
    Statement (.barrd h live s d a) :=
  fun hw =>
  have f1 : ((0#3 ++ bit live).getLsbD 0) = live := by cases live <;> rfl
  have f2 : ((0#4 ++ bit s).getLsbD 0) = s := by cases s <;> rfl
  long_roundTrip (h := h) rfl rfl rfl (use_barrd ..) rfl rfl (by show (((0#3 ++ bit live) &&& ~~~(1 : BitVec 4)) == 0) = true; cases live <;> rfl) (by have := Instr.unused_of_wf hw; simp only [Instr.unusedOk] at this; simp only [f1]; cases live <;> cases s <;> simp_all [bit]) rfl (by have := Instr.unused_of_wf hw; simp only [Instr.unusedOk] at this; rw [f1, Opnd.code_eq_z]; cases live <;> simp_all) rfl rfl rfl
    (build_barrd ..)
    (by simp only [Opnd.ofCode_code, f1, f2]) hw

theorem RoundTrip.barwr (h : Hdr) (s : Bool) (d : Opnd) (a : Opnd) :
    Statement (.barwr h s d a) :=
  have f1 : ((0#4 ++ bit s).getLsbD 0) = s := by cases s <;> rfl
  long_roundTrip (h := h) rfl rfl rfl rfl rfl rfl (rfl) (by cases s <;> rfl) rfl rfl rfl rfl rfl
    (build_barwr ..)
    (by simp only [Opnd.ofCode_code, f1])

theorem RoundTrip.fence (h : Hdr) (paths : BitVec 4) (scope : Scope) :
    Statement (.fence h paths scope) :=
  have f1 : Scope.ofField ((BitVec.ofNat 5 scope.code).setWidth 3).toNat = some scope := by cases scope <;> rfl
  long_roundTrip (h := h) rfl rfl rfl rfl rfl rfl (and_all4 _) (by cases scope <;> rfl) rfl rfl rfl rfl rfl
    (build_fence ..)
    (by simp only [Opnd.ofCode_code, Option.bind_eq_bind, Option.bind_some, f1])

theorem RoundTrip.mon (h : Hdr) (space : Space) (a : Opnd) :
    Statement (.mon h space a) :=
  have f1 : Space.ofField ((BitVec.ofNat 4 space.code).setWidth 2).toNat = some space := by cases space <;> rfl
  long_roundTrip (h := h) rfl rfl rfl rfl rfl rfl (by cases space <;> rfl) (rfl) rfl rfl rfl rfl rfl
    (build_mon ..)
    (by simp only [Opnd.ofCode_code, Option.bind_eq_bind, Option.bind_some, f1])

theorem RoundTrip.mwait (h : Hdr) (d : Opnd) (a : Opnd) :
    Statement (.mwait h d a) :=
  long_roundTrip (h := h) rfl rfl rfl rfl rfl rfl (rfl) (rfl) rfl rfl rfl rfl rfl
    (build_mwait ..)
    (by simp only [Opnd.ofCode_code])

theorem RoundTrip.clock (h : Hdr) (d : Opnd) :
    Statement (.clock h d) :=
  long_roundTrip (h := h) rfl rfl rfl rfl rfl rfl (rfl) (rfl) rfl rfl rfl rfl rfl
    (build_clock ..)
    (by simp only [Opnd.ofCode_code])

theorem RoundTrip.mmq (h : Hdr) (keep : Bool) (af : AFmt) (bf : BFmt) (commons : Bool) (d : Opnd) (a : Opnd) (b : Opnd) (c : Opnd) :
    Statement (.mmq h keep af bf commons d a b c) :=
  fun hw =>
  have f1 : AFmt.ofField ((BitVec.ofNat 4 af.code).setWidth 3).toNat = some af := by cases af <;> rfl
  have f2 : BFmt.ofField ((0#1 ++ bit commons ++ BitVec.ofNat 3 bf.code).setWidth 3).toNat = some bf := by cases bf <;> cases commons <;> rfl
  have f3 : ((0#1 ++ bit commons ++ BitVec.ofNat 3 bf.code).getLsbD 3) = commons := by cases bf <;> cases commons <;> rfl
  have f4 : (decide (3 < ((BitVec.ofNat 4 af.code).setWidth 3).toNat) && decide (((BitVec.ofNat 4 af.code).setWidth 3).toNat < 7)) = af.isMx := by cases af <;> rfl
  long_roundTrip (h := h) rfl rfl rfl (use_mmq ..) rfl rfl (by show (((BitVec.ofNat 4 af.code) &&& ~~~(7 : BitVec 4)) == 0) = true; cases af <;> rfl) (by show (((0#1 ++ bit commons ++ BitVec.ofNat 3 bf.code) &&& ~~~(15 : BitVec 5)) == 0) = true; cases bf <;> cases commons <;> rfl) rfl rfl rfl (by have := Instr.unused_of_wf hw; simpa only [Instr.unusedOk, f4, Opnd.code_eq_z] using this) rfl
    (build_mmq ..)
    (by simp only [Opnd.ofCode_code, Option.bind_eq_bind, Option.bind_some, f1, f2, f3]) hw

theorem RoundTrip.accz (h : Hdr) (d : Opnd) :
    Statement (.accz h d) :=
  long_roundTrip (h := h) rfl rfl rfl rfl rfl rfl (rfl) (rfl) rfl rfl rfl rfl rfl
    (build_accz ..)
    (by simp only [Opnd.ofCode_code])

theorem RoundTrip.accrd (h : Hdr) (mode : AccMode) (d : Opnd) (a : Opnd) :
    Statement (.accrd h mode d a) :=
  have f1 : AccMode.ofField ((BitVec.ofNat 4 mode.code).setWidth 2).toNat = some mode := by cases mode <;> rfl
  long_roundTrip (h := h) rfl rfl rfl rfl rfl rfl (by cases mode <;> rfl) (rfl) rfl rfl rfl rfl rfl
    (build_accrd ..)
    (by simp only [Opnd.ofCode_code, Option.bind_eq_bind, Option.bind_some, f1])

theorem RoundTrip.accwr (h : Hdr) (mode : AccMode) (d : Opnd) (a : Opnd) :
    Statement (.accwr h mode d a) :=
  have f1 : AccMode.ofField ((BitVec.ofNat 4 mode.code).setWidth 2).toNat = some mode := by cases mode <;> rfl
  long_roundTrip (h := h) rfl rfl rfl rfl rfl rfl (by cases mode <;> rfl) (rfl) rfl rfl rfl rfl rfl
    (build_accwr ..)
    (by simp only [Opnd.ofCode_code, Option.bind_eq_bind, Option.bind_some, f1])

theorem RoundTrip.accpro (h : Hdr) (d : Opnd) :
    Statement (.accpro h d) :=
  long_roundTrip (h := h) rfl rfl rfl rfl rfl rfl (rfl) (rfl) rfl rfl rfl rfl rfl
    (build_accpro ..)
    (by simp only [Opnd.ofCode_code])

theorem RoundTrip.mxset (h : Hdr) (a : Opnd) :
    Statement (.mxset h a) :=
  long_roundTrip (h := h) rfl rfl rfl rfl rfl rfl (rfl) (rfl) rfl rfl rfl rfl rfl
    (build_mxset ..)
    (by simp only [Opnd.ofCode_code])

theorem RoundTrip.cbload (h : Hdr) (space : Space) (a : Opnd) (b : Opnd) :
    Statement (.cbload h space a b) :=
  have f1 : Space.ofField ((BitVec.ofNat 4 space.code).setWidth 2).toNat = some space := by cases space <;> rfl
  long_roundTrip (h := h) rfl rfl rfl rfl rfl rfl (by cases space <;> rfl) (rfl) rfl rfl rfl rfl rfl
    (build_cbload ..)
    (by simp only [Opnd.ofCode_code, Option.bind_eq_bind, Option.bind_some, f1])

theorem RoundTrip.cbrd (h : Hdr) (d : Opnd) (a : Opnd) :
    Statement (.cbrd h d a) :=
  long_roundTrip (h := h) rfl rfl rfl rfl rfl rfl (rfl) (rfl) rfl rfl rfl rfl rfl
    (build_cbrd ..)
    (by simp only [Opnd.ofCode_code])

theorem RoundTrip.mxwait (h : Hdr) :
    Statement (.mxwait h) :=
  long_roundTrip (h := h) rfl rfl rfl rfl rfl rfl (rfl) (rfl) rfl rfl rfl rfl rfl
    (build_mxwait ..)
    (by simp only [Opnd.ofCode_code])

theorem RoundTrip.pchk (h : Hdr) (tr : Bool) (one : Bool) (d : Opnd) (a : Opnd) :
    Statement (.pchk h tr one d a) :=
  have f1 : ((0#3 ++ bit tr).getLsbD 0) = tr := by cases tr <;> rfl
  have f2 : ((0#4 ++ bit one).getLsbD 0) = one := by cases one <;> rfl
  long_roundTrip (h := h) rfl rfl rfl rfl rfl rfl (by cases tr <;> rfl) (by cases one <;> rfl) rfl rfl rfl rfl rfl
    (build_pchk ..)
    (by simp only [Opnd.ofCode_code, f1, f2])

theorem RoundTrip.pset (h : Hdr) (d : Opnd) (a : Opnd) :
    Statement (.pset h d a) :=
  long_roundTrip (h := h) rfl rfl rfl rfl rfl rfl (rfl) (rfl) rfl rfl rfl rfl rfl
    (build_pset ..)
    (by simp only [Opnd.ofCode_code])

theorem RoundTrip.pclr (h : Hdr) (d : Opnd) (a : Opnd) :
    Statement (.pclr h d a) :=
  long_roundTrip (h := h) rfl rfl rfl rfl rfl rfl (rfl) (rfl) rfl rfl rfl rfl rfl
    (build_pclr ..)
    (by simp only [Opnd.ofCode_code])

theorem RoundTrip.porg (h : Hdr) (f : BitVec 2) (d : Opnd) (a : Opnd) :
    Statement (.porg h f d a) :=
  have f1 : ((0#3 ++ f).setWidth 2) = f := by (revert f; decide)
  long_roundTrip (h := h) rfl rfl rfl rfl rfl rfl (rfl) (by (revert f; decide)) rfl rfl rfl rfl rfl
    (build_porg ..)
    (by simp only [Opnd.ofCode_code, f1])

theorem RoundTrip.srd (h : Hdr) (d : Opnd) (a : Opnd) :
    Statement (.srd h d a) :=
  long_roundTrip (h := h) rfl rfl rfl rfl rfl rfl (rfl) (rfl) rfl rfl rfl rfl rfl
    (build_srd ..)
    (by simp only [Opnd.ofCode_code])

theorem RoundTrip.swr (h : Hdr) (d : Opnd) (a : Opnd) :
    Statement (.swr h d a) :=
  long_roundTrip (h := h) rfl rfl rfl rfl rfl rfl (rfl) (rfl) rfl rfl rfl rfl rfl
    (build_swr ..)
    (by simp only [Opnd.ofCode_code])

theorem RoundTrip.trap (h : Hdr) (code : BitVec 8) :
    Statement (.trap h code) :=
  long_roundTrip (h := h) rfl rfl rfl rfl rfl rfl (rfl) (rfl) rfl rfl rfl rfl rfl
    (build_trap ..)
    (by simp only [Opnd.ofCode_code])

theorem RoundTrip.tret (h : Hdr) :
    Statement (.tret h) :=
  long_roundTrip (h := h) rfl rfl rfl rfl rfl rfl (rfl) (rfl) rfl rfl rfl rfl rfl
    (build_tret ..)
    (by simp only [Opnd.ofCode_code])

theorem RoundTrip.savedone (h : Hdr) :
    Statement (.savedone h) :=
  long_roundTrip (h := h) rfl rfl rfl rfl rfl rfl (rfl) (rfl) rfl rfl rfl rfl rfl
    (build_savedone ..)
    (by simp only [Opnd.ofCode_code])

theorem RoundTrip.icinv (h : Hdr) :
    Statement (.icinv h) :=
  long_roundTrip (h := h) rfl rfl rfl rfl rfl rfl (rfl) (rfl) rfl rfl rfl rfl rfl
    (build_icinv ..)
    (by simp only [Opnd.ofCode_code])

theorem RoundTrip.wfi (h : Hdr) :
    Statement (.wfi h) :=
  long_roundTrip (h := h) rfl rfl rfl rfl rfl rfl (rfl) (rfl) rfl rfl rfl rfl rfl
    (build_wfi ..)
    (by simp only [Opnd.ofCode_code])

theorem RoundTrip.halt (h : Hdr) :
    Statement (.halt h) :=
  long_roundTrip (h := h) rfl rfl rfl rfl rfl rfl (rfl) (rfl) rfl rfl rfl rfl rfl
    (build_halt ..)
    (by simp only [Opnd.ofCode_code])

theorem RoundTrip.iaddS32ShortA (d : Opnd) (a : Opnd) (b : Opnd) :
    Statement (.iaddS32ShortA d a b) :=
  shortA_roundTrip rfl rfl rfl

theorem RoundTrip.isubS32ShortA (d : Opnd) (a : Opnd) (b : Opnd) :
    Statement (.isubS32ShortA d a b) :=
  shortA_roundTrip rfl rfl rfl

theorem RoundTrip.imulS32ShortA (d : Opnd) (a : Opnd) (b : Opnd) :
    Statement (.imulS32ShortA d a b) :=
  shortA_roundTrip rfl rfl rfl

theorem RoundTrip.iminS32ShortA (d : Opnd) (a : Opnd) (b : Opnd) :
    Statement (.iminS32ShortA d a b) :=
  shortA_roundTrip rfl rfl rfl

theorem RoundTrip.imaxS32ShortA (d : Opnd) (a : Opnd) (b : Opnd) :
    Statement (.imaxS32ShortA d a b) :=
  shortA_roundTrip rfl rfl rfl

theorem RoundTrip.iminN32ShortA (d : Opnd) (a : Opnd) (b : Opnd) :
    Statement (.iminN32ShortA d a b) :=
  shortA_roundTrip rfl rfl rfl

theorem RoundTrip.imaxN32ShortA (d : Opnd) (a : Opnd) (b : Opnd) :
    Statement (.imaxN32ShortA d a b) :=
  shortA_roundTrip rfl rfl rfl

theorem RoundTrip.andShortA (d : Opnd) (a : Opnd) (b : Opnd) :
    Statement (.andShortA d a b) :=
  shortA_roundTrip rfl rfl rfl

theorem RoundTrip.orShortA (d : Opnd) (a : Opnd) (b : Opnd) :
    Statement (.orShortA d a b) :=
  shortA_roundTrip rfl rfl rfl

theorem RoundTrip.xorShortA (d : Opnd) (a : Opnd) (b : Opnd) :
    Statement (.xorShortA d a b) :=
  shortA_roundTrip rfl rfl rfl

theorem RoundTrip.andnShortA (d : Opnd) (a : Opnd) (b : Opnd) :
    Statement (.andnShortA d a b) :=
  shortA_roundTrip rfl rfl rfl

theorem RoundTrip.shlShortA (d : Opnd) (a : Opnd) (b : Opnd) :
    Statement (.shlShortA d a b) :=
  shortA_roundTrip rfl rfl rfl

theorem RoundTrip.shrShortA (d : Opnd) (a : Opnd) (b : Opnd) :
    Statement (.shrShortA d a b) :=
  shortA_roundTrip rfl rfl rfl

theorem RoundTrip.shaShortA (d : Opnd) (a : Opnd) (b : Opnd) :
    Statement (.shaShortA d a b) :=
  shortA_roundTrip rfl rfl rfl

theorem RoundTrip.movShortA (d : Opnd) (a : Opnd) :
    Statement (.movShortA d a) :=
  shortA_roundTrip rfl rfl rfl

theorem RoundTrip.daddShortA (d : Opnd) (a : Opnd) (b : Opnd) :
    Statement (.daddShortA d a b) :=
  shortA_roundTrip rfl rfl rfl

theorem RoundTrip.faddF32ShortA (d : Opnd) (a : Opnd) (b : Opnd) :
    Statement (.faddF32ShortA d a b) :=
  shortA_roundTrip rfl rfl rfl

theorem RoundTrip.fsubF32ShortA (d : Opnd) (a : Opnd) (b : Opnd) :
    Statement (.fsubF32ShortA d a b) :=
  shortA_roundTrip rfl rfl rfl

theorem RoundTrip.fmulF32ShortA (d : Opnd) (a : Opnd) (b : Opnd) :
    Statement (.fmulF32ShortA d a b) :=
  shortA_roundTrip rfl rfl rfl

theorem RoundTrip.fminF32ShortA (d : Opnd) (a : Opnd) (b : Opnd) :
    Statement (.fminF32ShortA d a b) :=
  shortA_roundTrip rfl rfl rfl

theorem RoundTrip.fmaxF32ShortA (d : Opnd) (a : Opnd) (b : Opnd) :
    Statement (.fmaxF32ShortA d a b) :=
  shortA_roundTrip rfl rfl rfl

theorem RoundTrip.faddF16x2ShortA (d : Opnd) (a : Opnd) (b : Opnd) :
    Statement (.faddF16x2ShortA d a b) :=
  shortA_roundTrip rfl rfl rfl

theorem RoundTrip.fmulF16x2ShortA (d : Opnd) (a : Opnd) (b : Opnd) :
    Statement (.fmulF16x2ShortA d a b) :=
  shortA_roundTrip rfl rfl rfl

theorem RoundTrip.faddBf16x2ShortA (d : Opnd) (a : Opnd) (b : Opnd) :
    Statement (.faddBf16x2ShortA d a b) :=
  shortA_roundTrip rfl rfl rfl

theorem RoundTrip.fmulBf16x2ShortA (d : Opnd) (a : Opnd) (b : Opnd) :
    Statement (.fmulBf16x2ShortA d a b) :=
  shortA_roundTrip rfl rfl rfl

theorem RoundTrip.icmpEqShortA (d : Opnd) (a : Opnd) (b : Opnd) :
    Statement (.icmpEqShortA d a b) :=
  shortA_roundTrip rfl rfl rfl

theorem RoundTrip.icmpLtS32ShortA (d : Opnd) (a : Opnd) (b : Opnd) :
    Statement (.icmpLtS32ShortA d a b) :=
  shortA_roundTrip rfl rfl rfl

theorem RoundTrip.icmpLtN32ShortA (d : Opnd) (a : Opnd) (b : Opnd) :
    Statement (.icmpLtN32ShortA d a b) :=
  shortA_roundTrip rfl rfl rfl

theorem RoundTrip.fcmpLtShortA (d : Opnd) (a : Opnd) (b : Opnd) :
    Statement (.fcmpLtShortA d a b) :=
  shortA_roundTrip rfl rfl rfl

theorem RoundTrip.fcmpEqShortA (d : Opnd) (a : Opnd) (b : Opnd) :
    Statement (.fcmpEqShortA d a b) :=
  shortA_roundTrip rfl rfl rfl

theorem RoundTrip.frcpShortA (d : Opnd) (a : Opnd) :
    Statement (.frcpShortA d a) :=
  shortA_roundTrip rfl rfl rfl

theorem RoundTrip.frsqShortA (d : Opnd) (a : Opnd) :
    Statement (.frsqShortA d a) :=
  shortA_roundTrip rfl rfl rfl

theorem RoundTrip.popcShortA (d : Opnd) (a : Opnd) :
    Statement (.popcShortA d a) :=
  shortA_roundTrip rfl rfl rfl

theorem RoundTrip.clzShortA (d : Opnd) (a : Opnd) :
    Statement (.clzShortA d a) :=
  shortA_roundTrip rfl rfl rfl

theorem RoundTrip.shflIdxShortA (d : Opnd) (a : Opnd) (b : Opnd) :
    Statement (.shflIdxShortA d a b) :=
  shortA_roundTrip rfl rfl rfl

theorem RoundTrip.shflXorShortA (d : Opnd) (a : Opnd) (b : Opnd) :
    Statement (.shflXorShortA d a b) :=
  shortA_roundTrip rfl rfl rfl

theorem RoundTrip.voteBallotShortA (d : Opnd) (a : Opnd) :
    Statement (.voteBallotShortA d a) :=
  shortA_roundTrip rfl rfl rfl

theorem RoundTrip.bcastShortA (d : Opnd) (a : Opnd) (b : Opnd) :
    Statement (.bcastShortA d a b) :=
  shortA_roundTrip rfl rfl rfl

theorem RoundTrip.leaShortA (d : Opnd) (a : Opnd) (b : Opnd) :
    Statement (.leaShortA d a b) :=
  shortA_roundTrip rfl rfl rfl

theorem RoundTrip.ldlB32ShortA (d : Opnd) (a : Opnd) (b : Opnd) :
    Statement (.ldlB32ShortA d a b) :=
  shortA_roundTrip rfl rfl rfl

theorem RoundTrip.stlB32ShortA (d : Opnd) (a : Opnd) (b : Opnd) :
    Statement (.stlB32ShortA d a b) :=
  shortA_roundTrip rfl rfl rfl

theorem RoundTrip.ldcB32ShortA (d : Opnd) (a : Opnd) (b : Opnd) :
    Statement (.ldcB32ShortA d a b) :=
  shortA_roundTrip rfl rfl rfl

theorem RoundTrip.stcB32ShortA (d : Opnd) (a : Opnd) (b : Opnd) :
    Statement (.stcB32ShortA d a b) :=
  shortA_roundTrip rfl rfl rfl

theorem RoundTrip.iaddShortB (d : Opnd) (a : Opnd) (imm : BitVec 8) :
    Statement (.iaddShortB d a imm) :=
  shortB_roundTrip rfl rfl rfl rfl

theorem RoundTrip.isubShortB (d : Opnd) (a : Opnd) (imm : BitVec 8) :
    Statement (.isubShortB d a imm) :=
  shortB_roundTrip rfl rfl rfl rfl

theorem RoundTrip.andShortB (d : Opnd) (a : Opnd) (imm : BitVec 8) :
    Statement (.andShortB d a imm) :=
  shortB_roundTrip rfl rfl rfl rfl

theorem RoundTrip.orShortB (d : Opnd) (a : Opnd) (imm : BitVec 8) :
    Statement (.orShortB d a imm) :=
  shortB_roundTrip rfl rfl rfl rfl

theorem RoundTrip.xorShortB (d : Opnd) (a : Opnd) (imm : BitVec 8) :
    Statement (.xorShortB d a imm) :=
  shortB_roundTrip rfl rfl rfl rfl

theorem RoundTrip.shlShortB (d : Opnd) (a : Opnd) (imm : BitVec 5) :
    Statement (.shlShortB d a imm) :=
  shortB_roundTrip rfl (congrArg (fun k => some (true, false, Instr.shlShortB d a k)) (imm5_back imm)) (imm5_low imm) rfl

theorem RoundTrip.shrShortB (d : Opnd) (a : Opnd) (imm : BitVec 5) :
    Statement (.shrShortB d a imm) :=
  shortB_roundTrip rfl (congrArg (fun k => some (true, false, Instr.shrShortB d a k)) (imm5_back imm)) (imm5_low imm) rfl

theorem RoundTrip.shaShortB (d : Opnd) (a : Opnd) (imm : BitVec 5) :
    Statement (.shaShortB d a imm) :=
  shortB_roundTrip rfl (congrArg (fun k => some (true, false, Instr.shaShortB d a k)) (imm5_back imm)) (imm5_low imm) rfl

theorem RoundTrip.movShortB (d : Opnd) (imm : BitVec 8) :
    Statement (.movShortB d imm) :=
  shortB_roundTrip rfl rfl rfl rfl

theorem RoundTrip.icmpEqShortB (d : Opnd) (a : Opnd) (imm : BitVec 8) :
    Statement (.icmpEqShortB d a imm) :=
  shortB_roundTrip rfl rfl rfl rfl

theorem RoundTrip.icmpLtS32ShortB (d : Opnd) (a : Opnd) (imm : BitVec 8) :
    Statement (.icmpLtS32ShortB d a imm) :=
  shortB_roundTrip rfl rfl rfl rfl

theorem RoundTrip.shflXorShortB (d : Opnd) (a : Opnd) (imm : BitVec 5) :
    Statement (.shflXorShortB d a imm) :=
  shortB_roundTrip rfl (congrArg (fun k => some (true, false, Instr.shflXorShortB d a k)) (imm5_back imm)) (imm5_low imm) rfl

theorem RoundTrip.shflUpShortB (d : Opnd) (a : Opnd) (imm : BitVec 5) :
    Statement (.shflUpShortB d a imm) :=
  shortB_roundTrip rfl (congrArg (fun k => some (true, false, Instr.shflUpShortB d a k)) (imm5_back imm)) (imm5_low imm) rfl

theorem RoundTrip.shflDownShortB (d : Opnd) (a : Opnd) (imm : BitVec 5) :
    Statement (.shflDownShortB d a imm) :=
  shortB_roundTrip rfl (congrArg (fun k => some (true, false, Instr.shflDownShortB d a k)) (imm5_back imm)) (imm5_low imm) rfl

theorem RoundTrip.ldlB32ShortB (d : Opnd) (a : Opnd) (imm : BitVec 8) :
    Statement (.ldlB32ShortB d a imm) :=
  shortB_roundTrip rfl rfl rfl rfl

theorem RoundTrip.stlB32ShortB (d : Opnd) (a : Opnd) (imm : BitVec 8) :
    Statement (.stlB32ShortB d a imm) :=
  shortB_roundTrip rfl rfl rfl rfl

theorem RoundTrip.ldkB32ShortB (d : Opnd) (imm : BitVec 8) :
    Statement (.ldkB32ShortB d imm) :=
  shortB_roundTrip rfl rfl rfl rfl

theorem RoundTrip.trapEntry (ag : AgentRef) :
    Statement (.trapEntry ag) :=
  fun h => Bool.noConfusion h

theorem RoundTrip.machineTrapEntry (ag : AgentRef) :
    Statement (.machineTrapEntry ag) :=
  fun h => Bool.noConfusion h

theorem RoundTrip.pendingCauseTaken (ag : AgentRef) :
    Statement (.pendingCauseTaken ag) :=
  fun h => Bool.noConfusion h

theorem RoundTrip.barrierWaitEnd (ag : AgentRef) :
    Statement (.barrierWaitEnd ag) :=
  fun h => Bool.noConfusion h

theorem RoundTrip.sluiceReleaseDelay (ag : AgentRef) :
    Statement (.sluiceReleaseDelay ag) :=
  fun h => Bool.noConfusion h

theorem RoundTrip.frameWait (core : CoreRef) :
    Statement (.frameWait core) :=
  fun h => Bool.noConfusion h

theorem RoundTrip.handlerFrameGrant (core : CoreRef) :
    Statement (.handlerFrameGrant core) :=
  fun h => Bool.noConfusion h

theorem RoundTrip.cellarTimeout (core : CoreRef) :
    Statement (.cellarTimeout core) :=
  fun h => Bool.noConfusion h

theorem RoundTrip.cellarSpill (core : CoreRef) :
    Statement (.cellarSpill core) :=
  fun h => Bool.noConfusion h

theorem RoundTrip.tlbWalkDone (ag : AgentRef) :
    Statement (.tlbWalkDone ag) :=
  fun h => Bool.noConfusion h

theorem RoundTrip.pageFaultServiced (who : Faulter) (writes : List (Nat × Dword)) :
    Statement (.pageFaultServiced who writes) :=
  fun h => Bool.noConfusion h

theorem RoundTrip.pageFaultRefused (who : Faulter) :
    Statement (.pageFaultRefused who) :=
  fun h => Bool.noConfusion h

theorem RoundTrip.mwaitWake (ag : AgentRef) :
    Statement (.mwaitWake ag) :=
  fun h => Bool.noConfusion h

theorem RoundTrip.mwaitTimeout (ag : AgentRef) :
    Statement (.mwaitTimeout ag) :=
  fun h => Bool.noConfusion h

theorem RoundTrip.copyEntryGrant (core : CoreRef) (ch : Nat) :
    Statement (.copyEntryGrant core ch) :=
  fun h => Bool.noConfusion h

theorem RoundTrip.copyPerform (core : CoreRef) (ch : Nat) :
    Statement (.copyPerform core ch) :=
  fun h => Bool.noConfusion h

theorem RoundTrip.bwaitWake (ag : AgentRef) :
    Statement (.bwaitWake ag) :=
  fun h => Bool.noConfusion h

theorem RoundTrip.cpwaitWake (ag : AgentRef) :
    Statement (.cpwaitWake ag) :=
  fun h => Bool.noConfusion h

theorem RoundTrip.wlputAppend (site : Nat) (ctx : Nat) (index : Nat) :
    Statement (.wlputAppend site ctx index) :=
  fun h => Bool.noConfusion h

theorem RoundTrip.wltakeWake (ag : AgentRef) :
    Statement (.wltakeWake ag) :=
  fun h => Bool.noConfusion h

theorem RoundTrip.matrixPassClose (core : CoreRef) :
    Statement (.matrixPassClose core) :=
  fun h => Bool.noConfusion h

theorem RoundTrip.matrixPassStart (core : CoreRef) :
    Statement (.matrixPassStart core) :=
  fun h => Bool.noConfusion h

theorem RoundTrip.matrixPassEnd (core : CoreRef) :
    Statement (.matrixPassEnd core) :=
  fun h => Bool.noConfusion h

theorem RoundTrip.mxwaitWake (ag : AgentRef) :
    Statement (.mxwaitWake ag) :=
  fun h => Bool.noConfusion h

theorem RoundTrip.accrdWake (ag : AgentRef) :
    Statement (.accrdWake ag) :=
  fun h => Bool.noConfusion h

theorem RoundTrip.regionReplay (ag : AgentRef) :
    Statement (.regionReplay ag) :=
  fun h => Bool.noConfusion h

theorem RoundTrip.scrubUe (site : Nat) (address : Nat) :
    Statement (.scrubUe site address) :=
  fun h => Bool.noConfusion h

theorem RoundTrip.l1WriteOnward (core : CoreRef) (sector : Nat) :
    Statement (.l1WriteOnward core sector) :=
  fun h => Bool.noConfusion h

theorem RoundTrip.l2WriteToL3 (site : Nat) (die : Nat) :
    Statement (.l2WriteToL3 site die) :=
  fun h => Bool.noConfusion h

theorem RoundTrip.remoteSlotGrant (core : CoreRef) :
    Statement (.remoteSlotGrant core) :=
  fun h => Bool.noConfusion h

theorem RoundTrip.remoteWriteArrival (op : Nat) :
    Statement (.remoteWriteArrival op) :=
  fun h => Bool.noConfusion h

theorem RoundTrip.putnIncrement (op : Nat) :
    Statement (.putnIncrement op) :=
  fun h => Bool.noConfusion h

theorem RoundTrip.getDataArrival (op : Nat) :
    Statement (.getDataArrival op) :=
  fun h => Bool.noConfusion h

theorem RoundTrip.remoteAtomicAtTarget (op : Nat) :
    Statement (.remoteAtomicAtTarget op) :=
  fun h => Bool.noConfusion h

theorem RoundTrip.remoteReplyArrival (op : Nat) :
    Statement (.remoteReplyArrival op) :=
  fun h => Bool.noConfusion h

theorem RoundTrip.notifyIncrement (op : Nat) :
    Statement (.notifyIncrement op) :=
  fun h => Bool.noConfusion h

theorem RoundTrip.remoteOpFail (op : Nat) :
    Statement (.remoteOpFail op) :=
  fun h => Bool.noConfusion h

theorem RoundTrip.nwaitWake (ag : AgentRef) :
    Statement (.nwaitWake ag) :=
  fun h => Bool.noConfusion h

theorem RoundTrip.rquietWake (ag : AgentRef) :
    Statement (.rquietWake ag) :=
  fun h => Bool.noConfusion h

theorem RoundTrip.voteCount (site : Nat) (ctx : Nat) (group : Nat) :
    Statement (.voteCount site ctx group) :=
  fun h => Bool.noConfusion h

theorem RoundTrip.launchQueueDoorbell (ctx : Nat) (queue : Nat) (qwr : Word) :
    Statement (.launchQueueDoorbell ctx queue qwr) :=
  fun h => Bool.noConfusion h

theorem RoundTrip.queueRestart (ctx : Nat) (queue : Nat) :
    Statement (.queueRestart ctx queue) :=
  fun h => Bool.noConfusion h

theorem RoundTrip.launchPacket (ctx : Nat) (queue : Nat) :
    Statement (.launchPacket ctx queue) :=
  fun h => Bool.noConfusion h

theorem RoundTrip.gridRelease (site : Nat) (grid : Nat) :
    Statement (.gridRelease site grid) :=
  fun h => Bool.noConfusion h

theorem RoundTrip.gridComplete (site : Nat) (grid : Nat) :
    Statement (.gridComplete site grid) :=
  fun h => Bool.noConfusion h

theorem RoundTrip.workgroupAdmit (core : CoreRef) (grid : Nat) :
    Statement (.workgroupAdmit core grid) :=
  fun h => Bool.noConfusion h

theorem RoundTrip.barterRequest (site : Nat) (cluster : Nat) (grid : Nat) :
    Statement (.barterRequest site cluster grid) :=
  fun h => Bool.noConfusion h

theorem RoundTrip.carveChange (core : CoreRef) :
    Statement (.carveChange core) :=
  fun h => Bool.noConfusion h

theorem RoundTrip.operatingPointStable (site : Nat) (die : Nat) (domain : Nat) (level : Nat) :
    Statement (.operatingPointStable site die domain level) :=
  fun h => Bool.noConfusion h

theorem RoundTrip.agedPromotion (ag : AgentRef) :
    Statement (.agedPromotion ag) :=
  fun h => Bool.noConfusion h

theorem RoundTrip.watchdog (site : Nat) (grid : Nat) :
    Statement (.watchdog site grid) :=
  fun h => Bool.noConfusion h

theorem RoundTrip.vacateRequest (site : Nat) (count : Nat) (grid : Nat) :
    Statement (.vacateRequest site count grid) :=
  fun h => Bool.noConfusion h

theorem RoundTrip.coreVacated (core : CoreRef) :
    Statement (.coreVacated core) :=
  fun h => Bool.noConfusion h

theorem RoundTrip.restoreEntry (ag : AgentRef) :
    Statement (.restoreEntry ag) :=
  fun h => Bool.noConfusion h

theorem RoundTrip.restoreTretRelease (core : CoreRef) (wg : Nat) :
    Statement (.restoreTretRelease core wg) :=
  fun h => Bool.noConfusion h

theorem RoundTrip.contextKill (ctx : Nat) :
    Statement (.contextKill ctx) :=
  fun h => Bool.noConfusion h

theorem RoundTrip.headerUe (lost : FailedHeader) :
    Statement (.headerUe lost) :=
  fun h => Bool.noConfusion h

theorem RoundTrip.mcStateUe (ag : AgentRef) :
    Statement (.mcStateUe ag) :=
  fun h => Bool.noConfusion h

theorem RoundTrip.fwLaunchRegister (core : CoreRef) (value : Dword) :
    Statement (.fwLaunchRegister core value) :=
  fun h => Bool.noConfusion h

theorem RoundTrip.regionTableRewrite (site : Nat) (entries : List (Nat × Dword × Dword)) :
    Statement (.regionTableRewrite site entries) :=
  fun h => Bool.noConfusion h

theorem RoundTrip.tlbInvalidate (site : Nat) (ctx : Nat) (address : Dword) :
    Statement (.tlbInvalidate site ctx address) :=
  fun h => Bool.noConfusion h

theorem RoundTrip.controlWindowWrite (site : Nat) (reg : WindowReg) (value : Dword) :
    Statement (.controlWindowWrite site reg value) :=
  fun h => Bool.noConfusion h

theorem RoundTrip.mapPublish (site : Nat) (ctx : Nat) :
    Statement (.mapPublish site ctx) :=
  fun h => Bool.noConfusion h

theorem RoundTrip.presenceDetected (plot : Nat) (m : ModuleDesc) :
    Statement (.presenceDetected plot m) :=
  fun h => Bool.noConfusion h

theorem RoundTrip.presenceLost (plot : Nat) :
    Statement (.presenceLost plot) :=
  fun h => Bool.noConfusion h

theorem RoundTrip.powerGood (plot : Nat) :
    Statement (.powerGood plot) :=
  fun h => Bool.noConfusion h

theorem RoundTrip.resetStepRelease (plot : Nat) :
    Statement (.resetStepRelease plot) :=
  fun h => Bool.noConfusion h

theorem RoundTrip.measurementRefused (plot : Nat) :
    Statement (.measurementRefused plot) :=
  fun h => Bool.noConfusion h

theorem RoundTrip.trainingFailed (plot : Nat) :
    Statement (.trainingFailed plot) :=
  fun h => Bool.noConfusion h

theorem RoundTrip.portsTrained (plot : Nat) (pup : BitVec 8) :
    Statement (.portsTrained plot pup) :=
  fun h => Bool.noConfusion h

theorem RoundTrip.plotAdmit (plot : Nat) :
    Statement (.plotAdmit plot) :=
  fun h => Bool.noConfusion h

theorem RoundTrip.firstBind (plot : Nat) (ctx : Nat) :
    Statement (.firstBind plot ctx) :=
  fun h => Bool.noConfusion h

theorem RoundTrip.drainRequest (plot : Nat) :
    Statement (.drainRequest plot) :=
  fun h => Bool.noConfusion h

theorem RoundTrip.serviceRequest (plot : Nat) :
    Statement (.serviceRequest plot) :=
  fun h => Bool.noConfusion h

theorem RoundTrip.heartbeatMiss (plot : Nat) :
    Statement (.heartbeatMiss plot) :=
  fun h => Bool.noConfusion h

theorem RoundTrip.fatalIslandError (plot : Nat) :
    Statement (.fatalIslandError plot) :=
  fun h => Bool.noConfusion h

theorem RoundTrip.plotLoss (plot : Nat) :
    Statement (.plotLoss plot) :=
  fun h => Bool.noConfusion h

theorem RoundTrip.contextCreate (desc : ContextDesc) :
    Statement (.contextCreate desc) :=
  fun h => Bool.noConfusion h

theorem RoundTrip.contextWithdraw (ctx : Nat) (site : Nat) :
    Statement (.contextWithdraw ctx site) :=
  fun h => Bool.noConfusion h

theorem RoundTrip.contextRebind (ctx : Nat) (desc : IslandDesc) :
    Statement (.contextRebind ctx desc) :=
  fun h => Bool.noConfusion h

theorem RoundTrip.flitTagFail (link : LinkDir) :
    Statement (.flitTagFail link) :=
  fun h => Bool.noConfusion h

theorem RoundTrip.keyInstall (link : LinkDir) (key : Nat) :
    Statement (.keyInstall link key) :=
  fun h => Bool.noConfusion h

theorem RoundTrip.keyAck (link : LinkDir) (sender : Bool) :
    Statement (.keyAck link sender) :=
  fun h => Bool.noConfusion h

theorem RoundTrip.oldKeyRetire (link : LinkDir) :
    Statement (.oldKeyRetire link) :=
  fun h => Bool.noConfusion h

theorem RoundTrip.heartbeat (reeve : Nat) (sender : Nat) (term : Word) :
    Statement (.heartbeat reeve sender term) :=
  fun h => Bool.noConfusion h

theorem RoundTrip.presidencyClaim (reeve : Nat) :
    Statement (.presidencyClaim reeve) :=
  fun h => Bool.noConfusion h

theorem RoundTrip.getVersion (iface : Nat) :
    Statement (.getVersion iface) :=
  fun h => Bool.noConfusion h

theorem RoundTrip.getCapabilities (iface : Nat) :
    Statement (.getCapabilities iface) :=
  fun h => Bool.noConfusion h

theorem RoundTrip.negotiateAlgorithms (iface : Nat) :
    Statement (.negotiateAlgorithms iface) :=
  fun h => Bool.noConfusion h

theorem RoundTrip.getDigests (iface : Nat) :
    Statement (.getDigests iface) :=
  fun h => Bool.noConfusion h

theorem RoundTrip.getCertificate (iface : Nat) :
    Statement (.getCertificate iface) :=
  fun h => Bool.noConfusion h

theorem RoundTrip.challenge (iface : Nat) (nonce : BitVec 256) :
    Statement (.challenge iface nonce) :=
  fun h => Bool.noConfusion h

theorem RoundTrip.getMeasurements (iface : Nat) (index : Nat) (nonce : BitVec 256) :
    Statement (.getMeasurements iface index nonce) :=
  fun h => Bool.noConfusion h

theorem RoundTrip.keyExchange (iface : Nat) (key : Nat) :
    Statement (.keyExchange iface key) :=
  fun h => Bool.noConfusion h

theorem RoundTrip.finish (iface : Nat) :
    Statement (.finish iface) :=
  fun h => Bool.noConfusion h

theorem RoundTrip.keyUpdate (iface : Nat) :
    Statement (.keyUpdate iface) :=
  fun h => Bool.noConfusion h

theorem RoundTrip.endSession (iface : Nat) :
    Statement (.endSession iface) :=
  fun h => Bool.noConfusion h

theorem RoundTrip.ideKm (iface : Nat) (key : Nat) :
    Statement (.ideKm iface key) :=
  fun h => Bool.noConfusion h

theorem RoundTrip.stopInterfaceRequest (iface : Nat) :
    Statement (.stopInterfaceRequest iface) :=
  fun h => Bool.noConfusion h

theorem RoundTrip.hostConfigWrite (iface : Nat) (offset : Nat) (value : Word) :
    Statement (.hostConfigWrite iface offset value) :=
  fun h => Bool.noConfusion h

theorem RoundTrip.hostTlp (iface : Nat) (ide : Bool) (poisoned : Bool) (tlp : Tlp) :
    Statement (.hostTlp iface ide poisoned tlp) :=
  fun h => Bool.noConfusion h

theorem RoundTrip.keySlotRetire (site : Nat) (slot : Nat) :
    Statement (.keySlotRetire site slot) :=
  fun h => Bool.noConfusion h

theorem RoundTrip.olLaser (site : Nat) (lane : Nat) (on : Bool) :
    Statement (.olLaser site lane on) :=
  fun h => Bool.noConfusion h

theorem RoundTrip.olTrainStart (site : Nat) (lane : Nat) (slot : Nat) :
    Statement (.olTrainStart site lane slot) :=
  fun h => Bool.noConfusion h

theorem RoundTrip.olAct (site : Nat) (lane : Nat) (on : Bool) :
    Statement (.olAct site lane on) :=
  fun h => Bool.noConfusion h

theorem RoundTrip.olLockWrite (site : Nat) (lane : Nat) (value : Word) :
    Statement (.olLockWrite site lane value) :=
  fun h => Bool.noConfusion h

theorem RoundTrip.olMapWrite (site : Nat) (lane : Nat) (hi : Bool) (value : Word) :
    Statement (.olMapWrite site lane hi value) :=
  fun h => Bool.noConfusion h

theorem RoundTrip.olRingWrite (site : Nat) (lane : Nat) (slot : Nat) (value : Word) :
    Statement (.olRingWrite site lane slot value) :=
  fun h => Bool.noConfusion h

theorem RoundTrip.olRingRead (site : Nat) (lane : Nat) (slot : Nat) :
    Statement (.olRingRead site lane slot) :=
  fun h => Bool.noConfusion h

theorem RoundTrip.olTrainingDone (site : Nat) (lane : Nat) (eyeOk : Bool) :
    Statement (.olTrainingDone site lane eyeOk) :=
  fun h => Bool.noConfusion h

theorem RoundTrip.olLaserStable (site : Nat) (lane : Nat) :
    Statement (.olLaserStable site lane) :=
  fun h => Bool.noConfusion h

theorem RoundTrip.wfiEvent (core : CoreRef) :
    Statement (.wfiEvent core) :=
  fun h => Bool.noConfusion h

theorem RoundTrip.coreReset (core : CoreRef) :
    Statement (.coreReset core) :=
  fun h => Bool.noConfusion h

theorem RoundTrip.debugResume (ag : AgentRef) :
    Statement (.debugResume ag) :=
  fun h => Bool.noConfusion h

theorem RoundTrip.reeveFailure (reeve : Nat) :
    Statement (.reeveFailure reeve) :=
  fun h => Bool.noConfusion h

theorem RoundTrip.lockInterfaceRequest (iface : Nat) :
    Statement (.lockInterfaceRequest iface) :=
  fun h => Bool.noConfusion h

theorem RoundTrip.startInterfaceRequest (iface : Nat) :
    Statement (.startInterfaceRequest iface) :=
  fun h => Bool.noConfusion h

theorem RoundTrip.debuggerCoreStop (core : CoreRef) :
    Statement (.debuggerCoreStop core) :=
  fun h => Bool.noConfusion h

theorem RoundTrip.panelPowerOn : Statement .panelPowerOn :=
  fun h => Bool.noConfusion h

theorem RoundTrip.getTargetRead (op : Nat) :
    Statement (.getTargetRead op) :=
  fun h => Bool.noConfusion h

theorem RoundTrip.dropMeasurement (site : Nat) (lane : Nat) (slot : Nat) (drop : BitVec 16) :
    Statement (.dropMeasurement site lane slot drop) :=
  fun h => Bool.noConfusion h


end Sys2Proof.Laws
end

