-- ==== Sys2Proof/Safety.lean ====
section
/-! DEFINITION. The terms in which claims about runs are made: when an instruction's preparation raises
nothing, what its completion leaves, and what stays unchanged. -/

namespace Sys2Proof.Machine

/-- The register operands that take part in the queue rules, the guard last. -/
def Ex.regOps (x : Ex) : List (Opnd × Role) := x.queueOps ++ [(x.n.h.g, .src 1)]

/-- The guard's row. -/
def Ex.guardRow (x : Ex) : Lanes := (readOpnd x.g x.b x.fl x.n.h.lit x.n.h.g 1).headD []

/-- The lanes that the agent has. -/
def Ex.lanes (x : Ex) : List Nat := x.b.lanes x.g.width x.fi

/-- A physical error to come that the instruction may meet: in a register or window slot that it reads, its guard among them, in
its paired issue or, outside the classes INT, BIT, FPA, FPS, XLN and CTL, in a memory, a tile or a stored value; one that its
check has corrected meets no instruction (R342, R349). -/
def Ex.meets (x : Ex) (p : Phys) : Bool :=
  match p with
  | .twin l => x.g.twin && x.i.paired && x.set.contains l
  | .operandUe j _ l => x.readsIn j l && (match x.n.ops[j]? with
    | some (.v _, _) | some (.w _, _) => true
    | _ => false)
  | .guardUe l => x.lanes.contains l && bitOf x.fl.xm l && (match x.n.h.g with
    | .v _ | .w _ => true
    | _ => false)
  | .corrected _ => false
  | _ => !(x.i.cls < 6)

/-- NOTHING STANDS IN THE WAY of the well-formed instruction `i` in state `s`: the agent whose turn it is may issue, no check of
R23's steps 1 to 5 raises a cause, it meets no physical error, the destination has room. `x` is then the
instruction in execution: its lane set, its operands, the queues it pops (R13, R23, R25, R45, R130, R144, R147,
R171). -/
structure Ready (i : Instr) (s : State) (x : Ex) : Prop where
  wf : i.wf = true
  agent : ∃ c, s.agent? = some (c, x.g, x.fi)
  info : i.info = some x.n
  state : x.s = s
  ag : x.ag = s.cur
  instr : x.i = i
  body : x.b = x.g.act
  flow : x.fl = x.b.flow x.fi
  decode : decodeRaised x.g x.b i x.n = none
  awake : x.fl.dormant = true → i.runsDormant x.b.parted = true
  joined : x.b.parted = true → (x.regOps.filterMap fun p => queueOf x.b p.1 p.2.span) = []
  storage : ((x.n.ops ++ [(x.n.h.g, Role.src 1)]).flatMap fun p => storageRaised x.b p.1 p.2.span) = []
  guardThere : readRaised x.b x.fl x.n.h.g 1 = []
  guardClean : ∀ l ∈ x.lanes, bitOf x.fl.xm l = true → (laneAt x.guardRow l).p = false
  slot : slotRaised x.wg x.b.parted i = []
  sources : ((x.n.sources i).flatMap fun p => readRaised x.b x.fl p.1 p.2.span) = []
  room : overRaised x.b x.n x.pops = []
  set : x.set = guardSet x.lanes x.fl.xm x.n.h x.guardRow
  src : x.src = x.n.ops.map fun p => readOpnd x.g x.b x.fl x.n.h.lit p.1 p.2.span
  pops : x.pops = popsOf x.b ((x.n.h.g, 1) :: (x.n.sources i).map fun p => (p.1, p.2.span))
  full : x.full = []
  quiet : ∀ p ∈ s.phys, x.meets p = false

/-- The state after an instruction's write-back of result rows to D (R26), from a state its effect has left. -/
def Ex.written (x : Ex) (s : State) (inSet : Nat → Bool) (rows : List Lanes) : State :=
  s.modGang x.ag.core x.ag.slot fun g => x.write g inSet rows x.next

/-- The state after the completion of an instruction without a result, at a PC. -/
def Ex.ended (x : Ex) (s : State) (pc : Dword) : State := s.modGang x.ag.core x.ag.slot fun g => g.finish x pc

/-- The state after the completion of an instruction without a result, at a PC, its flow updated. -/
def Ex.moved (x : Ex) (s : State) (pc : Dword) (f : Flow → Flow) : State :=
  s.modGang x.ag.core x.ag.slot fun g => (g.finish x pc).modAct fun b => b.modFlow x.fi f

/-- The same where the instruction moves lanes: an agent whose live mask becomes 0 ends (R129). -/
def Ex.flown (x : Ex) (s : State) (pc : Dword) (f : Flow → Flow) : State :=
  if (f x.fl).live = 0 then (x.moved s pc f).settleGang x.ag.core x.ag.slot else x.moved s pc f

/-- The gang of an instruction in another state. -/
def Ex.after (x : Ex) (t : State) : Gang := (t.gang? x.ag.core x.ag.slot).getD x.g

/-- Its flow there. -/
def Ex.flowAfter (x : Ex) (t : State) : Flow := (x.after t).act.flow x.fi

/-- Nothing else than one core, and the counters of free values and of records, differs between two states. -/
def OnlyCore (r : CoreRef) (s t : State) : Prop :=
  (∀ q, q ≠ r → t.core? q = s.core? q) ∧
  t = { s with cores := t.cores, freeCtr := t.freeCtr, uid := t.uid }

/-- The lanes that take part in a reduction, by position, as the leaves of its tree (R188, R189). -/
def Ex.leavesOf (x : Ex) (base sz top : Nat) : List (Option Word) :=
  (List.range sz).map fun j => if j < top ∧ base + j ∈ x.set then some (x.lv 1 (base + j)).v else none

/-- The tree of R188 over 2^n leaves: a node of the values of its two halves, an empty half giving way. -/
def halves (f : Word → Word → Word) : Nat → List (Option Word) → Option Word
  | 0, l => l.headD none
  | n + 1, l =>
    match halves f n (l.take (2 ^ n)), halves f n (l.drop (2 ^ n)) with
    | none, v => v
    | u, none => u
    | some u, some v => some (f u v)

/-- Result rows of n registers whose lane i in the lane set is V i, register k its k-th value. -/
def Ex.rows (x : Ex) (n : Nat) (V : Nat → List LV) : List Lanes :=
  (upTo n).map fun k => (upTo x.w).map fun i => if x.inSet i then laneAt (V i) k else ⟨0, false⟩

/-- The sources of a lane, by operand position, each as one value with its tag (R87). -/
def Ex.srcsOf (x : Ex) (js : List Nat) (l : Nat) : List LV := js.map fun j => x.one j l

/-- A lane's result of some words: the merge of its poisoned sources in every register, else the words, clean
(R84, R87). -/
def tagged (srcs : List LV) (ws : List Word) : List LV :=
  match merge srcs with
  | some w => ws.map fun _ => ⟨w, true⟩
  | none => ws.map fun v => ⟨v, false⟩

/-- Element k, b bits wide, of registers read as one number, lowest register lowest (R4, R67). -/
def elementOf (vs : List Word) (b k : Nat) : Nat := joinEls 32 (vs.map fun v => v.toNat) / 2 ^ (b * k) % 2 ^ b

/-- LANE BY LANE: the outcome r is the write-back to D, and nothing else, of n registers. In each lane of the lane set with
a poisoned source among the operands js every register is the merge of the poisoned sources; in every other one the
registers are clean and hold the elements F l k, b bits wide (R84, R87, R94). -/
def Elementwise (x : Ex) (s : State) (r : Res) (n b : Nat) (js : List Nat) (F : Nat → Nat → Nat) : Prop :=
  ∃ rows : List Lanes, r = .next (x.written s x.inSet rows) ∧ rows.length = n ∧
    ∀ l ∈ x.set, l < x.w →
      match merge (x.srcsOf js l) with
      | some w => ∀ row ∈ rows, laneAt row l = ⟨w, true⟩
      | none => (∀ row ∈ rows, (laneAt row l).p = false) ∧
          ∀ k, k < 32 * n / b → elementOf (rows.map fun row => (laneAt row l).v) b k = F l k

/-- Every element that a lane computes meets a condition: those below n of the lanes of the lane set whose sources among js are
all clean (R84, R94). -/
def Ex.each (x : Ex) (js : List Nat) (n : Nat) (P : Nat → Nat → Prop) : Prop :=
  ∀ l ∈ x.set, merge (x.srcsOf js l) = none → ∀ k < n, P l k

/-- An exact integer as an element of a type: modulo 2^w, or with saturation clamped to the type's range (R68, R98). -/
def clip (md : IntMod) (v : Int) : Nat :=
  let w := md.w.bits
  let lo : Int := if md.s then -2 ^ (w - 1) else 0
  let hi : Int := if md.s then 2 ^ (w - 1) - 1 else 2 ^ w - 1
  ((if md.sat then min (max v lo) hi else v) % 2 ^ w).toNat

/-- The code that an exact value takes in a layout by an FPA or FPS instruction's mode and saturation, with the default
NaN for an invalid operation (R76 to R78, R84). -/
def Layout.answer (l : Layout) (fm : FpMod) (v : Option Num) : Nat :=
  match v with
  | none => l.nanCode
  | some y => l.finish fm.mode fm.sat y

/-- The value of a magnitude k of a layout, its exponent unbounded: the k-th value from 0 up (R63, R77). -/
def Layout.value (l : Layout) (k : Nat) : Rat :=
  if k < 2 ^ l.fb then k * (2 : Rat) ^ (1 - l.bias - l.fb : Int)
  else (2 ^ l.fb + k % 2 ^ l.fb : Nat) * (2 : Rat) ^ ((k / 2 ^ l.fb : Nat) - l.bias - l.fb : Int)

/-- A finite value as a rational number (R63). -/
def Num.toRat (v : Num) : Option Rat :=
  match v with
  | .fin s m e => some ((if s then -1 else 1) * m * (2 : Rat) ^ e)
  | _ => none

/-- EVERY REGISTER HAS A PLACE OF ITS OWN: the current frame's granules exist, no two are one, and each holds 8 rows of w
lanes (R10, R137). -/
structure Body.Sound (b : Body) (w : Nat) : Prop where
  framed : b.frames ≠ []
  there : ∀ g, g < b.frame.ngr → granOrd b.frames g < b.grans.length
  apart : ∀ g k, g < b.frame.ngr → k < b.frame.ngr → granOrd b.frames g = granOrd b.frames k → g = k
  shape : ∀ g ∈ b.grans, g.rows.length = 8 ∧ ∀ row ∈ g.rows, row.length = w

/-- R229's checks pass in every lane of the lane set: the address is clean, aligned, in range and mapped with
permission, at M level in installed memory or the control window. -/
structure Ex.Passes (x : Ex) (a : Acc) : Prop where
  clean : ∀ l ∈ x.set, (x.one a.ja l).p = false ∧ (x.one (a.ja + 1) l).p = false
  aligned : ∀ l ∈ x.set, (x.ea a l).toNat % a.n = 0
  range : ∀ l ∈ x.set, if a.sp = some .global then x.g.ctx = none ∨ canonical (x.ea a l) = true
    else (x.ea a l).toNat + a.n ≤ x.limit a.sp
  mapped : a.sp = some .global → ∀ l ∈ x.set, ∃ pa cp, x.tr a l = .ok pa cp
  there : a.sp = some .global → x.g.ctx = none → ∀ l ∈ x.set,
    inWindow (x.ea a l).toNat = true ∨ x.s.installed x.ag.core (x.ea a l).toNat a.n = true

/-- R289's checks pass in every lane of the lane set: those of its operands, the holes, and its pages are mapped. -/
def Ex.CopyPasses (x : Ex) (dsp ssp : Space) (segs : Bool) : Prop :=
  ∀ l ∈ x.set, x.copyRaised dsp ssp segs l = [] ∧ x.copyHole dsp ssp segs l = none ∧
    ((x.copyReq dsp ssp segs l).bytes ≠ 0 → ∀ p ∈ (x.copyReq dsp ssp segs l).pages,
      ∃ pa cp, translate x.tlbs x.g.ctx x.g.pl p.2 p.1 = .ok pa cp)

/-- What a lane of PUT, PUTN or GET asks for (R380). -/
def Ex.transferReq (x : Ex) (kind : RopKind) (sp : Space) (nt : Bool) (l : Nat) : RmtReq :=
  ⟨kind, x.pair 0 l, x.pair 1 l, (x.lv 2 l).v.toNat, some sp,
    if sp == .global then x.pair 3 l else (x.lv 3 l).v.setWidth 64, [], nt, false⟩

/-- What a lane of RATOM or RCAS on k words asks for (R381). -/
def Ex.atomicReq (x : Ex) (kind : RopKind) (k : Nat) (nt ret : Bool) (l : Nat) : RmtReq :=
  let ja := if ret then 1 else 0
  ⟨kind, x.pair (ja + 1) l, x.pair ja l, 4 * k, none, 0, x.regs (ja + 2) l, nt, ret⟩

/-- What a lane of NOTIFY asks for (R382). -/
def Ex.postedReq (x : Ex) (nt : Bool) (l : Nat) : RmtReq :=
  ⟨.notify, x.pair 0 l, 0, 0, none, 0, [x.lv 1 l], nt, false⟩

/-- The operations of a remote instruction can be sent: R378's checks pass and no target is a hole, the local pages are mapped,
some lane has something to do, and the core has room among its operations in flight (R378, R379). -/
def Ex.Sends (x : Ex) (req : Nat → RmtReq) (words : Nat → List LV) : Prop :=
  let lanes := x.set.filter fun l => x.rmtIssues (req l)
  (∀ l ∈ x.set, x.rmtRaised (req l) (words l) l = [] ∧ x.isHole (req l) = false ∧
    (x.rmtIssues (req l) = true → ∀ p ∈ (req l).pages,
      ∃ pa cp, translate x.tlbs x.g.ctx x.g.pl (req l).access p = .ok pa cp)) ∧
  lanes ≠ [] ∧ x.s.inFlight x.ag.core + lanes.length ≤ Config.remoteOpsPerCore

/-- No MMQ of the gang whose pass has not started reads what the access writes (R270). -/
def Ex.Unheld (x : Ex) (a : Acc) : Prop :=
  ∀ l ∈ x.set, ∀ sp, a.sp = some sp → x.core.holdsWrite x.g.uid x.s.uid sp (x.ea a l).toNat a.n = false

/-- A gang with no monitor triggered. -/
def Gang.unseen (g : Gang) : Gang :=
  let up (b : Body) : Body :=
    { b with flows := b.flows.map fun f => { f with mon := f.mon.map fun m => { m with trigger := false } } }
  { g with body := up g.body, hand := g.hand.map fun h => { h with body := up h.body } }

/-- A core but for the triggers of its monitors and for what it holds of one memory: scratch of the agent's workgroup, the
L1 of the agent's core. -/
def Core.beside (w : Who) (sp : Space) (c : Core) : Core :=
  { c with
    gangs := c.gangs.map Gang.unseen
    wgs := if sp = .scratch ∧ c.ref = w.core then c.wgs.map fun g => if g.id = w.wg then { g with scratch := .empty } else g
      else c.wgs
    l1 := if sp = .global ∧ c.ref = w.core then [] else c.l1 }

/-- An island but for what it holds of one memory: the Commons of the agent's context, or HBM with the caches before it. -/
def Island.beside (w : Who) (sp : Space) (y : Island) : Island :=
  if y.site = w.site then
    match sp with
    | .commons => { y with ctxs := y.ctxs.map fun k => if w.ctx = some k.ctx then { k with commons := .empty } else k }
    | .global => { y with mem := .empty, l2 := [], l3 := [], retain := [] }
    | .scratch => y
  else y

/-- A reeve but for its memory, where the agent runs on it. -/
def Reeve.beside (w : Who) (sp : Space) (v : Reeve) : Reeve :=
  if sp = .global ∧ w.core = .reeve v.num then { v with mem := .empty } else v

/-- NOTHING ELSE than one memory that an agent reaches, with its own caches of it, and the triggers of monitors differs between
two states: barriers, tiles, codebooks, contexts, every other memory, every register are as before. -/
structure SpaceOnly (w : Who) (sp : Space) (s t : State) : Prop where
  rest : t = { s with cores := t.cores, islands := t.islands, reeves := t.reeves }
  cores : t.cores.map (Core.beside w sp) = s.cores.map (Core.beside w sp)
  islands : t.islands.map (Island.beside w sp) = s.islands.map (Island.beside w sp)
  reeves : t.reeves.map (Reeve.beside w sp) = s.reeves.map (Reeve.beside w sp)

/-- A monitor that an agent's writes at some locations reach: on its core in its workgroup's scratch, on its island in its
context's Commons, on its island or reeve in global memory (R201). -/
def Who.reaches (w : Who) (sp : Space) (r : CoreRef) (g : Gang) : Prop :=
  match sp with
  | .scratch => r = w.core ∧ g.wg = w.wg
  | .commons => r.site = w.core.site ∧ g.ctx = w.ctx
  | .global => r.site = w.core.site ∧ (r.site = none → r = w.core)

/-- The triggers after writes to some lines: those set before, and those of the monitors on a line written (R201). -/
def Triggered (w : Who) (sp : Space) (line : Nat → Prop) (s t : State) : Prop :=
  ∀ r slot g, s.gang? r slot = some g → ∃ g', t.gang? r slot = some g' ∧ ∀ k m, (g.act.flow k).mon = some m →
    ∃ m', (g'.act.flow k).mon = some m' ∧ (m'.space, m'.line, m'.restored) = (m.space, m.line, m.restored) ∧
      (m'.trigger = true ↔ m.trigger = true ∨ m.restored = false ∧ m.space = sp ∧ w.reaches sp r g ∧ line m.line)

/-- The memory of a space that an agent reaches, but for the global space (R205). -/
def Ex.memory (x : Ex) (sp : Option Space) (t : State) : Mem :=
  match sp with
  | some .commons => t.commonsOf x.who
  | some _ => ((t.core x.ag.core).wg x.g.wg).scratch
  | none => ((t.core x.ag.core).wg x.g.wg).args

/-- The agent's core has its island, or its reeve, and the sectors of its L1 have their 8 words. -/
def Ex.housed (x : Ex) : Prop :=
  (match x.ag.core with
  | .reeve n => (x.s.reeve? n).isSome = true
  | _ => (x.ag.core.site.bind x.s.island?).isSome = true) ∧ ∀ c ∈ x.core.l1, c.words.length = 8

/-- What an atomic makes of a word's old value and its operand, the exact sum or the pick of R227. -/
def atomApply (op : AtomOp) (o v : Word) : Word :=
  let fp := fun (f : Num → Num → Option Num) (l : Layout) (a b : Nat) =>
    l.answer ⟨.rne, false⟩ (f (l.decode a) (l.decode b))
  let two := fun (l : Layout) => BitVec.ofNat 32 (fp (Num.add .rne) l (o.toNat % 65536) (v.toNat % 65536) +
    65536 * fp (Num.add .rne) l (o.toNat / 65536) (v.toNat / 65536))
  match op with
  | .add | .add64 => o + v
  | .sub => o - v
  | .minS => if o.toInt ≤ v.toInt then o else v
  | .maxS => if v.toInt ≤ o.toInt then o else v
  | .minN => if o.toNat ≤ v.toNat then o else v
  | .maxN => if v.toNat ≤ o.toNat then o else v
  | .andb => o &&& v
  | .orb => o ||| v
  | .xorb => o ^^^ v
  | .xchg => v
  | .inc => if v.toNat ≤ o.toNat then 0 else o + 1
  | .dec => if o = 0 ∨ v.toNat < o.toNat then v else o - 1
  | .fadd => BitVec.ofNat 32 (fp (Num.add .rne) lf32 o.toNat v.toNat)
  | .fmin => BitVec.ofNat 32 (fp (fun p q => some (Num.pick true p q)) lf32 o.toNat v.toNat)
  | .fmax => BitVec.ofNat 32 (fp (fun p q => some (Num.pick false p q)) lf32 o.toNat v.toNat)
  | .faddF16x2 => two lf16
  | .faddBf16x2 => two lbf16

/-! ### Launch packets (R307, R308) -/

/-- n bytes of words from an offset on, the lowest byte first (R307). -/
def packetField (p : Lanes) (off : Nat) : Nat → Nat
  | 0 => 0
  | n + 1 => ((laneAt p (off / 4)).v.extractLsb' (8 * (off % 4)) 8).toNat + 256 * packetField p (off + 1) n

/-- The sites that a packet's island mask names. -/
def packetNames (p : Lanes) : List Nat := (List.range 48).filter fun k => (packetField p 0x18 8).testBit k

/-- Code 1 of R308: TYPE, VER, a reserved field or PCLS is wrong, GRID is 0, DESC is misaligned. -/
def PacketWrong (p : Lanes) : Prop :=
  let f := packetField p
  f 0x00 1 ≠ 1 ∨ f 0x01 1 ≠ 1 ∨ (f 0x02 1).testBit 3 = true ∨ 64 ≤ f 0x02 1 ∨ f 0x02 1 / 16 % 4 = 3 ∨ 16 ≤ f 0x03 1 ∨
  f 0x04 4 = 0 ∨ f 0x08 8 % 32 ≠ 0 ∨ 2 ^ 48 ≤ f 0x18 8 ∨ 4 ≤ f 0x20 1 ∨ f 0x21 1 ≠ 0 ∨ f 0x26 2 / 2 ^ 12 % 8 ≠ 0 ∨
  f 0x28 8 ≠ 0 ∨ f 0x70 8 ≠ 0 ∨ f 0x78 8 ≠ 0 ∨
  ∃ j < 4, f (0x38 + 16 * j) 2 / 2 ^ 12 % 8 ≠ 0 ∨ f (0x3A + 16 * j) 6 ≠ 0

/-- A grid as R307's fields make it, with the descriptor's argument block copied from ARGS (R309). -/
structure Grid.MadeBy (g : Grid) (x : Island) (ctx : Nat) (p : Lanes) : Prop where
  context : g.ctx = ctx
  desc : x.desc ctx (BitVec.ofNat 64 (packetField p 0x08 8)) = some g.desc
  classes : (g.prio, g.pcls, g.vfh) = (packetField p 0x02 1 % 8, packetField p 0x02 1 / 16 % 4, packetField p 0x03 1 % 16)
  count : g.count = packetField p 0x04 4 ∧ g.remaining = g.count ∧ g.dealt = 0
  masks : (g.die, g.aff, g.brt) = (packetField p 0x20 1, packetField p 0x22 2, packetField p 0x24 2)
  cmpl : g.cmpl = if (packetField p 0x26 2).testBit 15 then some (packetField p 0x26 2 % 4096) else none
  deps : g.deps = (List.range 4).filterMap fun j => if (packetField p (0x38 + 16 * j) 2).testBit 15 then
    some (packetField p (0x38 + 16 * j) 2 % 4096, BitVec.ofNat 64 (packetField p (0x30 + 16 * j) 8)) else none
  waits : g.released = none ∧ g.complete = false ∧ g.dropped = false
  args : ∀ l, x.readVa ctx (BitVec.ofNat 64 (packetField p 0x10 8)) (g.desc.args / 4) = some l →
    ∀ k < g.desc.args / 4, g.args.word k = laneAt l k

/-! ### The Cellar (R155 to R157) -/

/-- A core with one granule, of a gang's slot and an ordinal, out of the pool. -/
def Core.inCellar (c : Core) (p : Nat × Nat) : Core :=
  c.modGang p.1 fun g => { g with body := { g.body with grans := modNth (fun x => { x with resident := false }) g.body.grans p.2 } }

/-- WHICH GRANULES ARE SPILLED, along an order, for a gang that needs n free in each quarter it uses: until they are there, each
whose gang uses a quarter of the waiter's that is short (R155). -/
def Core.spills (c : Core) (w : Gang) (n : Nat) : List (Nat × Nat) → List (Nat × Nat)
  | [] => []
  | p :: rest =>
    if c.fits w n then []
    else if (c.gang? p.1).any fun g => (List.range 4).any fun q => w.uses q && g.uses q && c.freeGran q < n then
      p :: (c.inCellar p).spills w n rest
    else c.spills w n rest

/-- THE PLACE OF A GRANULE in R155's order, to be compared from the left: owned below the top frame and not visible in it, by
greatest depth, slot and ordinal; then those of waiting gangs, the youngest first; of gangs that cannot issue; of the others, by
slot (R155). -/
def Core.spillKey (c : Core) (p : Nat × Nat) : List Nat :=
  match c.gang? p.1 with
  | none => []
  | some g =>
    if p.2 ∉ visible g.body.frames then [0, 255 - g.body.frames.length, p.1, p.2]
    else if c.waiters.any fun w => w.1 == p.1 then [1, c.waiters.reverse.findIdx fun w => w.1 == p.1, p.2]
    else [if c.gangIssues g then 3 else 2, p.1, p.2]

/-- The words at I that hold the image of a granule's registers, quarter by quarter, register by register, lane by lane; none
where a word is not translated (R156, R157). -/
def State.imageWords (s : State) (r : CoreRef) (a : Access) (p : Nat × Nat) : List (Option Nat) :=
  match s.gang? r p.1 with
  | none => []
  | some g =>
    let number := ((r.site.getD 0 * 2 + r.die) * 64 + r.pos) * 32 + p.1
    let region := s.cellarBase r g + BitVec.ofNat 64 (number * 0x40000)
    (List.range (g.width / 8)).flatMap fun q => (List.range 8).flatMap fun k => (List.range 8).map fun l =>
      s.imageWord r g a (region + BitVec.ofNat 64 (1024 * p.2 + 256 * q + 32 * k + 4 * l))

/-- The registers of a granule in the order of its image (R157). -/
def Gang.imageCells (g : Gang) (o : Nat) : List LV :=
  (List.range (g.width / 8)).flatMap fun q => (List.range 8).flatMap fun k => (List.range 8).map fun l =>
    laneAt ((g.body.gran o).rows.getD k []) (8 * q + l)

/-- The state with another memory before what I of a core's island holds. -/
def State.withIslandMem (s : State) (r : CoreRef) (m : Mem) : State :=
  { s with islands := s.islands.map fun y => if some y.site = r.site then { y with mem := m } else y }

/-! ### What tile operations leave (R268 to R278) -/

/-- The counter of a row after n groups, at a promotion interval (R268). -/
def counterAfter (p g : Nat) : Nat → Nat
  | 0 => g
  | n + 1 => if p ≤ counterAfter p g n + 1 then 0 else counterAfter p g n + 1

/-- The exact sum of the products of group k of a row and a column, none where it is invalid (R268, R269). -/
def groupExact (a b : List Num) (k : Nat) : Option Num :=
  let product := fun j => Num.mul (a.getD (8 * k + j) .nan) (b.getD (8 * k + j) .nan)
  (List.range 7).foldl (fun s j => s.bind fun u => (product (j + 1)).bind fun v => Num.add .rne u v) (product 0)

/-- T and S of an element with clean sources after n groups: each group's sum rounded to A26, added to S, rounded to A26 again;
at a promotion T takes the sum of T and S, and S is +0. None where a step is invalid (R268, R269). -/
def accumulated (p g : Nat) (sum : Nat → Option Num) (t s : Word) : Nat → Option (Word × Word)
  | 0 => some (t, s)
  | n + 1 =>
    let value := fun (w : Word) => lf32.decode w.toNat
    (accumulated p g sum t s n).bind fun r => (sum n).bind fun v =>
      (Num.add .rne (value r.2) (value (toA26 v))).bind fun u =>
        if p ≤ counterAfter p g n + 1 then
          (Num.add .rne (value r.1) (value (toA26 u))).map fun w => (BitVec.ofNat 32 (lf32.answer ⟨.rne, false⟩ (some w)), 0)
        else some (r.1, toA26 u)

/-- An element's value and partial after an update of clean sources: those given, or where the update is invalid S +0 and T new
poison of kind 0, with poison mode off the default NaN (R84, R269). -/
def Updated (psn : Bool) (r : Option (Word × Word)) (t : LV) (s : Word) : Prop :=
  match r with
  | some q => t = ⟨q.1, false⟩ ∧ s = q.2
  | none => s = 0 ∧ if psn then t.p = true ∧ provKind t.v = 0 else t = ⟨0x7FC00000, false⟩

/-- ROW i OF A TILE AFTER AN OPERATION of its quarter: a row that the operation does not name stays; ACCZ leaves +0 everywhere;
ACCPRO promotes, a poisoned T staying; ACCWR writes T, S or g; an MMQ leaves in each element the merge of its poisoned sources,
the default NaN of an untagged NaN, or R268's value (R268, R269, R276, R278). -/
def TileAct.Row (act : TileAct) (p : Nat) (psn : Bool) (b : Option (Lanes × Lanes)) (i : Nat) (r r' : TileRow) : Prop :=
  let T := fun j => laneAt r.t j
  let S := fun j => r.s.getD j 0
  let T' := fun j => laneAt r'.t j
  let S' := fun j => r'.s.getD j 0
  let value := fun (w : Word) => lf32.decode w.toNat
  match act with
  | .accz => r'.g = 0 ∧ ∀ j < 16, T' j = ⟨0, false⟩ ∧ S' j = 0
  | .accpro => r'.g = 0 ∧ ∀ j < 16, if (T j).p then T' j = T j ∧ S' j = 0 else
      Updated psn ((Num.add .rne (value (T j).v) (value (S j))).map fun w =>
        (BitVec.ofNat 32 (lf32.answer ⟨.rne, false⟩ (some w)), 0)) (T' j) (S' j)
  | .accwr mode rows => match rows.getD i none with
    | none => r' = r
    | some a => match mode with
      | .val | .fp => r'.s = r.s ∧ r'.g = r.g ∧ ∀ j < 16, T' j = laneAt a j
      | .part => r'.t = r.t ∧ r'.g = r.g ∧ ∀ j < 16, S' j =
          if (laneAt a j).v.extractLsb' 23 8 = 0 then (laneAt a j).v &&& 0x80000000 else (laneAt a j).v &&& ~~~0x3F
      | .cnt => r'.t = r.t ∧ r'.s = r.s ∧ r'.g = min ((laneAt a 0).v.toNat % 256) 254
  | .mmq af bf _ _ rows => match rows.getD i none, b with
    | some a, some (ws, slot) =>
      let n := 64 / fmtBits af.elt
      r'.g = counterAfter p r.g n ∧ ∀ j < 16,
        let u := a.src af
        let v := bColumn bf ws slot j
        match merge [u.lv, v.lv, T j] with
        | some w => T' j = ⟨w, true⟩ ∧ S' j = 0
        | none =>
          if (value (T j).v).isNan ∨ (∃ y ∈ u.els, y.isNan = true) ∨ (∃ y ∈ v.els, y.isNan = true) then
            T' j = ⟨0x7FC00000, false⟩ ∧ S' j = 0
          else Updated psn (accumulated p r.g (groupExact u.els v.els) (T j).v (S j) n) (T' j) (S' j)
    | _, _ => r' = r

/-- A tile after an operation: each of its 8 rows. -/
def TileAct.Leaves (act : TileAct) (p : Nat) (psn : Bool) (b : Option (Lanes × Lanes)) (x y : Tile) : Prop :=
  y.length = 8 ∧ ∀ i r r', x[i]? = some r → y[i]? = some r' → act.Row p psn b i r r'

/-- A tile after operations, one after another (R271). -/
def TileAfter : List TileOp → Tile → Tile → Prop
  | [], x, y => y = x
  | o :: os, x, y => ∃ z, o.act.Leaves o.mxp o.charge.psn o.b x z ∧ TileAfter os z y

/-- The word that a local address of a transfer names: of scratch or the Commons, or as I holds it; none in a control window
(R291). -/
def State.xferWord (s : State) (r : CoreRef) (wg : Nat) (ch : Charge) (sp : Space) (pages : List TlbEntry) (a : Dword) :
    Option LV :=
  let atI (n : Nat) : Option LV :=
    match r with
    | .reeve k => (s.reeve? k).map fun v => v.mem.word n
    | _ => (r.site.bind s.island?).map fun y => y.mem.word n
  match sp, ch.ctx with
  | .scratch, _ => ((s.core r).wg? wg).map fun w => w.scratch.word (a.toNat / 4)
  | .commons, some c => (s.ctxAt? (r.site.getD 0) c).map fun k => k.commons.word (a.toNat / 4)
  | .commons, none => none
  | .global, some c => (tlbFind pages c a).bind fun e => atI (e.phys a / 4)
  | .global, none => if inWindow a.toNat then none else atI (a.toNat / 4)

/-- What a core's caches hold is what I holds (R252). -/
def State.calm (s : State) (r : CoreRef) : Prop :=
  (∀ t ∈ (s.core r).l1, t.dirtyWrites = []) ∧ ∀ y, r.site.bind s.island? = some y → y.queue r.die = []

/-- A word as it stands after it has crossed the panel: a poisoned one has a new origin of its kind (R334, R380). -/
def Carried (v w : LV) : Prop := if v.p then w.p = true ∧ provKind w.v = provKind v.v else w = v

/-- The agent waits on its instruction, its registers and PC as they were (R177). -/
def Ex.waits (x : Ex) (t : State) (w : Wait) : Prop :=
  OnlyCore x.ag.core x.s t ∧ (x.flowAfter t).run = .wait w x.i ∧ (x.flowAfter t).pc = x.fl.pc ∧
  (x.flowAfter t).xm = x.fl.xm ∧ (x.after t).act.frames = x.b.frames ∧ (x.after t).act.grans = x.b.grans

/-- A word read as provenance where its poison bit is set (R230). -/
def asRead (v : LV) : LV := if v.p then ⟨forceProv v.v, true⟩ else v

/-- One word's step of a sweep with poison mode off: a swap takes the operand as it stands, every other operation merges the
poisoned ones among the old value and the operand, or applies itself to them (R227, R230, R238, R242, R243). -/
def atomNode (op : AtomOp) (o v : LV) : LV :=
  if op = .xchg then v
  else match merge [asRead o, asRead v] with
    | some w => ⟨w, true⟩
    | none => ⟨atomApply op o.v v.v, false⟩

/-- What a load of an aligned number of bytes at an address makes of the words it reads: the merge of the poisoned ones in
every register, else the bytes, extended to a register (R230). -/
def LoadedAs (sz : MemSize) (a : Nat) (word : Nat → LV) (vs : List LV) : Prop :=
  vs.length = sz.regs ∧
  match merge ((List.range (max 1 (sz.bytes / 4))).map fun k => asRead (word k)) with
  | some w => ∀ v ∈ vs, v = ⟨w, true⟩
  | none => (∀ v ∈ vs, v.p = false) ∧
      (∀ k < sz.bytes, (vs.getD (k / 4) ⟨0, false⟩).v.extractLsb' (8 * (k % 4)) 8 =
        (word ((a % 4 + k) / 4)).v.extractLsb' (8 * ((a % 4 + k) % 4)) 8) ∧
      (sz.bytes < 4 → let v := (vs.getD 0 ⟨0, false⟩).v
        v = if sz.signed then (v.setWidth (8 * sz.bytes)).signExtend 32 else (v.setWidth (8 * sz.bytes)).setWidth 32)

/-- Every memory that is held as listed bytes: the islands', the Commons', argument blocks, the reeves' and scratch
(R205). -/
def State.memories (s : State) : List Mem :=
  (s.islands.flatMap fun x => x.mem :: (x.ctxs.map (fun k => k.commons) ++ x.grids.map fun g => g.args)) ++
    s.reeves.map (fun r => r.mem) ++ s.cores.flatMap fun c => c.wgs.flatMap fun w => [w.scratch, w.args]

/-- Every memory has its canonical form, as every step keeps it (log entry 1). -/
def State.canonical (s : State) : Prop := ∀ m ∈ s.memories, m.wf = true

end Sys2Proof.Machine

namespace Sys2Proof

/-- The lane-local instructions of the INT, BIT, FPA and FPS classes whose result in a lane depends on all of that
lane's sources: all but ISEL, FPACK, MXENC and MXDEC (R94). -/
def Instr.laneLocal (i : Instr) : Bool :=
  match i.core with
  | .iadd .. | .isub .. | .imul .. | .imulh .. | .imad .. | .imin .. | .imax .. | .iabs .. | .idiv .. | .irem ..
  | .icmp .. | .dadd .. | .dsub .. | .lea .. | .dcmp .. | .dot4 .. | .dot2 .. | .isad .. => true
  | .mov .. | .andI .. | .orI .. | .xorI .. | .andn .. | .notI .. | .shl .. | .shr .. | .sha .. | .rot .. | .bfe ..
  | .bfi .. | .popc .. | .clz .. | .ffs .. | .brev .. | .permb .. | .lop3 .. | .dshl .. | .dshr .. | .movd .. => true
  | .fadd .. | .fsub .. | .fmul .. | .ffma .. | .fmin .. | .fmax .. | .fcmp .. | .fdot2 .. | .fscale ..
  | .ffract .. | .frnd .. | .fclass .. => true
  | .frcp .. | .frsq .. | .fsqrt .. | .fdiv .. | .fexp2 .. | .flog2 .. | .fsin .. | .fcos .. | .ftanh .. => true
  | .cvtff .. | .cvtfi .. | .cvtif .. | .funpk .. => true
  | _ => false

end Sys2Proof
end

