-- ==== Sys2Proof/Certificates/Slice0/Obligations.lean ====
section
/-! DEFINITION. The statements for the provers. -/

open Sys2Proof Sys2Proof.Machine

/-! ### The INT and BIT classes -/

/-- Lane-local instructions complete in either poison mode, and poison goes through them: a lane of the lane set with a
poisoned source gets the merge of its poisoned sources in every register of D (R84, R87, R94); with poison mode off every
other lane's result is clean and nothing but the write-back happens. -/
def Obligations.LaneLocalPoison : Prop :=
  ∀ (i : Instr) (s : State) (x : Ex), i.laneLocal = true → Ready i s x →
    ∃ (t : State) (rows : List Lanes), exec i s = .next (x.written t x.inSet rows) ∧
      (x.g.psn = false → t = s) ∧ rows ≠ [] ∧
      ∀ l, l ∈ x.set → l < x.w → ∀ row ∈ rows,
        match merge (x.srcsOf ((upTo (x.n.ops.length - 1)).map (· + 1)) l) with
        | some w => laneAt row l = ⟨w, true⟩
        | none => x.g.psn = false → (laneAt row l).p = false

/-- The elements of the INT class's sums, products, minima, maxima and absolute values, wrapped or clamped (R97, R98). -/
def Obligations.IntegerElements : Prop :=
  ∀ (h : Hdr) (md : IntMod) (d a b c : Opnd) (s : State) (x : Ex),
    let w := md.w.bits
    let u := fun l k => x.int md 1 l k
    let v := fun l k => x.int md 2 l k
    let one : IntMod := if md.w == .w64 then { md with w := .w32 } else md
    (Ready (.iadd h md d a b) s x →
      Elementwise x s (exec (.iadd h md d a b) s) 1 w [1, 2] fun l k => clip md (u l k + v l k)) ∧
    (Ready (.isub h md d a b) s x →
      Elementwise x s (exec (.isub h md d a b) s) 1 w [1, 2] fun l k => clip md (u l k - v l k)) ∧
    (Ready (.imul h md d a b) s x →
      Elementwise x s (exec (.imul h md d a b) s) md.w.regs w [1, 2] fun l k => clip md (u l k * v l k)) ∧
    (Ready (.imulh h md d a b) s x →
      Elementwise x s (exec (.imulh h md d a b) s) md.w.regs w [1, 2] fun l k => clip md ((u l k * v l k).fdiv (2 ^ w))) ∧
    (Ready (.imad h md d a b c) s x →
      Elementwise x s (exec (.imad h md d a b c) s) md.w.regs w [1, 2, 3] fun l k =>
        clip md (x.int one 1 l k * x.int one 2 l k + x.int md 3 l k)) ∧
    (Ready (.imin h md d a b) s x →
      Elementwise x s (exec (.imin h md d a b) s) 1 w [1, 2] fun l k => clip md (if u l k ≤ v l k then u l k else v l k)) ∧
    (Ready (.imax h md d a b) s x →
      Elementwise x s (exec (.imax h md d a b) s) 1 w [1, 2] fun l k => clip md (if u l k ≤ v l k then v l k else u l k)) ∧
    (Ready (.iabs h md d a) s x →
      Elementwise x s (exec (.iabs h md d a) s) 1 w [1] fun l k => clip md (if u l k < 0 then - u l k else u l k)) ∧
    (Ready (.dadd h md d a b) s x →
      Elementwise x s (exec (.dadd h md d a b) s) 2 w [1, 2] fun l k => clip md (u l k + v l k)) ∧
    (Ready (.dsub h md d a b) s x →
      Elementwise x s (exec (.dsub h md d a b) s) 2 w [1, 2] fun l k => clip md (u l k - v l k))

/-- IDIV and IREM where no divisor of a clean lane is 0 or poison mode is off: the quotient truncated toward zero and the remainder it
leaves; a divisor of 0 gives all ones and a (R97 to R99). -/
def Obligations.IntegerDivision : Prop :=
  ∀ (h : Hdr) (md : IntMod) (d a b : Opnd) (s : State) (x : Ex),
    let w := md.w.bits
    let u := fun l k => x.int md 1 l k
    let v := fun l k => x.int md 2 l k
    (x.g.psn = false ∨ x.each [1, 2] (32 * md.w.regs / w) fun l k => v l k ≠ 0) →
    (Ready (.idiv h md d a b) s x →
      Elementwise x s (exec (.idiv h md d a b) s) md.w.regs w [1, 2] fun l k =>
        if v l k = 0 then 2 ^ w - 1 else clip md ((u l k).tdiv (v l k))) ∧
    (Ready (.irem h md d a b) s x →
      Elementwise x s (exec (.irem h md d a b) s) md.w.regs w [1, 2] fun l k =>
        if v l k = 0 then x.elt 1 l w k
        else ((u l k - v l k * (u l k).tdiv (v l k)) % 2 ^ w).toNat)

/-- ICMP and DCMP: all ones, or 1 under .one, where the condition holds, else 0 (R101). ISEL copies the source that C
selects with its tag when C is clean, whatever the other source holds, and is the merge of its poisoned sources when C is
poisoned (R102). ISEL of pairs: both registers of the selected source where it is clean, and where C is poisoned the merge of A, B
and C in both. Where the selected source is poisoned in one register only, or in both with different words, the provenance
of its lowest poisoned register in both is the model's choice: R102 copies the value, R89 gives a poisoned pair one word (log
entry 38). -/
def Obligations.IntegerCompareSelect : Prop :=
  (∀ (h : Hdr) (md : IntMod) (cond : Cond) (one : Bool) (d a b : Opnd) (s : State) (x : Ex),
     let T := fun (w : Nat) (u v : Int) =>
       let holds : Bool := match cond with
         | .eq => decide (u = v) | .ne => decide (u ≠ v) | .lt => decide (u < v) | .le => decide (u < v ∨ u = v)
         | .gt => decide (v < u) | .ge => decide (v < u ∨ u = v)
       if holds then (if one then 1 else 2 ^ w - 1) else 0
     (Ready (.icmp h md cond one d a b) s x →
       Elementwise x s (exec (.icmp h md cond one d a b) s) 1 md.w.bits [1, 2] fun l k =>
         T md.w.bits (x.int md 1 l k) (x.int md 2 l k)) ∧
     (Ready (.dcmp h md cond one d a b) s x →
       Elementwise x s (exec (.dcmp h md cond one d a b) s) 1 32 [1, 2] fun l _ =>
         T 32 (x.int md 1 l 0) (x.int md 2 l 0))) ∧
  (∀ (h : Hdr) (sg sat : Bool) (d a b c : Opnd) (s : State) (x : Ex),
     Ready (.isel h ⟨.w32, sg, sat⟩ d a b c) s x →
     ∃ row : Lanes, exec (.isel h ⟨.w32, sg, sat⟩ d a b c) s = .next (x.written s x.inSet [row]) ∧
       ∀ l ∈ x.set, l < x.w →
         ((x.lv 3 l).p = false → laneAt row l = if (x.lv 3 l).v = 0 then x.lv 2 l else x.lv 1 l) ∧
         ((x.lv 3 l).p = true → some (laneAt row l) = (merge [x.lv 1 l, x.lv 2 l, x.lv 3 l]).map fun w => ⟨w, true⟩)) ∧
  (∀ (h : Hdr) (sg sat : Bool) (d a b c : Opnd) (s : State) (x : Ex),
     Ready (.isel h ⟨.w64, sg, sat⟩ d a b c) s x →
     ∃ lo hi : Lanes, exec (.isel h ⟨.w64, sg, sat⟩ d a b c) s = .next (x.written s x.inSet [lo, hi]) ∧
       ∀ l ∈ x.set, l < x.w →
         ((x.lv 3 l).p = false →
           let j := if (x.lv 3 l).v = 0 then 2 else 1
           laneAt lo l = (if (x.lvk j 0 l).p then x.lvk j 0 l else if (x.lvk j 1 l).p then x.lvk j 1 l else x.lvk j 0 l) ∧
           laneAt hi l = (if (x.lvk j 0 l).p then x.lvk j 0 l else x.lvk j 1 l)) ∧
         ((x.lv 3 l).p = true → ∃ w, merge [x.one 1 l, x.one 2 l, x.lv 3 l] = some w ∧
           laneAt lo l = ⟨w, true⟩ ∧ laneAt hi l = ⟨w, true⟩))

/-- LEA, DOT4, DOT2 and ISAD: a + bx × 2^s modulo 2^64, and the sums of R104 wrapped or clamped to 32 bits (R103, R104). -/
def Obligations.IntegerSums : Prop :=
  ∀ (h : Hdr) (md : IntMod) (sh : BitVec 3) (sb : Bool) (d a b c : Opnd) (s : State) (x : Ex),
    let acc : IntMod := ⟨.w32, md.s, md.sat⟩
    let total := fun (l n : Nat) (f : Int → Int → Int) =>
      ((List.range n).map fun k => f (x.int md 1 l k) (x.int md 2 l k)).sum
    (Ready (.lea h sh sb d a b) s x →
      Elementwise x s (exec (.lea h sh sb d a b) s) 2 64 [1, 2] fun l _ =>
        ((x.pair 1 l) + ((if sb then (x.lv 2 l).v.signExtend 64 else (x.lv 2 l).v.setWidth 64) <<< sh.toNat)).toNat) ∧
    (md.w = .w8x4 → Ready (.dot4 h md d a b c) s x →
      Elementwise x s (exec (.dot4 h md d a b c) s) 1 32 [1, 2, 3] fun l _ =>
        clip acc (x.int acc 3 l 0 + total l 4 (· * ·))) ∧
    (md.w = .w16x2 → Ready (.dot2 h md d a b c) s x →
      Elementwise x s (exec (.dot2 h md d a b c) s) 1 32 [1, 2, 3] fun l _ =>
        clip acc (x.int acc 3 l 0 + total l 2 (· * ·))) ∧
    (Ready (.isad h md d a b c) s x →
      Elementwise x s (exec (.isad h md d a b c) s) 1 32 [1, 2, 3] fun l _ =>
        clip ⟨.w32, false, md.sat⟩ (x.int ⟨.w32, false, false⟩ 3 l 0 + total l (32 / md.w.bits) fun u v => |u - v|))

/-- Moves, logic and counts of one register, bit by bit (R105, R109). SHL, SHR, SHA and ROT at every element width, and the
pair shifts, for every amount (R106, R110). BFE, BFI and PERMB: the field of R107 widened by zeros or by its sign, the field
put in place, the bytes picked (R107, R108). -/
def Obligations.BitOperations : Prop :=
  (∀ (h : Hdr) (t : BitVec 8) (d a b c : Opnd) (s : State) (x : Ex),
     let A := fun l => (x.lv 1 l).v
     let B := fun l => (x.lv 2 l).v
     let C := fun l => (x.lv 3 l).v
     (Ready (.mov h d a) s x → Elementwise x s (exec (.mov h d a) s) 1 32 [1] fun l _ => (A l).toNat) ∧
     (Ready (.movd h d a) s x → Elementwise x s (exec (.movd h d a) s) 2 64 [1] fun l _ => (x.pair 1 l).toNat) ∧
     (Ready (.andI h d a b) s x → Elementwise x s (exec (.andI h d a b) s) 1 32 [1, 2] fun l _ => (A l &&& B l).toNat) ∧
     (Ready (.orI h d a b) s x → Elementwise x s (exec (.orI h d a b) s) 1 32 [1, 2] fun l _ => (A l ||| B l).toNat) ∧
     (Ready (.xorI h d a b) s x → Elementwise x s (exec (.xorI h d a b) s) 1 32 [1, 2] fun l _ => (A l ^^^ B l).toNat) ∧
     (Ready (.andn h d a b) s x → Elementwise x s (exec (.andn h d a b) s) 1 32 [1, 2] fun l _ => (A l &&& ~~~ B l).toNat) ∧
     (Ready (.notI h d a) s x → Elementwise x s (exec (.notI h d a) s) 1 32 [1] fun l _ => (~~~ A l).toNat) ∧
     (Ready (.popc h d a) s x → Elementwise x s (exec (.popc h d a) s) 1 32 [1] fun l _ =>
       (List.range 32).countP fun j => (A l).getLsbD j) ∧
     (Ready (.clz h d a) s x → Elementwise x s (exec (.clz h d a) s) 1 32 [1] fun l _ => (A l).clz.toNat) ∧
     (Ready (.ffs h d a) s x → Elementwise x s (exec (.ffs h d a) s) 1 32 [1] fun l _ =>
       if A l = 0 then 2 ^ 32 - 1 else (A l).ctz.toNat) ∧
     (Ready (.brev h d a) s x → Elementwise x s (exec (.brev h d a) s) 1 32 [1] fun l _ => (A l).reverse.toNat) ∧
     (Ready (.lop3 h t d a b c) s x → Elementwise x s (exec (.lop3 h t d a b c) s) 1 32 [1, 2, 3] fun l _ =>
       (BitVec.ofFnLE fun j : Fin 32 =>
         t.getLsbD (((A l)[j]).toNat + 2 * ((B l)[j]).toNat + 4 * ((C l)[j]).toNat)).toNat)) ∧
  (∀ (h : Hdr) (w : ShW) (sg : Bool) (d a b : Opnd) (s : State) (x : Ex),
     let n := w.bits
     let u := fun l k => BitVec.ofNat n (x.elt 1 l n k)
     let t := fun l k => x.elt 2 l n k
     (Ready (.shl h w d a b) s x →
       Elementwise x s (exec (.shl h w d a b) s) 1 n [1, 2] fun l k => (u l k <<< t l k).toNat) ∧
     (Ready (.shr h w d a b) s x →
       Elementwise x s (exec (.shr h w d a b) s) 1 n [1, 2] fun l k => (u l k >>> t l k).toNat) ∧
     (Ready (.sha h w d a b) s x →
       Elementwise x s (exec (.sha h w d a b) s) 1 n [1, 2] fun l k => ((u l k).sshiftRight (t l k)).toNat) ∧
     (Ready (.rot h w d a b) s x →
       Elementwise x s (exec (.rot h w d a b) s) 1 n [1, 2] fun l k => ((u l k).rotateLeft (t l k)).toNat) ∧
     (Ready (.dshl h d a b) s x →
       Elementwise x s (exec (.dshl h d a b) s) 2 64 [1, 2] fun l _ => (x.pair 1 l <<< (x.lv 2 l).v.toNat).toNat) ∧
     (Ready (.dshr h sg d a b) s x →
       Elementwise x s (exec (.dshr h sg d a b) s) 2 64 [1, 2] fun l _ =>
         (if sg then (x.pair 1 l).sshiftRight (x.lv 2 l).v.toNat else x.pair 1 l >>> (x.lv 2 l).v.toNat).toNat)) ∧
  (∀ (h : Hdr) (sg : Bool) (top : BitVec 4) (sel : BitVec 8) (d a b c : Opnd) (s : State) (x : Ex),
     let A := fun l => (x.lv 1 l).v
     let B := fun l => (x.lv 2 l).v
     let C := fun l => (x.lv 3 l).v
     let off := fun (v : Word) => (v.extractLsb' 0 8).toNat
     let len := fun (v : Word) => min (v.extractLsb' 8 8).toNat 32
     (Ready (.bfe h sg d a b) s x → Elementwise x s (exec (.bfe h sg d a b) s) 1 32 [1, 2] fun l _ =>
       let v : Dword := if sg then ((A l).signExtend 64).sshiftRight (off (B l)) else (A l).setWidth 64 >>> off (B l)
       let field := v.setWidth (len (B l))
       ((if sg then field.signExtend 32 else field.setWidth 32) : Word).toNat) ∧
     (Ready (.bfi h d a b c) s x → Elementwise x s (exec (.bfi h d a b c) s) 1 32 [1, 2, 3] fun l _ =>
       let mask : Word := (BitVec.ofNat 32 (2 ^ len (C l) - 1)) <<< off (C l)
       ((B l &&& ~~~ mask) ||| ((A l <<< off (C l)) &&& mask)).toNat) ∧
     (Ready (.permb h top sel d a b) s x → Elementwise x s (exec (.permb h top sel d a b) s) 1 8 [1, 2] fun l k =>
       let j := (sel.extractLsb' (2 * k) 2).toNat
       (((if top.getLsbD k then B l else A l)).extractLsb' (8 * j) 8).toNat))

/-! ### Rounding and the FPA and FPS classes -/

/-- The five rounding modes on m / 2^k: an integer is itself; otherwise the quotient or the next integer, as R76's table
picks it. Rounding a value that the format represents gives its own code, in every mode; a value between two adjacent ones of
the format, its exponent unbounded, becomes the one that R76's table picks, its sign kept, and overflows where that one exceeds
the largest finite value (R76, R77, R79). An FPA or FPS result that overflows takes the value of R77's table; .sat puts the largest
finite value in place of every infinite one, also of one from an infinite input (R78). The sums and the product that FADD, FMUL,
FFMA and FDOT2 round are exact, a sum that cancels being +0, or -0 in rd, one of zeros of the same sign and a product keeping
IEEE 754's sign (R79); infinities of opposite sign and zero times infinity are invalid, and a NaN goes through (R112). -/
def Obligations.RoundingAndExactness : Prop :=
  (∀ (mode : RMode) (neg : Bool) (m n : Nat), 0 < n →
     let r := roundShift mode neg m n
     let lo := m / 2 ^ n
     (2 ^ n ∣ m → r * 2 ^ n = m) ∧
     (¬ 2 ^ n ∣ m →
       (r = lo ∨ r = lo + 1) ∧
       match mode with
       | .rne => (r = lo → 2 * m ≤ (2 * lo + 1) * 2 ^ n) ∧ (r = lo + 1 → (2 * lo + 1) * 2 ^ n ≤ 2 * m) ∧
           (2 * m = (2 * lo + 1) * 2 ^ n → r % 2 = 0)
       | .rz => r = lo
       | .ru => r = if neg then lo else lo + 1
       | .rd => r = if neg then lo + 1 else lo
       | .ro => r % 2 = 1)) ∧
  (∀ l ∈ [lf32, lf16, lbf16, le4m3, le5m2, le2m1], ∀ (c : Nat) (mode : RMode), c < 2 ^ l.bits →
     match l.decode c with
     | .fin neg m e => l.round mode neg m e = .code c
     | _ => True) ∧
  (∀ l ∈ [lf32, lf16, lbf16, le4m3, le5m2, le2m1], ∀ (mode : RMode) (neg : Bool) (m : Nat) (e : Int), m ≠ 0 →
     let v : Rat := m * (2 : Rat) ^ e
     let nearest := fun (k other : Nat) =>
       |v - l.value k| < |v - l.value other| ∨ |v - l.value k| = |v - l.value other| ∧ k % 2 = 0
     let down := fun (k : Nat) => match mode with
       | .rne => nearest k (k + 1) | .rz => True | .ru => neg = true | .rd => neg = false | .ro => k % 2 = 1
     let up := fun (k : Nat) => match mode with
       | .rne => nearest k (k - 1) | .rz => False | .ru => neg = false | .rd => neg = true | .ro => k % 2 = 1
     ∃ k : Nat, (l.value k = v ∨ (l.value k < v ∧ v < l.value (k + 1) ∧ down k) ∨
         (0 < k ∧ l.value (k - 1) < v ∧ v < l.value k ∧ up k)) ∧
       l.round mode neg m e = if k ≤ l.maxMag then .code (l.signed neg k) else .over neg) ∧
  (∀ l ∈ [lf32, lf16, lbf16], ∀ (mode : RMode) (sat neg : Bool) (m : Nat) (e : Int),
     l.round mode neg 0 e = .code (l.signed neg 0) ∧ l.finish mode sat .nan = l.nanCode ∧
     l.finish mode sat (.inf neg) = l.signed neg (if sat then l.maxMag else l.infMag) ∧
     l.finish mode sat (.fin neg m e) = match l.round mode neg m e with
       | .code c => c
       | .over _ =>
         if sat = false ∧ (mode = .rne ∨ mode = .ru ∧ neg = false ∨ mode = .rd ∧ neg = true) then l.signed neg l.infMag
         else l.signed neg l.maxMag) ∧
  (∀ (mode : RMode) (a b : Bool) (m n : Nat) (e f : Int),
     (∀ t p g, Machine.Num.add mode (.fin a m e) (.fin b n f) = some (.fin t p g) → p = 0 →
       t = if m = 0 ∧ n = 0 ∧ a = b then a else decide (mode = .rd)) ∧
     ∃ p g, Machine.Num.mul (.fin a m e) (.fin b n f) = some (.fin (a != b) p g)) ∧
  (∀ (mode : RMode) (a b : Machine.Num),
     (∀ u v, a.toRat = some u → b.toRat = some v →
       (Machine.Num.add mode a b).bind Machine.Num.toRat = some (u + v) ∧ (Machine.Num.mul a b).bind Machine.Num.toRat = some (u * v) ∧
       ∀ c w, c.toRat = some w → (Machine.Num.add3 mode a b c).bind Machine.Num.toRat = some (u + v + w)) ∧
     (∀ s t, Machine.Num.add mode (.inf s) (.inf t) = if s = t then some (.inf s) else none) ∧
     (∀ s t m e, Machine.Num.mul (.inf s) (.fin t m e) = if m = 0 then none else some (.inf (s != t))) ∧
     Machine.Num.add mode .nan b = some .nan ∧ Machine.Num.add mode a .nan = some .nan ∧
     Machine.Num.mul .nan b = some .nan ∧ Machine.Num.mul a .nan = some .nan)

/-- FADD, FSUB, FMUL and FFMA: in each element the exact value of the sources with their negation modifiers, rounded once
(R111 to R113). FMIN and FMAX drop a NaN for a number and order -0 below +0; FCMP answers all ones or 0, a NaN making .ne
and .unord alone true (R114, R115). -/
def Obligations.FloatArithmetic : Prop :=
  (∀ (h : Hdr) (fm : FpMod) (ty : FTy) (na nb nc : Bool) (d a b c : Opnd) (s : State) (x : Ex),
     let L := ftyLayout ty
     let A := fun l k => if na then (x.fp ty 1 l k).neg else x.fp ty 1 l k
     let B := fun l k => if nb then (x.fp ty 2 l k).neg else x.fp ty 2 l k
     let C := fun l k => if nc then (x.fp ty 3 l k).neg else x.fp ty 3 l k
     let valid := fun (js : List Nat) (V : Nat → Nat → Option Machine.Num) =>
       x.g.psn = false ∨ x.each js (32 / ty.bits) fun l k => V l k ≠ none
     let sum := fun l k => Machine.Num.add fm.mode (A l k) (B l k)
     let dif := fun l k => Machine.Num.add fm.mode (A l k) (B l k).neg
     let prod := fun l k => Machine.Num.mul (A l k) (B l k)
     let fma := fun l k => if (C l k).isNan then some .nan else (prod l k).bind fun p => Machine.Num.add fm.mode p (C l k)
     (Ready (.fadd h fm ty na nb d a b) s x → valid [1, 2] sum →
       Elementwise x s (exec (.fadd h fm ty na nb d a b) s) 1 ty.bits [1, 2] fun l k => L.answer fm (sum l k)) ∧
     (Ready (.fsub h fm ty na nb d a b) s x → valid [1, 2] dif →
       Elementwise x s (exec (.fsub h fm ty na nb d a b) s) 1 ty.bits [1, 2] fun l k => L.answer fm (dif l k)) ∧
     (Ready (.fmul h fm ty na nb d a b) s x → valid [1, 2] prod →
       Elementwise x s (exec (.fmul h fm ty na nb d a b) s) 1 ty.bits [1, 2] fun l k => L.answer fm (prod l k)) ∧
     (Ready (.ffma h fm ty na nb nc d a b c) s x → valid [1, 2, 3] fma →
       Elementwise x s (exec (.ffma h fm ty na nb nc d a b c) s) 1 ty.bits [1, 2, 3] fun l k => L.answer fm (fma l k))) ∧
  (∀ (h : Hdr) (fm : FpMod) (ty : FTy) (cond : FCond) (d a b : Opnd) (s : State) (x : Ex),
     let L := ftyLayout ty
     let A := fun l k => x.fp ty 1 l k
     let B := fun l k => x.fp ty 2 l k
     let below := fun (u v : Machine.Num) => decide (Machine.Num.cmp u v < 0 ∨ Machine.Num.cmp u v = 0 ∧ u.isNeg = true ∧ v.isNeg = false)
     let pick := fun (lo : Bool) (u v : Machine.Num) =>
       if u.isNan then v else if v.isNan then u else if below u v = lo then u else v
     let holds : Machine.Num → Machine.Num → Bool := fun u v =>
       if u.isNan || v.isNan then cond == .ne || cond == .unord
       else match cond with
         | .eq => decide (Machine.Num.cmp u v = 0) | .ne => decide (Machine.Num.cmp u v ≠ 0)
         | .lt => decide (Machine.Num.cmp u v < 0) | .le => decide (Machine.Num.cmp u v ≤ 0)
         | .gt => decide (0 < Machine.Num.cmp u v) | .ge => decide (0 ≤ Machine.Num.cmp u v)
         | .ord => true | .unord => false
     (Ready (.fmin h fm ty d a b) s x →
       Elementwise x s (exec (.fmin h fm ty d a b) s) 1 ty.bits [1, 2] fun l k => L.answer fm (some (pick true (A l k) (B l k)))) ∧
     (Ready (.fmax h fm ty d a b) s x →
       Elementwise x s (exec (.fmax h fm ty d a b) s) 1 ty.bits [1, 2] fun l k => L.answer fm (some (pick false (A l k) (B l k)))) ∧
     (Ready (.fcmp h fm ty cond d a b) s x →
       Elementwise x s (exec (.fcmp h fm ty cond d a b) s) 1 ty.bits [1, 2] fun l k =>
         if holds (A l k) (B l k) then 2 ^ ty.bits - 1 else 0))

/-- FDOT2, FSCALE, FRND, FFRACT and FCLASS: the exact sum of three terms, a × 2^b, the integer the mode picks, a - floor(a)
kept below 1, one bit for the element's class (R113, R116 to R118). FPACK: the registers of A and then of B, each converted,
are the elements of one lane; the lane is the merge over those registers when one is poisoned (R123). -/
def Obligations.FloatParts : Prop :=
  (∀ (h : Hdr) (fm : FpMod) (ty : FTy) (d a b c : Opnd) (s : State) (x : Ex),
     let L := ftyLayout ty
     let A := fun l k => x.fp ty 1 l k
     let sum3 := fun l => (Machine.Num.mul (x.fp ty 1 l 0) (x.fp ty 2 l 0)).bind fun u =>
       (Machine.Num.mul (x.fp ty 1 l 1) (x.fp ty 2 l 1)).bind fun v => Machine.Num.add3 fm.mode u v (lf32.decode (x.num 3 l))
     let class' := fun (u : Nat) =>
       let f := u % 2 ^ L.fb
       let e := u / 2 ^ L.fb % 2 ^ L.eb
       let neg := u / 2 ^ (L.eb + L.fb) % 2 = 1
       if e = 2 ^ L.eb - 1 then (if f ≠ 0 then 8 else if neg then 0 else 7)
       else if e = 0 then (if f = 0 then (if neg then 3 else 4) else if neg then 2 else 5)
       else if neg then 1 else 6
     (Ready (.fdot2 h fm ty d a b c) s x → (x.g.psn = false ∨ x.each [1, 2, 3] 1 fun l _ => sum3 l ≠ none) →
       Elementwise x s (exec (.fdot2 h fm ty d a b c) s) 1 32 [1, 2, 3] fun l _ => lf32.answer fm (sum3 l)) ∧
     (Ready (.fscale h fm ty d a b) s x →
       Elementwise x s (exec (.fscale h fm ty d a b) s) 1 ty.bits [1, 2] fun l k =>
         L.answer fm (some ((A l k).scaleBy (intVal true ty.bits (x.elt 2 l ty.bits k))))) ∧
     (Ready (.frnd h fm ty d a) s x →
       Elementwise x s (exec (.frnd h fm ty d a) s) 1 ty.bits [1] fun l k => L.answer fm (some ((A l k).rint fm.mode))) ∧
     (Ready (.ffract h fm ty d a) s x → (x.g.psn = false ∨ x.each [1] (32 / ty.bits) fun l k => (A l k).fract ≠ none) →
       Elementwise x s (exec (.ffract h fm ty d a) s) 1 ty.bits [1] fun l k =>
         let r := L.answer fm (A l k).fract
         if r = L.bias * 2 ^ L.fb then r - 1 else r) ∧
     (Ready (.fclass h fm ty d a) s x →
       Elementwise x s (exec (.fclass h fm ty d a) s) 1 ty.bits [1] fun l k => 2 ^ class' (x.elt 1 l ty.bits k))) ∧
  (∀ (h : Hdr) (fm : FpMod) (src dst : Fmt) (d a b : Opnd) (s : State) (x : Ex),
     let regs := fun l => x.regs 1 l ++ x.regs 2 l
     let element := fun (r : LV) => convert .f32 dst fm.mode fm.sat r.v.toNat
     Ready (.fpack h fm src dst d a b) s x →
     ∃ (t : State) (row : Lanes), exec (.fpack h fm src dst d a b) s = .next (x.written t x.inSet [row]) ∧
       (x.g.psn = false → t = s) ∧
       ∀ l ∈ x.set, l < x.w →
         match merge (regs l) with
         | some w => laneAt row l = ⟨w, true⟩
         | none => (x.g.psn = false ∨ ∀ r ∈ regs l, ∃ c, element r = .val c) →
             (laneAt row l).p = false ∧
             ∀ k r, (regs l)[k]? = some r → k < 32 / fmtBits dst →
               elementOf [(laneAt row l).v] (fmtBits dst) k = (element r).code % 2 ^ fmtBits dst)

/-- The FPS functions: each element is one value of its operands rounded once, the default NaN where it is invalid (R119, R120).
The special operands of R120's table: divisions by zero give infinities, roots and logarithms of negative numbers and 0/0
are invalid. A finite quotient, root or inverse root stands to every number of at most 26 bits as the exact result does, so
that it rounds as the exact result, in every format. For FEXP2, FLOG2, FSIN, FCOS and FTANH the value that is rounded is the
model's choice but at the special operands, where 2 to an integer, the logarithm of a power of two and the sine and cosine of
quarter turns are exact: R119's exact function value is taken from integer arithmetic of fixed precision (log entry 16). -/
def Obligations.FloatFunctions : Prop :=
  (∀ (h : Hdr) (fm : FpMod) (ty : FTy) (d a b : Opnd) (s : State) (x : Ex),
     let result := fun (i : Instr) (js : List Nat) (V : Nat → Nat → Option Machine.Num) =>
       Ready i s x → (x.g.psn = false ∨ x.each js (32 / ty.bits) fun l k => V l k ≠ none) →
         Elementwise x s (exec i s) 1 ty.bits js fun l k => (ftyLayout ty).answer fm (V l k)
     result (.frcp h fm ty d a) [1] (fun l k => (x.fp ty 1 l k).rcp) ∧
     result (.frsq h fm ty d a) [1] (fun l k => (x.fp ty 1 l k).rsq) ∧
     result (.fsqrt h fm ty d a) [1] (fun l k => (x.fp ty 1 l k).sqrt) ∧
     result (.fdiv h fm ty d a b) [1, 2] (fun l k => (x.fp ty 1 l k).div (x.fp ty 2 l k)) ∧
     result (.fexp2 h fm ty d a) [1] (fun l k => (x.fp ty 1 l k).exp2) ∧
     result (.flog2 h fm ty d a) [1] (fun l k => (x.fp ty 1 l k).log2f) ∧
     result (.fsin h fm ty d a) [1] (fun l k => (x.fp ty 1 l k).turn 0) ∧
     result (.fcos h fm ty d a) [1] (fun l k => (x.fp ty 1 l k).turn 1) ∧
     result (.ftanh h fm ty d a) [1] (fun l k => (x.fp ty 1 l k).tanh)) ∧
  (∀ (t u : Bool) (m : Nat) (e f : Int), m ≠ 0 →
     Machine.Num.rcp (.fin t 0 e) = some (.inf t) ∧ (Machine.Num.rcp (.inf t)).map Machine.Num.isZero = some true ∧
     Machine.Num.div (.fin t 0 e) (.fin u 0 f) = none ∧ Machine.Num.div (.inf t) (.inf u) = none ∧
     Machine.Num.div (.fin t m e) (.fin u 0 f) = some (.inf (t != u)) ∧
     Machine.Num.sqrt (.fin true m e) = none ∧ Machine.Num.sqrt (.inf true) = none ∧ Machine.Num.sqrt (.fin t 0 e) = some (.fin t 0 0) ∧
     Machine.Num.rsq (.fin true m e) = none ∧ Machine.Num.rsq (.fin t 0 e) = some (.inf t) ∧ Machine.Num.rsq (.inf false) = some (.fin false 0 0) ∧
     Machine.Num.log2f (.fin true m e) = none ∧ Machine.Num.log2f (.fin t 0 e) = some (.inf true) ∧ Machine.Num.log2f (.inf true) = none ∧
     Machine.Num.exp2 (.inf true) = some (.fin false 0 0) ∧ Machine.Num.exp2 (.inf false) = some (.inf false) ∧
     Machine.Num.turn 0 (.inf t) = none ∧ Machine.Num.turn 1 (.inf t) = none ∧ Machine.Num.turn 0 (.fin t 0 e) = some (.fin t 0 0) ∧
     Machine.Num.tanh (.inf t) = some (.fin t 1 0) ∧ Machine.Num.tanh (.fin t 0 e) = some (.fin t 0 0)) ∧
  (∀ (a b : Machine.Num) (u w : Rat) (p : Nat) (j : Int), a.toRat = some u → b.toRat = some w → p < 2 ^ 26 →
     let t : Rat := p * (2 : Rat) ^ j
     (w ≠ 0 → ∃ v y, Machine.Num.div a b = some v ∧ v.toRat = some y ∧ (0 < y ↔ 0 < u / w) ∧ (t < |y| ↔ t < |u / w|) ∧
       (t = |y| ↔ t = |u / w|)) ∧
     (u ≠ 0 → ∃ v y, Machine.Num.rcp a = some v ∧ v.toRat = some y ∧ (0 < y ↔ 0 < u) ∧ (t < |y| ↔ t * |u| < 1) ∧
       (t = |y| ↔ t * |u| = 1)) ∧
     (0 < u → ∃ v y, Machine.Num.sqrt a = some v ∧ v.toRat = some y ∧ 0 < y ∧ (t < y ↔ t ^ 2 < u) ∧ (t = y ↔ t ^ 2 = u)) ∧
     (0 < u → ∃ v y, Machine.Num.rsq a = some v ∧ v.toRat = some y ∧ 0 < y ∧ (t < y ↔ t ^ 2 * u < 1) ∧
       (t = y ↔ t ^ 2 * u = 1))) ∧
  (∀ (t : Bool) (n k : Nat) (e : Int),
     (n < 512 → Machine.Num.exp2 (.fin t n 0) = some (.fin false 1 (if t then -n else n))) ∧
     Machine.Num.log2f (.fin false (2 ^ k) e) = some (.fin (decide (k + e < 0)) (k + e).natAbs 0) ∧
     Machine.Num.turn 0 (.fin t n (-2)) = some (if n % 2 = 0 then .fin t 0 0 else .fin ((n % 4 == 3) != t) 1 0) ∧
     Machine.Num.turn 1 (.fin t n (-2)) = some (if n % 2 = 0 then .fin (n % 4 == 2) 1 0 else .fin false 0 0))

/-- CVTFF, CVTFI, CVTIF and FUNPK: each element converted by R81 to R83, a signed integer result extended by its sign to the
registers of D (R121, R122, R124). A finite value converted to an integer type is rounded by the mode, then, out of the
type's range, it is the nearer end of the range with .sat or takes new poison of kind 2 (R81, R83). R81's table: what a
conversion makes of a NaN and of an infinity in every destination format (log entry 103); new poison is of kind 2. The element converted is
the value of the source's code (R63, R65, R68); a finite value rounds to a floating-point format, an overflow going to R77's value, to the
greatest with .sat, or to poison in E4M3; to E8M0 it rounds to the power of two that R82 picks. -/
def Obligations.Conversions : Prop :=
  (∀ (h : Hdr) (fm : FpMod) (src dst : Fmt) (d a : Opnd) (s : State) (x : Ex),
     let one := fun l => convert src dst fm.mode fm.sat (x.num 1 l % 2 ^ fmtBits src)
     let wide := fun (c : Nat) =>
       if fmtSigned dst && fmtBits dst < 32 then ((BitVec.ofNat (fmtBits dst) c).signExtend 32).toNat else c
     let n := 32 * dst.regs
     let valid := x.g.psn = false ∨ x.each [1] 1 fun l _ => ∃ c, one l = .val c
     (Ready (.cvtff h fm src dst d a) s x → valid →
       Elementwise x s (exec (.cvtff h fm src dst d a) s) dst.regs n [1] fun l _ => wide (one l).code % 2 ^ n) ∧
     (Ready (.cvtfi h fm src dst d a) s x → valid →
       Elementwise x s (exec (.cvtfi h fm src dst d a) s) dst.regs n [1] fun l _ => wide (one l).code % 2 ^ n) ∧
     (Ready (.cvtif h fm src dst d a) s x → valid →
       Elementwise x s (exec (.cvtif h fm src dst d a) s) dst.regs n [1] fun l _ => wide (one l).code % 2 ^ n) ∧
     (Ready (.funpk h fm src dst d a) s x →
       (x.g.psn = false ∨ x.each [1] (32 / fmtBits src) fun l k =>
         ∃ c, convert src .f32 .rne false (x.elt 1 l (fmtBits src) k) = .val c) →
       Elementwise x s (exec (.funpk h fm src dst d a) s) (32 / fmtBits src) 32 [1] fun l k =>
         (convert src .f32 .rne false (x.elt 1 l (fmtBits src) k)).code % 2 ^ 32)) ∧
  (∀ f ∈ [Fmt.s8, .n8, .s16, .n16, .s32, .n32, .s64, .n64],
     ∀ (mode : RMode) (sat neg : Bool) (m : Nat) (e : Int),
       let lo : Int := if fmtSigned f then -2 ^ (fmtBits f - 1) else 0
       let hi : Int := if fmtSigned f then 2 ^ (fmtBits f - 1) - 1 else 2 ^ fmtBits f - 1
       let r : Int := (if neg then -1 else 1) * (roundShift mode neg m (-e) : Nat)
       let code := fun (v : Int) => (v % 2 ^ fmtBits f).toNat
       toInteger f mode sat (.fin neg m e) =
         if lo ≤ r ∧ r ≤ hi then .val (code r)
         else if sat then .val (code (max lo (min hi r)))
         else .fresh 2 (code (max lo (min hi r)))) ∧
  (∀ (mode : RMode) (sat neg : Bool) (m : Nat) (e : Int),
     (∀ f ∈ [Fmt.f32, .f16, .bf16, .e5m2],
       toFloat f mode sat .nan = .val (fmtLayout f).nanCode ∧
       toFloat f mode sat (.inf neg) =
         .val ((fmtLayout f).signed neg (if sat then (fmtLayout f).maxMag else (fmtLayout f).infMag))) ∧
     toFloat .e4m3 mode sat .nan = .val 0x7F ∧
     toFloat .e4m3 mode sat (.inf neg) =
       (if sat then .val (if neg then 0xFE else 0x7E) else .fresh 2 (if neg then 0xFF else 0x7F)) ∧
     toFloat .e2m1 mode sat .nan = .fresh 2 0 ∧ toFloat .e2m1 mode sat (.inf neg) = .val (if neg then 0xF else 0x7) ∧
     toFloat .e8m0 mode sat .nan = .val 0xFF ∧
     toFloat .e8m0 mode sat (.inf neg) = (if sat && !neg then .val 0xFE else .fresh 2 0xFF) ∧
     toFloat .e8m0 mode sat (.fin true m e) = .fresh 2 0xFF ∧ toFloat .e8m0 mode sat (.fin neg 0 e) = .fresh 2 0xFF ∧
     (∀ f ∈ [Fmt.s8, .n8, .s16, .n16, .s32, .n32, .s64, .n64],
       let ends := if neg then (if fmtSigned f then -2 ^ (fmtBits f - 1) else 0)
         else if fmtSigned f then 2 ^ (fmtBits f - 1) - 1 else 2 ^ fmtBits f - 1
       let code := ((ends : Int) % 2 ^ fmtBits f).toNat
       toInteger f mode sat .nan = .fresh 2 0 ∧
       toInteger f mode sat (.inf neg) = if sat then .val code else .fresh 2 code) ∧
     (∀ f ∈ [Fmt.f32, .f16, .bf16, .e4m3, .e5m2, .e2m1],
       let L := fmtLayout f
       let beyond := (mode = .rne ∨ mode = .ru ∧ neg = false ∨ mode = .rd ∧ neg = true)
       toFloat f mode sat (.fin neg m e) = match L.round mode neg m e with
         | .code c => .val c
         | .over n => if sat ∨ f = .e2m1 then .val (L.signed n L.maxMag)
           else if f = .e4m3 then .fresh 2 (L.signed n 0x7F)
           else .val (if n = neg ∧ beyond then L.signed n L.infMag else L.signed n L.maxMag)) ∧
     (∀ c : Int,
       let x : Rat := m * (2 : Rat) ^ e
       let at' := (2 : Rat) ^ (c - 127)
       at' ≤ x → x < 2 * at' →
       let up : Int := match mode with
         | .rz | .rd => c
         | .ru => c + 1
         | .rne => if 2 * x < 3 * at' then c else if 3 * at' < 2 * x then c + 1 else c + c % 2
         | .ro => if c % 2 = 0 then c + 1 else c
       let r := if x = at' then c else up
       toFloat .e8m0 mode sat (.fin false m e) =
         if r < 0 then .val 0 else if 254 < r then (if sat then .val 0xFE else .fresh 2 0xFF) else .val r.toNat)) ∧
  (∀ (src dst : Fmt) (mode : RMode) (sat : Bool) (c : Nat),
     convert src dst mode sat c = (if src.isFloat then
         (if dst.isFloat then toFloat dst mode sat (fmtDecode src c) else toInteger dst mode sat (fmtDecode src c))
       else toFloat dst mode sat (.ofInt (intVal (fmtSigned src) (fmtBits src) c))) ∧
     (∀ v : Int, (Machine.Num.ofInt v).toRat = some (v : Rat)) ∧
     (fmtDecode .e8m0 c).toRat = (if c % 256 = 255 then none else some ((2 : Rat) ^ ((c % 256 : Nat) - 127 : Int))) ∧
     ∀ f ∈ [Fmt.f32, .f16, .bf16, .e4m3, .e5m2, .e2m1],
       let L := fmtLayout f
       let E := c / 2 ^ L.fb % 2 ^ L.eb
       let F := c % 2 ^ L.fb
       let value : Rat := (if c / 2 ^ (L.eb + L.fb) % 2 = 1 then -1 else 1) *
         (if E = 0 then (F / 2 ^ L.fb) * (2 : Rat) ^ (1 - L.bias : Int) else (1 + F / 2 ^ L.fb) * (2 : Rat) ^ (E - L.bias : Int))
       (fmtDecode f c).toRat = if E = 2 ^ L.eb - 1 ∧ (L.top = .ieee ∨ L.top = .e4m3 ∧ F = 2 ^ L.fb - 1) then none else some value)

/-- MXENC of a joined gang: a clean finite block gets the scale X of R126 and its elements rounded over 2^X and clamped; a
block with a poisoned source gets scale 255 with the marker of R90 in its first lane, and so does a clean one with an infinity
or a NaN, of kind 2 and a new origin, or with poison mode off of KCODE 0 and ORIGIN 0x1FFF; both registers are untagged (R125 to
R127). MXDEC of a joined gang: in each lane the four elements times 2^(e - 127), or the block's provenance word in all four
registers (R92, R128). -/
def Obligations.MxFormats : Prop :=
  (∀ (h : Hdr) (fm : FpMod) (src dst : Fmt) (d a : Opnd) (s : State) (x : Ex),
     let block := fun (q : Nat) => (List.range 8).flatMap fun j => x.regs 1 (8 * q + j)
     let values := fun (q : Nat) => (block q).map fun r => lf32.decode r.v.toNat
     let scale := fun (q : Nat) => ((values q).filter fun v => !v.isZero).foldl (fun m v => max m (v.floorLog - emaxOf dst)) (-127)
     Ready (.mxenc h fm src dst d a) s x → x.b.parted = false → x.w % 8 = 0 →
     ∃ (t : State) (lo hi : Lanes), exec (.mxenc h fm src dst d a) s = .next (x.written t x.inSet [lo, hi]) ∧
       (x.g.psn = false → t = s) ∧
       ∀ l ∈ x.set, l < x.w →
         (laneAt lo l).p = false ∧ (laneAt hi l).p = false ∧
         match merge (block (l / 8)) with
         | some w => (laneAt hi l).v = 0xFF ∧
             (laneAt lo l).v = BitVec.ofNat 32 (if l % 8 = 0 then kcodeOf (provKind w) * 2 ^ 13 + provOrigin w else 0)
         | none =>
             ((∀ v ∈ values (l / 8), v.toRat ≠ none) →
               (laneAt hi l).v = BitVec.ofNat 32 (scale (l / 8) + 127).toNat ∧
               (laneAt lo l).v = BitVec.ofNat 32 (joinEls (fmtBits dst) ((List.range 4).map fun k =>
                 mxElement dst fm.mode (scale (l / 8)) ((values (l / 8)).getD (4 * (l % 8) + k) .nan)))) ∧
             ((∃ v ∈ values (l / 8), v.toRat = none) →
               (laneAt hi l).v = 0xFF ∧ (l % 8 ≠ 0 → (laneAt lo l).v = 0) ∧
               (l % 8 = 0 → if x.g.psn then ∃ o < 8192, (laneAt lo l).v = BitVec.ofNat 32 (8192 + o)
                 else (laneAt lo l).v = 0x1FFF))) ∧
  (∀ (h : Hdr) (fm : FpMod) (src dst : Fmt) (d a b : Opnd) (s : State) (x : Ex),
     let words := fun (l : Nat) => (List.range 8).map fun j => x.lv 1 (8 * (l / 8) + j)
     let e := fun (l : Nat) => (x.lv 2 l).v.toNat % 256
     Ready (.mxdec h fm src dst d a b) s x → x.b.parted = false →
     exec (.mxdec h fm src dst d a b) s = .next (x.written s x.inSet (x.rows 4 fun l =>
       match blockPoison (words l) (x.lv 2 l) (e l) with
       | some w => [⟨w, true⟩, ⟨w, true⟩, ⟨w, true⟩, ⟨w, true⟩]
       | none => (List.range 4).map fun k =>
           ⟨BitVec.ofNat 32 (lf32.answer fm
             (some ((fmtDecode src (x.elt 1 l (fmtBits src) k)).scaleBy ((e l : Int) - 127)))), false⟩)))

/-! ### Short forms of the INT, BIT and FP classes -/

/-- The short-A forms of the INT and BIT classes (R42). The short-B forms of the INT and BIT classes: the immediate,
extended as R43's table says, stands in place of an operand. The short forms of the FP classes: round to nearest, no
saturation (R42). -/
def Obligations.ShortInstructions : Prop :=
  (∀ (d a b : Opnd) (s : State) (x : Ex),
     let A := fun l => (x.lv 1 l).v
     let B := fun l => (x.lv 2 l).v
     let one := fun (i : Instr) (f : Word → Word) =>
       Ready i s x → Elementwise x s (exec i s) 1 32 [1] fun l _ => (f (A l)).toNat
     let two := fun (i : Instr) (f : Word → Word → Word) =>
       Ready i s x → Elementwise x s (exec i s) 1 32 [1, 2] fun l _ => (f (A l) (B l)).toNat
     let mask := fun (t : Bool) => if t then BitVec.allOnes 32 else 0
     two (.iaddS32ShortA d a b) (· + ·) ∧ two (.isubS32ShortA d a b) (· - ·) ∧ two (.imulS32ShortA d a b) (· * ·) ∧
     two (.iminS32ShortA d a b) (fun u v => if u.toInt ≤ v.toInt then u else v) ∧
     two (.imaxS32ShortA d a b) (fun u v => if u.toInt ≤ v.toInt then v else u) ∧
     two (.iminN32ShortA d a b) (fun u v => if u.toNat ≤ v.toNat then u else v) ∧
     two (.imaxN32ShortA d a b) (fun u v => if u.toNat ≤ v.toNat then v else u) ∧
     two (.andShortA d a b) (· &&& ·) ∧ two (.orShortA d a b) (· ||| ·) ∧ two (.xorShortA d a b) (· ^^^ ·) ∧
     two (.andnShortA d a b) (fun u v => u &&& ~~~ v) ∧
     two (.shlShortA d a b) (fun u v => u <<< v.toNat) ∧ two (.shrShortA d a b) (fun u v => u >>> v.toNat) ∧
     two (.shaShortA d a b) (fun u v => u.sshiftRight v.toNat) ∧
     two (.icmpEqShortA d a b) (fun u v => mask (decide (u = v))) ∧
     two (.icmpLtS32ShortA d a b) (fun u v => mask (decide (u.toInt < v.toInt))) ∧
     two (.icmpLtN32ShortA d a b) (fun u v => mask (decide (u.toNat < v.toNat))) ∧
     one (.movShortA d a) id ∧ one (.popcShortA d a) (fun u => BitVec.ofNat 32 ((List.range 32).countP fun j => u.getLsbD j)) ∧
     one (.clzShortA d a) BitVec.clz ∧
     (Ready (.daddShortA d a b) s x →
       Elementwise x s (exec (.daddShortA d a b) s) 2 64 [1, 2] fun l _ => (x.pair 1 l + x.pair 2 l).toNat) ∧
     (Ready (.leaShortA d a b) s x →
       Elementwise x s (exec (.leaShortA d a b) s) 2 64 [1, 2] fun l _ => (x.pair 1 l + (B l).setWidth 64).toNat)) ∧
  (∀ (d a : Opnd) (imm : BitVec 8) (n : BitVec 5) (s : State) (x : Ex),
     let A := fun l => (x.lv 1 l).v
     let with' := fun (i : Instr) (f : Word → Word) =>
       Ready i s x → Elementwise x s (exec i s) 1 32 [1, 2] fun l _ => (f (A l)).toNat
     let mask := fun (t : Bool) => if t then BitVec.allOnes 32 else 0
     with' (.iaddShortB d a imm) (fun u => u + imm.signExtend 32) ∧
     with' (.isubShortB d a imm) (fun u => u - imm.signExtend 32) ∧
     with' (.andShortB d a imm) (fun u => u &&& imm.setWidth 32) ∧
     with' (.orShortB d a imm) (fun u => u ||| imm.setWidth 32) ∧
     with' (.xorShortB d a imm) (fun u => u ^^^ imm.setWidth 32) ∧
     with' (.shlShortB d a n) (fun u => u <<< n.toNat) ∧ with' (.shrShortB d a n) (fun u => u >>> n.toNat) ∧
     with' (.shaShortB d a n) (fun u => u.sshiftRight n.toNat) ∧
     with' (.icmpEqShortB d a imm) (fun u => mask (decide (u = imm.signExtend 32))) ∧
     with' (.icmpLtS32ShortB d a imm) (fun u => mask (decide (u.toInt < imm.toInt))) ∧
     (Ready (.movShortB d imm) s x →
       Elementwise x s (exec (.movShortB d imm) s) 1 32 [1] fun _ _ => ((imm.signExtend 32 : Word)).toNat)) ∧
  (∀ (d a b : Opnd) (s : State) (x : Ex),
     let rne : FpMod := ⟨.rne, false⟩
     let result := fun (i : Instr) (ty : FTy) (js : List Nat) (V : Nat → Nat → Option Machine.Num) =>
       Ready i s x → (x.g.psn = false ∨ x.each js (32 / ty.bits) fun l k => V l k ≠ none) →
         Elementwise x s (exec i s) 1 ty.bits js fun l k => (ftyLayout ty).answer rne (V l k)
     let sum := fun (ty : FTy) (l k : Nat) => Machine.Num.add .rne (x.fp ty 1 l k) (x.fp ty 2 l k)
     let prod := fun (ty : FTy) (l k : Nat) => Machine.Num.mul (x.fp ty 1 l k) (x.fp ty 2 l k)
     let test := fun (i : Instr) (c : Int → Bool) =>
       Ready i s x → Elementwise x s (exec i s) 1 32 [1, 2] fun l _ =>
         let u := x.fp .f32 1 l 0
         let v := x.fp .f32 2 l 0
         if !u.isNan && !v.isNan && c (Machine.Num.cmp u v) then 2 ^ 32 - 1 else 0
     result (.faddF32ShortA d a b) .f32 [1, 2] (sum .f32) ∧
     result (.fsubF32ShortA d a b) .f32 [1, 2] (fun l k => Machine.Num.add .rne (x.fp .f32 1 l k) (x.fp .f32 2 l k).neg) ∧
     result (.fmulF32ShortA d a b) .f32 [1, 2] (prod .f32) ∧
     result (.fminF32ShortA d a b) .f32 [1, 2] (fun l k => some (Machine.Num.pick true (x.fp .f32 1 l k) (x.fp .f32 2 l k))) ∧
     result (.fmaxF32ShortA d a b) .f32 [1, 2] (fun l k => some (Machine.Num.pick false (x.fp .f32 1 l k) (x.fp .f32 2 l k))) ∧
     result (.faddF16x2ShortA d a b) .f16x2 [1, 2] (sum .f16x2) ∧ result (.fmulF16x2ShortA d a b) .f16x2 [1, 2] (prod .f16x2) ∧
     result (.faddBf16x2ShortA d a b) .bf16x2 [1, 2] (sum .bf16x2) ∧
     result (.fmulBf16x2ShortA d a b) .bf16x2 [1, 2] (prod .bf16x2) ∧
     result (.frcpShortA d a) .f32 [1] (fun l k => (x.fp .f32 1 l k).rcp) ∧
     result (.frsqShortA d a) .f32 [1] (fun l k => (x.fp .f32 1 l k).rsq) ∧
     test (.fcmpLtShortA d a b) (fun c => decide (c < 0)) ∧ test (.fcmpEqShortA d a b) (fun c => decide (c = 0)))

/-! ### The XLN class -/

/-- SHFL and its short forms: lane l takes A, with its tag, of the lane at R183's position of its sub-group when that lane
is in the lane set, else its own (R180, R183, R42, R43). BCAST: every participant takes A of the lane that B of the
sub-group's lowest participant names, or its own (R184). -/
def Obligations.ShuffleAndBroadcast : Prop :=
  (∀ (h : Hdr) (sw : SubW) (mode : ShflMode) (edge : Bool) (d a b : Opnd) (imm : BitVec 5) (s : State) (x : Ex),
     let shuffled := fun (i : Instr) (lanes : Nat) (mode : ShflMode) (edge : Bool) (t : Nat → Nat) =>
       Ready i s x → (∀ l ∈ x.set, (x.lv 2 l).p = false) →
       ∃ row : Lanes, exec i s = .next (x.written s x.inSet [row]) ∧
         ∀ l ∈ x.set, l < x.w →
           let n := min lanes (if x.b.parted then 4 else x.w)
           let j := l % n
           let u : Int := match mode with
             | .idx => t l | .up => (j : Int) - t l | .down => (j : Int) + t l | .xorm => (j ^^^ t l : Nat)
           let u' : Int := if u < 0 ∨ n ≤ u then (if edge then (if mode = .up then 0 else (n : Int) - 1) else u % n) else u
           let k := l - j + u'.toNat
           laneAt row l = x.lv 1 (if k ∈ x.set then k else l)
     shuffled (.shfl h sw mode edge d a b) sw.lanes mode edge (fun l => (x.lv 2 l).v.toNat) ∧
     shuffled (.shflIdxShortA d a b) 32 .idx false (fun l => (x.lv 2 l).v.toNat) ∧
     shuffled (.shflXorShortA d a b) 32 .xorm false (fun l => (x.lv 2 l).v.toNat) ∧
     shuffled (.shflXorShortB d a imm) 32 .xorm false (fun _ => imm.toNat) ∧
     shuffled (.shflUpShortB d a imm) 32 .up false (fun _ => imm.toNat) ∧
     shuffled (.shflDownShortB d a imm) 32 .down false (fun _ => imm.toNat)) ∧
  (∀ (h : Hdr) (sw : SubW) (d a b : Opnd) (s : State) (x : Ex),
     let spread := fun (i : Instr) (lanes : Nat) =>
       let n := min lanes (if x.b.parted then 4 else x.w)
       let group := fun l => x.set.filter fun k => k - k % n == l - l % n
       Ready i s x → (∀ l ∈ x.set, (group l).head? = some l → (x.lv 2 l).p = false) →
       ∃ row : Lanes, exec i s = .next (x.written s x.inSet [row]) ∧
         ∀ l ∈ x.set, l < x.w → ∀ low, (group l).head? = some low →
           let k := l - l % n + (x.lv 2 low).v.toNat % n
           laneAt row l = x.lv 1 (if k ∈ x.set then k else l)
     spread (.bcast h sw d a b) sw.lanes ∧ spread (.bcastShortA d a b) 32)

/-- VOTE, MATCH and ELECT: over the participants of each lane's sub-group the results of R185 to R187, or the merge of their
A values when one is poisoned (R182); ELECT reads none. -/
def Obligations.Votes : Prop :=
  ∀ (h : Hdr) (sw : SubW) (kind : VoteKind) (cnt f : Bool) (d a : Opnd) (s : State) (x : Ex),
    let group := fun (lanes l : Nat) =>
      let n := min lanes (if x.b.parted then 4 else x.w)
      x.set.filter fun k => k - k % n == l - l % n
    let A := fun k => (x.lv 1 k).v
    let polled := fun (i : Instr) (lanes : Nat) (P : List Nat → Nat → Word → Prop) =>
      Ready i s x → ∃ row : Lanes, exec i s = .next (x.written s x.inSet [row]) ∧
        ∀ l ∈ x.set, l < x.w →
          match merge ((group lanes l).map (x.lv 1)) with
          | some w => laneAt row l = ⟨w, true⟩
          | none => (laneAt row l).p = false ∧ P (group lanes l) l (laneAt row l).v
    let ones := fun (t : Prop) (v : Word) => (t → v = BitVec.allOnes 32) ∧ (¬ t → v = 0)
    let voted : VoteKind → Bool → List Nat → Nat → Word → Prop := fun kind cnt ps _ v =>
      match kind, cnt with
      | .any, false => ones (∃ k ∈ ps, A k ≠ 0) v
      | .all, false => ones (∀ k ∈ ps, A k ≠ 0) v
      | .same, false => ones (∀ j ∈ ps, ∀ k ∈ ps, A j = A k) v
      | .ballot, false => ∀ k < 32, v.getLsbD k = true ↔ k ∈ ps ∧ A k ≠ 0
      | .same, true => v = BitVec.ofNat 32 (ps.countP fun k => some (A k) == ps.head?.map A)
      | _, true => v = BitVec.ofNat 32 (ps.countP fun k => A k != 0)
    let same := fun (u v : Word) =>
      if f then
        let p := lf32.decode u.toNat
        let q := lf32.decode v.toNat
        p.isNan = true ∧ q.isNan = true ∨ p.isNan = false ∧ q.isNan = false ∧ Machine.Num.cmp p q = 0
      else u = v
    polled (.vote h sw kind cnt d a) sw.lanes (voted kind cnt) ∧
    polled (.voteBallotShortA d a) 32 (voted .ballot false) ∧
    polled (.matchI h sw f d a) sw.lanes (fun ps l v => ∀ k < 32, v.getLsbD k = true ↔ k ∈ ps ∧ same (A l) (A k)) ∧
    (Ready (.elect h sw d) s x → ∃ row : Lanes, exec (.elect h sw d) s = .next (x.written s x.inSet [row]) ∧
      ∀ l ∈ x.set, l < x.w → (laneAt row l).p = false ∧ ones ((group sw.lanes l).head? = some l) (laneAt row l).v)

/-- REDG and SCAN on clean values with poison mode off: the fixed tree of R188 over the sub-group, for SCAN over the
positions up to the lane's own, or below it under .excl, where no participant gives the identity (R188, R189). REDG and SCAN
complete in either poison mode, and a poisoned participant in reach poisons the result (R182, R188). -/
def Obligations.Reductions : Prop :=
  (∀ (h : Hdr) (sw : SubW) (op : RedOp) (excl : Bool) (d a : Opnd) (s : State) (x : Ex),
     let n := min sw.lanes (if x.b.parted then 4 else x.w)
     let node : Word → Word → Word := fun u v =>
       let p := lf32.decode u.toNat
       let q := lf32.decode v.toNat
       let rne : FpMod := ⟨.rne, false⟩
       match op with
       | .addi => u + v
       | .mins => if u.toInt ≤ v.toInt then u else v
       | .maxs => if v.toInt ≤ u.toInt then u else v
       | .minn => if u.toNat ≤ v.toNat then u else v
       | .maxn => if v.toNat ≤ u.toNat then u else v
       | .andb => u &&& v | .orb => u ||| v | .xorb => u ^^^ v
       | .addf => BitVec.ofNat 32 (lf32.answer rne (Machine.Num.add .rne p q))
       | .minf => BitVec.ofNat 32 (lf32.answer rne (some (Machine.Num.pick true p q)))
       | .maxf => BitVec.ofNat 32 (lf32.answer rne (some (Machine.Num.pick false p q)))
     (x.w = 8 ∨ x.w = 16 ∨ x.w = 32) → x.g.psn = false → (∀ l ∈ x.set, (x.lv 1 l).p = false) →
     (Ready (.redg h sw op d a) s x →
       ∃ row : Lanes, exec (.redg h sw op d a) s = .next (x.written s x.inSet [row]) ∧
         ∀ l ∈ x.set, l < x.w →
           some (laneAt row l) = (halves node n.log2 (x.leavesOf (l - l % n) n n)).map fun v => ⟨v, false⟩) ∧
     (Ready (.scan h sw op excl d a) s x →
       ∃ row : Lanes, exec (.scan h sw op excl d a) s = .next (x.written s x.inSet [row]) ∧
         ∀ l ∈ x.set, l < x.w →
           laneAt row l =
             ⟨(halves node n.log2 (x.leavesOf (l - l % n) n (l % n + if excl then 0 else 1))).getD op.identity, false⟩)) ∧
  (∀ (h : Hdr) (sw : SubW) (op : RedOp) (excl : Bool) (d a : Opnd) (s : State) (x : Ex),
     let n := min sw.lanes (if x.b.parted then 4 else x.w)
     (x.w = 8 ∨ x.w = 16 ∨ x.w = 32) →
     (Ready (.redg h sw op d a) s x →
       ∃ (t : State) (row : Lanes), exec (.redg h sw op d a) s = .next (x.written t x.inSet [row]) ∧
         (x.g.psn = false → t = s) ∧
         ∀ l ∈ x.set, l < x.w → ∀ k ∈ x.set, k - k % n = l - l % n → (x.lv 1 k).p = true → (laneAt row l).p = true) ∧
     (Ready (.scan h sw op excl d a) s x →
       ∃ (t : State) (row : Lanes), exec (.scan h sw op excl d a) s = .next (x.written t x.inSet [row]) ∧
         (x.g.psn = false → t = s) ∧
         ∀ l ∈ x.set, l < x.w → ∀ k ∈ x.set, k - k % n = l - l % n → (if excl then k < l else k ≤ l) →
           (x.lv 1 k).p = true → (laneAt row l).p = true))

/-! ### Completion and the CTL class -/

/-- What completing an instruction without a result changes: its flow goes on ready at the new PC, its queue sources lose
their oldest entry, the window empties after an instruction that resets it (RET even of a dormant gang, NWAIT only with a
lane), a commit point closes the region, whatever its lane set (log entry 111) but in a dormant gang only a RET, the pending single step is set where R353 asks; everything else stays, the
registers too where no queue is a source (R23, R130, R139, R144, R147, R337, R388). -/
def Obligations.CompletionFrame : Prop :=
  ∀ (i : Instr) (s : State) (x : Ex) (pc : Dword), Ready i s x →
    let t := x.ended s pc
    let g := x.after t
    let popped := x.pops.foldl (fun b q => b.pop q.1 q.2) x.b
    let isNwait : Bool := match i with | .nwait .. => true | _ => false
    let isRet : Bool := match i with | .ret _ => true | _ => false
    (g.act.flow x.fi).pc = pc ∧ (g.act.flow x.fi).run = .ready ∧
    (g.act.flow x.fi).xm = x.fl.xm ∧ (g.act.flow x.fi).stack = x.fl.stack ∧ (g.act.flow x.fi).mon = x.fl.mon ∧
    (g.act.flow x.fi).win = (if i.resets ∧ (x.fl.dormant = false ∨ isRet = true) ∧ (isNwait = true → x.set ≠ []) then resetWin x.fl.win
      else x.fl.win) ∧
    (∀ k, k ≠ x.fi → g.act.flow k = x.b.flow k) ∧
    g.act.frames = popped.frames ∧ g.act.grans = popped.grans ∧ g.act.parted = x.b.parted ∧
    (x.pops = [] → g.act.frames = x.b.frames ∧ g.act.grans = x.b.grans) ∧
    g.region = (if i.commits ∧ (x.fl.dormant = false ∨ isRet = true) then none else x.g.region) ∧
    g.pend = (if x.g.sstep ∧ x.g.pl = .u then (x.g.addPending .singleStep x.fl.pc).pend else x.g.pend) ∧
    (g.pl, g.ppl, g.cause, g.epc, g.tval, g.psn, g.twin) =
      (x.g.pl, x.g.ppl, x.g.cause, x.g.epc, x.g.tval, x.g.psn, x.g.twin) ∧
    (∀ slot, slot ≠ x.ag.slot → t.gang? x.ag.core slot = s.gang? x.ag.core slot) ∧
    (t.core x.ag.core).wgs = (s.core x.ag.core).wgs ∧ (t.core x.ag.core).l1 = (s.core x.ag.core).l1 ∧
    OnlyCore x.ag.core s t

/-- IF, ELSE and ENDIF over the mask stack: the lanes whose condition holds go on, the others wait in the pushed mask; with
no lane left the PC is the target; an agent whose live mask becomes 0 ends (R129, R132 to R134). LOOP, ENDL, BREAK and CONT: the loop's entry mask S below its continue set
C; ENDL brings the lanes of C back and repeats, or leaves with S; BREAK and CONT take lanes out of xm and out of the n inner
entries (R132 to R134). JMP: always, or when its condition holds in every lane of xm; it goes on after the JMP when the
condition holds in none (R135). -/
def Obligations.MaskedControl : Prop :=
  (∀ (h : Hdr) (inv : Bool) (a : Opnd) (off : BitVec 16) (s : State) (x : Ex) (c : Word),
     let target : Dword := x.fl.pc + 4 * off.signExtend 64
     let floor := if x.b.parted then x.b.pmsd else x.b.frame.msb
     let goto := fun (m : Word) => if m = 0 then target else x.next
     let top := x.fl.stack.headD 0
     (Ready (.ifI h inv a off) s x → x.fl.stack.length < 32 →
       (∀ l, l < x.w → x.fl.xm.getLsbD l = true → (x.lv 0 l).p = false) →
       (∀ l < 32, c.getLsbD l = true ↔ x.fl.xm.getLsbD l = true ∧ l < x.w ∧ ((x.lv 0 l).v ≠ 0 ↔ inv = false)) →
       exec (.ifI h inv a off) s =
         .next (x.flown s (goto c) fun f => { f with xm := c, stack := x.fl.xm :: f.stack })) ∧
     (Ready (.elseI h off) s x → 1 ≤ x.fl.stack.length → floor < x.fl.stack.length → x.fl.stack.length ≤ 32 →
       exec (.elseI h off) s =
         .next (x.flown s (goto (top &&& ~~~ x.fl.xm)) fun f => { f with xm := top &&& ~~~ x.fl.xm })) ∧
     (Ready (.endif h) s x → 1 ≤ x.fl.stack.length → floor < x.fl.stack.length → x.fl.stack.length ≤ 32 →
       exec (.endif h) s = .next (x.flown s x.next fun f => { f with xm := top, stack := f.stack.drop 1 }))) ∧
  (∀ (h : Hdr) (inv : Bool) (n : BitVec 5) (a : Opnd) (off : BitVec 16) (s : State) (x : Ex) (c : Word),
     let target : Dword := x.fl.pc + 4 * off.signExtend 64
     let floor := if x.b.parted then x.b.pmsd else x.b.frame.msb
     let left := x.fl.xm &&& ~~~ c
     let goto := if left = 0 then target else x.next
     let back := x.fl.xm ||| x.fl.stack.headD 0
     let chosen := (∀ l, l < x.w → x.fl.xm.getLsbD l = true → (x.lv 0 l).p = false) ∧
       (∀ l < 32, c.getLsbD l = true ↔ x.fl.xm.getLsbD l = true ∧ l < x.w ∧ ((x.lv 0 l).v ≠ 0 ↔ inv = false))
     let msd := x.fl.stack.length
     (Ready (.loop h off) s x → x.fl.xm = 0 → exec (.loop h off) s = .next (x.flown s target id)) ∧
     (Ready (.loop h off) s x → x.fl.xm ≠ 0 → msd ≤ 30 →
       exec (.loop h off) s = .next (x.flown s x.next fun f => { f with stack := 0 :: x.fl.xm :: f.stack })) ∧
     (Ready (.endl h off) s x → back ≠ 0 → 1 ≤ msd → floor < msd → msd ≤ 32 →
       exec (.endl h off) s = .next (x.flown s target fun f => { f with xm := back, stack := f.stack.set 0 0 })) ∧
     (Ready (.endl h off) s x → back = 0 → 2 ≤ msd → floor + 2 ≤ msd → msd ≤ 32 →
       exec (.endl h off) s =
         .next (x.flown s x.next fun f => { f with xm := x.fl.stack.getD 1 0, stack := f.stack.drop 2 })) ∧
     (Ready (.breakI h inv n a off) s x → chosen → floor + n.toNat + 2 ≤ msd → msd ≤ 32 →
       exec (.breakI h inv n a off) s = .next (x.flown s goto fun f =>
         { f with xm := left, stack := f.stack.mapIdx fun k e => if k < n.toNat then e &&& ~~~ c else e })) ∧
     (Ready (.cont h inv n a off) s x → chosen → floor + n.toNat + 2 ≤ msd → msd ≤ 32 →
       exec (.cont h inv n a off) s = .next (x.flown s goto fun f =>
         { f with xm := left, stack := f.stack.mapIdx fun k e =>
             if k < n.toNat then e &&& ~~~ c else if k = n.toNat then e ||| c else e }))) ∧
  (∀ (h : Hdr) (kind : JmpKind) (a : Opnd) (off : BitVec 16) (s : State) (x : Ex),
     let target : Dword := x.fl.pc + 4 * off.signExtend 64
     Ready (.jmp h kind a off) s x → x.fl.xm = x.fl.live → x.fl.xm ≠ 0 → (∀ l, x.fl.xm.getLsbD l = true → l < x.w) →
     (kind = .always → exec (.jmp h kind a off) s = .next (x.moved s target id)) ∧
     (kind ≠ .always → (∀ l, x.fl.xm.getLsbD l = true → (x.lv 0 l).p = false) →
       ((∀ l, x.fl.xm.getLsbD l = true → ((x.lv 0 l).v ≠ 0 ↔ kind = .nz)) →
         exec (.jmp h kind a off) s = .next (x.moved s target id)) ∧
       ((∀ l, x.fl.xm.getLsbD l = true → ((x.lv 0 l).v ≠ 0 ↔ kind = .z)) →
         exec (.jmp h kind a off) s = .next (x.moved s x.next id))))

/-- CALL and CALLI of an aligned argument base that meets no queue, where the granules are free: a new frame whose first
granules are the caller's from the base on and whose others are zero; the return address is the next instruction (R137,
R138). RET and UNWIND take frames away: RET the current one, going to its return address with an empty window, dormant or not; UNWIND those above the newest
frame marked with the id, going to the mark's handler with the mask stack as it stood at the MARK. Registers of the frames
that stay keep their values unless a discarded frame had made a queue over them (R139, R141). MARK records the id, the mask
stack depth and the handler's address in the current frame; MARK.clr clears the mark (R141). -/
def Obligations.CallAndReturn : Prop :=
  (∀ (h : Hdr) (n : BitVec 5) (d a : Opnd) (off : BitVec 16) (s : State) (x : Ex) (base : Option (Fin 30)),
     let ngr := x.b.frame.ngr
     let share := match base with | some k => min n.toNat (ngr - k.val) | none => 0
     let need := n.toNat - share
     let record : Frame :=
       { rpc := x.next, hpc := 0, ord := x.b.grans.length, mid := 0, mv := false, mmsd := 0, msb := x.fl.stack.length,
         abase := match base with | some k => k.val | none => 31,
         ngr := n.toNat, qd0 := none, qd1 := none }
     let called := fun (target : Dword) => ((s.modGang x.ag.core x.ag.slot fun g =>
       let g1 := (g.finish x target).modAct fun b =>
         { b with frames := record :: b.frames, grans := b.grans ++ List.replicate need (zeroGranule x.w) }
       g1.freeLatches).modCore x.ag.core fun c =>
         { c with waiters := c.waiters.filter fun p => p.1 != x.ag.slot })
     let fits := x.b.parted = false ∧
       d = (match base with | some k => .v ⟨8 * k.val, by omega⟩ | none => .z) ∧
       x.b.frames.length < 255 ∧
       (0 < share → ∀ k, base = some k → x.b.frame.meetsQueue (8 * k.val) (8 * (k.val + share)) = false) ∧
       x.g.held + need ≤ x.g.framemax ∧
       (need = 0 ∨ x.core.fits x.g need = true ∧ x.core.handReqs = [] ∧ x.core.waiters = [])
     (Ready (.call h n d off) s x → fits → x.fl.pc.toNat % 4 = 0 →
       exec (.call h n d off) s = .next (called (x.fl.pc + 4 * off.signExtend 64))) ∧
     (Ready (.calli h n d a) s x → fits → ∀ target : Dword, target.toNat % 4 = 0 →
       (∃ l < x.w, x.fl.xm.getLsbD l = true) →
       (∀ l < 32, x.fl.xm.getLsbD l = true → l < x.w ∧ x.pair 1 l = target ∧ (x.lvk 1 0 l).p = false ∧ (x.lvk 1 1 l).p = false) →
       exec (.calli h n d a) s = .next (called target))) ∧
  (∀ (h : Hdr) (id : BitVec 8) (s : State) (x : Ex),
     let plain := fun (n : Nat) => ∀ f ∈ x.b.frames.take n, f.qd0 = none ∧ f.qd1 = none
     let left := fun (t : State) (n : Nat) (pc : Dword) =>
       (x.after t).act.frames = x.b.frames.drop n ∧ (x.flowAfter t).pc = pc ∧ (x.flowAfter t).xm = x.fl.xm ∧
       (x.after t).latches = [] ∧ OnlyCore x.ag.core s t ∧
       (plain n → t.freeCtr = s.freeCtr ∧ ∀ o, (∀ f ∈ x.b.frames.take n, o < f.ord) → (x.after t).act.grans[o]? = x.b.grans[o]?)
     (Ready (.ret h) s x → x.b.parted = false → x.fl.stack.length = x.b.frame.msb → 2 ≤ x.b.frames.length →
       ∃ t, exec (.ret h) s = .next t ∧ left t 1 x.b.frame.rpc ∧ (x.flowAfter t).stack = x.fl.stack ∧
         (x.flowAfter t).win = resetWin x.fl.win) ∧
     (Ready (.unwind h id) s x → x.b.parted = false → x.fl.xm = x.fl.live →
       ∀ k fr, x.b.frames[k]? = some fr → fr.mv = true → fr.mid = id →
         (∀ j, j < k → ∀ f, x.b.frames[j]? = some f → f.mv = true → f.mid ≠ id) → fr.mmsd ≤ x.fl.stack.length →
         ∃ t, exec (.unwind h id) s = .next t ∧ left t k fr.hpc ∧
           (x.flowAfter t).stack = x.fl.stack.drop (x.fl.stack.length - fr.mmsd))) ∧
  (∀ (h : Hdr) (clr : Bool) (id : BitVec 8) (off : BitVec 16) (s : State) (x : Ex),
     Ready (.mark h clr id off) s x → x.b.parted = false →
     ∃ t, exec (.mark h clr id off) s = .next t ∧ OnlyCore x.ag.core s t ∧
       (x.after t).act.frames.drop 1 = x.b.frames.drop 1 ∧ (x.after t).act.grans = x.b.grans ∧
       (x.flowAfter t).pc = x.next ∧
       ((x.after t).act.frame.mv = !clr ∨ x.b.frames = []) ∧
       (clr = false → x.b.frames ≠ [] → (x.after t).act.frame.mid = id ∧
         (x.after t).act.frame.mmsd = x.fl.stack.length ∧
         (x.after t).act.frame.hpc = x.fl.pc + 4 * off.signExtend 64))

/-- PART splits a joined gang into slices of four lanes, each with its part of xm and of every mask stack entry, an empty
window and the next PC; a slice with no live lane has ended; every earlier access comes before (R169, R173). REGANG in a
joined gang only empties the window, and so it does in the handler of a parted gang, which is the model's choice (log entry 107);
the last live slice to arrive joins the gang: xm and the mask stack are the union of
the live slices', the window is empty, the PC follows the REGANG at which the lowest live slice waited (R172, R173). YIELD and NOP only go on; RGN opens a region at the next instruction with the gang's mask state and queues; EXIT
takes its lanes out of xm and of every mask stack entry, and ends a joined gang when no lane is left (R142, R143). -/
def Obligations.GangControl : Prop :=
  (∀ (h : Hdr) (s : State) (x : Ex), Ready (.part h) s x → x.b.parted = false → (x.g.hand = none ∨ x.g.body.parted = false) →
       (∀ e ∈ x.core.tops, e.gang = x.g.uid → e.unread = false) →
     ∃ t, exec (.part h) s = .next t ∧ OnlyCore x.ag.core (s.orderAll x.ag.core) t ∧ (x.after t).latches = [] ∧
       (x.after t).act.parted = true ∧ (x.after t).act.pmsd = x.fl.stack.length ∧ (x.after t).region = none ∧
       (x.after t).act.frames = x.b.frames ∧ (x.after t).act.grans = x.b.grans ∧
       (x.after t).act.flows.length = x.w / 4 ∧
       ∀ k < x.w / 4, ∀ f, (x.after t).act.flows[k]? = some f →
         let lanes : Word := 15 <<< (4 * k)
         f.pc = x.next ∧ f.xm = x.fl.xm &&& lanes ∧ f.stack = x.fl.stack.map (· &&& lanes) ∧
         f.win = emptyWin x.w ∧ f.mon = none ∧
         f.run = if (x.fl.stack.map (· &&& lanes)).foldl (· ||| ·) (x.fl.xm &&& lanes) = 0 then .ended else .ready) ∧
  (∀ (h : Hdr) (id : BitVec 8) (s : State) (x : Ex), Ready (.regang h id) s x →
     (x.b.parted = false → exec (.regang h id) s = .next (x.ended s x.next)) ∧
     (x.b.parted = true → x.fl.stack.length = x.b.pmsd → x.fl.live ≠ 0 →
       (∀ k, k ≠ x.fi → ∀ f, x.b.flows[k]? = some f →
         f.live ≠ 0 ∧ (∃ j, f.run = .wait (.regang id) j) ∨ f.live = 0 ∧ f.run = .ended) →
       ∃ t f, exec (.regang h id) s = .next t ∧ (x.after t).act.parted = false ∧
         OnlyCore x.ag.core ((s.modFlow x.ag fun f =>
           { f with run := .wait (.regang id) (.regang h id), readyFor := 0, aged := false }).orderAll x.ag.core) t ∧
         (x.after t).act.flows = [f] ∧ f.run = .ready ∧ f.win = emptyWin x.w ∧
         (∀ k f0, x.b.flows[k]? = some f0 → f0.live ≠ 0 → (∀ j < k, ∀ f', x.b.flows[j]? = some f' → f'.live = 0) →
           (k = x.fi → f.pc = x.next) ∧ (k ≠ x.fi → ∀ j, f0.run = .wait (.regang id) j → f.pc = f0.pc + BitVec.ofNat 64 j.len)) ∧
         f.xm = (x.b.flows.map fun f => f.xm).foldl (· ||| ·) 0 ∧
         f.stack = (List.range x.b.pmsd).map fun e => (x.b.flows.map fun f => f.stack.getD e 0).foldl (· ||| ·) 0)) ∧
  (∀ (h : Hdr) (s : State) (x : Ex),
     (Ready (.yield h) s x → exec (.yield h) s = .next (x.ended s x.next)) ∧
     (Ready (.nop h) s x → exec (.nop h) s = .next (x.ended s x.next)) ∧
     (Ready (.rgn h) s x → x.b.parted = false →
       ∃ t r, exec (.rgn h) s = .next t ∧ OnlyCore x.ag.core s t ∧ (x.after t).region = some r ∧
         (x.after t).regionPc = x.next ∧ (x.after t).act.frames = x.b.frames ∧ (x.after t).act.grans = x.b.grans ∧
         r.entry = x.next ∧ r.depth = x.b.frames.length ∧ r.xm = x.fl.xm ∧ r.stack = x.fl.stack ∧
         r.qd0 = x.b.frame.qd0 ∧ r.qd1 = x.b.frame.qd1 ∧ r.replays = 0) ∧
     (Ready (.exit h) s x → x.b.parted = false → x.b.flows.length = 1 → x.g.pl ≠ .s →
       let rest := x.fl.stack.map fun e => e &&& ~~~ x.fl.xm
       (rest.foldl (· ||| ·) 0 ≠ (0 : Word) →
         ∃ t, exec (.exit h) s = .next t ∧ OnlyCore x.ag.core s t ∧ (x.flowAfter t).xm = 0 ∧
           (x.flowAfter t).stack = rest ∧ (x.flowAfter t).pc = x.next ∧ (x.flowAfter t).run = .ready ∧
           (x.after t).act.frames = x.b.frames ∧ (x.after t).act.grans = x.b.grans) ∧
       (rest.foldl (· ||| ·) 0 = (0 : Word) → (∀ e ∈ x.core.tops, e.gang = x.g.uid → e.unread = false) →
         exec (.exit h) s = .next ((x.moved s x.next fun f =>
           { f with xm := 0, stack := f.stack.map fun e => e &&& ~~~ x.fl.xm }).endGang x.ag.core x.ag.slot false))) ∧
     (Ready (.exit h) s x → x.g.pl = .s →
       ∃ m, exec (.exit h) s = .next ((s.endGang x.ag.core x.ag.slot true).report x.g.ctx m)))

/-! ### Write-back and the STA class -/

/-- Write-back of one result row: in the lanes of the set the destination register, or the queue it names, takes the row;
every other register, lane and queue stays as the pops of the queue sources leave it; the window takes the row as its
newest slot; NW and z write no register (R26, R144, R147). -/
def Obligations.WriteBack : Prop :=
  ∀ (i : Instr) (s : State) (x : Ex) (row : Lanes),
    let p := x.pops.foldl (fun b q => b.pop q.1 q.2) x.b
    Ready i s x → p.Sound x.w → row.length = x.w →
    x.n.ops.headD (.z, .src 1) = (x.n.dest, .dst 1) → i.resets = false →
    let t := x.written s x.inSet [row]
    let b := (x.after t).act
    let newest := fun l => if x.inSet l then laneAt row l else ⟨0, false⟩
    OnlyCore x.ag.core s t ∧ (x.flowAfter t).pc = x.next ∧ (x.flowAfter t).xm = x.fl.xm ∧ (x.flowAfter t).stack = x.fl.stack ∧
    (∀ l < x.w, laneAt ((x.flowAfter t).win.getD 0 ⟨false, []⟩).lanes l = newest l) ∧
    (x.flowAfter t).win.drop 1 = x.fl.win.take 7 ∧
    (x.n.h.nw = true ∨ x.n.dest = .z → b.frames = p.frames ∧ b.grans = p.grans) ∧
    (x.n.h.nw = false → ∀ r, x.n.dest = .v r →
      (p.frame.role r.val = .plain → b.frames = p.frames ∧
        ∀ q < 8 * p.frame.ngr, ∀ l < x.w, laneAt (b.row q) l =
          if q = r.val ∧ x.inSet l = true then laneAt row l else laneAt (p.row q) l) ∧
      (∀ second j d, p.frame.role r.val = .name second j → p.frame.qdef second = some d → d.occOf j < d.depth →
        j < d.occ.length → d.base + d.count * d.depth ≤ 8 * p.frame.ngr →
        b.frames.drop 1 = p.frames.drop 1 ∧
        b.frame = p.frame.setQdef second (some { d with occ := d.occ.set j (d.occOf j + 1) }) ∧
        ∀ q < 8 * p.frame.ngr, ∀ l < x.w, laneAt (b.row q) l =
          if q = d.entryReg j (d.occOf j) then
            (if x.inSet l then laneAt row l
             else if d.occOf j = 0 then ⟨0, false⟩ else laneAt (p.row (d.entryReg j (d.occOf j - 1))) l)
          else laneAt (p.row q) l))

/-- Reading a queue takes its oldest entry away: every later entry moves down one place, the place freed holds 0, no other
register changes (R147). QDEF, QCLR, QOCC, QRD and QWR where R146 to R149 let them act: the definition made and its
registers cleared, the definition removed, the occupancy, an entry read, an entry written in the lane set. QOCC, QRD and QWR act
on the queue as the instruction's own pops leave it, which is the model's reading (log entry 21); so is the place that a QDEF
takes where only the second record is defined, its choice (log entry 115). -/
def Obligations.Queues : Prop :=
  (∀ (b : Body) (w : Nat) (second : Bool) (j : Nat) (d : QDef), b.Sound w → b.frame.qdef second = some d →
     j < d.count → j < d.occ.length → 0 < d.occOf j → d.occOf j ≤ d.depth → d.base + d.count * d.depth ≤ 8 * b.frame.ngr →
     let c := b.pop second j
     c.frames.drop 1 = b.frames.drop 1 ∧ c.flows = b.flows ∧ c.parted = b.parted ∧
     c.frame = b.frame.setQdef second (some { d with occ := d.occ.set j (d.occOf j - 1) }) ∧
     (∀ e, e + 1 < d.occOf j → c.row (d.entryReg j e) = b.row (d.entryReg j (e + 1))) ∧
     c.row (d.entryReg j (d.occOf j - 1)) = List.replicate w ⟨0, false⟩ ∧
     ∀ q < 8 * b.frame.ngr, (∀ e < d.occOf j, q ≠ d.entryReg j e) → c.row q = b.row q) ∧
  (∀ (h : Hdr) (dm1 km1 e : BitVec 3) (r : Fin 240) (d a : Opnd) (s : State) (x : Ex),
     let f := x.b.frame
     let depth := dm1.toNat + 1
     let count := km1.toNat + 1
     let size := count * depth
     let changed := fun (lo n : Nat) (f : Frame → Frame) => s.modGang x.ag.core x.ag.slot fun g =>
       (g.finish x x.next).modAct fun b => (b.zeroRows x.w lo n).modFrame f
     (Ready (.qdef h dm1 km1 (.v r)) s x → x.b.parted = false → (f.qd0 = none ∨ f.qd1 = none) →
       f.meetsQueue r.val (r.val + size) = false → r.val + size ≤ 8 * f.ngr →
       exec (.qdef h dm1 km1 (.v r)) s = .next (changed r.val size fun f =>
         f.setQdef f.qd0.isSome (some ⟨r.val, depth, count, List.replicate count 0⟩))) ∧
     (∀ second q, Ready (.qclr h (.v r)) s x → x.b.parted = false → f.qdef second = some q → q.base = r.val →
       (second = true → ∀ q0, f.qd0 = some q0 → q0.base ≠ r.val) →
       exec (.qclr h (.v r)) s = .next (changed r.val (q.count * q.depth) fun f => f.setQdef second none)) ∧
     (∀ second j q, queueOf x.popped a 1 = some (second, j) → x.popped.frame.qdef second = some q →
       (Ready (.qocc h d a) s x → exec (.qocc h d a) s =
         .next (x.written s x.inSet [List.replicate x.w ⟨BitVec.ofNat 32 (q.occOf j), false⟩])) ∧
       (Ready (.qrd h e d a) s x → e.toNat < q.occOf j → exec (.qrd h e d a) s =
         .next (x.written s x.inSet [x.popped.row (q.entryReg j e.toNat)])) ∧
       (Ready (.qwr h e d a) s x → e.toNat < q.occOf j → exec (.qwr h e d a) s =
         .next (s.modGang x.ag.core x.ag.slot fun g => (g.finish x x.next).modAct fun b =>
           b.setRow (q.entryReg j e.toNat) ((b.row (q.entryReg j e.toNat)).mapIdx fun l y =>
             if x.inSet l then x.lv 0 l else y)))))

/-- WINRD and WINWR, MSKRD and MSKWR act on the agent's window and mask stack, in a handler on those set aside; MSKWR
outside a handler where a lane stays live (R145, R150, R151, R360). In a handler it completes with no lane left too, which is
the model's choice (log entry 22). FRMQ gives doubleword dw of the record of the frame that
A counts from the bottom, FRMRD the register B of that frame where it is in the register pool; with no lane both
do nothing but push their zeros on the window (R26, R136, R148, R152, R153), no queue that D names among it, which is the model's
choice (log entry 113); outside a handler they see the frame stack as the instruction's own pops leave it, the model's reading (log
entry 21). WINWR of a slot with no lane marks it full (R150). -/
def Obligations.WindowMaskFrame : Prop :=
  (∀ (h : Hdr) (k : Fin 9) (tgt : Bool) (op : MskOp) (e : BitVec 5) (d : Opnd) (s : State) (x : Ex),
     let same := fun (i j : Nat) => x.g.hand = none ∨ x.g.body.parted = false ∨ i / 4 = j / 4
     let place := fun (t : State) (l : Nat) =>
       if x.g.hand = none then x.flowAfter t else (x.after t).body.flow (x.g.body.fi (l / 4))
     let full := fun (win : List Slot) => maskBy fun n => (win.getD n ⟨false, []⟩).full
     let there := x.g.hand = none ∨ ∀ l ∈ x.set, x.g.body.fi (l / 4) < x.g.body.flows.length
     (Ready (.winrd h k d) s x → ∃ row : Lanes,
       exec (.winrd h k d) s = .next (s.modGang x.ag.core x.ag.slot fun g => (g.finish x x.next).writeD h.nw d x.inSet [row]) ∧
       ∀ l < x.w, laneAt row l =
         let z := (x.target' l).win.getD (k.val - 1) ⟨false, []⟩
         if k.val = 0 then ⟨full (x.target' l).win, false⟩ else if z.full then laneAt z.lanes l else ⟨0, false⟩) ∧
     (Ready (.winwr h k d) s x → there → ∃ t, exec (.winwr h k d) s = .next t ∧ OnlyCore x.ag.core s t ∧
       (x.flowAfter t).pc = x.next ∧
       ∀ l ∈ x.set, ∀ n z, (x.target' l).win[n]? = some z → (place t l).win[n]? = some (
         if k.val = 0 then
           { z with full := ((x.set.find? fun i => decide (same i l)).map fun i => (x.lv 0 i).v.getLsbD n).getD false }
         else if n + 1 = k.val then
           ⟨true, z.lanes.mapIdx fun i y => if x.inSet i && decide (same l i) then x.lv 0 i else y⟩
         else z)) ∧
     (Ready (.winwr h k d) s x → x.set = [] → 0 < k.val → (x.g.hand = none ∨ x.g.body.parted = false ∧ x.g.body.flows.length = 1) →
       ∃ t, exec (.winwr h k d) s = .next t ∧ OnlyCore x.ag.core s t ∧ (x.flowAfter t).pc = x.next ∧
         ∀ n z, (x.target' 0).win[n]? = some z → (place t 0).win[n]? = some (if n + 1 = k.val then { z with full := true } else z)) ∧
     (Ready (.mskrd h tgt e d) s x → ∀ l, x.set.head? = some l → (tgt = true ∨ e.toNat < (x.target' l).msd) →
       exec (.mskrd h tgt e d) s = .next (x.written s x.inSet [List.replicate x.w
         ⟨if tgt then (x.target' l).xm else (x.target' l).stack.getD ((x.target' l).msd - 1 - e.toNat) 0, false⟩])) ∧
     (Ready (.mskwr h op e d) s x → x.set = [] → exec (.mskwr h op e d) s = .next (x.ended s x.next)) ∧
     (Ready (.mskwr h op e d) s x → there → ∀ l, x.set.head? = some l →
       let f := x.target' l
       let v := (x.lv 0 l).v
       let lanes : Word := if x.g.body.parted then 15 <<< (4 * (if x.g.hand.isSome then l / 4 else x.fi))
         else BitVec.ofNat 32 (2 ^ x.w - 1)
       let xm := if op = .target then v &&& lanes else f.xm
       let stack := match op with
         | .write => f.stack.set (f.msd - 1 - e.toNat) v
         | .push => v :: f.stack
         | .pop => f.stack.drop (f.msd - e.toNat)
         | .target => f.stack
       (match op with
         | .write => x.targetFloor ≤ e.toNat ∧ e.toNat < f.msd
         | .pop => x.targetFloor ≤ e.toNat ∧ e.toNat ≤ f.msd
         | .push => f.msd < 32
         | .target => True) →
       (x.g.hand ≠ none ∨ stack.foldl (· ||| ·) xm ≠ 0) →
       ∃ t, exec (.mskwr h op e d) s = .next t ∧ OnlyCore x.ag.core s t ∧ (place t l).xm = xm ∧ (place t l).stack = stack ∧
         (x.flowAfter t).pc = x.next)) ∧
  (∀ (h : Hdr) (dw : Fin 5) (d a b : Opnd) (s : State) (x : Ex),
     let seen : Body := if x.g.hand = none then x.popped else x.g.body
     let frames := fun (k : Nat) => seen.frames.drop (seen.frames.length - 1 - k)
     let zeros := fun (o : Res) (n : Nat) => ∃ t, o = .next t ∧ OnlyCore x.ag.core s t ∧ (x.flowAfter t).pc = x.next ∧
       (x.after t).act.frames = x.popped.frames ∧ (x.after t).act.grans = x.popped.grans ∧
       (x.flowAfter t).win.drop n = x.fl.win.take (8 - n) ∧
       ∀ k < n, ∃ z, (x.flowAfter t).win[k]? = some z ∧ z.full = true ∧ ∀ l < x.w, laneAt z.lanes l = ⟨0, false⟩
     (Ready (.frmq h dw d a) s x → x.set = [] → zeros (exec (.frmq h dw d a) s) 2) ∧
     (Ready (.frmrd h d a b) s x → x.set = [] → zeros (exec (.frmrd h d a b) s) 1) ∧
     ∀ l f rest, x.set.head? = some l → (x.lv 1 l).v.toNat < seen.frames.length → frames (x.lv 1 l).v.toNat = f :: rest →
       (Ready (.frmq h dw d a) s x → 0 < f.ngr → exec (.frmq h dw d a) s =
         .next (x.written s x.inSet (pairRows x.w (match dw.val with
           | 0 => f.rpc
           | 1 => f.hpc
           | _ => seen.record (f :: rest) dw.val)))) ∧
       (Ready (.frmrd h d a b) s x → (x.lv 2 l).v.toNat < 8 * f.ngr →
         (seen.gran (granOrd (f :: rest) ((x.lv 2 l).v.toNat / 8))).resident = true →
         exec (.frmrd h d a b) s = .next (x.written s x.inSet [seen.rowIn (f :: rest) (x.lv 2 l).v.toNat])))

/-! ### The MEM and ATM classes -/

/-- LDL, LDC and LDK with their short forms: in each lane the bytes at its address, extended to a register; a poisoned word
read gives its provenance in every register (R42, R43, R205, R228 to R230). An uncorrectable error in the word of scratch that a lane reads
becomes poison of kind 3, in the register and in the word, where every later reader finds it (R231). -/
def Obligations.LocalLoads : Prop :=
  (∀ (h : Hdr) (sz : MemSize) (d a b : Opnd) (imm : BitVec 8) (s : State) (x : Ex),
    let loads := fun (i : Instr) (sz : MemSize) (sp : Option Space) (ea : Nat → Word) =>
      Ready i s x →
      (∀ l ∈ x.set, (x.lv 1 l).p = false ∧ (x.lv 2 l).p = false ∧ (ea l).toNat % sz.bytes = 0 ∧
        (ea l).toNat + sz.bytes ≤ x.limit sp) →
      ∃ rows : List Lanes, exec i s = .next (x.written s x.inSet rows) ∧ rows.length = sz.regs ∧
        ∀ l ∈ x.set, l < x.w →
          let m := x.memory sp s
          let at' := (ea l).toNat
          match merge ((List.range (max 1 (sz.bytes / 4))).map fun k => asRead (m.word (at' / 4 + k))) with
          | some w => ∀ row ∈ rows, laneAt row l = ⟨w, true⟩
          | none => (∀ row ∈ rows, (laneAt row l).p = false) ∧
              (∀ k < sz.bytes, (laneAt (rows.getD (k / 4) []) l).v.extractLsb' (8 * (k % 4)) 8 = m.byte (at' + k)) ∧
              (sz.bytes < 4 → let v := (laneAt (rows.getD 0 []) l).v
                v = if sz.signed then (v.setWidth (8 * sz.bytes)).signExtend 32 else (v.setWidth (8 * sz.bytes)).setWidth 32)
    let sum := fun (l : Nat) (disp : Word) => (x.lv 1 l).v + (x.lv 2 l).v + disp
    loads (.ldl h sz d a b) sz (some .scratch) (fun l => sum l (h.lit.getD 0)) ∧
    loads (.ldc h sz d a b) sz (some .commons) (fun l => sum l (h.lit.getD 0)) ∧
    loads (.ldk h sz d a b) sz none (fun l => sum l (h.lit.getD 0)) ∧
    loads (.ldlB32ShortA d a b) .b32 (some .scratch) (fun l => sum l 0) ∧
    loads (.ldcB32ShortA d a b) .b32 (some .commons) (fun l => sum l 0) ∧
    loads (.ldlB32ShortB d a imm) .b32 (some .scratch) (fun l => (x.lv 1 l).v + 4 * imm.setWidth 32) ∧
    loads (.ldkB32ShortB d imm) .b32 none (fun _ => 4 * imm.setWidth 32)) ∧
  (∀ (h : Hdr) (d a b : Opnd) (s : State) (x : Ex) (l : Nat),
    let ea := ((x.lv 1 l).v + (x.lv 2 l).v + h.lit.getD 0).toNat
    Ready (.ldl h .b32 d a b) { s with phys := [] } x → s.canonical → s.phys = [.readUe 3 .scratch (ea / 4)] →
    x.set = [l] → l < x.w → (x.lv 1 l).p = false → (x.lv 2 l).p = false → ea % 4 = 0 → ea + 4 ≤ x.limit (some .scratch) →
    ∃ t row, exec (.ldl h .b32 d a b) s = .next (x.written t x.inSet [row]) ∧ t.phys = [] ∧
      (laneAt row l).p = true ∧ provKind (laneAt row l).v = 3 ∧ (x.memory (some .scratch) t).word (ea / 4) = laneAt row l)

/-- STL and STC with their short forms, on clean data: every byte in a lane's range takes the data of the highest such lane,
every other byte stays, whole words become clean; the monitors on a line stored to are triggered; nothing else changes (R201,
R209, R233). Poison never reaches
memory unasked: a store without .pz of poisoned data raises POISON_STORE, with the lowest such lane and its word, where no
earlier check fails; with .pz the whole word takes the provenance and its bit (R229, R233, R322). -/
def Obligations.LocalStores : Prop :=
  (∀ (h : Hdr) (sz : MemSize) (pz : Bool) (d a b : Opnd) (imm : BitVec 8) (s : State) (x : Ex),
     let stores := fun (i : Instr) (sz : MemSize) (sp : Space) (ea : Nat → Word) =>
       Ready i s x → s.canonical →
       (∀ l ∈ x.set, (x.lv 1 l).p = false ∧ (x.lv 2 l).p = false ∧ (∀ r ∈ x.regs 0 l, r.p = false) ∧
         (ea l).toNat % sz.bytes = 0 ∧ (ea l).toNat + sz.bytes ≤ x.limit (some sp) ∧
         x.core.holdsWrite x.g.uid s.uid sp (ea l).toNat sz.bytes = false) →
       ∃ t, exec i s = .next (x.ended t x.next) ∧ SpaceOnly x.who sp s t ∧
         Triggered x.who sp (fun n => ∃ l ∈ x.set, (ea l).toNat / 128 = n) s t ∧
         (∀ n, (x.memory (some sp) t).byte n =
           match (x.set.filter fun l => decide ((ea l).toNat ≤ n ∧ n < (ea l).toNat + sz.bytes)).getLast? with
           | some l => let k := n - (ea l).toNat
               (x.lvk 0 (k / 4) l).v.extractLsb' (8 * (k % 4)) 8
           | none => (x.memory (some sp) s).byte n) ∧
         ∀ w, ((x.memory (some sp) t).word w).p =
           (if 4 ≤ sz.bytes ∧ ∃ l ∈ x.set, (ea l).toNat ≤ 4 * w ∧ 4 * w < (ea l).toNat + sz.bytes then false
            else ((x.memory (some sp) s).word w).p)
     let sum := fun (l : Nat) (disp : Word) => (x.lv 1 l).v + (x.lv 2 l).v + disp
     stores (.stl h sz pz d a b) sz .scratch (fun l => sum l (h.lit.getD 0)) ∧
     stores (.stc h sz pz d a b) sz .commons (fun l => sum l (h.lit.getD 0)) ∧
     stores (.stlB32ShortA d a b) .b32 .scratch (fun l => sum l 0) ∧
     stores (.stcB32ShortA d a b) .b32 .commons (fun l => sum l 0) ∧
     stores (.stlB32ShortB d a imm) .b32 .scratch (fun l => (x.lv 1 l).v + 4 * imm.setWidth 32)) ∧
  (∀ (h : Hdr) (d a b : Opnd) (s : State) (x : Ex) (l : Nat),
     let ea := fun l => (x.lv 1 l).v + (x.lv 2 l).v + h.lit.getD 0
     s.canonical → (∀ k ∈ x.set, (x.lv 1 k).p = false ∧ (x.lv 2 k).p = false ∧ (ea k).toNat % 4 = 0 ∧
       (ea k).toNat + 4 ≤ x.wg.localBytes) → l ∈ x.set → (x.lv 0 l).p = true →
     (Ready (.stl h .b32 false d a b) s x → x.g.region = none → (∀ k ∈ x.set, (x.lv 0 k).p = true → l ≤ k) →
       exec (.stl h .b32 false d a b) s =
         .next (s.takeTrap x.ag.core x.ag.slot x.fi .poisonStore l x.fl.pc ((x.lv 0 l).v.setWidth 64))) ∧
     (Ready (.stl h .b32 true d a b) s x → x.set = [l] →
       x.core.holdsWrite x.g.uid s.uid .scratch (ea l).toNat 4 = false →
       ∃ t, exec (.stl h .b32 true d a b) s = .next (x.ended t x.next) ∧ SpaceOnly x.who .scratch s t ∧
         ∀ w, (x.memory (some .scratch) t).word w =
           if w = (ea l).toNat / 4 then x.lv 0 l else (x.memory (some .scratch) s).word w))

/-- LD, ST, LDACQ and STREL complete where R229's checks pass: a load gives as many registers as its size, one lane the bytes
of the words read at its level; a store changes only its memory: as the agent's core reads at its own and the wider levels,
every byte in a lane's range holds the data of the highest such lane and, at the levels of the die and the island, every other
byte and poison bit is as before; an acquire follows the read and a release precedes the write; the control window is read and
written at M level (R217, R228 to R236). STREL completes where no MMQ of the gang has still to read its B (R253). The levels of a compute
core's global accesses: at C the core's own copy, filled from D; at D what the die's pending writes leave of HBM; at I HBM.
A write at C stays in the core while its L1 has room for the line; a release at island scope empties the core's and the die's
pending writes (R249 to R253). Three clauses are the model's choice: LDACQ and STREL with no lane neither acquire nor release
(log entry 101), an acquire leaves no line at all in L1 (log entry 15), and the queues of pending writes stand for the caches
(log entry 9). -/
def Obligations.GlobalAccess : Prop :=
  (∀ (h : Hdr) (sz : MemSize) (pz : Bool) (pol : Policy) (hint : Option Bool) (sc : Scope) (sp : Space) (d a b : Opnd)
     (s : State) (x : Ex),
     let acc := fun (sp : Space) (kind : Access) (lvl : Lvl) (sz : MemSize) =>
       (⟨some sp, sz.bytes, kind, lvl, 1, h.lit.getD 0⟩ : Acc)
     let noWindow := fun (q : Acc) => ∀ l ∈ x.set, x.winOff q l = none
     let clean := ∀ l ∈ x.set, ∀ r ∈ x.regs 0 l, r.p = false
     let plain : Lvl := match pol with | .noL1 => .d | _ => .c
     let loads := fun (i : Instr) (q : Acc) (sz : MemSize) (after : State → State) =>
       Ready i s x → x.Passes q → noWindow q →
       (∃ t rows, exec i s = .next (x.written (if x.set = [] then t else after t) x.inSet rows) ∧
         SpaceOnly x.who (q.sp.getD .global) s t ∧ rows.length = sz.regs) ∧
       (x.housed → ∀ l, x.set = [l] → l < x.w →
         ∃ t rows, exec i s = .next (x.written (after t) x.inSet rows) ∧ SpaceOnly x.who (q.sp.getD .global) s t ∧
           (sz = .b32 → t = (s.readLoc x.who (x.loc q l 0)).2) ∧
           LoadedAs sz (x.pa q l) (fun k => (s.readLoc x.who (x.loc q l k)).1) (rows.map fun row => laneAt row l))
     let stores := fun (i : Instr) (q : Acc) (before : State → State) =>
       Ready i s x → x.Passes q → noWindow q → x.Unheld q → (pz = true ∨ clean) →
       ∃ t, exec i s = .next (x.ended t x.next) ∧
         SpaceOnly x.who (q.sp.getD .global) (if x.set = [] then s else before s) t ∧
         (x.set = [] → t = s) ∧
         (sz = .b32 → ∀ l, x.set = [l] → (x.loc q l 0).isD = false →
           t = (before s).writeLoc x.who (x.loc q l 0) (x.lv 0 l) 15 true) ∧
         (x.housed → s.canonical → q.sp = some .global → x.set ≠ [] →
           let read := fun (u : State) (lvl : Lvl) (n : Nat) => (u.readG x.ag.core lvl (n / 4)).1
           let byte := fun (v : LV) (n : Nat) => v.v.extractLsb' (8 * (n % 4)) 8
           let covers := fun (n : Nat) => (x.set.filter fun l => decide (x.pa q l ≤ n ∧ n < x.pa q l + sz.bytes)).getLast?
           clean → ∀ n lvl,
             (∀ l, covers n = some l →
               byte (read t lvl n) n = (x.lvk 0 ((n - x.pa q l) / 4) l).v.extractLsb' (8 * ((n - x.pa q l) % 4)) 8 ∧
               (4 ≤ sz.bytes → (read t lvl n).p = false)) ∧
             (covers n = none → lvl ≠ .c →
               byte (read t lvl n) n = byte (read (before s) lvl n) n ∧
               ((∀ k < 4, covers (n / 4 * 4 + k) = none) → (read t lvl n).p = (read (before s) lvl n).p)))
     loads (.ld h sz pol hint d a b) (acc .global .read plain sz) sz id ∧
     loads (.ldacq h sz sc sp d a b) (acc sp .read (scopeLvl sc) sz) sz (fun t => t.acquire x.ag.core (scopeLvl sc)) ∧
     stores (.st h sz pz pol hint d a b) (acc .global .write plain sz) id ∧
     ((∀ e ∈ x.core.tops, e.gang = x.g.uid → e.unread = false) →
       stores (.strel h sz sc sp pz d a b) (acc sp .write (scopeLvl sc) sz) (fun t => t.release x.ag.core (scopeLvl sc))) ∧
     (∀ l off, x.set = [l] →
       (Ready (.ld h .b64 pol hint d a b) s x → x.Passes (acc .global .read plain .b64) →
         x.winOff (acc .global .read plain .b64) l = some off → ∀ v, s.winRead x.ag.core off 8 = some v →
         ∃ lo hi, exec (.ld h .b64 pol hint d a b) s = .next (x.written s x.inSet [lo, hi]) ∧
           (l < x.w → laneAt lo l = ⟨v.setWidth 32, false⟩ ∧ laneAt hi l = ⟨(v >>> 32).setWidth 32, false⟩)) ∧
       (Ready (.st h .b64 pz pol hint d a b) s x → x.Passes (acc .global .write plain .b64) → clean →
         x.winOff (acc .global .write plain .b64) l = some off →
         exec (.st h .b64 pz pol hint d a b) s = .next (x.ended (s.winWrite x.ag.core off 8 (x.pair 0 l).toNat) x.next)))) ∧
  (∀ (s : State) (site die pos w : Nat) (y : Island) (d : DWrite),
     let r : CoreRef := .compute site die pos
     let here := fun (t : Sector) => t.idx / 4 = w / 32
     s.island? site = some y → (s.core? r).isSome = true → (∀ t ∈ (s.core r).l1, t.words.length = 8) →
     (∀ t, (s.core r).l1.find? (fun t => t.idx == w / 8) = some t → (s.readG r .c w).1 = (s.core r).l1Word w ∧ (s.readG r .c w).2 = s) ∧
     ((∀ t ∈ (s.core r).l1, ¬ here t) →
       (s.readG r .c w).1 = y.readD die w ∧ (s.readG r .d w).1 = y.readD die w ∧
       ((∀ q ∈ y.queue die, q.word / 32 ≠ w / 32) → (s.readG r .i w).1 = y.mem.word w)) ∧
     (y.queue die = [] → y.readD die w = y.mem.word w) ∧
     ((∃ t ∈ (s.core r).l1, t.idx / 4 = d.word / 32) ∨
       ((s.core r).l1.map fun t => t.idx / 4).eraseDups.length < (s.core r).l1Lines → OnlyCore r s (s.writeG r .c d)) ∧
     (s.canonical → d.word = w → d.mask = 15 → d.whole = true → ∀ lvl, ((s.writeG r lvl d).readG r lvl w).1 = d.lv) ∧
     (∀ lvl, lvl ≠ .c → ∀ t ∈ ((s.release r lvl).core r).l1, t.dirtyWrites = []) ∧
     (((s.release r .i).island? site).map fun z => z.queue die) = some [] ∧
     (∀ lvl, lvl ≠ .c → ((s.acquire r lvl).core r).l1 = []) ∧
     s.release r .c = s ∧ s.acquire r .c = s)

/-- The atomics of scratch and Commons on clean words: lane by lane, ascending, each lane's old words are returned and
replaced by the operation's result; a swap writes where the old words equal the compared ones (R226, R227, R237 to R240). One
lane of them on any words: the merge of the poisoned ones among the stored words, the operand and the compared words, in that
order, is written and the machine goes on, an exchange writes its operand as it stands, and the old words are returned with
their tags (R87, R89, R238, R240).
ATOM and ACAS complete where R229's checks pass, and one 32-bit lane reads the old word and leaves the new one, poisoned or not, at the level
of its scope, an island's own where the page is coherent (R237 to R240, R249). A stored word with its poison bit is read as
provenance whatever a sub-word store has made of it, which is the model's choice (log entry 102). -/
def Obligations.Atomics : Prop :=
  (∀ (h : Hdr) (op : AtomOp) (cw : CasW) (sc : Scope) (ret : Bool) (d a b c : Opnd) (s : State) (x : Ex),
     let ja := if ret then 1 else 0
     let ea := fun (l : Nat) => ((x.lv ja l).v + (x.lv (ja + 1) l).v + h.lit.getD 0).toNat
     let operand := fun (l : Nat) => (x.regs (ja + 2) l).map fun r => r.v
     let atom := fun (o : List Word) (v : List Word) =>
       if op = .add64 then
         let t : Dword := ((o.getD 1 0) ++ (o.getD 0 0)) + ((v.getD 1 0) ++ (v.getD 0 0))
         [t.setWidth 32, (t >>> 32).setWidth 32]
       else [atomApply op (o.getD 0 0) (v.getD 0 0)]
     let swap := fun (o : List Word) (v : List Word) => if o = v.take cw.regs then v.drop cw.regs else o
     let does := fun (i : Instr) (sp : Space) (k : Nat) (F : List Word → List Word → List Word) =>
       let old := fun (m : Nat → Word) (l : Nat) => (List.range k).map fun j => m (ea l / 4 + j)
       let step := fun (m : Nat → Word) (l : Nat) (w : Nat) =>
         if ea l / 4 ≤ w ∧ w < ea l / 4 + k then (F (old m l) (operand l)).getD (w - ea l / 4) 0 else m w
       let after := fun (ls : List Nat) => ls.foldl step fun w => ((x.memory (some sp) s).word w).v
       Ready i s x → s.canonical → x.g.psn = false →
       (∀ l ∈ x.set, (x.lv ja l).p = false ∧ (x.lv (ja + 1) l).p = false ∧ (∀ r ∈ x.regs (ja + 2) l, r.p = false) ∧
         ea l % (4 * k) = 0 ∧ ea l + 4 * k ≤ x.limit (some sp) ∧
         (∀ j < k, ((x.memory (some sp) s).word (ea l / 4 + j)).p = false) ∧
         x.core.holdsWrite x.g.uid s.uid sp (ea l) (4 * k) = false) →
       ∃ t rows, exec i s = .next (if ret then x.written t x.inSet rows else x.ended t x.next) ∧ SpaceOnly x.who sp s t ∧
         rows.length = k ∧
         (∀ w, (x.memory (some sp) t).word w = ⟨after x.set w, ((x.memory (some sp) s).word w).p⟩) ∧
         ∀ l ∈ x.set, l < x.w → rows.map (laneAt · l) =
           (old (after (x.set.takeWhile fun j => j != l)) l).map fun v => ⟨v, false⟩
     does (.atoml h op sc ret d a b c) .scratch op.regs atom ∧ does (.atomc h op sc ret d a b c) .commons op.regs atom ∧
     does (.acasl h cw sc ret d a b c) .scratch cw.regs swap ∧ does (.acasc h cw sc ret d a b c) .commons cw.regs swap) ∧
  (∀ (h : Hdr) (op : AtomOp) (cw : CasW) (sc : Scope) (ret : Bool) (d a b c : Opnd) (s : State) (x : Ex) (l : Nat),
     let ja := if ret then 1 else 0
     let ea := ((x.lv ja l).v + (x.lv (ja + 1) l).v + h.lit.getD 0).toNat
     let regs := x.regs (ja + 2) l
     let values := fun (v : List LV) => v.map fun r => r.v
     let clean := fun (v : List Word) => v.map fun w => (⟨w, false⟩ : LV)
     let atom := fun (o : List LV) =>
       if op = .xchg then regs
       else match merge [joinSrc (o.map asRead), joinSrc (regs.map asRead)] with
         | some w => o.map fun _ => ⟨w, true⟩
         | none => if op = .add64 then
             let t : Dword := (((values o).getD 1 0) ++ ((values o).getD 0 0)) + (((values regs).getD 1 0) ++ ((values regs).getD 0 0))
             clean [t.setWidth 32, (t >>> 32).setWidth 32]
           else clean [atomApply op ((values o).getD 0 0) ((values regs).getD 0 0)]
     let swap := fun (o : List LV) =>
       match merge [joinSrc (o.map asRead), joinSrc (regs.drop cw.regs), joinSrc (regs.take cw.regs)] with
       | some w => o.map fun _ => ⟨w, true⟩
       | none => if values o = values (regs.take cw.regs) then regs.drop cw.regs else o
     let does := fun (i : Instr) (sp : Space) (k : Nat) (F : List LV → List LV) =>
       let word := fun (w : Nat) => (x.memory (some sp) s).word w
       let old := (List.range k).map fun j => word (ea / 4 + j)
       Ready i s x → s.canonical → x.g.psn = false → x.set = [l] → l < x.w → (x.lv ja l).p = false → (x.lv (ja + 1) l).p = false →
       ea % (4 * k) = 0 → ea + 4 * k ≤ x.limit (some sp) → x.core.holdsWrite x.g.uid s.uid sp ea (4 * k) = false →
       ∃ t rows, exec i s = .next (if ret then x.written t x.inSet rows else x.ended t x.next) ∧ SpaceOnly x.who sp s t ∧
         rows.length = k ∧
         (∀ w, (x.memory (some sp) t).word w =
           if ea / 4 ≤ w ∧ w < ea / 4 + k then (F old).getD (w - ea / 4) ⟨0, false⟩ else word w) ∧
         rows.map (laneAt · l) = match merge [joinSrc (old.map asRead)] with
           | some w => old.map fun _ => ⟨w, true⟩
           | none => old
     does (.atoml h op sc ret d a b c) .scratch op.regs atom ∧ does (.atomc h op sc ret d a b c) .commons op.regs atom ∧
     does (.acasl h cw sc ret d a b c) .scratch cw.regs swap ∧ does (.acasc h cw sc ret d a b c) .commons cw.regs swap) ∧
  (∀ (h : Hdr) (op : AtomOp) (cw : CasW) (sc : Scope) (ret : Bool) (d a b c : Opnd) (s : State) (x : Ex),
     let ja := if ret then 1 else 0
     let acc := fun (k : Nat) => (⟨some .global, 4 * k, .atomic, scopeLvl sc, ja, h.lit.getD 0⟩ : Acc)
     let does := fun (i : Instr) (k : Nat) (F : LV → List LV → LV) =>
       Ready i s x → s.canonical → x.g.psn = false → x.Passes (acc k) → (∀ l ∈ x.set, x.winOff (acc k) l = none) →
       (∃ t rows, exec i s = .next (if ret then x.written t x.inSet rows else x.ended t x.next) ∧
         SpaceOnly x.who .global s t ∧ rows.length = k) ∧
       (k = 1 → x.housed → ∀ l, x.set = [l] → l < x.w →
         let r := s.readLoc x.who (x.loc (acc k) l 0)
         ∃ t row, exec i s = .next (if ret then x.written t x.inSet [row] else x.ended t x.next) ∧ laneAt row l = asRead r.1 ∧
           (t.readLoc x.who (x.loc (acc k) l 0)).1 = F r.1 (x.regs (ja + 2) l))
     does (.atom h op sc ret d a b c) op.regs (fun o v => atomNode op o (v.headD o)) ∧
     does (.acas h cw sc ret d a b c) cw.regs (fun o v =>
       match merge [asRead o, v.getD 1 o, v.getD 0 o] with
       | some w => ⟨w, true⟩
       | none => if o.v = (v.getD 0 o).v then v.getD 1 o else o))

/-- BANKOP applies its operation word by word, in order, from the source segments to the destination segments; BANKRED reduces
the source segments column by column, applies the columns to the destination segment and gives them under .ret: for every
operation and COUNT every word of the Commons and of the result; nothing else changes; with no lane both do nothing (R230,
R238, R241 to R243). FENCE releases to its scope and acquires from it, after the B reads of the gang's MMQs; CCTL writes back, or writes back and discards, each lane's line, and a lane without a usable page has
nothing to do (R244 to R246). Two clauses are the model's choice: a Commons word with its poison bit is read as provenance
whatever a sub-word store has made of it (log entry 102), and the page's permission that CCTL asks for is R (log entry 31). -/
def Obligations.SweepsFencesCache : Prop :=
  (∀ (h : Hdr) (op : AtomOp) (sc : Scope) (ret : Bool) (d a b c : Opnd) (s : State) (x : Ex),
     let ja := if ret then 1 else 0
     let out := fun (t : State) (rows : List Lanes) => if ret then x.written t x.inSet rows else x.ended t x.next
     let passes := fun (ja l : Nat) (z : Sweep) (red : Bool) =>
       (x.lv ja l).p = false ∧ (x.lv (ja + 1) l).p = false ∧ (x.lv (ja + 2) l).p = false ∧ z.dst % 16 = 0 ∧ z.src % 16 = 0 ∧
       (∀ k < z.count, stepped z.src k z.ss 0 + 16 ≤ x.limit (some .commons) ∧
         (red = true ∨ stepped z.dst k z.ds 0 + 16 ≤ x.limit (some .commons))) ∧
       (red = true → 0 < z.count → z.dst + 16 ≤ x.limit (some .commons)) ∧
       ∀ o ∈ z.dsts red, x.core.holdsWrite x.g.uid s.uid .commons o 16 = false
     let before := fun (w : Nat) => (x.memory (some .commons) s).word w
     let put := fun (m : Nat → LV) (o : Nat) (v : LV) (w : Nat) => if w = o / 4 then atomNode op (m w) v else m w
     let segments := fun (n : Nat) => (List.range n).flatMap fun k => (List.range 4).map fun j => (k, j)
     (Ready (.bankop h op sc a b c) s x → x.set = [] → exec (.bankop h op sc a b c) s = .next (x.ended s x.next)) ∧
     (Ready (.bankred h op sc ret d a b c) s x → x.set = [] →
       exec (.bankred h op sc ret d a b c) s = .next (out s (List.replicate 4 (List.replicate x.w ⟨0, false⟩)))) ∧
     (Ready (.bankop h op sc a b c) s x → s.canonical → x.g.psn = false → ∀ l, x.set.head? = some l → passes 0 l (x.sweep 0 l) false →
       let z := x.sweep 0 l
       ∃ t, exec (.bankop h op sc a b c) s = .next (x.ended t x.next) ∧ SpaceOnly x.who .commons s t ∧
         ∀ w, (x.memory (some .commons) t).word w =
           (segments z.count).foldl (fun m p => put m (stepped z.dst p.1 z.ds p.2) (m (stepped z.src p.1 z.ss p.2 / 4))) before w) ∧
     (Ready (.bankred h op sc ret d a b c) s x → s.canonical → x.g.psn = false → ∀ l, x.set.head? = some l →
       passes ja l (x.sweep ja l) true →
       let z := x.sweep ja l
       let column := fun (j : Nat) => match (List.range z.count).map fun k => before (stepped z.src k z.ss j / 4) with
         | [] => (⟨0, false⟩ : LV)
         | v :: rest => rest.foldl (atomNode op) (asRead v)
       ∃ t, exec (.bankred h op sc ret d a b c) s =
           .next (out t ((List.range 4).map fun j => List.replicate x.w (column j))) ∧ SpaceOnly x.who .commons s t ∧
         ∀ w, (x.memory (some .commons) t).word w =
           if z.count = 0 then before w
           else (List.range 4).foldl (fun m j => put m (z.dst + 4 * j) (column j)) before w)) ∧
  (∀ (h : Hdr) (paths : BitVec 4) (sc : Scope) (op : CctlOp) (a b : Opnd) (s : State) (x : Ex),
     (Ready (.fence h paths sc) s x →
       (paths.getLsbD 1 = true → ∀ e ∈ x.core.tops, e.gang = x.g.uid → e.unread = false) →
       let toI := paths.getLsbD 0 ∧ (paths.getLsbD 2 ∨ paths.getLsbD 3)
       exec (.fence h paths sc) s = .next (x.ended
         ((s.release x.ag.core (if toI then .i else scopeLvl sc)).acquire x.ag.core (scopeLvl sc)) x.next)) ∧
     (Ready (.cctl h op a b) s x →
       let q : Acc := ⟨some .global, 1, .control, .c, 0, h.lit.getD 0⟩
       (∀ l ∈ x.set, (x.one 0 l).p = false ∧ (x.one 1 l).p = false ∧ (x.g.ctx = none ∨ canonical (x.ea q l) = true) ∧
         x.walks (x.ea q l) .control = false) →
       ∃ t, exec (.cctl h op a b) s = .next (x.ended t x.next) ∧ SpaceOnly x.who .global s t ∧
         (x.housed → ∀ w, (t.readG x.ag.core .d w).1 = (s.readG x.ag.core .d w).1) ∧
         ((∀ l ∈ x.set, ∀ pa cp, x.tr q l ≠ .ok pa cp) → t = s) ∧
         ∀ l ∈ x.set, ∀ pa cp, x.tr q l = .ok pa cp → ∀ c ∈ (t.core x.ag.core).l1, c.idx / 4 = pa / 128 →
           if op = .wb then x.ag.core.isCompute = true → c.dirtyWrites = [] else False))

/-! ### The ASY class -/

/-- CPY and CPYS where R289's checks pass and the pages are mapped: each lane with bytes to move joins its channel's queue
in lane order, in the gang's current batch, and Q grows by the bytes; without room, or behind an older request, the gang
waits (R288 to R290, R293). SEAL closes the current batch and gives its handle; BWAIT goes on when no covered transfer is in
flight, which retires the batches and acquires; CPWP reads a channel pointer; CPWAIT goes on when W has reached the target,
modulo 2^32 (R258, R293 to R296). -/
def Obligations.CopiesAndBatches : Prop :=
  (∀ (h : Hdr) (dsp ssp : Space) (ch : BitVec 3) (d a b c : Opnd) (s : State) (x : Ex),
     let copies := fun (i : Instr) (segs : Bool) =>
       let q := x.copyReq dsp ssp segs
       let lanes := x.set.filter fun l => (q l).bytes != 0
       let n := ch.toNat
       Ready i s x → x.CopyPasses dsp ssp segs →
       (lanes = [] → exec i s = .next (x.ended s x.next)) ∧
       (lanes ≠ [] → x.core.copyTurn n x.ag = true → (x.core.chan n).length + lanes.length ≤ 128 →
         ∃ (t : State) (new : List Copy), exec i s = .next (x.ended t x.next) ∧ OnlyCore x.ag.core s t ∧
           (t.core x.ag.core).gangs = x.core.gangs ∧ (t.core x.ag.core).chan n = x.core.chan n ++ new ∧
           (∀ m, m ≠ n → (t.core x.ag.core).chan m = x.core.chan m) ∧ new.length = lanes.length ∧
           (∀ (k l : Nat) (e : Copy), lanes[k]? = some l → new[k]? = some e →
             (e.gang, e.batch, e.dsp, e.ssp, e.dst, e.src, e.segWords, e.count, e.ds, e.ss, e.done) =
               (x.g.uid, x.g.nextBatch, dsp, ssp, (q l).dst, (q l).src, (q l).segWords, (q l).count, (q l).ds, (q l).ss, 0)) ∧
           ((x.core.wg? x.g.wg).isSome = true → ∀ v, x.wg.chanQ[n]? = some v →
             ((t.core x.ag.core).wg x.g.wg).chanQ[n]? =
               some (v + BitVec.ofNat 32 (lanes.map fun l => (q l).bytes).sum))) ∧
       (lanes ≠ [] → (x.core.copyTurn n x.ag = false ∨ 128 < (x.core.chan n).length + lanes.length) →
         ∃ t, exec i s = .next t ∧ x.waits t .copyEntry)
     copies (.cpy h dsp ssp ch d a b) false ∧ copies (.cpys h dsp ssp ch d a b c) true) ∧
  (∀ (h : Hdr) (issued : Bool) (d a b : Opnd) (s : State) (x : Ex),
     let low := x.fl.lowXm
     (Ready (.seal h d) s x → x.b.parted = false → x.g.openBatches.length < 16 → exec (.seal h d) s =
       .next (x.written (s.modGang x.ag.core x.ag.slot fun g =>
         { g with nextBatch := x.g.nextBatch + 1, openBatches := g.openBatches ++ [x.g.nextBatch] }) (fun l => x.fl.xm.getLsbD l)
         [List.replicate x.w ⟨x.g.nextBatch.setWidth 32, false⟩])) ∧
     (Ready (.bwait h a) s x → x.b.parted = false → (x.lv 0 low).p = false →
       let n : BitVec 16 := (x.lv 0 low).v.setWidth 16
       let covered := fun (e : BitVec 16) => decide ((x.g.nextBatch - n).toNat ≤ (x.g.nextBatch - e).toNat)
       n ≠ x.g.nextBatch →
       ((∀ e ∈ x.g.openBatches, covered e = true → s.batchBusy x.ag.core x.g.uid e = false) →
         (∀ f e, x.g.failure = some f → f.batch = some e → e ∉ x.g.openBatches.filter covered) →
         exec (.bwait h a) s = .next (x.ended ((s.acquire x.ag.core .d).modGang x.ag.core x.ag.slot fun g =>
           { g with openBatches := g.openBatches.filter fun e => !(x.g.openBatches.filter covered).contains e }) x.next)) ∧
       ((∀ e ∈ x.g.openBatches, covered e = true → s.batchBusy x.ag.core x.g.uid e = false) →
         ∀ f e, x.g.failure = some f → f.batch = some e → e ∈ x.g.openBatches.filter covered →
         exec (.bwait h a) s = .next ((s.modGang x.ag.core x.ag.slot fun g => { g with failure := none }).takeTrap
           x.ag.core x.ag.slot x.fi f.cause low x.fl.pc f.tval)) ∧
       ((∃ e ∈ x.g.openBatches, covered e = true ∧ s.batchBusy x.ag.core x.g.uid e = true) →
         ∃ t, exec (.bwait h a) s = .next t ∧ x.waits t .bwait)) ∧
     (Ready (.cpwp h issued d a) s x → ∀ l, x.set.head? = some l → (x.lv 1 l).p = false → (x.lv 1 l).v.toNat < 8 →
       exec (.cpwp h issued d a) s = .next (x.written s x.inSet [List.replicate x.w
         ⟨(if issued then x.wg.chanQ else x.wg.chanW).getD (x.lv 1 l).v.toNat 0, false⟩])) ∧
     (Ready (.cpwait h a b) s x → (x.lv 0 low).p = false → (x.lv 1 low).p = false → (x.lv 0 low).v.toNat < 8 →
       let ahead := x.wg.chanW.getD (x.lv 0 low).v.toNat 0 - (x.lv 1 low).v
       (ahead.msb = false → exec (.cpwait h a b) s = .next (x.ended (s.acquire x.ag.core .d) x.next)) ∧
       (ahead.msb = true → ∃ t, exec (.cpwait h a b) s = .next t ∧ x.waits t .cpwait)))

/-- The work lists: WLPUT releases and sends its run on its way, WLTAKE takes the head items for its lowest lanes in turn,
or tells quiescence, also in turn, WLDONE counts items done or held, WLQUIET reads the flag and the epoch; the Curfew declares quiescence
exactly when every list and way is empty and no item is out (R298 to R304). -/
def Obligations.WorkLists : Prop :=
  ∀ (h : Hdr) (hold : Bool) (d a b : Opnd) (s : State) (x : Ex) (k : CtxIsland),
    let onIsland := fun (t : State) (f : CtxIsland → CtxIsland) => x.modCtx t f
    let n := fun (l : Nat) => (x.lv 1 l).v.toNat
    let count := x.set.length
    let named := fun (l : Nat) => x.set.head? = some l ∧ (x.lv 1 l).p = false ∧ n l < 64
    x.ctxIsland = k →
    (Ready (.wlput h a b) s x → ∀ l, named l → k.claimed (n l) + count ≤ k.capacity (n l) →
      exec (.wlput h a b) s = .next (x.ended (onIsland (s.release x.ag.core .i) fun k =>
        { k with puts := k.puts ++ [⟨n l, x.set.map (x.lv 0)⟩], qt := false }) x.next)) ∧
    (Ready (.wlput h a b) s x → x.set = [] → exec (.wlput h a b) s = .next (x.ended s x.next)) ∧
    (Ready (.wltake h d a) s x → ∀ l, named l →
      let items := k.items (n l)
      let got := min items.length count
      let turn := ∀ p, k.takers.find? (fun p => p.1 == n l) = some p → p.2 = x.ag
      ((k.qt = true ∨ items ≠ []) → turn → k.out + got < 2 ^ 32 →
        ∃ t lo hi, exec (.wltake h d a) s = .next (x.written (t.acquire x.ag.core .i) x.inSet [lo, hi]) ∧
          t = onIsland s (fun k => { ({ k with takers := k.takers.filter fun p => p.2 != x.ag } : CtxIsland).setItems (n l)
            (items.drop got) with out := k.out + got }) ∧
          ∀ m j, x.set[m]? = some j → j < x.w → x.set.findIdx (fun i => i == j) = m →
            laneAt lo j = (if m < got then laneAt items m else ⟨0, false⟩) ∧
            laneAt hi j = ⟨if items = [] then 2 else if m < got then 0 else 1, false⟩) ∧
      ((k.qt = false ∧ items = []) ∨ ¬ turn → ∃ t, exec (.wltake h d a) s = .next t ∧ (x.flowAfter t).run = .wait .wltake x.i)) ∧
    (Ready (.wldone h hold) s x → (if hold then k.out + count < 2 ^ 32 else count ≤ k.out) →
      exec (.wldone h hold) s = .next (x.ended (onIsland (s.release x.ag.core .i) fun k => (if hold then
        { k with out := k.out + count, qt := false } else { k with out := k.out - count }).curfew) x.next)) ∧
    (Ready (.wlquiet h d) s x → exec (.wlquiet h d) s = .next (x.written (if k.qt then s.acquire x.ag.core .i else s)
      (fun l => x.fl.xm.getLsbD l) [List.replicate x.w ⟨BitVec.ofNat 32 ((if k.qt then 2 ^ 31 else 0) + k.ep), false⟩])) ∧
    (k.curfew = if k.qt = false ∧ k.puts = [] ∧ k.out = 0 ∧ ∀ l ∈ k.lists, l.items = []
      then { k with qt := true, ep := (k.ep + 1) % 2 ^ 31 } else k)

/-! ### The RMT class -/

/-- PUT, PUTN and GET, NOTIFY, RATOM and RCAS where R378's checks pass, with room among the core's operations in flight:
each lane of the lane set that has something to do issues one operation in lane order; the transfers and NOTIFY go on, the
atomics wait for their replies, and under .nt a hole only marks its site, D of an atomic's lane with .ret being 0, untagged (R378
to R382, R384). RATOM and RCAS complete when their replies have arrived, with the old value
in each lane that asked; NWAIT when its counter has reached the target, NRD at once; RFENCE puts the
agent's later operations behind those in flight that it has issued; RQUIET completes when none is in flight, .nt with the failed-site mask (R381, R384 to R388). Which operations an RFENCE of a
slice and of a gang puts before the later ones is the model's reading (log entry 42). -/
def Obligations.RemoteOperations : Prop :=
  (∀ (h : Hdr) (sp : Space) (nt ret : Bool) (op : AtomOp) (cw : CasW) (d a b c : Opnd) (s : State) (x : Ex),
     let ja := if ret then 1 else 0
     let issues := fun (i : Instr) (req : Nat → RmtReq) (words : Nat → List LV) (ends : State → State → Prop) =>
       let lanes := x.set.filter fun l => x.rmtIssues (req l)
       Ready i s x → x.answers = [] → x.Sends req words →
       ∃ (t u : State) (new : List Rop), exec i s = .next u ∧ ends t u ∧ t.rops = s.rops ++ new ∧ new.length = lanes.length ∧
         (∀ (k l : Nat) (o : Rop), lanes[k]? = some l → new[k]? = some o →
           (o.gang, o.kind, o.target, o.route, o.remote, o.bytes, o.operand, o.lane, o.done, o.data) =
             (x.g.uid, (req l).kind, descSite (req l).desc, descRoute (req l).desc, (req l).remote, (req l).bytes,
               (req l).operand, l, 0, []) ∧
           o.batch = (if (req l).kind.xfer then some x.g.nextBatch else none) ∧ o.behind = x.fl.behind ∧
           (o.st = .flying ∨ o.st = .held ∧ descRoute (req l).desc = 0)) ∧
         t = { s with cores := t.cores, rops := t.rops, uid := t.uid } ∧ ∀ r slot, t.gang? r slot = s.gang? r slot
     let holes := fun (i : Instr) (req : Nat → RmtReq) (words : Nat → List LV) =>
       Ready i s x → nt = true → ∀ l, x.set = [l] → x.rmtRaised (req l) (words l) l = [] → x.isHole (req l) = true →
       ((req l).kind.xfer = true → (req l).bytes ≠ 0) →
       ∃ t, exec i s = .next (x.ended t x.next) ∧ OnlyCore x.ag.core s t ∧
         (x.after t).failMask = x.g.failMask ||| BitVec.ofNat 48 (2 ^ descSite (req l).desc)
     let lost := fun (i : Instr) (req : Nat → RmtReq) (words : Nat → List LV) (n : Nat) =>
       Ready i s x → x.answers = [] → nt = true → ∀ l, x.set = [l] → x.rmtRaised (req l) (words l) l = [] →
       x.isHole (req l) = true → (req l).kind.atomic = true →
       ∃ t, OnlyCore x.ag.core s t ∧ (x.after t).failMask = x.g.failMask ||| BitVec.ofNat 48 (2 ^ descSite (req l).desc) ∧
         (ret = false → exec i s = .next (x.ended t x.next)) ∧
         (ret = true → ∃ rows, exec i s = .next (x.written t x.inSet rows) ∧ rows.length = n ∧ ∀ row ∈ rows, laneAt row l = ⟨0, false⟩)
     let goes := fun (t u : State) => u = x.ended t x.next
     let replies := fun (t u : State) => (x.flowAfter u).run = .wait .reply x.i ∧ u.rops = t.rops
     issues (.put h sp nt d a b c) (x.transferReq .put sp nt) (fun l => [x.one 0 l, x.one 1 l, x.one 2 l, x.one 3 l]) goes ∧
     issues (.putn h sp nt d a b c) (x.transferReq .putn sp nt) (fun l => [x.one 0 l, x.one 1 l, x.one 2 l, x.one 3 l]) goes ∧
     issues (.get h sp nt d a b c) (x.transferReq .get sp nt) (fun l => [x.one 0 l, x.one 1 l, x.one 2 l, x.one 3 l]) goes ∧
     issues (.notify h nt d a) (x.postedReq nt) (fun l => [x.one 0 l, x.one 1 l]) (fun t u =>
       u = x.ended (t.release x.ag.core .i) x.next) ∧
     holes (.put h sp nt d a b c) (x.transferReq .put sp nt) (fun l => [x.one 0 l, x.one 1 l, x.one 2 l, x.one 3 l]) ∧
     holes (.putn h sp nt d a b c) (x.transferReq .putn sp nt) (fun l => [x.one 0 l, x.one 1 l, x.one 2 l, x.one 3 l]) ∧
     holes (.get h sp nt d a b c) (x.transferReq .get sp nt) (fun l => [x.one 0 l, x.one 1 l, x.one 2 l, x.one 3 l]) ∧
     holes (.notify h nt d a) (x.postedReq nt) (fun l => [x.one 0 l, x.one 1 l]) ∧
     issues (.ratom h op nt ret d a b c) (x.atomicReq (.ratom op) op.regs nt ret) (fun l => [x.one (ja + 1) l, x.one ja l]) replies ∧
     issues (.rcas h cw nt ret d a b c) (x.atomicReq (.rcas cw) cw.regs nt ret) (fun l => [x.one (ja + 1) l, x.one ja l]) replies ∧
     lost (.ratom h op nt ret d a b c) (x.atomicReq (.ratom op) op.regs nt ret) (fun l => [x.one (ja + 1) l, x.one ja l]) op.regs ∧
     lost (.rcas h cw nt ret d a b c) (x.atomicReq (.rcas cw) cw.regs nt ret) (fun l => [x.one (ja + 1) l, x.one ja l]) cw.regs) ∧
  (∀ (h : Hdr) (nt ret : Bool) (op : AtomOp) (cw : CasW) (d a b c : Opnd) (s : State) (x : Ex),
     let answered := fun (i : Instr) (k : Nat) =>
       Ready i s x → x.answers ≠ [] → (∀ p ∈ s.rops, ∀ o ∈ x.answers, p.id = o.id → p ∈ x.answers) →
       let t := { s with rops := s.rops.filter fun o => !decide (o ∈ x.answers) }
       (ret = false → exec i s = .next (x.ended t x.next)) ∧
       (ret = true → ∃ rows, exec i s = .next (x.written t x.inSet rows) ∧ rows.length = k ∧
         ∀ l < x.w, ∀ o, x.answers.find? (fun o => o.lane == l) = some o → o.data.length = k → rows.map (laneAt · l) = o.data)
     let counter := fun (v : Word) => x.ctxIsland.counter v.toNat
     answered (.ratom h op nt ret d a b c) op.regs ∧ answered (.rcas h cw nt ret d a b c) cw.regs ∧
     (Ready (.nrd h d a) s x → (∀ l ∈ x.set, (x.lv 1 l).p = false ∧ (x.lv 1 l).v.toNat < 4096) →
       ∃ lo hi, exec (.nrd h d a) s = .next (x.written s x.inSet [lo, hi]) ∧ ∀ l ∈ x.set, l < x.w →
         laneAt lo l = ⟨(counter (x.lv 1 l).v).setWidth 32, false⟩ ∧
         laneAt hi l = ⟨(counter (x.lv 1 l).v >>> 32).setWidth 32, false⟩) ∧
     (Ready (.nwait h a b) s x → x.set = [] → exec (.nwait h a b) s = .next (x.ended s x.next)) ∧
     (Ready (.nwait h a b) s x → ∀ l, x.set.head? = some l → (x.lv 0 l).p = false → (x.lv 0 l).v.toNat < 4096 →
       (x.one 1 l).p = false →
       ((x.pair 1 l).toNat ≤ (counter (x.lv 0 l).v).toNat →
         exec (.nwait h a b) s = .next (x.ended (s.acquire x.ag.core .i) x.next)) ∧
       ((counter (x.lv 0 l).v).toNat < (x.pair 1 l).toNat → ∃ t, exec (.nwait h a b) s = .next t ∧ x.waits t .nwait)) ∧
     (Ready (.rfence h) s x → ∃ t, exec (.rfence h) s = .next (x.ended t x.next) ∧ OnlyCore x.ag.core s t ∧
       (∀ n, n ∈ (x.flowAfter t).behind ↔
         (n ∈ x.fl.behind ∧ ∃ o ∈ s.rops, o.id = n) ∨ ∃ o ∈ s.rops, o.id = n ∧ o.ag.core = x.ag.core ∧ o.gang = x.g.uid ∧
           (x.b.parted = false ∨ o.solo = none ∨ o.solo = some x.ag.slice)) ∧
       ∀ k, k ≠ x.fi → (x.after t).act.flow k = x.b.flow k) ∧
     (Ready (.rquiet h nt d) s x → s.quiet x.ag.core x.g.uid = false →
       ∃ t, exec (.rquiet h nt d) s = .next t ∧ x.waits t .rquiet) ∧
     (Ready (.rquiet h false d) s x → s.quiet x.ag.core x.g.uid = true → (x.g.failure = none ∨ x.g.pl = .s) →
       exec (.rquiet h false d) s = .next (x.ended (s.acquire x.ag.core .d) x.next)) ∧
     (Ready (.rquiet h false d) s x → s.quiet x.ag.core x.g.uid = true → x.g.pl ≠ .s → ∀ f, x.g.failure = some f →
       exec (.rquiet h false d) s = .next (((s.acquire x.ag.core .d).modGang x.ag.core x.ag.slot fun g =>
         { g with failure := none }).takeTrap x.ag.core x.ag.slot x.fi f.cause x.fl.lowXm x.fl.pc f.tval)) ∧
     (Ready (.rquiet h true d) s x → s.quiet x.ag.core x.g.uid = true → exec (.rquiet h true d) s =
       .next (x.written ((s.acquire x.ag.core .d).modGang x.ag.core x.ag.slot fun g => { g with failure := none, failMask := 0 })
         (fun l => x.fl.xm.getLsbD l) (pairRows x.w (x.g.failMask.setWidth 64)))))

/-! ### The SYN class -/

/-- Named barriers: BARINIT sets the members, BARRD and BARWR read and write the two doublewords; an arrival that leaves
members missing sets the gang's bit, BAR then waits and BARA answers the phase; the last arrival clears the arrivals and
starts the next phase; BARW goes on when its phase is over, both under .mx once the array has read the B of the gang's MMQs (R190
to R193, R253, R361, R362). MON arms the agent's monitor on the
line of its lowest lane; MWAIT of a triggered, a restored or no monitor goes on at once with status 0, 2 or 3, disarmed,
its status pushed on the window before that is reset, else it waits until its deadline; CLOCK reads the island clock (R201 to R204).
That BARWR checks the doubleword it writes, and not the other, is the model's reading (log entry 56). -/
def Obligations.BarriersAndMonitors : Prop :=
  (∀ (h : Hdr) (mx live sel : Bool) (d a b : Opnd) (s : State) (x : Ex) (n : Nat) (z : Barrier),
     let low := x.fl.lowXm
     let upd := fun (f : Barrier → Barrier) => s.modWg x.ag.core x.g.wg fun w => { w with barriers := modNth f w.barriers n }
     let bit : Word := BitVec.ofNat 32 (2 ^ x.g.gix)
     let barrier := fun (t : State) => ((t.core x.ag.core).wg x.g.wg).barriers[n]?
     let arrives := z.bkn = false ∧ z.mbr.getLsbD x.g.gix = true ∧ z.arr.getLsbD x.g.gix = false
     let names := fun (j l : Nat) => (x.lv j l).p = false ∧ (x.lv j l).v.toNat = n
     x.b.parted = false → x.wg.barriers[n]? = some z →
     (Ready (.barinit h a b) s x → names 0 low → (x.lv 1 low).p = false →
       (x.lv 1 low).v &&& ~~~(BitVec.ofNat 32 (2 ^ x.wg.gangs - 1)) = 0 → (x.lv 1 low).v &&& x.wg.live ≠ 0 → z.arr = 0 →
       exec (.barinit h a b) s = .next (x.ended (upd fun z =>
         { z with mbr := (x.lv 1 low).v &&& x.wg.live, bkn := false }) x.next)) ∧
     let read := mx = true → ∀ e ∈ x.core.tops, e.gang = x.g.uid → e.unread = false
     (Ready (.bar h mx a) s x → names 0 low → arrives → (z.arr ||| bit ≠ z.mbr → ∃ t, exec (.bar h mx a) s = .next t ∧
         OnlyCore x.ag.core s t ∧ barrier t = some { z with arr := z.arr ||| bit } ∧
         (x.flowAfter t).run = .wait (.bar n z.phase mx) x.i) ∧
       (z.arr ||| bit = z.mbr → s.slw x.ag.core = 0 → x.fl.due = none → read → ∃ t, exec (.bar h mx a) s = .next t ∧ OnlyCore x.ag.core s t ∧
         barrier t = some { z with arr := 0, phase := z.phase + 1 } ∧ (x.flowAfter t).run = .ready ∧
         (x.flowAfter t).pc = x.next)) ∧
     (Ready (.bara h d a) s x → names 1 low → arrives →
       ∃ t, exec (.bara h d a) s =
           .next (x.written t (fun l => x.fl.xm.getLsbD l) [List.replicate x.w ⟨z.phase, false⟩]) ∧
         OnlyCore x.ag.core s t ∧
         barrier t = some (if z.arr ||| bit = z.mbr then { z with arr := 0, phase := z.phase + 1 }
           else { z with arr := z.arr ||| bit })) ∧
     (Ready (.barw h mx a b) s x → names 0 low → (x.lv 1 low).p = false → z.bkn = false →
       ((x.lv 1 low).v ≠ z.phase → x.fl.due = none → read → exec (.barw h mx a b) s = .next (x.ended s x.next)) ∧
       ((x.lv 1 low).v = z.phase → ∃ t, exec (.barw h mx a b) s = .next t ∧ x.waits t (.barw n z.phase))) ∧
     (Ready (.barrd h live sel d a) s x → x.set = [] →
       exec (.barrd h live sel d a) s = .next (x.written s x.inSet (pairRows x.w 0))) ∧
     (Ready (.barwr h sel d a) s x → x.set = [] → exec (.barwr h sel d a) s = .next (x.ended s x.next)) ∧
     ∀ l, x.set.head? = some l →
       (Ready (.barrd h true sel d a) s x →
         exec (.barrd h true sel d a) s = .next (x.written s x.inSet (pairRows x.w (x.wg.live.setWidth 64)))) ∧
       (Ready (.barrd h false sel d a) s x → names 1 l → exec (.barrd h false sel d a) s =
         .next (x.written s x.inSet (pairRows x.w
           (if sel then (if z.bkn then 1 else 0 : Word) ++ z.phase else z.arr ++ z.mbr)))) ∧
       (Ready (.barwr h sel d a) s x → names 1 l → (∀ r ∈ x.regs 0 l, r.p = false) →
         let lo := (x.pair 0 l).setWidth 32
         let hi := (x.pair 0 l >>> 32).setWidth 32
         (if sel then hi &&& 0xFFFFFFFE = 0
           else lo &&& ~~~x.wg.live = 0 ∧ hi &&& ~~~lo = 0 ∧ (hi = lo → lo = 0)) →
         exec (.barwr h sel d a) s = .next (x.ended (upd fun z =>
           if sel then { z with phase := lo, bkn := hi.getLsbD 0 } else { z with mbr := lo, arr := hi }) x.next))) ∧
  (∀ (h : Hdr) (sp : Space) (d a : Opnd) (s : State) (x : Ex),
     let q : Acc := ⟨some sp, 4, .read, .c, 0, 0⟩
     (Ready (.mon h sp a) s x → x.set = [] → exec (.mon h sp a) s = .next (x.ended s x.next)) ∧
     (Ready (.mon h sp a) s x → ∀ l, x.set.head? = some l → ({ x with set := [l] } : Ex).Passes q →
       ∃ t, exec (.mon h sp a) s = .next (x.ended t x.next) ∧ OnlyCore x.ag.core s t ∧ (x.flowAfter t).mon =
         some ⟨sp, x.pa q l / 128, false, false⟩ ∧ (x.after t).act.grans = x.b.grans) ∧
     (Ready (.mwait h d a) s x → (x.lv 1 x.fl.lowXm).p = false →
       (∀ status : Word, (match x.fl.mon with
           | none => status = 3
           | some m => if m.restored then status = 2 else m.trigger = true ∧ status = 0) →
         ∃ t, exec (.mwait h d a) s = .next t ∧ OnlyCore x.ag.core s t ∧ (x.flowAfter t).pc = x.next ∧
           (x.flowAfter t).run = .ready ∧ (x.flowAfter t).mon = none ∧ (x.after t).latches = [] ∧
           (x.flowAfter t).win =
             resetWin (pushWin x.fl.win (fun l => x.fl.xm.getLsbD l) (List.replicate x.w ⟨status, false⟩)) ∧
           ∀ r, d = .v r → h.nw = false → x.b.Sound x.w → (r.val < 8 * x.b.frame.ngr) → x.b.frame.role r.val = .plain →
             x.pops = [] → ∀ l < x.w, l < 32 → laneAt ((x.after t).act.row r.val) l =
               if x.fl.xm.getLsbD l then ⟨status, false⟩ else laneAt (x.b.row r.val) l) ∧
       (∀ m, x.fl.mon = some m → m.trigger = false → m.restored = false →
         ∃ t, exec (.mwait h d a) s = .next t ∧ (x.after t).region = none ∧ x.waits t (.mwait
           (if (x.lv 1 x.fl.lowXm).v = 0 then none
            else x.ag.core.site.map fun n => s.clockAt n + (x.lv 1 x.fl.lowXm).v.setWidth 64)))) ∧
     (Ready (.clock h d) s x → ∀ n, x.ag.core.site = some n →
       exec (.clock h d) s = .next (x.written s x.inSet (pairRows x.w (s.clockAt n)))) ∧
     (Ready (.clock h d) s x → ∃ t rows, exec (.clock h d) s = .next (x.written t x.inSet rows) ∧ OnlyCore x.ag.core s t))

/-! ### The MTX class -/

/-- MMQ, ACCZ, ACCPRO and ACCWR complete at issue: one tile operation for each quarter that has a lane, in order, on the
tile that its lowest lane names; a zeroing, promotion or write that nothing holds back takes effect at once, and leaves the rows
that TileAct.Row says; an MMQ's operation holds A, C, B's offset and the promotion interval of its issue (R263, R264, R267, R268,
R270, R271, R276, R278). The elements that a row of A and a column of B give, scaled by their blocks, and the first poisoned part
of those without blocks (R265, R266, R269, R69 to R74). ACCRD where no operation of the gang on its tiles is left: the 16 values, partials, or the counter of the lane's row, or the
values with their partials added, which the row then holds; MXWAIT
goes on when the gang has no operation left; MXSET sets the promotion interval; CBLOAD fills the codebook slot from 768
bytes, in global memory of no line that L1 holds, and CBRD reads a word of it (R277, R279 to R282). That a poisoned word of the
slot is provenance, whatever its other bits, is the model's reading (log entry 49). -/
def Obligations.TilesAndCodebook : Prop :=
  (∀ (h : Hdr) (keep : Bool) (af : AFmt) (bf : BFmt) (cm : Bool) (mode : AccMode) (d a b c : Opnd) (s : State) (x : Ex),
     let sp : Space := if cm then .commons else .scratch
     let quarters := (List.range (x.w / 8)).filter fun q => x.set.any fun l => l / 8 == q
     let low := fun (q : Nat) => (x.set.find? fun l => l / 8 == q).getD 0
     let named := fun (q : Nat) => (x.lv 0 (low q)).p = false ∧ (x.lv 0 (low q)).v.toNat < x.wg.acc
     let none' := x.core.tops = []
     let tileAt := fun (t : State) (k : Nat) => ((t.core x.ag.core).wg x.g.wg).tile k
     let alone := fun (q : Nat) => ∀ p ∈ quarters, p ≠ q → (x.lv 0 (low p)).v ≠ (x.lv 0 (low q)).v
     let effect := fun (i : Instr) (act : Nat → TileAct) =>
       Ready i s x → (∀ q ∈ quarters, named q) → (x.core.wg? x.g.wg).isSome = true →
       ∃ t, exec i s = .next (x.ended t x.next) ∧
         (none' → (x.g.psn = false → OnlyCore x.ag.core s t) ∧ (t.core x.ag.core).tops = [] ∧
           ∀ q ∈ quarters, alone q → let k := (x.lv 0 (low q)).v.toNat
             (tileAt s k).length = 8 → (act q).Leaves x.g.mxp x.g.psn none (tileAt s k) (tileAt t k))
     (Ready (.mmq h keep af bf cm d a b c) s x → x.b.parted = false → x.core.passes = [] → none' →
       (∀ q ∈ quarters, named q ∧ (x.lv 2 (low q)).p = false ∧ (x.lv 2 (low q)).v.toNat % 64 = 0 ∧
         (x.lv 2 (low q)).v.toNat + bf.extent ≤ x.limit (some sp)) →
       ∃ t, exec (.mmq h keep af bf cm d a b c) s = .next (x.ended t x.next) ∧ OnlyCore x.ag.core s t ∧
         (t.core x.ag.core).wgs = x.core.wgs ∧
         (t.core x.ag.core).tops.map (fun o => (o.gang, o.wg, o.quarter, o.tile, o.mxp, o.act, o.b, o.done)) =
           quarters.map (fun q => (x.g.uid, x.g.wg, q, (x.lv 0 (low q)).v.toNat, x.g.mxp,
             .mmq af bf cm (x.lv 2 (low q)).v.toNat ((List.range 8).map fun i =>
               if 8 * q + i ∈ x.set then some ⟨x.regs 1 (8 * q + i), x.lv 3 (8 * q + i)⟩ else none), none, false)) ∧
         ((t.core x.ag.core).passes.flatMap fun p => p.ops) = (t.core x.ag.core).tops.map fun o => o.id) ∧
     effect (.accz h d) (fun _ => .accz) ∧ effect (.accpro h d) (fun _ => .accpro) ∧
     (x.b.parted = false → (∀ l ∈ x.set, ∀ r ∈ x.regs 1 l, mode ≠ .val → r.p = false) →
       effect (.accwr h mode d a) (fun q => .accwr mode ((List.range 8).map fun i =>
         if 8 * q + i ∈ x.set then some (x.regs 1 (8 * q + i)) else none)))) ∧
  (∀ (af : AFmt) (bf : BFmt) (r : ARow) (ws slot : Lanes) (j k : Nat),
     let byte := fun (v : Word) (n : Nat) => (v.extractLsb' (8 * n) 8).toNat
     let times := fun (v : Option Rat) (e : Nat) => v.map fun u => u * (2 : Rat) ^ ((e : Int) - 127)
     let clean := fun (l : Lanes) => ∀ v ∈ l, v.p = false
     let column := (ws.drop (16 * j)).take 16
     let E := if bf = .qc then 256 else 1024
     let scale := fun (b : Nat) => let n := E + bf.scales * j + b
       byte (laneAt ws (n / 4)).v (n % 4)
     (r.a.length = 16 → clean r.a → k < 512 / fmtBits af.elt →
       (af.isMx = true → r.c.p = false ∧ ∀ b < 16 / fmtBits af.elt, byte r.c.v b ≠ 255) →
       ∃ els, r.src af = .clean els ∧ (els.getD k .nan).toRat = times
         (fmtDecode af.elt (elementOf (r.a.map fun v => v.v) (fmtBits af.elt) k)).toRat
         (if af.isMx then byte r.c.v (k / 32) else 127)) ∧
     (af.isMx = false → ∀ i v, r.a[i]? = some v → v.p = true → (∀ n < i, (laneAt r.a n).p = false) →
       r.src af = .poisoned v.v) ∧
     (ws.length = bf.extent / 4 → clean ws → j < 16 → (∀ b < bf.scales, scale b ≠ 255) →
       (bf ≠ .qc → k < 512 / fmtBits bf.elt → ∃ els, bColumn bf ws slot j = .clean els ∧
         (els.getD k .nan).toRat = times (fmtDecode bf.elt (elementOf (column.map fun v => v.v) (fmtBits bf.elt) k)).toRat
           (if bf.scales = 0 then 127 else scale (k / 32))) ∧
       (bf = .qc → clean slot → slot.length = 192 → k < 64 → ∃ els, bColumn bf ws slot j = .clean els ∧
         let code := ((laneAt ws (4 * j + k / 16)).v.extractLsb' (16 * (k / 8 % 2)) 16 : BitVec 16)
         let shape := (elementOf (slot.map fun v => v.v) 24 (code.toNat / 256))
         let odd : Bool := ((List.range 7).countP fun i => code.getLsbD (i + 1)) % 2 == 1
         let neg := if k % 8 = 7 then odd else code.getLsbD (k % 8 + 1)
         let size := 2 * (shape / 8 ^ (k % 8) % 8) + (if code.getLsbD 0 then 1 else 0)
         (els.getD k .nan).toRat = times (some ((if neg then -1 else 1) * (size : Rat) / 4)) (scale (k / 32)))) ∧
     (bf.scales = 0 → ∀ i v, column[i]? = some v → v.p = true → (∀ n < i, (laneAt column n).p = false) →
       bColumn bf ws slot j = .poisoned v.v)) ∧
  (∀ (h : Hdr) (mode : AccMode) (sp : Space) (d a b : Opnd) (s : State) (x : Ex),
     let low := fun (q : Nat) => (x.set.find? fun l => l / 8 == q).getD 0
     let tile := fun (l : Nat) => (x.lv 1 (low (l / 8))).v.toNat
     let idle := ∀ o ∈ x.core.tops, o.gang ≠ x.g.uid
     (Ready (.accrd h mode d a) s x → x.b.parted = false → idle → mode ≠ .fp →
       (∀ l ∈ x.set, (x.lv 1 (low (l / 8))).p = false ∧ tile l < x.wg.acc) → (∀ l ∈ x.set, l < x.w) → x.w % 8 = 0 →
       ∃ rows, exec (.accrd h mode d a) s = .next (x.written s x.inSet rows) ∧
         rows.length = (if mode = .cnt then 1 else 16) ∧
         ∀ l ∈ x.set, ∀ k < rows.length, laneAt (rows.getD k []) l =
           let r := (x.wg.tile (tile l)).getD (l % 8) .zero
           match mode with
           | .part => (r.s.map fun w => (⟨w, false⟩ : LV)).getD k ⟨0, false⟩
           | .cnt => ⟨BitVec.ofNat 32 r.g, false⟩
           | _ => laneAt r.t k) ∧
     (Ready (.accrd h .fp d a) s x → x.b.parted = false → idle →
       (∀ l ∈ x.set, (x.lv 1 (low (l / 8))).p = false ∧ tile l < x.wg.acc) → (∀ l ∈ x.set, l < x.w) → x.w % 8 = 0 →
       ∃ t rows, exec (.accrd h .fp d a) s = .next (x.written t x.inSet rows) ∧ rows.length = 16 ∧
         (x.g.psn = false → ∀ l ∈ x.set, (∀ k ∈ x.set, k ≠ l → tile k = tile l → k % 8 ≠ l % 8) →
           let r := (x.wg.tile (tile l)).getD (l % 8) .zero
           let value := fun (w : Word) => lf32.decode w.toNat
           let sum : Nat → LV := fun j =>
             if (laneAt r.t j).p then laneAt r.t j
             else ⟨BitVec.ofNat 32 (lf32.answer ⟨.rne, false⟩
               (Machine.Num.add .rne (value (laneAt r.t j).v) (value (r.s.getD j 0)))), false⟩
           (∀ j < 16, laneAt (rows.getD j []) l = sum j) ∧
           ((x.core.wg? x.g.wg).isSome = true → l % 8 < (x.wg.tile (tile l)).length →
             (((t.core x.ag.core).wg x.g.wg).tile (tile l))[l % 8]? =
               some ⟨(List.range 16).map sum, List.replicate 16 0, 0⟩))) ∧
     (Ready (.mxwait h) s x → (idle → exec (.mxwait h) s = .next (x.ended s x.next)) ∧
       (¬ idle → ∃ t, exec (.mxwait h) s = .next t ∧ x.waits t .mxwait)) ∧
     (Ready (.mxset h a) s x → (x.lv 0 x.fl.lowXm).p = false →
       let v := (x.lv 0 x.fl.lowXm).v.toNat % 256
       exec (.mxset h a) s = .next (x.ended (s.modGang x.ag.core x.ag.slot fun g =>
         { g with mxp := if v = 0 then 16 else v }) x.next)) ∧
     (Ready (.cbload h sp a b) s x → x.set = [] → exec (.cbload h sp a b) s = .next (x.ended s x.next)) ∧
     (Ready (.cbload h sp a b) s x → sp ≠ .global → ∀ l, x.set.head? = some l →
       let ea := ((x.lv 0 l).v + (x.lv 1 l).v + h.lit.getD 0).toNat
       (x.lv 0 l).p = false → (x.lv 1 l).p = false → ea % 16 = 0 → ea + 768 ≤ x.limit (some sp) →
       exec (.cbload h sp a b) s = .next (x.ended (s.modWg x.ag.core x.g.wg fun w => { w with
         cb := some ((List.range 192).map fun k => asRead ((x.memory (some sp) s).word (ea / 4 + k))) }) x.next)) ∧
     (Ready (.cbload h .global a b) s x → ∀ l, x.set.head? = some l →
       let ea := x.pair 0 l + (x.lv 1 l).v.signExtend 64 + (h.lit.getD 0).signExtend 64
       let mapped := fun (va : Dword) (pa : Nat) (cp : Bool) => ea.toNat ≤ va.toNat ∧ va.toNat < ea.toNat + 768 ∧
         translate x.tlbs x.g.ctx x.g.pl .read va = .ok pa cp
       (x.one 0 l).p = false → (x.one 1 l).p = false → ea.toNat % 16 = 0 →
       (x.g.ctx.isSome = true ∧ ea.toNat + 768 < 2 ^ 54 ∨ x.g.ctx = none ∧ s.installed x.ag.core ea.toNat 768 = true) →
       (∀ va : Dword, ea.toNat ≤ va.toNat → va.toNat < ea.toNat + 768 → ∃ pa cp, mapped va pa cp) →
       ∃ t slot, exec (.cbload h .global a b) s =
           .next (x.ended (t.modWg x.ag.core x.g.wg fun w => { w with cb := some slot }) x.next) ∧
         SpaceOnly x.who .global s t ∧ slot.length = 192 ∧
         (x.housed → (∀ c ∈ x.core.l1, ∀ va pa cp, mapped va pa cp → c.idx / 4 ≠ pa / 128) →
           ∀ k < 192, ∀ pa cp, mapped (ea + BitVec.ofNat 64 (4 * k)) pa cp →
             laneAt slot k = asRead (s.readG x.ag.core (if cp then .i else .c) (pa / 4)).1)) ∧
     (Ready (.cbrd h d a) s x → x.wg.cb.isSome = true → (∀ l ∈ x.set, (x.lv 1 l).p = false ∧ (x.lv 1 l).v.toNat < 192) →
       ∃ row, exec (.cbrd h d a) s = .next (x.written s x.inSet [row]) ∧
         ∀ l ∈ x.set, l < x.w → laneAt row l = laneAt (x.wg.cb.getD []) (x.lv 1 l).v.toNat))

/-! ### The PSN and SYS classes, traps -/

/-- PCHK tells poison, PCLR clears the tag, PSET gives each clean lane new poison of kind 8 and keeps a poisoned lane; PORG
gives 0 for an entry that the log does not hold (R88, R336). A new origin is the log's head, which moves on (R88, R332,
R333). -/
def Obligations.PoisonInstructions : Prop :=
  ∀ (h : Hdr) (tr one : Bool) (f : BitVec 2) (d a : Opnd) (s : State) (x : Ex),
    let A := fun l => x.lv 1 l
    let head := (s.polRegs (x.charge 0)).2.1
    (Ready (.pchk h tr one d a) s x → exec (.pchk h tr one d a) s = .next (x.written s x.inSet [(List.range x.w).map fun l =>
      ⟨if (A l).p ∧ (tr = false ∨ provKind (A l).v ∈ [6, 7, 9]) then (if one then 1 else BitVec.allOnes 32) else 0, false⟩])) ∧
    (Ready (.pclr h d a) s x → exec (.pclr h d a) s =
      .next (x.written s x.inSet [(List.range x.w).map fun l => ⟨(A l).v, false⟩])) ∧
    (Ready (.pset h d a) s x → ∃ t row, exec (.pset h d a) s = .next (x.written t x.inSet [row]) ∧
      ((∀ l ∈ x.set, (A l).p = true) → t = s) ∧
      (∀ l ∈ x.set, l < x.w → (laneAt row l).p = true ∧ ((A l).p = true → laneAt row l = A l) ∧
        ((A l).p = false → provKind (laneAt row l).v = 8 ∧ provCount (laneAt row l).v = 0)) ∧
      (∀ l, x.set = [l] → l < x.w → (A l).p = false → head < 8191 → provOrigin (laneAt row l).v = head ∧
        ((∃ c y, x.g.ctx = some c ∧ s.ctxAt? ((x.ag.core.site).getD 0) c = some y) → (t.polRegs (x.charge 0)).2.1 = head + 1))) ∧
    (Ready (.porg h f d a) s x → (∃ t rows, exec (.porg h f d a) s = .next (x.written t x.inSet rows) ∧ rows.length = 2) ∧
      ((∀ l ∈ x.set, head ≤ provOrigin (A l).v ∧ provOrigin (A l).v ≠ 8191) →
        ∃ lo hi, exec (.porg h f d a) s = .next (x.written s x.inSet [lo, hi]) ∧
          ∀ l ∈ x.set, l < x.w → laneAt lo l = ⟨0, false⟩ ∧ laneAt hi l = ⟨0, false⟩))

/-- SRD and SWR of a register that the lowest lane's level may access: the value read, of every register of the map, and the
register written, sy.frdepth taking no write; an unlisted number raises BAD_OPERAND, a level without access PRIVILEGED, and so
does a write of a register that the level may only read (R19 to R22, R329). At M level a register of context scope is the core's
own (R428). That SWR of sy.ctx writes all 64 bits is the model's choice (log entry 116). -/
def Obligations.SystemRegisters : Prop :=
  ∀ (h : Hdr) (d a : Opnd) (s : State) (x : Ex),
    let n := fun (l : Nat) => (x.lv 1 l).v.toNat
    let may := fun (l : Nat) (write : Bool) => ∃ c, sysAccess (n l) = some c ∧
      (if write then x.g.pl.column c = .rw else x.g.pl.column c ≠ .no)
    let gang := fun (f : Gang → Gang) => s.modGang x.ag.core x.ag.slot f
    let wrote := fun (d : Dword) (n : Nat) (t : State) =>
      (n = 0x001 → t = gang fun g => { g with cause := d &&& 0x1FFF }) ∧
      (n = 0x002 → t = gang fun g => { g with epc := d }) ∧
      (n = 0x003 → t = gang fun g => { g with tval := d }) ∧
      (n = 0x000 → t = gang fun g => { g with psn := d.getLsbD 3, twin := d.getLsbD 4, sstep := d.getLsbD 5 }) ∧
      (n = 0x006 → t = s.modCore x.ag.core fun c => { c with mtvec := d &&& ~~~3 }) ∧
      (n = 0x004 → t = s.modCore x.ag.core fun c => { c with tvec := d &&& ~~~3 }) ∧
      (n = 0x005 → t = gang fun g => { g with regionPc := d &&& ~~~3 }) ∧
      (n = 0x020 → t = s.modCore x.ag.core fun c => { c with ctxReg := d }) ∧
      (n = 0x025 → t = gang fun g => { g with sysWg := d }) ∧
      (n = 0x026 → t = gang fun g => { g with sysGrid := d }) ∧
      (n = 0x030 → t = s.modCore x.ag.core fun c => { c with pol := d }) ∧
      (n = 0x031 →
        (∀ c k, x.g.ctx = some c → s.ctxAt? (x.ag.core.site.getD 0) c = some k →
          t = s.modCtxAt (x.ag.core.site.getD 0) c fun k' => { k' with
            polhead := d.toNat % 8192
            fullSeen := decide (d.toNat % 8192 = 8191 ∧ k.polhead = 8191 ∧ k.fullSeen = true) }) ∧
        (x.g.ctx = none → t = s.modCore x.ag.core fun c => { c with
            polhead := d.toNat % 8192
            fullSeen := decide (d.toNat % 8192 = 8191 ∧ x.core.polhead = 8191 ∧ x.core.fullSeen = true) })) ∧
      (n = 0x032 → t = s.modCore x.ag.core fun c => { c with cellar := d }) ∧
      (n = 0x033 → t = gang fun g => { g with syTwin := d &&& 0xFFFFFFFF00000003 }) ∧
      (0x100 ≤ n → n ≤ 0x10F → t = s.modCore x.ag.core fun c => { c with stalls := setAt (n - 0x100) d c.stalls }) ∧
      (n = 0x022 → t = { s with panel := d.setWidth 21 }) ∧ (n = 0x010 → t = s) ∧
      (n = 0x034 → t = gang fun g => { g with mxp := if d.toNat % 256 = 0 then 16 else d.toNat % 256 })
    (Ready (.srd h d a) s x → x.set = [] → exec (.srd h d a) s = .next (x.written s x.inSet (pairRows x.w 0))) ∧
    (Ready (.swr h d a) s x → x.set = [] → exec (.swr h d a) s = .next (x.ended s x.next)) ∧
    ∀ l, x.set.head? = some l → (x.lv 1 l).p = false →
      (Ready (.srd h d a) s x → may l false →
        ∃ t v, exec (.srd h d a) s = .next (x.written t x.inSet (pairRows x.w v)) ∧ OnlyCore x.ag.core s t ∧
          (x.ag.core.isCompute = true → t = s) ∧
          (n l = 0x001 → v = x.g.cause) ∧ (n l = 0x002 → v = x.g.epc) ∧ (n l = 0x003 → v = x.g.tval) ∧
          (n l = 0x006 → v = x.core.mtvec) ∧ (n l = 0x010 → v = BitVec.ofNat 64 x.g.body.frames.length) ∧
          (n l = 0x022 → v = s.panel.setWidth 64) ∧ (n l = 0x025 → v = x.g.sysWg) ∧ (n l = 0x026 → v = x.g.sysGrid) ∧
          (n l = 0x033 → v = x.g.syTwin) ∧ (n l = 0x034 → v = BitVec.ofNat 64 x.g.mxp) ∧
          (n l = 0x021 → ∀ k, x.ag.core.site = some k → v = BitVec.ofNat 64 k) ∧
          (n l = 0x000 → v.extractLsb' 0 3 = BitVec.ofNat 3 x.g.pl.num ∧ v.getLsbD 3 = x.g.psn ∧ v.getLsbD 4 = x.g.twin ∧
            v.getLsbD 5 = x.g.sstep ∧ v.getLsbD 6 = x.g.region.isSome ∧ v.getLsbD 7 = (x.g.body.parted || x.b.parted) ∧
            v.extractLsb' 8 6 = BitVec.ofNat 6 x.g.ppl.num ∧
            v.extractLsb' 14 4 = (if x.w = 8 then 1 else if x.w = 16 then 2 else 3) ∧
            v.extractLsb' 18 6 = BitVec.ofNat 6 x.fl.stack.length ∧ (x.fl.stack.length ≤ 32 → v >>> 24 = 0)) ∧
          (n l = 0x005 → v = (x.g.regionPc &&& ~~~3) ||| (if x.g.region = none then 0 else 1)) ∧
          (n l = 0x011 → ∀ q < 4, v.extractLsb' (16 * q) 16 = BitVec.ofNat 16 (x.core.freeGran q)) ∧
          (n l = 0x020 → v = match x.g.ctx with | some c => BitVec.ofNat 64 c | none => x.core.ctxReg) ∧
          (n l = 0x023 → x.ag.core.isCompute = true → v = BitVec.ofNat 64 x.ag.core.die) ∧
          (n l = 0x024 → v = BitVec.ofNat 64 x.g.cluster) ∧
          (0x100 ≤ n l → n l ≤ 0x10F → v = lookupD (n l - 0x100) 0 x.core.stalls) ∧
          (x.g.ctx = none → (n l = 0x004 → v = x.core.tvec) ∧ (n l = 0x030 → v = x.core.pol) ∧
            (n l = 0x031 → v = BitVec.ofNat 64 x.core.polhead) ∧ (n l = 0x032 → v = x.core.cellar)) ∧
          ∀ c j k, x.g.ctx = some c → x.ag.core.site = some j → s.ctxAt? j c = some k →
            (n l = 0x004 → v = k.tvec) ∧ (n l = 0x030 → v = k.pol) ∧ (n l = 0x031 → v = BitVec.ofNat 64 k.polhead) ∧
            (n l = 0x032 → v = k.cellar)) ∧
      (Ready (.swr h d a) s x → may l true → (∀ r ∈ x.regs 0 l, r.p = false) →
        ∃ t, exec (.swr h d a) s = .next (x.ended t x.next) ∧ wrote (x.pair 0 l) (n l) t) ∧
      (x.g.region = none → (Ready (.srd h d a) s x ∨ Ready (.swr h d a) s x) →
        let i := x.i
        (sysAccess (n l) = none → exec i s =
          .next (s.takeTrap x.ag.core x.ag.slot x.fi .badOperand l x.fl.pc ((x.lv 1 l).v.setWidth 64))) ∧
        (∀ c, sysAccess (n l) = some c → x.g.pl.column c = .no ∨ i = .swr h d a ∧ x.g.pl.column c = .r → exec i s =
          .next (s.takeTrap x.ag.core x.ag.slot x.fi .privileged l x.fl.pc ((x.lv 1 l).v.setWidth 64))))

/-- TRAP and BRK take their trap, which resumes after them, so that no MMQ before them is trailing (R356); TRET returns from a handler, or at M level outside one takes PL
and PC back; ICINV empties the instruction cache, WFI waits, HALT halts the core; SAVEDONE only goes on where no preemption
was taken (R143, R320, R327, R330, R363). SAVEDONE in a preemption's handler, its record's address in v0 and v1 of the
handler frame, aligned and mapped, no transfer in flight: the gang leaves its slot, its record in memory starts with sy.epc (R359,
R363). Three clauses are the model's choice: TRET outside a handler takes PL and PC back (log entry 52), whether a return is
fatal goes by the cause that was taken, not by sy.cause (log entry 53), and WFI waits whatever was posted before it (log entry
50). -/
def Obligations.SystemInstructions : Prop :=
  (∀ (h : Hdr) (code : BitVec 8) (s : State) (x : Ex),
     let settled := s.modGang x.ag.core x.ag.slot Gang.settleTrail
     (Ready (.trap h code) s x → exec (.trap h code) s =
       .next (settled.takeTrap x.ag.core x.ag.slot x.fi .softwareTrap 0 x.next (code.setWidth 64))) ∧
     (Ready (.brk h) s x → exec (.brk h) s =
       .next (settled.takeTrap x.ag.core x.ag.slot x.fi .breakpoint 0 x.next x.fl.pc)) ∧
     (settled = s.modGang x.ag.core x.ag.slot fun g => g.modAct fun b => { b with trail := [] }) ∧
     (Ready (.tret h) s x → x.g.hand = none → exec (.tret h) s =
       .next (x.ended (s.modGang x.ag.core x.ag.slot fun g => { g with pl := g.ppl }) x.g.epc)) ∧
     (Ready (.tret h) s x → ∀ k, x.g.hand = some k → k.kind ≠ .restore → k.cause.fatal = false → x.g.body.dead = false →
       (x.g.body.parted = false ∨
         ∃ f ∈ x.g.body.flows, f.live ≠ 0 ∧ f.run ≠ .ended ∧ ∀ id j, f.run ≠ .wait (.regang id) j) →
       ∃ t, exec (.tret h) s = .next t ∧ OnlyCore x.ag.core s t ∧ (x.after t).hand = none ∧ (x.after t).pl = x.g.ppl ∧
         (x.after t).body.frames = x.g.body.frames ∧ (x.after t).body.grans = x.g.body.grans ∧
         (x.g.body.flows[k.flow]? ≠ none → ((x.after t).body.flow k.flow).pc = x.g.epc) ∧
         ∀ m, m ≠ k.flow → ((x.after t).body.flow m).xm = (x.g.body.flow m).xm ∧
           ((x.after t).body.flow m).stack = (x.g.body.flow m).stack) ∧
     (Ready (.tret h) s x → ∀ k, x.g.hand = some k → k.kind ≠ .restore → k.cause.fatal = true →
       ∃ t, exec (.tret h) s = .next t ∧ t.gang? x.ag.core x.ag.slot = none) ∧
     (Ready (.icinv h) s x → exec (.icinv h) s =
       .next (x.ended (s.modCore x.ag.core fun c => { c with icache := [] }) x.next)) ∧
     (Ready (.wfi h) s x → ∃ t, exec (.wfi h) s = .next t ∧ x.waits t .wfi) ∧
     (Ready (.halt h) s x → exec (.halt h) s =
       .next ((x.ended s x.next).modCore x.ag.core fun c => { c with halted := true })) ∧
     (Ready (.savedone h) s x → x.g.cause.toNat % 256 ≠ 0xB3 → exec (.savedone h) s = .next (x.ended s x.next))) ∧
  (∀ (h : Hdr) (s : State) (x : Ex) (a : Dword),
     let low := x.fl.lowXm
     let saved := { s with freeCtr := s.freeCtr + 4096 }
     Ready (.savedone h) s x → x.g.cause.toNat % 256 = 0xB3 →
     laneAt ((x.b.gran 0).rows.getD 0 []) low = ⟨a.setWidth 32, false⟩ →
     laneAt ((x.b.gran 0).rows.getD 1 []) low = ⟨(a >>> 32).setWidth 32, false⟩ →
     a.toNat % 1024 = 0 → a.toNat + 16384 < 2 ^ 54 → x.g.ctx.isSome = true →
     (∀ p ∈ x.core.chans, ∀ c ∈ p.2, c.gang ≠ x.g.uid) → (∀ o ∈ s.rops, o.ag.core = x.ag.core → o.gang ≠ x.g.uid) →
     (∀ va : Dword, a.toNat ≤ va.toNat → va.toNat < a.toNat + 16384 →
       ∃ pa cp, translate x.tlbs x.g.ctx x.g.pl .write va = .ok pa cp) →
     (∃ t, exec (.savedone h) s = .next (t.saveGang x.ag.core x.ag.slot a) ∧
       (t.saveGang x.ag.core x.ag.slot a).gang? x.ag.core x.ag.slot = none ∧ SpaceOnly x.who .global saved t) ∧
     ∀ free, x.g.saveWord free 0 = x.g.epc.setWidth 32 ∧ x.g.saveWord free 1 = (x.g.epc >>> 32).setWidth 32 ∧
       ∀ k < x.g.body.frames.length, ∀ f rest, x.g.body.frames.drop (x.g.body.frames.length - 1 - k) = f :: rest →
         1024 + 10 * x.g.body.frames.length ≤ 4096 → x.g.saveWord free (1024 + 10 * k) = f.rpc.setWidth 32 ∧
           x.g.saveWord free (1025 + 10 * k) = (f.rpc >>> 32).setWidth 32)

/-- TAKING A TRAP. With a handler frame free and nothing before it, a gang at U level enters its context's handler at S
level, one at M level the machine vector: sy.cause, sy.epc and sy.tval record the trap, a new frame of two granules and a
flow with every lane stand at the vector, with the gang's monitor marked restored; the region is closed, frames and registers
of the interrupted gang stay. Without a frame the gang waits for one. A trap at S level kills the gang; one in an M-level handler halts the core (R159, R201,
R203, R323, R326). Three clauses are the model's choice: a joined gang's handler has the gang's monitor, with its mark, and a
parted gang's has none (log entry 96), the gang is settled when no flow has an issued instruction to finish (log entry 44), and
a breakpoint of a debugged context at S level kills the gang (log entry 112). -/
def Obligations.TrapEntry : Prop :=
  ∀ (s : State) (r : CoreRef) (slot fi : Nat) (cause : Cause) (lane : Nat) (epc tval : Dword) (g : Gang),
    let t := s.takeTrap r slot fi cause lane epc tval
    let held := (cause = .breakpoint ∨ cause = .singleStep) ∧ s.debugged g = true
    let room := (s.core r).handReqs = [] ∧ (s.core r).fits g 2 = true ∧ g.settled = true
    let plain := ∀ f ∈ g.act.flows, ∀ i d, f.run ≠ .wait (.mwait d) i
    s.gang? r slot = some g →
    (g.pl = .s → t.gang? r slot = none) ∧
    (g.pl = .m → g.hand ≠ none → t = s.modCore r fun c => { c with halted := true }) ∧
    (g.pl ≠ .s → (g.pl = .m → g.hand = none) → ¬ held → plain → g.trapReq = none →
      (room → ∃ g' f, t.gang? r slot = some g' ∧ (t.core r).handReqs = [] ∧
        g'.pl = (if g.pl = .m then .m else .s) ∧ g'.ppl = g.pl ∧
        g'.cause = BitVec.ofNat 64 (cause.code + 256 * lane) ∧ g'.epc = epc ∧ g'.tval = tval ∧ g'.region = none ∧
        g'.body.frames = g.body.frames ∧ g'.body.grans = g.body.grans ∧ g'.hand.map (fun k => (k.flow, k.cause)) = some (fi, cause) ∧
        g'.act.flows = [f] ∧ (g.hand = none → f.mon = if g.body.parted = true then none
          else (g.body.flow 0).mon.map fun m => { m with restored := true }) ∧ f.xm = BitVec.ofNat 32 (2 ^ g.width - 1) ∧ f.stack = [] ∧ f.run = .ready ∧
        f.pc = (if g.pl = .m then (s.core r).mtvec else s.vector r g .context) ∧
        g'.act.frame.ngr = 2 ∧ g'.act.grans = List.replicate 2 ⟨List.replicate 8 (List.replicate g.width ⟨0, false⟩), true⟩) ∧
      (¬ room → ∃ g', t.gang? r slot = some g' ∧ g'.hand = g.hand ∧ g'.pl = g.pl ∧ slot ∈ (t.core r).handReqs ∧
        g'.trapReq.map (fun q => (q.cause, q.lane, q.epc, q.tval, q.flow)) = some (cause, lane, epc, tval, fi))) ∧
    (held → g.pl = .u → ∃ g', t.gang? r slot = some g' ∧ g'.dbgHeld = some fi ∧ g'.epc = epc ∧ g'.pl = .u)

/-- The causes before execution, in the order of R23: an operand beyond the frame, a level too low, and the rest of R45 trap
with the instruction's first words; a dormant gang passes over every instruction that R130 does not name; a queue named in a
parted gang is UNMATCHED_CONTROL, at decode; then, in a workgroup without a codebook slot, CBLOAD and a joined gang's MMQ that
needs the slot raise CB_SLOT before every other check; a poisoned guard is POISON_BRANCH in its lowest lane; CBRD's CB_SLOT is
among its own checks, after the guard (R17, R23, R25, R45, R130, R171, R264, R267, R281, R282). That UNMATCHED_CONTROL comes
before the CB_SLOT of CBLOAD is the model's choice (log entry 11), and so is that CB_SLOT comes before the storage of queues and
the guard in an MMQ, and after them in CBRD (log entry 48). Physical errors: a mismatch of paired issue in a lane of the lane set
writes nothing; sy.twin counts it, bits 1..0 starting at 1 where the last mismatch was at another PC or an instruction has
completed there since, bits 63..32 modulo 2^32; the gang replays where a region is open, else stands at the same instruction,
and traps with MC_TWIN_PERSIST when bits 1..0 reach 3 (R342, R343). An error in a register that MOV reads makes its value poison
of kind 3 in that lane, and every other lane moves as before (R349). -/
def Obligations.BeforeExecution : Prop :=
  (∀ (i : Instr) (n : Info) (s : State) (c : Core) (g : Gang) (fi : Nat),
    let fl := g.act.flow fi
    let x : Ex := ⟨s, s.cur, g, g.act, fi, fl, i, n, [], [], [], []⟩
    let trap := fun (cause : Cause) (lane : Nat) (tval : Dword) =>
      (.next (s.takeTrap s.cur.core s.cur.slot fi cause lane fl.pc tval) : Res)
    s.agent? = some (c, g, fi) → i.info = some n → i.wf = true →
    (∀ cause, decodeRaised g g.act i n = some cause → exec i s = trap cause 0 (wordsTval (encode i))) ∧
    (decodeRaised g g.act i n = none →
      (fl.dormant = true → i.runsDormant g.act.parted = false → exec i s = .next (x.ended s (fl.pc + BitVec.ofNat 64 i.len))) ∧
      let named := x.regOps.filterMap fun p => queueOf g.act p.1 p.2.span
      (fl.dormant = false → g.act.parted = true → named ≠ [] → exec i s = trap .unmatchedControl 0 (BitVec.ofNat 64 fl.msd)) ∧
      (fl.dormant = false → (g.act.parted = true → named = []) → g.region = none →
        (slotRaised x.wg g.act.parted i ≠ [] → exec i s = trap .cbSlot 0 0) ∧
        ((∀ p ∈ s.phys, ∀ l, p ≠ .guardUe l) → named = [] → slotRaised x.wg g.act.parted i = [] →
          ((n.ops ++ [(n.h.g, Role.src 1)]).flatMap fun p => storageRaised g.act p.1 p.2.span) = [] →
          readRaised g.act fl n.h.g 1 = [] →
          ∀ l ∈ x.lanes, fl.xm.getLsbD l = true → (laneAt x.guardRow l).p = true →
            (∀ k ∈ x.lanes, fl.xm.getLsbD k = true → (laneAt x.guardRow k).p = true → l ≤ k) →
            exec i s = trap .poisonBranch l ((laneAt x.guardRow l).v.setWidth 64))))) ∧
  (∀ (h : Hdr) (sp : Space) (keep cm : Bool) (af : AFmt) (bf : BFmt) (a b c d : Opnd) (wg : Wg) (parted : Bool),
     (slotRaised wg parted (.cbload h sp a b) ≠ [] ↔ wg.cb = none) ∧
     (slotRaised wg parted (.mmq h keep af bf cm d a b c) ≠ [] ↔ wg.cb = none ∧ bf = .qc ∧ parted = false) ∧
     slotRaised wg parted (.cbrd h d a) = []) ∧
  (∀ (h : Hdr) (d a : Opnd) (s : State) (x : Ex), Ready (.cbrd h d a) s x → x.wg.cb = none → x.g.region = none →
     exec (.cbrd h d a) s = .next (s.takeTrap x.ag.core x.ag.slot x.fi .cbSlot 0 x.fl.pc 0)) ∧
  (∀ (i : Instr) (s : State) (x : Ex) (l : Nat) (rest : List Phys),
     Ready i { s with phys := [] } x → s.phys = .twin l :: rest → (∀ p ∈ rest, ∀ k, p ≠ .guardUe k) →
     l ∈ x.set → x.g.twin = true → i.paired = true →
     let at' := { s with phys := rest }
     let again := x.g.twinPc = some x.fl.pc
     let n : BitVec 2 := if again then x.g.syTwin.extractLsb' 0 2 + 1 else 1
     let count : Word := x.g.syTwin.extractLsb' 32 32 + 1
     let twin : Dword := count ++ n.setWidth 32
     let noted := fun (t : State) => ∃ g, t.gang? x.ag.core x.ag.slot = some g ∧ (g.syTwin, g.twinPc) = (twin, some x.fl.pc) ∧
       g.act.frames = x.b.frames ∧ g.act.grans = x.b.grans ∧ g.region = x.g.region ∧ g.act.flows.length = x.b.flows.length
     (n ≠ 3 → ∃ t, exec i s = .next t ∧ noted t ∧
       (x.g.region = none → OnlyCore x.ag.core at' t ∧ (x.flowAfter t).run = .ready ∧ (x.flowAfter t).pc = x.fl.pc ∧
         (x.flowAfter t).xm = x.fl.xm ∧ (x.flowAfter t).win = x.fl.win) ∧
       (x.g.region ≠ none → ∀ f ∈ (x.after t).act.flows, f.run = .replay)) ∧
     (n = 3 → ∃ t, exec i s = .next (t.takeTrap x.ag.core x.ag.slot x.fi .mcTwinPersist l x.fl.pc (count.setWidth 64)) ∧
       OnlyCore x.ag.core at' t ∧ noted t)) ∧
  (∀ (h : Hdr) (d : Opnd) (r : Fin 240) (s : State) (x : Ex) (l : Nat),
     Ready (.mov h d (.v r)) { s with phys := [] } x → s.phys = [.operandUe 1 0 l] → l ∈ x.set → x.set.all (· < x.w) = true →
     ∃ t row, exec (.mov h d (.v r)) s = .next (x.written t x.inSet [row]) ∧ t.phys = [] ∧
       (laneAt row l).p = true ∧ provKind (laneAt row l).v = 3 ∧
       ∀ k ∈ x.set, k ≠ l → laneAt row k = x.lv 1 k)

/-! ### Steps, reset, encodings -/

/-- A step runs the decoded instruction: for the agent that the selector of the core in turn picks, with no pending cause, no
breakpoint and its words at an aligned PC decoding to i, step is exec of i where the fetch leaves the state, and then time
passes and, with no turn on the agenda, engines take their step (R23, R316; log entries 28 and 29). An issue on the agenda is
the same of its core, without engines. The fetch changes nothing but the core's instruction cache,
and at M level with that empty it gives the words in memory, their 32 bits whatever their poison bits, which is the model's
reading (R28, R29; log entry 55). -/
def Obligations.StepRuns : Prop :=
  ∀ (s0 s1 : State) (a : AgentRef) (c : Core) (g : Gang) (fi : Nat) (ws : List Word) (i : Instr),
    let s : State := { s0 with cur := a }
    let pc := (g.act.flow fi).pc
    let runs := fun (before : State) (after : State → State) =>
      step before = (match exec i s1 with
        | .next t => .next (after t)
        | .fault f => .fault f
        | .refused r => .refused r)
    s.agent? = some (c, g, fi) → pc.toNat % 4 = 0 →
    (g.nextPending = none → g.act.missing = [] → c.breaks g (g.act.flow fi) = false →
      s.fetch s.cur g fi pc = .ok (ws, s1) → decodeWords ws = .ok i →
      OnlyCore s.cur.core s s1 ∧ s1.gang? s.cur.core s.cur.slot = some g ∧
      (s0.agenda = [] → s0.select s0.cur.core = some a → runs s0 fun t => t.tick.engine.choose) ∧
      (∀ r, s0.select r = some a → runs { s0 with agenda := .issue r :: s0.agenda } State.tick)) ∧
    (∀ n, n = formWords (s.wordI s.cur.core (pc.toNat / 4)).v →
      g.ctx = none → c.icache = [] → pc.toNat + 12 < 2 ^ 64 → s.installed s.cur.core pc.toNat (4 * n) = true →
      ∃ s1, s.fetch s.cur g fi pc = .ok ((List.range n).map (fun k => (s.wordI s.cur.core (pc.toNat / 4 + k)).v), s1))

/-- What reset leaves: every plot vacant and no island, three reeves of which one presides, and on each reeve's core one
M-level gang of width 8 with 4 zeroed granules, every lane live, an empty mask stack and window (R10, R18, R389, R412). PC 0,
.framemax 256 and the presiding reeve are the model's choice (log entry 12), and so are the empty memory of a reeve (log entry 1)
and the gangs that stand on the reeves' cores from reset on (log entry 3). -/
def Obligations.ResetState : Prop :=
  let s := State.reset
  s.islands = [] ∧ s.contexts = [] ∧ s.links = [] ∧ s.rops = [] ∧ (∀ n, (s.plot n).st = .vacant) ∧
  s.reeves.length = 3 ∧ (s.reeves.countP fun r => r.presiding) = 1 ∧ (∀ r ∈ s.reeves, r.failed = false ∧ r.mem = .empty) ∧
  ∀ n < 3, ∃ g f, (s.core (.reeve n)).gangs = [g] ∧ g.width = 8 ∧ g.pl = .m ∧ g.ctx = none ∧ g.hand = none ∧
    g.mxp = 16 ∧ g.psn = false ∧ g.region = none ∧ g.body.frame.ngr = 4 ∧ g.framemax = 256 ∧
    g.body.grans = List.replicate 4 ⟨List.replicate 8 (List.replicate 8 ⟨0, false⟩), true⟩ ∧
    g.body.flows = [f] ∧ f.pc = 0 ∧ f.xm = 0xFF ∧ f.stack = [] ∧ f.run = .ready ∧ ∀ z ∈ f.win, z.full = false

/-- Decoding an instruction's encoding gives it back, with every operand, for every well-formed instruction (R28 to R45). -/
def Obligations.RoundTripAll : Prop :=
  ∀ i : Instr, Laws.RoundTrip.Statement i

/-- The worked encodings of the manual, and words composed from its tables of fields, decode to what they stand for; class
0xF and a reserved field are refused by name (R30 to R34, R41 to R44). -/
def Obligations.DecodeWords : Prop :=
  decodeWords [0x03020900] = .ok (.iaddS32ShortA (.v 9) (.v 2) (.v 3)) ∧
  decodeWords [0x03040419] = .ok (.shrShortB (.v 4) (.v 4) 3) ∧
  decodeWords [0x1060520B, 0x00F0F0FF, 0x3FC00000] =
    .ok (.fmul ⟨some 0x3FC00000, .z, false, false⟩ ⟨.rz, false⟩ .f32 false false (.v 5) (.v 6) .lit) ∧
  decodeWords [0x0F0F0E1E, 0x00F0F0F0] = .ok (.halt ⟨none, .z, false, false⟩) ∧
  decodeWords [0x0F0F050A, 0x00F0F0F0] = .ok (.endif ⟨none, .z, false, false⟩) ∧
  decodeWords [0x0F0F0F02, 0x00F0F0F0] = .error .illegalOpcode ∧
  decodeWords [0x0F000E1E, 0x00F0F0F0] = .error .reservedField

/-- MEMORIES STAY CANONICAL: whatever a step does, addresses and poisoned words stay listed in rising order and no zero byte
is listed, in every memory that was so before (the form and the zero are the model's choice, log entry 1). -/
def Obligations.MemoriesCanonical : Prop :=
  ∀ s t : State, s.canonical → step s = .next t → t.canonical

/-- The memories of reset are canonical (log entry 1). -/
def Obligations.ResetCanonical : Prop :=
  State.reset.canonical

/-! ### Steps of other agents -/

/-- WAITS END: an agent that waits goes on when its instruction, executed again, no longer waits; the second part gives the
states in which it does: batches, channel pointers, notify counters, work lists, the matrix engine, remote operations and
barriers, the latter in the order of gix, and the oldest requests for channel entries and remote operations, whose atomics then
wait for their replies (R177, R192, R197, R277, R280, R290, R294, R296, R300, R379, R385, R388). -/
def Obligations.WaitsEnd : Prop :=
  ∀ (s t : State) (ag : AgentRef) (g : Gang) (fl : Flow) (w : Wait) (i : Instr) (x : Ex),
    let ready : State := { (s.modGang ag.core ag.slot fun g => { g with trapReq := none }).modFlow ag fun f => { f with run := .ready }
      with cur := ag }
    let goesOn := fun (e : Instr) => ∃ u, exec e s = .next u ∧ u.cur = s.cur ∧ u.islands = t.islands ∧ u.rops = t.rops ∧
      u.gang? ag.core ag.slot = t.gang? ag.core ag.slot
    let inOrder := fl.due = none ∧ (s.core ag.core).barBefore ag = false
    s.gang? ag.core ag.slot = some g → s.flow? ag = some fl → g.trapReq = none → g.act.missing = [] → fl.run = .wait w i →
    (exec i ready = .next t → (t.flow? ag).map (fun f => f.run) ≠ some (.wait w i) →
      (w = .bwait → (∃ h a, i = .bwait h a) → goesOn (.bwaitWake ag)) ∧
      (w = .cpwait → (∃ h a b, i = .cpwait h a b) → goesOn (.cpwaitWake ag)) ∧
      (w = .nwait → (∃ h a b, i = .nwait h a b) → goesOn (.nwaitWake ag)) ∧
      (w = .wltake → (∃ h d a, i = .wltake h d a) → goesOn (.wltakeWake ag)) ∧
      (w = .mxwait → (∃ h, i = .mxwait h) → goesOn (.mxwaitWake ag)) ∧
      (w = .accrd → (∃ h m d a, i = .accrd h m d a) → goesOn (.accrdWake ag)) ∧
      (w = .rquiet → (∃ h nt d, i = .rquiet h nt d) → goesOn (.rquietWake ag)) ∧
      ((∃ b p, w = .barw b p) → (∃ h mx a b, i = .barw h mx a b) → inOrder → goesOn (.barrierWaitEnd ag)) ∧
      (∀ ch, w = .copyEntry → ((s.core ag.core).copyWaits.find? fun p => p.1 == ch) = some (ch, ag) →
        (∃ h dsp ssp c d a b, i = .cpy h dsp ssp c d a b) ∨ (∃ h dsp ssp c d a b e, i = .cpys h dsp ssp c d a b e) →
        goesOn (.copyEntryGrant ag.core ch)) ∧
      (w = .remoteSlot → (s.core ag.core).remoteWaits.head? = some ag → (slotAgain i).isSome = true →
        goesOn (.remoteSlotGrant ag.core))) ∧
    (Ready i ready x →
      let low := x.fl.lowXm
      let clean := fun (j l : Nat) => (x.lv j l).p = false
      let out := fun (e : Instr) (r : Run) (pc : Dword) => ∃ u, exec e s = .next u ∧ u.cur = s.cur ∧
        (u.flow? ag).map (fun f => (f.run, f.pc)) = some (r, pc)
      let wakes := fun (e : Instr) => out e .ready x.next
      let idle := ∀ o ∈ x.core.tops, o.gang ≠ x.g.uid
      let read := ∀ o ∈ x.core.tops, o.gang = x.g.uid → o.unread = false
      (∀ h a, w = .bwait → i = .bwait h a → x.b.parted = false → clean 0 low → (x.lv 0 low).v.setWidth 16 ≠ x.g.nextBatch →
        (∀ e ∈ x.g.openBatches, (x.g.nextBatch - (x.lv 0 low).v.setWidth 16).toNat ≤ (x.g.nextBatch - e).toNat →
          x.s.batchBusy x.ag.core x.g.uid e = false) → x.g.failure = none → wakes (.bwaitWake ag)) ∧
      (∀ h a b, w = .cpwait → i = .cpwait h a b → clean 0 low → clean 1 low → (x.lv 0 low).v.toNat < 8 →
        (x.wg.chanW.getD (x.lv 0 low).v.toNat 0 - (x.lv 1 low).v).msb = false → wakes (.cpwaitWake ag)) ∧
      (∀ h a b l, w = .nwait → i = .nwait h a b → x.set.head? = some l → clean 0 l → (x.lv 0 l).v.toNat < 4096 →
        (x.one 1 l).p = false → (x.pair 1 l).toNat ≤ (x.ctxIsland.counter (x.lv 0 l).v.toNat).toNat → wakes (.nwaitWake ag)) ∧
      (∀ h d a l, w = .wltake → i = .wltake h d a → x.set.head? = some l → clean 1 l → (x.lv 1 l).v.toNat < 64 →
        (x.ctxIsland.qt = true ∨ x.ctxIsland.items (x.lv 1 l).v.toNat ≠ []) →
        (∀ p, x.ctxIsland.takers.find? (fun p => p.1 == (x.lv 1 l).v.toNat) = some p → p.2 = x.ag) →
        x.ctxIsland.out + x.set.length < 2 ^ 32 → wakes (.wltakeWake ag)) ∧
      (∀ h, w = .mxwait → i = .mxwait h → idle → wakes (.mxwaitWake ag)) ∧
      (∀ h m d a, w = .accrd → i = .accrd h m d a → x.b.parted = false → idle → (∀ l ∈ x.set, l < x.w) → x.w % 8 = 0 →
        (∀ l ∈ x.set, let k := (x.set.find? fun j => j / 8 == l / 8).getD 0
          clean 1 k ∧ (x.lv 1 k).v.toNat < x.wg.acc) → wakes (.accrdWake ag)) ∧
      (∀ h nt d, w = .rquiet → i = .rquiet h nt d → x.s.quiet x.ag.core x.g.uid = true →
        (nt = true ∨ x.g.failure = none ∨ x.g.pl = .s) → wakes (.rquietWake ag)) ∧
      (∀ h mx a b z p, w = .barw (x.lv 0 low).v.toNat p → i = .barw h mx a b → x.b.parted = false →
        x.wg.barriers[(x.lv 0 low).v.toNat]? = some z → clean 0 low → clean 1 low → z.bkn = false → (x.lv 1 low).v ≠ z.phase →
        (mx = true → read) → inOrder → wakes (.barrierWaitEnd ag)) ∧
      (∀ b phase mx h a, w = .bar b phase mx → i = .bar h mx a → (x.wg.barrier b).bkn = false → (x.wg.barrier b).phase ≠ phase →
        (mx = true → read) → inOrder → wakes (.barrierWaitEnd ag)) ∧
      (∀ h dsp ssp c d a b e segs, w = .copyEntry →
        (i = .cpy h dsp ssp c d a b ∧ segs = false) ∨ (i = .cpys h dsp ssp c d a b e ∧ segs = true) →
        (s.core ag.core).copyWaits.find? (fun p => p.1 == c.toNat) = some (c.toNat, ag) → x.CopyPasses dsp ssp segs →
        (x.core.chan c.toNat).length + (x.set.filter fun l => (x.copyReq dsp ssp segs l).bytes != 0).length ≤ 128 →
        wakes (.copyEntryGrant ag.core c.toNat)) ∧
      (w = .remoteSlot → (s.core ag.core).remoteWaits.head? = some ag → x.answers = [] →
        (∀ h sp nt d a b c kind, (i = .put h sp nt d a b c ∧ kind = .put) ∨ (i = .putn h sp nt d a b c ∧ kind = .putn) ∨
          (i = .get h sp nt d a b c ∧ kind = .get) →
          x.Sends (x.transferReq kind sp nt) (fun l => [x.one 0 l, x.one 1 l, x.one 2 l, x.one 3 l]) →
          wakes (.remoteSlotGrant ag.core)) ∧
        (∀ h nt d a, i = .notify h nt d a → x.Sends (x.postedReq nt) (fun l => [x.one 0 l, x.one 1 l]) →
          wakes (.remoteSlotGrant ag.core)) ∧
        (∀ h op cw nt ret d a b c kind k, (i = .ratom h op nt ret d a b c ∧ kind = .ratom op ∧ k = op.regs) ∨
          (i = .rcas h cw nt ret d a b c ∧ kind = .rcas cw ∧ k = cw.regs) →
          x.Sends (x.atomicReq kind k nt ret) (fun l =>
            let ja := if ret then 1 else 0
            [x.one (ja + 1) l, x.one ja l]) →
          out (.remoteSlotGrant ag.core) (.wait .reply i) fl.pc)))

/-- Handler frames are granted to the oldest request; a pending cause is taken, with the PC of its flow; the Sluice's delay ends;
a frame waiter's CALL or refill goes on when its granules are free, every word of their images back with its poison bit, as
provenance where that is set; the Cellar acts for it when nothing else can issue or after 16,384 cycles: along R155's order it
spills the granules of gangs on the quarters that are short until the need is there, each register's word and poison bit written
at I where R157 puts its image, the frames unchanged (R138 to R140, R155 to R157, R159, R318, R323 to R326). The model's choice are
the flow of a pending cause where the agent's own has ended (log entry 94), that frames of a handler's own CALLs are never spilled
(log entry 105), and die, position and site 0 in the image addresses of cores that have none (log entry 20). -/
def Obligations.HandlerAndFrameSteps : Prop :=
  ∀ (s : State) (ag : AgentRef) (g : Gang),
    let r := ag.core
    let c := s.core r
    s.gang? r ag.slot = some g →
    (∀ q, c.handReqs.head? = some ag.slot → g.mwaitHeld = false → c.fits g 2 = true → g.settled = true → c.halted = false → g.trapReq = some q →
      let entered := fun (e : Instr) => ∃ t g', exec e s = .next t ∧ t.gang? r ag.slot = some g' ∧ g'.trapReq = none ∧
        g'.epc = q.epc ∧ g'.tval = q.tval ∧ g'.cause = BitVec.ofNat 64 (q.cause.code + 256 * q.lane) ∧
        g'.hand.map (fun k => (k.kind, k.flow)) = some (q.kind, q.flow) ∧
        (g'.act.flow 0).pc = s.vector r g q.kind ∧ ag.slot ∉ (t.core r).handReqs
      entered (.handlerFrameGrant r) ∧ (q.kind = .context → entered (.trapEntry ag)) ∧
      (q.kind = .machine → entered (.machineTrapEntry ag))) ∧
    (∀ p f, g.nextPending = some p → s.flow? ag = some f → s.free? ag = true → f.unsettled = false → f.run ≠ .replay → f.run ≠ .ended →
      f.inMwait = none ∨ g.act.missing = [] →
      exec (.pendingCauseTaken ag) s = .next (s.takePending ag g p) ∧
      (g.pl = .s → (s.takePending ag g p).gang? r ag.slot = none) ∧
      (g.pl ≠ .s → (g.pl = .m → g.hand = none) → (∀ f ∈ g.act.flows, f.inMwait = none) → g.trapReq = none → g.reissue = none →
        s.debugged g = false →
        let pc := (g.act.flow (g.act.causeFlow ag.slice)).pc
        ∃ g', (s.takePending ag g p).gang? r ag.slot = some g' ∧ (∀ q, q ∈ g'.pend ↔ q ∈ g.pend ∧ q.cause ≠ p.cause) ∧
          (g'.hand.map (fun k => k.cause) = some p.cause ∧ (g'.cause, g'.epc, g'.tval) = (BitVec.ofNat 64 p.cause.code, pc, p.tval) ∨
            g'.hand = g.hand ∧ g'.trapReq.map (fun q => (q.cause, q.lane, q.epc, q.tval)) = some (p.cause, 0, pc, p.tval)))) ∧
    (∀ f n, s.flow? ag = some f → f.due = some n → n ≤ c.cycle →
      ∃ t, exec (.sluiceReleaseDelay ag) s = .next t ∧ OnlyCore r s t ∧ (t.flow? ag).map (fun f => f.due) = some none) ∧
    (∀ cycle rest f, c.handReqs = [] → c.waiters = (ag.slot, ag.slice, cycle) :: rest → s.flow? ag = some f →
      s.free? ag = true → c.fits g (g.needOf ag.slice) = true →
      (∀ n, f.run = .frameWait n none → g.act.missing = [] → ∃ t, exec (.frameWait r) s = .next t ∧ OnlyCore r s t ∧
        (t.flow? ag).map (fun f => f.run) = some .ready) ∧
      (∀ n, f.run = .frameWait n none → g.hand = none → g.owed = [] → s.phys = [] → s.canonical → s.calm r →
        (∀ o ∈ g.body.missing, none ∉ s.imageWords r .read (ag.slot, o)) →
        ∃ t g', exec (.frameWait r) s = .next t ∧ (t.flow? ag).map (fun f => f.run) = some .ready ∧ t.gang? r ag.slot = some g' ∧
          g'.body.frames = g.body.frames ∧ g'.body.missing = [] ∧
          (∀ o, o ∉ g.body.missing → g'.body.gran o = g.body.gran o) ∧
          ∀ o ∈ g.body.missing, g'.imageCells o = (s.imageWords r .read (ag.slot, o)).map fun w => asRead (s.wordI r (w.getD 0))) ∧
      (∀ n t i, f.run = .frameWait n (some i) → (∃ h k d off, i = .call h k d off) ∨ (∃ h k d a, i = .calli h k d a) ∧ g.act.missing = [] →
        exec i { s.modFlow ag fun f => { f with run := .ready } with cur := ag } = .next t →
        (t.flow? ag).map (fun f => f.run) ≠ some f.run → exec (.frameWait r) s = .next { t with cur := s.cur })) ∧
    (∀ t w rest, s.cellarAct r = some t →
      (c.waiters = w :: rest → w.2.2 + 16384 ≤ c.cycle → exec (.cellarTimeout r) s = .next t) ∧
      (∀ y, c.needy = some y → (y.handler = true ∨ ∀ k ∈ c.gangs, k.slot ≠ y.slot → c.gangIssues k = false) →
        exec (.cellarSpill r) s = .next t)) ∧
    ((c.gangs.map fun k => k.slot).Pairwise (· < ·) → (∀ k ∈ c.gangs, k.body.frames.length ≤ 255) → ∀ y, c.needy = some y →
      let order := c.victims y
      (∀ v o, (v, o) ∈ order ↔ ∃ k, c.gang? v = some k ∧ o < k.body.grans.length ∧ (k.body.gran o).resident = true ∧
        (v = y.slot → y.handler = false → o ∉ visible k.body.frames)) ∧
      order.Nodup ∧ (order.map c.spillKey).Pairwise (fun a b => a < b) ∧
      ∀ w, c.gang? y.slot = some w →
        let picks := c.spills w y.need order
        let words := picks.flatMap (s.imageWords r .write)
        picks ≠ [] → none ∉ words → words.Nodup → s.phys = [] → s.canonical → s.calm r →
        (∀ m : Mem, (∀ n, some n ∉ words → m.word n = s.wordI r n) → ∀ p ∈ picks,
          (s.withIslandMem r m).imageWords r .write p = s.imageWords r .write p) →
        ∃ t, s.cellarAct r = some t ∧
          (∀ v k, s.gang? r v = some k → ∃ k', t.gang? r v = some k' ∧ k'.body.frames = k.body.frames ∧
            k'.body.grans.length = k.body.grans.length ∧ ∀ o < k.body.grans.length, (k'.body.gran o).rows = (k.body.gran o).rows ∧
              ((k'.body.gran o).resident = true ↔ (k.body.gran o).resident = true ∧ (v, o) ∉ picks)) ∧
          ∀ p ∈ picks, ∀ k, s.gang? r p.1 = some k →
            (s.imageWords r .write p).map (fun w => t.wordI r (w.getD 0)) = k.imageCells p.2)

/-- A translation that the TLBs of the cluster or the die hold, or that a walk finds, fills the core's TLB and the agent goes on;
where there is none CCTL goes on and any other access asks the host, whose service writes the tables and lets the agent, or the
remote operation that waits at its target, go on, and whose refusal traps or fails the operation; a triggered monitor, the timeout,
and a replay whose tile operations have settled take effect; an uncorrectable state error becomes pending (R202, R223, R224,
R246, R292, R340, R344, R379). -/
def Obligations.AgentSteps : Prop :=
  ∀ (s : State) (ag : AgentRef) (g : Gang) (f : Flow),
    let r := ag.core
    let now := fun (t : State) => (t.flow? ag).map fun f => f.run
    s.gang? r ag.slot = some g → s.flow? ag = some f →
    (∀ p y k, f.run = .parked p → p.fault = none → (r.site.bind s.island?) = some y → g.ctx.bind y.ctx? = some k →
      (∀ e, y.seek r k p.va = some e → ∃ t, exec (.tlbWalkDone ag) s = .next t ∧ e ∈ (t.core r).tlb ∧ now t = some .ready) ∧
      (y.seek r k p.va = none → ∃ t, exec (.tlbWalkDone ag) s = .next t ∧
        now t = some (if p.access = .control then .ready else .parked { p with fault := some .pageNotPresent }))) ∧
    (∀ p c writes site y, f.run = .parked p → p.fault = some c → r.site = some site → s.island? site = some y →
      (∀ w ∈ writes, w.1 % 8 = 0 ∧ w.1 + 8 ≤ y.bytes) → s.heldPages site = [] →
      ∃ t, exec (.pageFaultServiced (.agent ag) writes) s = .next t ∧ now t = some .ready ∧
        ∀ k ∈ t.cores, k.ref.site = some site → ∀ e ∈ k.tlb, some e.ctx ≠ g.ctx) ∧
    (∀ p c, f.run = .parked p → p.fault = some c → g.dbgHeld = none →
      exec (.pageFaultRefused (.agent ag)) s = .next ((s.modFlow ag fun f => { f with run := .ready }).takeTrap r ag.slot
        (g.act.fi ag.slice) c p.lane f.pc p.va)) ∧
    (∀ n o c y writes, s.rop? n = some o → o.serve = some c →
      (s.island? o.target = some y → (∀ w ∈ writes, w.1 % 8 = 0 ∧ w.1 + 8 ≤ y.bytes) → s.heldPages o.target = [] →
        ∃ t, exec (.pageFaultServiced (.op n) writes) s = .next t ∧ t.rop? n = some { o with serve := none }) ∧
      exec (.pageFaultRefused (.op n)) s = .next (s.modRop n fun o => { o with serve := none, refused := true })) ∧
    (∀ d h dst a, f.run = .wait (.mwait d) (.mwait h dst a) → s.free? ag = true → g.act.missing = [] →
      let ended := fun (e : Instr) => ∃ t, exec e s = .next t ∧ OnlyCore r s t ∧ now t = some .ready ∧
        (t.flow? ag).map (fun f => (f.mon, f.pc)) = some (none, f.pc + BitVec.ofNat 64 (Instr.mwait h dst a).len)
      ended (.mwaitTimeout ag) ∧ (∀ m, f.mon = some m → m.trigger = true → ended (.mwaitWake ag))) ∧
    (∀ region, g.region = some region → f.run = .replay → g.act.missing = [] → (∀ o ∈ (s.core r).tops, o.gang ≠ g.uid) →
      ∃ t g', exec (.regionReplay ag) s = .next t ∧ OnlyCore r s t ∧ t.gang? r ag.slot = some g' ∧
        g'.region = some { region with replays := region.replays + 1 } ∧
        ∀ y ∈ g'.act.flows, y.pc = region.entry ∧ y.xm = region.xm ∧ y.stack = region.stack ∧ y.run = .ready ∧
          ∀ z ∈ y.win, z.full = false) ∧
    (∃ t g', exec (.mcStateUe ag) s = .next t ∧ OnlyCore r s t ∧ t.gang? r ag.slot = some g' ∧
      g'.pend.any (fun p => p.cause == .mcStateUe) = true ∧ g'.act = g.act) ∧
    (f.run = .ready → Config.agedCycles ≤ f.readyFor → f.aged = false → ∃ t, exec (.agedPromotion ag) s = .next t ∧
      OnlyCore r s t ∧ (t.flow? ag).map (fun f => f.aged) = some true) ∧
    (∀ fi, g.dbgHeld = some fi → ∃ t g', exec (.debugResume ag) s = .next t ∧ OnlyCore r s t ∧
      t.gang? r ag.slot = some g' ∧ g'.dbgHeld = none ∧ (g.act.flows[fi]? ≠ none → (g'.act.flow fi).pc = g.epc))

/-- Steps of a core, of a context and of a device interface that hold its gangs as a whole: the debugger's stop, an event
for WFI, a reset, containment of a context and of an interface, whose queues halt with code 7 and whose gangs wait for no
transfer any more, also of a link whose header failed, and a grid's watchdog; breakpoints where a resumed core's gangs stand do
not fire on the first fetch (R177, R330, R345 to R348, R351, R399). The model's choice are that the gangs of a killed context wait
for no transfer (log entry 44) and that a reset leaves a core with its first gang alone (log entry 85). -/
def Obligations.ContainmentSteps : Prop :=
  ∀ (s : State) (r : CoreRef) (ctx iface site grid : Nat),
    ((s.core? r).isSome = true → (s.core r).stopped = false → exec (.debuggerCoreStop r) s =
      .next (s.modCore r fun c => { c with stopped := true })) ∧
    (∀ ag : AgentRef, ag.core = r → s.gang? r ag.slot = none → (s.core r).stopped = true →
      let pass := fun (b : Body) => { b with flows := b.flows.map fun f => { f with passBp := true } }
      exec (.debugResume ag) s = .next (s.modCore r fun c =>
        { c with stopped := false, gangs := c.gangs.map fun g => g.modAct pass })) ∧
    ((s.core? r).isSome = true → ∃ t, exec (.wfiEvent r) s = .next t) ∧
    ((s.core r).halted = true → r.isCompute = false → ∃ t g, exec (.coreReset r) s = .next t ∧ (t.core r).gangs = [g] ∧
      g.pl = .m ∧ g.width = 8 ∧ g.body.frame.ngr = 4 ∧ (t.core r).halted = false) ∧
    (∀ k, s.context? ctx = some k → k.killed = false → ∃ t, exec (.contextKill ctx) s = .next t ∧
      (∀ o ∈ t.rops, o.charge.ctx ≠ some ctx) ∧ (t.context? ctx).map (fun k => (k.killed, k.groups)) = some (true, []) ∧
      (∀ c, t.context? ctx = some c → ∀ q ∈ c.queues, q.qerr = 7) ∧
      ∀ c ∈ t.cores, (∀ q ∈ c.chans, ∀ y ∈ q.2, y.charge.ctx ≠ some ctx) ∧
        ∀ g ∈ c.gangs, g.ctx = some ctx → g.pend.any (fun p => p.cause == .vacate) = true ∧
          ∀ f ∈ g.act.flows, ∀ i, f.run ≠ .wait .reply i ∧ f.run ≠ .wait .copyEntry i ∧ f.run ≠ .wait .remoteSlot i) ∧
    (∀ hop, iface < 1536 → ∃ t, exec (.headerUe ⟨iface, hop⟩) s = .next t ∧ (t.iface? iface).map (fun i => i.st) = some .error ∧
      ((∀ o ∈ s.rops, o.kind.atomic = false) → (∀ k ∈ s.contexts, k.iface = iface → ∀ o ∈ t.rops, o.charge.ctx ≠ some k.num) ∧
        ∀ h, hop = some h → ∀ o ∈ t.rops, h ∈ o.path → o.st = .held ∨ o.st = .answered)) ∧
    (∀ y g k at', s.island? site = some y → y.grid? grid = some g → y.ctx? g.ctx = some k → g.released = some at' →
      k.watchdog ≠ 0 → k.watchdog * 2 ^ 20 < (y.clock - at').toNat → g.watched = false → g.complete = false →
      ∃ t, exec (.watchdog site grid) s = .next t ∧
        (((t.island? site).bind fun y => y.grid? grid).map fun g => g.watched) = some true)

/-- Steps of the memory levels and of the copy channels: a sector's dirty data go on to D, a die's oldest write, with those
that belong to it, to I; an uncorrectable word becomes poison, of kind 5 where a cache holds its line dirty; a page that nothing
in flight uses leaves every TLB of the island; the copy at the head of a channel moves its next word, with its poison bit, from
the source address to the destination address, and W grows by 4; a run joins its list; a carve is changed on an empty core (R211,
R213, R214, R223, R252, R286, R288, R291 to R294, R299, R334). The matrix array: a pass closes 4 clocks after its first quarter,
the oldest closed one starts on an idle, open array and reads B, and 16 clocks later ends: every operation then takes effect, in
order, on its tile, with R268's sums, partials and promotions and R269's merges, but those stay, in order, that are not done or
that come after one of their gang on their tile which is not (R268 to R272, R276, R278, R318). The model's choice are the
bound of L2 and its order (log entry 9), one word for each copy step (log entry 39), what a scrub meets (log entry 57) and that
a carve change empties all of L1 (log entry 58). -/
def Obligations.MemoryAndMatrixSteps : Prop :=
  (∀ (s : State) (r : CoreRef) (site die n : Nat) (y : Island),
     s.island? site = some y →
     (∀ t ∈ (s.core r).l1, t.idx = n → t.dirtyWrites ≠ [] → r.site = some site →
       (y.queue r.die).length + (((s.core r).l1.filter fun t => t.idx == n).flatMap Sector.dirtyWrites).length ≤ Config.l2Lines →
       ∃ u, exec (.l1WriteOnward r n) s = .next u ∧ SpaceOnly ⟨r, 0, none⟩ .global s u ∧
         ((u.island? site).map fun z => z.queue r.die) =
           some (y.queue r.die ++ ((s.core r).l1.filter fun t => t.idx == n).flatMap Sector.dirtyWrites) ∧
         ∀ t ∈ (u.core r).l1, t.idx = n → t.dirtyWrites = []) ∧
     (y.queue die ≠ [] →
       let k := withTied 1 (y.queue die)
       ∃ u, exec (.l2WriteToL3 site die) s = .next u ∧ SpaceOnly ⟨.steward site, 0, none⟩ .global s u ∧
         (∀ q, (u.core q).l1 = (s.core q).l1) ∧ 0 < k ∧ (u.island? site).map (fun z => (z.queue die, z.mem)) =
           some ((y.queue die).drop k, ((y.queue die).take k).foldl (fun m d => m.write d) y.mem)) ∧
     (4 * (n / 4) + 4 ≤ y.bytes → ∃ u z, exec (.scrubUe site n) s = .next u ∧ u.island? site = some z ∧
       (y.mem.wf = true → (∀ q ∈ y.l2, ∀ d ∈ q.2, d.word / 32 ≠ n / 4 / 32) → (z.mem.word (n / 4)).p = true ∧
         provKind (z.mem.word (n / 4)).v = if n / 4 / 32 ∈ y.l3 then 5 else 3) ∧
       ((∃ q ∈ y.l2, ∃ d ∈ q.2, d.word = n / 4) → ∀ q ∈ z.l2, ∀ d ∈ q.2, d.word = n / 4 → d.lv.p = true ∧ provKind d.lv.v = 5) ∧
       ((∃ q ∈ y.l2, ∃ d ∈ q.2, d.word / 32 = n / 4 / 32) → ∃ q ∈ z.l2, ∃ d ∈ q.2, d.word = n / 4 ∧ d.mask = 15 ∧
         d.lv.p = true ∧ provKind d.lv.v = 5)) ∧
     (∀ ctx va, (∀ e ∈ s.heldPages site, e.covers ctx va = false) →
       ∃ u z, exec (.tlbInvalidate site ctx va) s = .next u ∧ u.island? site = some z ∧
         (∀ q ∈ z.clusterTlb ++ z.dieTlb, ∀ e ∈ q.2, e.covers ctx va = false) ∧
         ∀ c ∈ u.cores, c.ref.site = some site → ∀ e ∈ c.tlb, e.covers ctx va = false) ∧
     (∀ ch k rest, (s.core r).chan ch = k :: rest → (s.core r).holdsCopy k (k.wordAddr k.done).2 = false →
       ∃ u, exec (.copyPerform r ch) s = .next u ∧
         (u.core r).chan ch = (if k.done + 1 < k.segWords * k.count then { k with done := k.done + 1 } :: rest else rest) ∧
         (let at' := fun (t : State) (sp : Space) (a : Dword) => t.xferWord r k.wg k.charge sp k.pages a
          let a := k.wordAddr k.done
          s.phys = [] → s.canonical → s.calm r → (at' s k.ssp a.1).isSome = true → (at' s k.dsp a.2).isSome = true →
            at' u k.dsp a.2 = at' s k.ssp a.1) ∧
         ∀ v, ((s.core r).wg? k.wg).isSome = true → ((s.core r).wg k.wg).chanW[ch]? = some v →
           ((u.core r).wg k.wg).chanW[ch]? = some (v + 4)) ∧
     (∀ ctx k p, y.ctx? ctx = some k → k.puts[n]? = some p → ∃ u, exec (.wlputAppend site ctx n) s = .next u ∧
       (u.ctxAt? site ctx).map (fun z => (z.puts, z.items p.list)) = some (k.puts.eraseIdx n,
         if (k.list? p.list).isSome then k.items p.list ++ p.items else [])) ∧
     (∀ w, (s.core? r).isSome = true → (s.core r).carveWant = some w → (s.core r).wgs = [] →
       ∃ u, exec (.carveChange r) s = .next u ∧ (u.core r).carve = w ∧ (u.core r).l1 = [] ∧ (u.core r).carveWant = none)) ∧
  (∀ (s : State) (r : CoreRef),
     let c := s.core r
     (s.core? r).isSome = true →
     (∀ p since, p ∈ c.passes → p.st = .gathering since → since + Config.passGather ≤ c.cycle →
       ∃ t, exec (.matrixPassClose r) s = .next t ∧ OnlyCore r s t ∧
         (t.core r).passes.length = c.passes.length ∧
         ∀ q ∈ (t.core r).passes, ∀ since, q.st = .gathering since → c.cycle < since + Config.passGather) ∧
     (∀ p op, c.passes.find? (fun p => p.st == .closed) = some p → c.tops.find? (fun t => p.ops.contains t.id) = some op →
       (∀ q ∈ c.passes, ∀ since, q.st ≠ .running since) → (c.frozen = false ∨ ∀ o ∈ c.tops, o.id ∈ p.ops → o.unread = false) → s.sluiceOpen r = true →
       ∃ t, exec (.matrixPassStart r) s = .next t ∧
         (∃ q ∈ (t.core r).passes, q.ops = p.ops ∧ q.st = .running c.cycle) ∧
         (∀ o ∈ (t.core r).tops, o.id ∈ p.ops → o.b ≠ none) ∧
         ∀ first af bf cm b0 rows, c.tops.find? (fun o => p.ops.contains o.id && o.unread) = some first →
           first.act = .mmq af bf cm b0 rows → s.phys = [] → s.canonical →
           let w := c.wg first.wg
           let m := if cm then s.commonsOf ⟨r, first.wg, first.charge.ctx⟩ else w.scratch
           let read := ((List.range (bf.extent / 4)).map fun k => asRead (m.word (b0 / 4 + k)), w.cb.getD [])
           (t.core r).tops = c.tops.map fun o => if p.ops.contains o.id && o.b.isNone then { o with b := some read } else o) ∧
     (∀ p since, p ∈ c.passes → p.st = .running since → since + Config.passCycles ≤ c.cycle → (∀ e ∈ s.phys, e ≠ .residue) →
       ∃ t, exec (.matrixPassEnd r) s = .next t ∧ (t.core r).passes.length < c.passes.length ∧
         ∀ o ∈ (t.core r).tops, o.ready = true → ∃ k ∈ (t.core r).tops, k.gang = o.gang ∧ k.wg = o.wg ∧ k.tile = o.tile ∧
           k.ready = false) ∧
     (∀ p, c.passes.find? (fun p => match p.st with
         | .running since => decide (since + Config.passCycles ≤ c.cycle)
         | _ => false) = some p → s.phys = [] → (∀ w n, ((c.wg w).tile n).length = 8) →
       let ops := c.tops.map fun o => if p.ops.contains o.id then { o with done := true } else o
       let held := fun (i : Nat) (o : TileOp) => (ops.take (i + 1)).any fun k =>
         k.gang == o.gang && k.wg == o.wg && k.tile == o.tile && !k.ready
       let pick := fun (f : Nat → TileOp → Bool) => (List.range ops.length).filterMap fun i => (ops[i]?).filter (f i)
       ∃ t, exec (.matrixPassEnd r) s = .next t ∧ (t.core r).passes = c.passes.filter (fun q => q.ops != p.ops) ∧
         (t.core r).tops = pick held ∧
         ∀ w n, (c.wg? w).isSome = true →
           TileAfter (pick fun i o => !held i o && o.wg == w && o.tile == n) ((c.wg w).tile n) (((t.core r).wg w).tile n)))

/-- The steps of remote operations whose path and target are in place: a PUT or PUTN word is read at the sender and
performed at the target, a GET word read there and written at the sender, a poisoned one with a new origin of its kind where it
arrives; the last word of each ends the transfer, a PUTN or NOTIFY then adds to its counter; an atomic reads its words at the
target, replaces them by its result, and takes their old values back; a fault at the target
waits for the host, whose refusal, like a lost site, fails the operation; a vote of a member is counted once (R334, R379 to R384,
R387, R395, R396). One word for each step is the model's choice (log entry 39), and so is REMOTE_HOLE for an operation that is
refused at its target or whose context the target does not hold (log entry 41); that an atomic reads a word with its poison bit
set as provenance, whatever its other bits, is the model's reading (log entry 102). -/
def Obligations.RemoteSteps : Prop :=
  ∀ (s : State) (o : Rop),
    let gone := fun (t : State) => ∀ p ∈ t.rops, p.id ≠ o.id
    let counter := fun (t : State) (k n : Nat) => (t.ctxAt? o.target k).map fun y => y.counter n
    let out := s.carries (s.wayTo o.path) = true
    let back := s.carries (wayBack o.path) = true
    let mapped := ∃ pa cp, s.nextTr o = .ok pa cp
    let clean := s.phys = [] ∧ s.canonical
    let there := fun (t : State) (pa : Nat) => (t.island? o.target).map fun y => y.mem.word (pa / 4)
    let here := fun (t : State) => t.xferWord o.ag.core o.wg o.charge o.sp o.pages
      (wrapAddr o.sp (o.localAddr + BitVec.ofNat 64 (4 * o.done)))
    let asks := fun (e : Instr) => ∀ c, s.nextTr o = .denied c →
      ∃ t, exec e s = .next t ∧ t.rop? o.id = some { o with serve := some c }
    s.rop? o.id = some o →
    (s.reaches o = true → out → (o.kind = .put ∨ o.kind = .putn → asks (.remoteWriteArrival o.id)) ∧
      (o.kind = .get → asks (.getTargetRead o.id)) ∧
      (o.kind.atomic = true → s.laneFirst o = true → asks (.remoteAtomicAtTarget o.id))) ∧
    (o.refused = true → s.arrived o = true → (∀ p ∈ s.plots, p.uncontained = true → s.touches o p.site = false) →
      s.ropFault o = some .remoteHole) ∧
    ((o.kind = .put ∨ o.kind = .putn) → s.reaches o = true → out → mapped →
      ∃ t, exec (.remoteWriteArrival o.id) s = .next t ∧
        (4 * (o.done + 1) < o.bytes → (t.rop? o.id).map (fun p => (p.done, p.st)) = some (o.done + 1, o.st)) ∧
        (o.bytes ≤ 4 * (o.done + 1) → (o.kind = .put → gone t) ∧
          (o.kind = .putn → (t.rop? o.id).map (fun p => p.st) = some .incrementing)) ∧
        ∀ pa cp v, s.nextTr o = .ok pa cp → clean → s.calm o.ag.core → here s = some v → ∃ w, there t pa = some w ∧ Carried v w) ∧
    (∀ k v, o.st = .incrementing → s.ropLost o = false → out → o.charge.ctx = some k → counter s k (descCtr o.desc) = some v →
      ∃ t, exec (.putnIncrement o.id) s = .next t ∧ gone t ∧ counter t k (descCtr o.desc) = some (v + 1)) ∧
    (o.kind = .get → s.reaches o = true → out → mapped →
      ∃ t, exec (.getTargetRead o.id) s = .next t ∧
        (t.rop? o.id).map (fun p => (p.data.length, p.st)) =
          some (o.data.length + 1, if 4 * (o.data.length + 1) < o.bytes then o.st else .returning) ∧
        ∀ pa cp v, s.nextTr o = .ok pa cp → clean → there s pa = some v → (t.rop? o.id).map (fun p => p.data) = some (o.data ++ [v])) ∧
    (o.kind = .get → o.done < o.data.length → s.ropLost o = false → back → s.holdsGet o = false → ∃ t, exec (.getDataArrival o.id) s = .next t ∧
      (if 4 * (o.done + 1) < o.bytes then (t.rop? o.id).map (fun p => p.done) = some (o.done + 1) else gone t) ∧
      (clean → (here s).isSome = true → ∃ w, here t = some w ∧ Carried (laneAt o.data o.done) w)) ∧
    (o.kind.atomic = true → s.reaches o = true → out → s.laneFirst o = true → mapped →
      ∃ t, exec (.remoteAtomicAtTarget o.id) s = .next t ∧
        (t.rop? o.id).map (fun p => (p.st, p.data.length)) = some (.returning, o.bytes / 4) ∧
        ∀ pa cp old, s.nextTr o = .ok pa cp → clean → o.charge.psn = false → o.bytes = 4 → there s pa = some old →
          (∀ op v, o.kind = .ratom op → op.regs = 1 → o.operand = [v] → v.p = false →
            there t pa = some (atomNode op old v) ∧ (t.rop? o.id).map (fun p => p.data) = some [old]) ∧
          (∀ cw a b, o.kind = .rcas cw → cw.regs = 1 → o.operand = [a, b] → a.p = false → b.p = false →
            there t pa = some (if old.p then asRead old else if old.v = a.v then b else old) ∧
            (t.rop? o.id).map (fun p => p.data) = some [old])) ∧
    (o.kind.atomic = true → o.st = .returning → s.ropLost o = false → back → ∃ t, exec (.remoteReplyArrival o.id) s = .next t ∧
      (((s.core o.ag.core).gangs.any fun g => g.uid == o.gang) = false → gone t) ∧
      (((s.core o.ag.core).gangs.any fun g => g.uid == o.gang) = true → (∃ p ∈ s.rops, p.id ≠ o.id ∧ p.ag = o.ag ∧
        p.gang = o.gang ∧ p.kind.atomic = true ∧ p.st ≠ .answered) → (t.rop? o.id).map (fun p => p.st) = some .answered)) ∧
    (∀ k v, o.kind = .notify → s.reaches o = true → out → o.charge.ctx = some k → counter s k (descCtr o.desc) = some v →
      ∃ t, exec (.notifyIncrement o.id) s = .next t ∧ gone t ∧
        counter t k (descCtr o.desc) = some (v + (laneAt o.operand 0).v.setWidth 64)) ∧
    (∀ cause, s.ropFault o = some cause → ∃ t, exec (.remoteOpFail o.id) s = .next t ∧
      (o.kind.atomic = false → gone t ∧ ∀ g, (s.core o.ag.core).gangs = [g] → g.uid = o.gang → o.nt = false →
        g.failure = none → ∃ g', (t.core o.ag.core).gangs = [g'] ∧ g'.failMask.getLsbD o.target = decide (o.target < 48) ∧
          g'.failure.map (fun f => (f.cause, f.batch)) = some (cause, o.batch))) ∧
    (∀ site ctx n g k, s.presided = true → s.group? ctx n = some g → s.ctxAt? site ctx = some k → n ∈ k.ballots →
      ∃ t, exec (.voteCount site ctx n) s = .next t ∧
        (g.mem.getLsbD site = false → (t.group? ctx n) = some g) ∧
        (g.mem.getLsbD site = true → s.allVoted { g with votes := g.votes ||| BitVec.ofNat 48 (2 ^ site) } = false →
          (t.group? ctx n).map (fun h => h.votes) = some (g.votes ||| BitVec.ofNat 48 (2 ^ site))))

/-- LAUNCH QUEUES AND GRIDS: a doorbell and a restart write their queue, or halt it with code 1 (R305, R306); the packet at
QRD is refused with its code, no island changed, or routed: each island that it names has one more grid, as its fields and its
descriptor say, with its arguments copied, unless it has received this index last, no other island changes, and QRD goes on (R306,
R307, R309); the code is the first of R308's table that applies. A queue restarted where nothing was refused stays where it is (log
entry 62); the packet's words count without their poison bits, which is the model's choice (log entry 110), and so is what an
island's check and an index received twice are (log entry 63); a grid whose dependences hold is released and its
workgroups are dealt to the eligible clusters in turn (R310, R312); a grid with nothing left completes and its counter grows
by 1, but for those that the device keeps (R164, R310, R387; log entry 63). -/
def Obligations.LaunchSteps : Prop :=
  (∀ (s : State) (ctx queue : Nat) (k : Context) (q : LaunchQueue),
    let leaves := fun (e : Instr) (r : LaunchQueue) =>
      ∃ t, exec e s = .next t ∧ t.cores = s.cores ∧ t.plots = s.plots ∧ t.queue? ctx queue = some r
    s.context? ctx = some k → k.queues[queue]? = some q → s.runs ctx = true →
    (∀ qwr, leaves (.launchQueueDoorbell ctx queue qwr)
      (if (12 < q.qsz ∨ 2 ^ (q.qsz + 4) < (qwr - q.qrd).toNat) ∧ q.qerr = 0 then { q with qwr := qwr, qerr := 1, qei := q.qrd }
      else { q with qwr := qwr })) ∧
    leaves (.queueRestart ctx queue) (if q.qerr = 0 then q else
      let r := { q with qerr := 0, qrd := if q.qei = q.qrd ∧ q.qrd = q.qwr then q.qrd else q.qei + 1 }
      if 12 < q.qsz ∨ 2 ^ (q.qsz + 4) < (r.qwr - r.qrd).toNat then { r with qerr := 1, qei := r.qrd } else r) ∧
    (∀ x, s.homeOf ctx = some x → q.qerr = 0 → q.qrd ≠ q.qwr → k.killed = false →
      (∃ r ∈ s.reeves, r.presiding = true ∧ r.failed = false) →
      (q.broken = true → leaves (.launchPacket ctx queue) { q with qerr := 1, qei := q.qrd }) ∧
      (∀ p, q.broken = false →
        x.readVa ctx (q.qbase + BitVec.ofNat 64 (128 * (q.qrd.toNat % 2 ^ (q.qsz + 4)))) 32 = some p →
        leaves (.launchPacket ctx queue) (if s.packetCode ctx p = 0 then { q with qrd := q.qrd + 1 }
          else { q with qerr := s.packetCode ctx p, qei := q.qrd }) ∧
        ∃ t, exec (.launchPacket ctx queue) s = .next t ∧ (s.packetCode ctx p ≠ 0 → t.islands = s.islands) ∧
          (s.packetCode ctx p = 0 → (∀ n, n ∉ packetNames p → t.island? n = s.island? n) ∧
            ∀ n ∈ packetNames p, ∃ y z, s.island? n = some y ∧ t.island? n = some z ∧
              ((∃ e ∈ y.seen, e = (ctx, queue, q.qrd)) → z = y) ∧
              ((∀ e ∈ y.seen, e ≠ (ctx, queue, q.qrd)) → ∃ g, z.grids.getLast? = some g ∧ g.MadeBy y ctx p ∧
                z.grids.dropLast.map (fun h => { h with met := false }) = y.grids.map fun h => { h with met := false }))))) ∧
  (∀ (s : State) (ctx : Nat) (p : Lanes),
     let f := packetField p
     let code := s.packetCode ctx p
     let named := fun (P : Island → CtxIsland → Prop) => ∃ n ∈ packetNames p, (s.plot n).st ≠ .lost ∧
       ∃ x k, s.island? n = some x ∧ x.ctx? ctx = some k ∧ P x k
     let desc := fun (x : Island) => x.desc ctx (BitVec.ofNat 64 (f 0x08 8))
     let unreadable := named fun x _ => ∀ d, desc x = some d →
       d.args ≠ 0 ∧ (f 0x10 8 % 4 ≠ 0 ∨ x.readVa ctx (BitVec.ofNat 64 (f 0x10 8)) (d.args / 4) = none)
     let unserved := packetNames p = [] ∨ ∃ n ∈ packetNames p, s.bound ctx n = false ∨ (s.plot n).st = .lost ∨
       (s.plot n).st = .draining ∨ ∀ x, s.island? n = some x → x.granary = true
     let nowhere := named fun _ k => ∀ b < 16, (f 0x22 2).testBit b = true → ∀ cl, k.clusters[b % k.clusters.length]? = some cl →
       (f 0x20 1).testBit (cl / 8) = false
     let beyond := named fun x k => ∃ d, desc x = some d ∧ k.quota < d.commons
     let large := named fun x _ => ∃ d, desc x = some d ∧ ¬ (d.gangs ≤ 32 / d.width * (256 / d.frame) ∧ d.framemax ≤ 256 ∧
       d.localBytes ≤ 393216 ∧ d.acc ≤ 256 ∧ d.bars ≤ 256)
     (PacketWrong p → code = 1) ∧ (¬ PacketWrong p →
       (unreadable → code = 2) ∧ (¬ unreadable → (unserved → code = 3) ∧ (¬ unserved → (nowhere → code = 4) ∧
         (¬ nowhere → (beyond → code = 5) ∧ (¬ beyond → (large → code = 6) ∧ (¬ large → code = 0))))))) ∧
  (∀ (s : State) (site grid : Nat) (x : Island) (g : Grid),
    let cls := x.eligible g
    s.island? site = some x → x.grid? grid = some g → g.dropped = false →
    (g.released = none → x.depsHold g = true → ∃ t y, exec (.gridRelease site grid) s = .next t ∧ t.cores = s.cores ∧
      t.island? site = some y ∧ (y.grid? grid).map (fun h => h.released) = some (some x.clock) ∧
      (g.dealt = 0 → ∀ n cl, n < g.count → cls[n % cls.length]? = some cl →
        ∃ q ∈ y.cqueues, q.cluster = cl ∧ q.grid = grid ∧ ⟨n, none⟩ ∈ q.items)) ∧
    (g.released ≠ none → g.remaining = 0 → g.complete = false → s.gridBusy site grid = false →
      ∃ t y, exec (.gridComplete site grid) s = .next t ∧ t.cores = s.cores ∧ t.island? site = some y ∧
        (y.grid? grid).map (fun h => h.complete) = some true ∧
        ∀ n k, g.cmpl = some n → x.ctx? g.ctx = some k → (y.ctx? g.ctx).map (fun j => j.counter n) = some (k.counter n + if n < 0xFE0 then 1 else 0)))

/-- ADMISSION, BARTER AND VACATING: a core that admits a grid's head takes its workgroup and its gangs (R313 to R315); an
operating point of a domain's hint, or of the firmware's default where no grid gives one, is recorded (R315; log entry 64); an
idle cluster takes the younger half of a victim's unstarted workgroups, the order of the victims and where it starts being the
model's choice (R312; log entry 109); the cores named by a request stop, each gang with PREEMPT pending, kept for the launch that
asked, and open again when their workgroups have gone (R355 to R357), the time of which is the model's reading (log entry 65). -/
def Obligations.AdmissionSteps : Prop :=
  ∀ (s : State) (site : Nat) (x : Island), s.island? site = some x →
    (∀ die pos grid g u k,
      let r := CoreRef.compute site die pos
      let cl := 8 * die + pos / 8
      (s.core? r).isSome = true → die < 2 → pos < 64 → x.grid? grid = some g → x.head cl grid = some u →
      s.context? g.ctx = some k → s.admits r g u = true → s.stableFor x g = true → s.turnOf x site die pos g u = true →
      ∃ t w, exec (.workgroupAdmit r grid) s = .next t ∧ (t.core r).wgs = (s.core r).wgs ++ [w] ∧
        (w.wgx, w.grid, w.ctx, w.gangs) = (BitVec.ofNat 32 u.wgx, some grid, some g.ctx, g.desc.gangs) ∧
        (t.core r).gangs.length = (s.core r).gangs.length + (u.members g.desc).length ∧
        (t.island? site).map (fun y => y.cqueues) = some (x.cqueues.map fun q =>
          if q.cluster = cl ∧ q.grid = grid then { q with items := q.items.drop 1 } else q)) ∧
    (∀ die domain level, die < 2 → domain < 4 → level < 16 → (∀ h, s.hint x die domain = some h → h = level) →
      ∃ t, exec (.operatingPointStable site die domain level) s = .next t ∧ t.cores = s.cores ∧
        (t.island? site).bind (fun y => y.oppoints.find? fun p => p.die == die && p.domain == domain) =
          some ⟨die, domain, level, s.hint x die domain⟩) ∧
    (∀ cluster grid v j g q vq,
      let named := fun (c : Nat) (z : ClusterQueue) => z.cluster == c && z.grid == grid
      x.grid? grid = some g → x.cqueues.find? (named cluster) = some q → q.items = [] →
      ((x.ctx? g.ctx).any fun k => (k.bits cluster).any fun b => g.brt / 2 ^ b % 2 == 1) = true → j < 8 →
      s.admits (.compute site (cluster / 8) (cluster % 8 * 8 + j)) g ⟨0, none⟩ = true →
      ((x.victims g q).find? fun c => x.cqueues.any fun z => named c z && 2 ≤ z.movable) = some v →
      x.cqueues.find? (named v) = some vq →
      let young := (vq.items.filter fun u => u.saved.isNone).drop (vq.movable - vq.movable / 2)
      ∃ t y, exec (.barterRequest site cluster grid) s = .next t ∧ t.cores = s.cores ∧ t.island? site = some y ∧
        (y.cqueues.find? (named v)).map (fun z => z.items) = some (vq.items.filter fun u => !young.contains u) ∧
        (y.cqueues.find? (named cluster)).map (fun z => (z.items, z.victim)) = some (young, v)) ∧
    (∀ count grid g, x.grid? grid = some g →
      let rs := ((coresOf site).filter (s.mayVacate x g.prio)).take count
      x.granary = false → rs ≠ [] → ∃ t, exec (.vacateRequest site count grid) s = .next t ∧ ∀ r, rs = [r] → (s.core? r).isSome = true →
        (t.core r).askedBy = some grid ∧ (t.core r).vacated = true ∧ (t.core r).frozen = true ∧ (t.core r).admission = false ∧
        ∀ g ∈ (t.core r).gangs, g.pend.any (fun p => p.cause == .preempt) = true) ∧
    (∀ die pos,
      let r := CoreRef.compute site die pos
      (s.core r).vacated = true → (s.core r).wgs = [] → ∃ t, exec (.coreVacated r) s = .next t ∧
        (t.core r).vacated = false ∧ (t.core r).frozen = false ∧ (t.core r).admission = (s.core r).carveWant.isNone)

/-- RESTORE ENTRY: a wrong control record kills the context; else the gang takes its numbers from the record and waits for the
granules of its first frame; each frame that has its granules is filled, and the gang waits for the next one; last it enters its
handler at S level with the area's address in rows 0 and 1; the TRETs of a workgroup complete together (R364, R365; log entry 67). -/
def Obligations.RestoreSteps : Prop :=
  (∀ (s u : State) (ag : AgentRef) (g : Gang) (a : Dword),
    let r := ag.core
    let after := s.acquire r .i
    s.gang? r ag.slot = some g → g.restore = some a → s.areaBad r g a = none →
    (g.body.frames = [] → after.recordWrong r g a = true →
      ∃ t, exec (.restoreEntry ag) s = .next t ∧ t.gang? r ag.slot = none) ∧
    (g.body.frames = [] → after.recordWrong r g a = false →
      ∃ t h, exec (.restoreEntry ag) s = .next t ∧ t.gang? r ag.slot = some h ∧ h.epc = after.savedD r g a 0 ∧
        h.body.frames.length = fieldOf (after.savedD r g a 8) 24 8 ∧ h.mxp = fieldOf (after.savedD r g a 8) 0 8 ∧
        (t.core r).waiters = (s.core r).waiters ++ [(ag.slot, 0, (s.core r).cycle)]) ∧
    (g.body.frames ≠ [] → (s.core r).handReqs = [] → ((s.core r).waiters.head?.map fun p => p.1) = some ag.slot →
      (s.core r).fits g (g.needOf 0) = true →
      g.filled < g.body.grans.length →
      (List.range (g.needOf 0)).foldl (fun (p : State × Bool) k =>
        if p.2 then p.1.fillFrom r ag.slot a (g.filled + k) else p) (s, true) = (u, true) →
      exec (.restoreEntry ag) s = .next (u.modCore r fun c =>
        { c with waiters := c.waiters.filter (fun p => p.1 != ag.slot) ++ [(ag.slot, 0, c.cycle)] })) ∧
    (g.body.frames ≠ [] → (s.core r).handReqs = [] → ((s.core r).waiters.head?.map fun p => p.1) = some ag.slot →
      (s.core r).fits g (g.needOf 0) = true → g.body.grans.length ≤ g.filled →
      ∃ t h, exec (.restoreEntry ag) s = .next t ∧ t.gang? r ag.slot = some h ∧ h.restore = none ∧ h.pl = .s ∧ h.ppl = .u ∧
        h.hand.map (fun k => k.kind) = some .restore ∧ (h.act.flow 0).pc = s.vector r g .context ∧
        ∀ l < g.width, laneAt (h.act.row 0) l = ⟨loWord a, false⟩ ∧ laneAt (h.act.row 1) l = ⟨hiWord a, false⟩)) ∧
  (∀ (s : State) (core : CoreRef) (wg : Nat),
    let gs := (s.core core).gangs.filter fun g => g.wg == wg
    gs ≠ [] → gs.all Gang.atRestoreTret = true → ((s.core core).wg wg).saved = [] → ∃ t, exec (.restoreTretRelease core wg) s = .next t ∧
      ∀ g h, gs = [g] → s.gang? core g.slot = some g → g.hand = some h → h.cause.fatal = false → g.body.dead = false →
        (t.gang? core g.slot).map (fun v => (v.hand.isSome, v.pl)) = some (false, g.ppl))

/-- PLOTS MOVE AS THE TABLE SAYS: each event takes a plot from the listed states to the next one, and leaves it as it is in
every other state; presence, power, the reset sequence with what it measures, training, admission and loss have the effects
listed with them; a loss ends, once every map shows it, in FENCED with LOSS counted (R389, R390, R403). The model's choice are
the cores that leave with a lost plot (log entry 68), the counter 0 of a new link direction (log entry 71), the two steps of a
loss (log entry 76), which neighbours PORTS_TRAINED takes in (log entry 77), the drain of an unbound plot, RELEASED at once (log
entry 78), and the comparison of digests with the approved ones (log entry 104). -/
def Obligations.PlotSteps : Prop :=
  ∀ (s : State) (n : Nat) (dev : BitVec 384) (digs : List (BitVec 384)),
    let st := (s.plot n).st
    let live := [PlotSt.powered, .measured, .trained, .admitted, .serving, .draining]
    let moves := fun (e : Instr) (to' : PlotSt) => ∃ t, exec e s = .next t ∧ t.contexts = s.contexts ∧ (t.plot n).st = to'
    let good := fun (x : Island) (k : Nat) => (s.plot n).approved.head? = x.digests.head? ∧
      (s.plot n).approved[k]? = some (if k = 2 ∧ x.granary = true then 0 else (s.plot n).digests.getD k 0)
    n < 48 → s.presided = true →
    (∀ p ∈ [(Instr.measurementRefused n, [PlotSt.powered, .measured], PlotSt.fenced),
        (.trainingFailed n, [.powered, .measured], .fenced), (.plotAdmit n, [.trained], .admitted),
        (.serviceRequest n, [.released], .admitted), (.heartbeatMiss n, live, .lost),
        (.fatalIslandError n, live, .lost), (.powerGood n, [.seated], .powered), (.presenceLost n, live, .lost),
        (.presenceLost n, [.seated, .released, .fenced], .vacant),
        (.presenceDetected n ⟨.compute, dev, digs⟩, [.vacant], .seated),
        (.presenceDetected n ⟨.granary, dev, digs⟩, [.vacant], .seated)],
      st ∈ p.2.1 → moves p.1 p.2.2) ∧
    (∀ p ∈ [(Instr.measurementRefused n, [PlotSt.powered, .measured]), (.trainingFailed n, [.powered, .measured]),
        (.plotAdmit n, [.trained]), (.serviceRequest n, [.released]), (.drainRequest n, [.serving]), (.heartbeatMiss n, live),
        (.fatalIslandError n, live), (.powerGood n, [.seated]), (.presenceDetected n ⟨.compute, dev, digs⟩, [.vacant]),
        (.presenceDetected n ⟨.granary, dev, digs⟩, [.vacant]), (.presenceLost n, live ++ [.seated, .released, .fenced])],
      st ∉ p.2 → exec p.1 s = .next s) ∧
    (st = .serving → ((∃ x k, s.island? n = some x ∧ k ∈ x.ctxs ∧ k.binding ≠ .unbound) → moves (.drainRequest n) .draining) ∧
      ((∀ x, s.island? n = some x → ∀ k ∈ x.ctxs, k.binding = .unbound) →
        ∃ t, exec (.drainRequest n) s = .next t ∧ (t.plot n).st = .released)) ∧
    (∀ ctx, st = .admitted → s.bound ctx n = true → moves (.firstBind n ctx) .serving) ∧
    (st = .trained → ∃ t, exec (.plotAdmit n) s = .next t ∧ (t.plot n).inc = (s.plot n).inc + 1) ∧
    (∀ e ∈ [Instr.heartbeatMiss n, .fatalIslandError n, .presenceLost n], st ∈ live →
      ∃ t, exec e s = .next t ∧ ∀ c ∈ t.cores, c.ref.site ≠ some n) ∧
    (∀ e ∈ [Instr.measurementRefused n, .trainingFailed n], st = .powered ∨ st = .measured →
      ∃ t, exec e s = .next t ∧ t.island? n = none ∧ ∀ c ∈ t.cores, c.ref.site ≠ some n) ∧
    (st = .seated → s.island? n = none → ∃ t y, exec (.powerGood n) s = .next t ∧ t.island? n = some y ∧ y.resetStep = 1 ∧
      y.granary = ((s.plot n).kind == .granary) ∧ y.device = (s.plot n).device ∧
      y.digests.head? = some ((s.plot n).digests.headD 0) ∧ y.keySlots.map (fun k => (k.slot, k.ctx)) = [(0, none)]) ∧
    (∀ x, s.island? n = some x → st = .powered →
      let releases := fun (p : State → Island → Prop) => ∃ t y, exec (.resetStepRelease n) s = .next t ∧ t.island? n = some y ∧
        y.resetStep = x.resetStep + 1 ∧ p t y
      (∀ q ∈ [(1, 1), (3, 3), (4, 2)], x.resetStep = q.1 →
        (good x q.2 → releases fun t y => (q.2 < x.digests.length → y.digests[q.2]? = (s.plot n).approved[q.2]?) ∧
          (q.1 = 1 → ∃ g, (t.core (.steward n)).gangs = [g] ∧ g.pl = .m ∧ (g.act.flow 0).pc = x.fwEntry)) ∧
        (¬ good x q.2 → ∃ t, exec (.resetStepRelease n) s = .next t ∧ (t.plot n).st = .fenced ∧ t.island? n = none)) ∧
      (x.resetStep = 2 → releases fun t _ => (t.plot n).st = .powered) ∧
      (x.resetStep = 5 → releases fun t y => (t.plot n).st = .measured ∧ y.clock = 0 ∧ y.clockOn = true ∧
        y.aliasOf = some (Config.aliasKey x.device x.digests))) ∧
    (∀ pup : BitVec 8, st = .measured →
      (∀ port < 8, match hopTo n port with
        | some m => if pup.getLsbD port then (s.plot m).st.canTrain = true else (s.plot m).st.isTrained = false
        | none => pup.getLsbD port = false) →
      ∃ t, exec (.portsTrained n pup) s = .next t ∧ (t.plot n).st = .trained ∧
        ∀ port < 8, pup.getLsbD port = true → (t.plot n).pup.getLsbD port = true ∧
          (t.link? ⟨n, port⟩).map (fun l => (l.counter, l.key0.isSome)) = some (0, true)) ∧
    (st = .lost → (s.plot n).lossOf = none → ∃ t, exec (.plotLoss n) s = .next t ∧ t.island? n = none ∧
      (∀ c ∈ t.cores, c.ref.site ≠ some n) ∧ (t.plot n).st = .lost ∧
      (t.plot n).lossOf = some (((s.island? n).map fun x =>
        (x.ctxs.filter fun k => k.binding == .bound).map fun k => k.ctx).getD []) ∧
      ((∀ o ∈ s.rops, o.kind.atomic = false) → (∀ o ∈ t.rops, o.st ≠ .answered → s.touches o n = false) ∧
        ∀ x ∈ t.islands, ∀ k ∈ x.ctxs, k.holes.getLsbD n = true)) ∧
    (∀ l, st = .lost → (s.plot n).lossOf = some l → (∀ k ∈ s.contexts, s.mapsDone k.num = true) →
      ∃ t, exec (.plotLoss n) s = .next t ∧ (t.plot n).st = .fenced ∧
        ∀ c site k, l = [c] → (s.islands.map fun x => x.site).Nodup → s.ctxAt? site c = some k →
          (t.ctxAt? site c).map (fun j => j.counter 0xFFE) = some (k.counter 0xFFE + 1))

/-- CONTEXTS come and go: creation through a secured session binds the context at each of its islands, with its clusters and
a key slot; withdrawal first marks the hole and raises VACATE, then unbinds, and a rebinding heals the hole; the update of a map
makes GEN odd, writes the doublewords that change one by one and makes GEN even, and HEAL, counter 0xFFF, counts the healed
site once the maps show it (R298, R375, R393, R394, R397, R404). The model's choice are the clusters and the key slot that a
context gets and that its interface is locked or running (log entry 74), the steps in which a map is published (log entry 76)
and the two steps of a withdrawal (log entry 78). -/
def Obligations.ContextSteps : Prop :=
  (∀ (s : State) (d : ContextDesc) (i : Iface),
    let sites := d.islands.map fun y => y.site
    s.iface? d.iface = some i → (i.st = .locked ∨ i.st = .run) → d.iface % 256 ≠ 0 → d.number < 256 → s.context? d.number = none →
    s.presided = true → sites.Nodup → (∀ y ∈ d.islands, s.canBind d.iface d.number y = true) →
    (∀ g ∈ d.groups, g.group < 16) → (d.groups.map fun g => g.group).Nodup →
    ∃ t, exec (.contextCreate d) s = .next t ∧ t.plots = s.plots ∧
      (t.context? d.number).map (fun k => (k.iface, k.killed, k.queues.length)) = some (d.iface, false, 4) ∧
      ∀ y ∈ d.islands, t.bound d.number y.site = true ∧
        (∃ p ∈ t.partitions, p.iface = d.iface ∧ (y.site, sortUp (fun n => n) y.clusters) ∈ p.clusters) ∧
        (t.island? y.site).map (fun v => v.keySlots.any fun q => q.ctx == some d.number && q.key == y.key) = some true) ∧
  (∀ (s : State) (ctx site : Nat) (x : Island) (k : CtxIsland), s.island? site = some x → x.ctx? ctx = some k →
    s.presided = true →
    (k.binding = .bound → ∃ t, exec (.contextWithdraw ctx site) s = .next t ∧
      (t.ctxAt? site ctx).map (fun y => y.binding) = some .leaving ∧
      (∀ c ∈ t.cores, c.ref.site = some site → ∀ g ∈ c.gangs, g.ctx = some ctx → g.pend.any (fun p => p.cause == .vacate) = true) ∧
      ∀ y ∈ t.islands, ∀ j ∈ y.ctxs, j.ctx = ctx → site < 48 → j.holes.getLsbD site = true) ∧
    (k.binding = .leaving → s.ctxBusy ctx site = false → ∃ t, exec (.contextWithdraw ctx site) s = .next t ∧
      ((∀ o ∈ s.rops, o.target ≠ site) → (t.ctxAt? site ctx).map (fun y => y.binding) = some .unbound)) ∧
    (∀ j rest, k.maps = j :: rest →
      let base := k.mapFrame * 65536
      let writes := fun (a : Nat) (v : Dword) (p : State → Prop) => ∃ t, exec (.mapPublish site ctx) s = .next t ∧ t.plots = s.plots ∧
        (x.mem.wf = true → (t.island? site).map (fun y => y.mem.dword a) = some v) ∧ p t
      let head := fun (t : State) => (t.ctxAt? site ctx).bind fun v => v.maps.head?
      (j.odd = false → writes base (x.mem.dword base + 1) fun t => (head t).map (fun q => (q.words, q.odd)) =
        some (j.words.filter (fun p => x.mem.dword (base + p.1) != p.2), true)) ∧
      (∀ w ws, j.odd = true → j.words = w :: ws → writes (base + w.1) w.2 fun t => head t = some { j with words := ws }) ∧
      (j.odd = true → j.words = [] → writes base (x.mem.dword base + 1) fun t => ∀ c p, s.context? ctx = some c →
        rest = [] → c.heals = [p] → c.groups = [] → (s.islands.map fun y => y.site).Nodup → (s.contexts.map fun c => c.num).Nodup →
        (∀ y ∈ s.islands, y.site ≠ site → ∀ v ∈ y.ctxs, v.ctx = ctx → v.maps = []) →
        ∀ at' v, s.ctxAt? at' ctx = some v → (t.ctxAt? at' ctx).map (fun v => v.counter 0xFFF) = some (v.counter 0xFFF + 1)))) ∧
  (∀ (s : State) (ctx : Nat) (d : IslandDesc) (k : Context), s.context? ctx = some k → k.killed = false → s.presided = true →
    s.canBind k.iface ctx d = true → ∃ t, exec (.contextRebind ctx d) s = .next t ∧ t.bound ctx d.site = true ∧
      ∀ y ∈ t.islands, ∀ j ∈ y.ctxs, j.ctx = ctx → j.holes.getLsbD d.site = false)

/-- THE REGISTERS OF FIRMWARE AND OPERATOR: a rewrite of the region table takes effect whole and GENERATION grows by 1; each
register of the control window takes the value written, reserved bits 0; the firmware launch register starts an M-level gang as
its descriptor says, at the lowest free slot and base, and is ignored where the descriptor is bad or asks for what such a gang
cannot have (R18, R62, R217, R218, R318, R351, R370). The model's choice are that it is ignored, too, outside installed memory
and where the launch frame fits no quarter, and that it launches although a frame waiter stands (log entry 18), and that an
address which is no multiple of 4 clears a breakpoint (log entry 73). -/
def Obligations.FirmwareRegisters : Prop :=
  ∀ (s : State) (site : Nat) (x : Island) (v : Dword), s.island? site = some x →
    let leaves := fun (reg : WindowReg) (p : Island → Prop) =>
      ∃ t y, exec (.controlWindowWrite site reg v) s = .next t ∧ t.cores = s.cores ∧ t.island? site = some y ∧ p y ∧
        y.mem = x.mem ∧ y.ctxs = x.ctxs
    (∀ e, e < 64 → leaves (.region e false) (fun y => y.region e = (v &&& ~~~0xFFFFE, (x.region e).2)) ∧
      leaves (.region e true) fun y => y.region e = ((x.region e).1, v &&& ~~~0xF0000)) ∧
    leaves .generation (fun y => y.generation = v.setWidth 16) ∧
    (∀ e, 1 ≤ e → e < 256 → leaves (.route e false) (fun y => y.route e = (v, (x.route e).2)) ∧
      leaves (.route e true) fun y => y.route e = ((x.route e).1, v &&& 0x8000000007FFFFFF)) ∧
    (∀ die, die < 2 → (1 ≤ v.toNat → v.toNat ≤ 64 → leaves (.sls die) fun y => lookupD die 64 y.sls = v.toNat) ∧
      (v.toNat < 256 → leaves (.slw die) fun y => lookupD die 0 y.slw = v.toNat)) ∧
    (∀ die pos i ctx, i < 8 →
      let r := CoreRef.compute site die pos
      (s.core? r).isSome = true → ∃ t, exec (.controlWindowWrite site (.breakpoint r i ctx) v) s = .next t ∧ OnlyCore r s t ∧
        (t.core r).bps.filter (fun b => b.index == i) = if v.toNat % 4 = 0 then [⟨i, ctx, v⟩] else []) ∧
    (∀ entries : List (Nat × Dword × Dword), (∀ e ∈ entries, e.1 < 64) →
      ∃ t y, exec (.regionTableRewrite site entries) s = .next t ∧ t.cores = s.cores ∧ t.island? site = some y ∧
        y.generation = x.generation + 1 ∧ y.mem = x.mem ∧
        ∀ e, (entries.map fun p => p.1).Nodup → e ∈ entries → y.region e.1 = (e.2.1 &&& ~~~0xFFFFE, e.2.2 &&& ~~~0xF0000)) ∧
    (∀ r c, s.core? r = some c → r.isCompute = false →
      let a := v.toNat
      let word := fun (k : Nat) => s.wordI r ((a + k) / 4)
      let desc := Desc.parse fun k => ((word k).v.extractLsb' (8 * ((a + k) % 4)) 8)
      let fits := fun (d : Desc) => d.gangs = 1 ∧ d.localBytes = 0 ∧ d.args = 0 ∧ d.commons = 0 ∧ d.acc = 0 ∧ d.bars = 0 ∧
        d.cbslot = false
      let starts := s.installed r a 32 = true ∧ (∀ k < 32, (word k).p = false) ∧ ∃ d, desc = some d ∧ fits d ∧
        c.freeSlot ≠ none ∧ c.place d.width d.frame ≠ none
      (¬ starts → exec (.fwLaunchRegister r v) s = .next s) ∧
      (starts → ∀ d slot base, desc = some d → c.freeSlot = some slot → c.place d.width d.frame = some base →
        ∃ t g, exec (.fwLaunchRegister r v) s = .next t ∧ t.islands = s.islands ∧ t.gang? r slot = some g ∧
          (g.width, g.base, g.gix, g.pl, g.ctx) = (d.width, base, 0, .m, none) ∧ g.framemax = d.framemax ∧
          g.body = .start d.width d.frame d.entry ∧ (t.core r).waiters = c.waiters ∧
          ∀ k, k ≠ slot → t.gang? r k = s.gang? r k))

/-- THE HOST'S MESSAGES: the presiding reeve answers each request with its response, and a secured session opens, is updated
and ends; a virtual function goes from CONFIG_UNLOCKED to CONFIG_LOCKED, with an IDE stream to RUN, and back: STOP kills every
context of the partition and unbinds it everywhere, and the interface is unlocked when no island holds one of them; a configuration write to a locked one
sends it to ERROR (R399 to R402). The model's choice are the answers to a refused request, IDE before START, the order in which
STOP acts and the functions that TDISP covers (log entry 72), and that an accepted configuration write is answered and no more
(log entry 80). -/
def Obligations.HostRequests : Prop :=
  ∀ (s : State) (n : Nat) (i : Iface),
    let becomes := fun (e : Instr) (p : Iface → Prop) => ∃ t j, exec e s = .next t ∧ t.cores = s.cores ∧ t.islands = s.islands ∧
      t.iface? n = some j ∧ p j
    let replies := fun (e : Instr) (m : Message) => becomes e fun j => j = { i with out := i.out ++ [m] }
    s.iface? n = some i →
    (s.presided = true →
      (∀ p ∈ [(Instr.getVersion n, Message.version), (.getCapabilities n, .capabilities),
        (.negotiateAlgorithms n, .algorithms [.ecdsaP384, .sha384, .ecdheP384, .aes256Gcm]),
        (.getCertificate n, .certificate s.chain)], replies p.1 p.2) ∧
      (becomes (.getDigests n) fun j => ∃ v, j = { i with out := i.out ++ [.digests v] }) ∧
      (∀ nonce, becomes (.challenge n nonce) fun j => ∃ sig, j = { i with out := i.out ++ [.challengeAuth nonce sig] }) ∧
      (∀ index nonce, index ≠ 254 → replies (.getMeasurements n index nonce) (.measurement index (s.measurement index))) ∧
      (∀ nonce, becomes (.getMeasurements n 254 nonce) fun j => ∃ (l : List EvidenceRec) (sig : BitVec 384),
        j = { i with out := i.out ++ [.evidence l sig] } ∧ l.length = s.islands.countP (fun x => (s.plot x.site).st.open') ∧
        ∀ r ∈ l, r.nonce = nonce ∧ r.inc = (s.plot r.site).inc ∧
          ∃ y ∈ s.islands, y.site = r.site ∧ r.digests = y.digests ∧ r.certificate = Config.certificate (y.aliasOf.getD 0)) ∧
      (∀ key, becomes (.keyExchange n key) fun j =>
        ∃ sig, j = { i with sessionKey := some key, established := false, out := i.out ++ [.keyExchange sig] }) ∧
      (if i.sessionKey.isSome ∧ i.established = false then
        becomes (.finish n) fun j => j = { i with established := true, out := i.out ++ [.finished] }
      else replies (.finish n) .refusedRequest) ∧
      (i.established = false → ∀ e ∈ [Instr.keyUpdate n, .endSession n, .ideKm n 0], replies e .refusedRequest) ∧
      (i.established = true →
        (becomes (.keyUpdate n) fun j => ∃ k, j = { i with sessionKey := some k, out := i.out ++ [.keyUpdated] }) ∧
        (becomes (.endSession n) fun j => j = { i with sessionKey := none, established := false, out := i.out ++ [.ended] }) ∧
        ∀ key, becomes (.ideKm n key) fun j => j = { i with ideKey := some key, out := i.out ++ [.keyProgrammed] }) ∧
      (if i.virtual = true ∧ i.st = .unlocked then becomes (.lockInterfaceRequest n) fun j => j = { i with st := .locked, out := i.out ++ [.accepted] }
      else replies (.lockInterfaceRequest n) .refusedRequest) ∧
      (if i.virtual = true ∧ i.st = .locked ∧ i.ideKey ≠ none then becomes (.startInterfaceRequest n) fun j => j = { i with st := .run, out := i.out ++ [.accepted] }
      else replies (.startInterfaceRequest n) .refusedRequest) ∧
      (i.st = .unlocked ∨ i.virtual = false → replies (.stopInterfaceRequest n) .refusedRequest) ∧
      (i.st ≠ .unlocked → i.virtual = true → ∃ t, exec (.stopInterfaceRequest n) s = .next t ∧
        ((∀ y ∈ s.islands, ∀ k ∈ y.ctxs, k.ctx ∉ s.partition n) →
          (t.iface? n).map (fun j => (j.st, j.ideKey)) = some (.unlocked, none) ∧ t.partition n = []) ∧
        (∀ y ∈ t.islands, ∀ k ∈ y.ctxs, k.ctx ∈ s.partition n → k.binding = .unbound) ∧
        ∀ c k, s.context? c = some k → k.iface = n → k.killed = false →
          (∀ o ∈ t.rops, o.charge.ctx ≠ some c) ∧
          (∀ k', t.context? c = some k' → k'.killed = true ∧ ∀ q ∈ k'.queues, q.qerr = 7) ∧
          ∀ r ∈ t.cores, ∀ g ∈ r.gangs, g.ctx = some c → g.pend.any (fun p => p.cause == .vacate) = true)) ∧
    (∀ off v, (i.st = .unlocked → replies (.hostConfigWrite n off v) .accepted) ∧
      (i.st = .locked ∨ i.st = .run → ∃ t, exec (.hostConfigWrite n off v) s = .next t ∧
        (t.iface? n).map (fun j => j.st) = some .error) ∧
      (i.st = .error → exec (.hostConfigWrite n off v) s = .next s))

/-- TLPs AND KEY SLOTS: outside RUN an interface answers reads of its status alone, in ERROR with all ones; in RUN under IDE
a read of a queue block gives its word, a write changes it, and a write into device memory is performed, one that arrives as a
poisoned TLP with its poison bit and a new origin of kind 11; a key slot is retired once its context has left the island and its
maps show it, which with the last one of a partition that STOP has killed ends that request; the operator approves digests and enables capture on a
physical function (R398 to R400, R305, R406). The model's choice are what the operator's requests are (log entry 74), when a key
slot is retired (log entry 78), and that a write below offset 0x10000 is dropped (log entry 80). -/
def Obligations.TlpsAndKeySlots : Prop :=
  (∀ (s : State) (n : Nat) (i : Iface) (ide poisoned : Bool),
    let tlp := fun (m : Tlp) => exec (.hostTlp n ide poisoned m) s
    let replies := fun (m : Tlp) (a : Message) => ∃ t, tlp m = .next t ∧ t.cores = s.cores ∧ t.islands = s.islands ∧
      t.iface? n = some { i with out := i.out ++ [a] }
    s.iface? n = some i →
    (∀ off v ctx site a data, i.st = .error → replies (.barRead off) (.completion 0xFFFFFFFF) ∧
      tlp (.barWrite off v) = .next s ∧ tlp (.memWrite ctx site a data) = .next s) ∧
    (∀ off v ctx site a data, i.st = .unlocked ∨ i.st = .locked → (0x10000 ≤ off → replies (.barRead off) .unsupported ∧
      replies (.barWrite off v) .unsupported) ∧ (off < 0x10000 → tlp (.barWrite off v) = .next s) ∧
      replies (.memWrite ctx site a data) .unsupported) ∧
    (∀ ctx on plot l, i.virtual = false → i.st = .unlocked ∨ i.st = .locked → s.presided = true →
      tlp (.capture ctx on) = .next (s.modContext ctx fun k => { k with capture := on }) ∧
      (plot < 48 → tlp (.approve plot l) = .next (s.modPlot plot fun p => { p with approved := l }))) ∧
    (∀ m, i.st = .run → i.virtual = false ∨ ide = false ∨ i.ideKey = none → replies m .unsupported) ∧
    (i.st = .run → i.virtual = true → ide = true → i.ideKey ≠ none →
      (∀ m, ∃ t, tlp m = .next t) ∧
      (∀ off k q b, 0x10000 ≤ off → s.barQueue n off = some (k, q, b) → replies (.barRead off) (.completion (b.word (off / 4 % 8))) ∧
        ∀ v, k.killed = false → s.context? k.num = some k → ∃ t, tlp (.barWrite off v) = .next t ∧ t.islands = s.islands ∧
          t.queue? k.num q = some (b.setWord (off / 4 % 8) v)) ∧
      (∀ ctx site x a v pa, poisoned = false → s.island? site = some x → ctx ∈ s.partition n → a.toNat % 4 = 0 →
        x.ownPa ctx a = some pa → x.mem.wf = true → ∃ t, tlp (.memWrite ctx site a [v]) = .next t ∧
          (t.island? site).map (fun y => y.mem.word (pa / 4)) = some ⟨v, false⟩) ∧
      (∀ ctx site x k a v pa, poisoned = true → s.island? site = some x → x.ctx? ctx = some k → ctx ∈ s.partition n →
        a.toNat % 4 = 0 → x.ownPa ctx a = some pa → x.mem.wf = true → ∃ t w, tlp (.memWrite ctx site a [v]) = .next t ∧
          (t.island? site).map (fun y => y.mem.word (pa / 4)) = some ⟨w, true⟩ ∧ provKind w = 11 ∧ provCount w = 0 ∧
          (k.polhead < 8191 → provOrigin w = k.polhead ∧ (t.ctxAt? site ctx).map (fun j => j.polhead) = some (k.polhead + 1))))) ∧
  (∀ (s : State) (site slot : Nat) (x : Island) (k : CtxIsland),
    s.island? site = some x → x.ctxs.find? (fun j => j.keySlot == slot) = some k → k.binding = .unbound →
    s.ctxBusy k.ctx site = false → s.mapsDone k.ctx = true →
    ∃ t y, exec (.keySlotRetire site slot) s = .next t ∧ t.island? site = some y ∧
      y.ctx? k.ctx = none ∧ (∀ p ∈ y.keySlots, p.slot ≠ slot) ∧
      (∀ q ∈ y.clusterTlb ++ y.dieTlb, ∀ e ∈ q.2, e.ctx ≠ k.ctx) ∧
      (∀ c i, s.context? k.ctx = some c → s.iface? c.iface = some i → i.stopping = true →
        (∀ z ∈ s.islands, ∀ j ∈ z.ctxs, j.ctx ∈ s.partition c.iface → z.site = site ∧ j.ctx = k.ctx) →
        (t.iface? c.iface).map (fun j => (j.st, j.ideKey)) = some (.unlocked, none)) ∧
      ∀ c ∈ t.cores, c.ref.site = some site → ∀ e ∈ c.tlb, e.ctx ≠ k.ctx)

/-- LINKS AND REEVES: a failed tag is counted and the fourth in a row, the flit's first failure and three failed retries, takes the
port down, which count is the model's reading (R409; log entry 70); a key is installed in the
spare slot, the index in use changes when both ends have acknowledged it, and the old key is retired (R408); a reeve yields to a presiding
reeve of a higher term, or to the same term of a lower reeve; a standby takes the presidency in the next term; a reeve that fails
has its interfaces in ERROR; power-on is the state of reset (R410 to R412). The model's choice are the numbers of the interfaces of
a reeve (log entry 69), the counter 0 of a new key (log entry 71), that a failed reeve's core is gone (log entry 81), that the
events which end a time, an old key retired and a presidency claimed among them, come at any moment (log entry 79), and what
power-on leaves as it was: the panel's number, the errors and turns to come and the count of free values (log entry 82). -/
def Obligations.LinksAndReeves : Prop :=
  (∀ (s : State) (d : LinkDir) (l : Link),
    let becomes := fun (e : Instr) (m : Link) => ∃ t, exec e s = .next t ∧ t.cores = s.cores ∧ t.islands = s.islands ∧
      t.link? d = some m
    s.link? d = some l →
    (l.retries < 3 → becomes (.flitTagFail d) { l with retries := l.retries + 1 }) ∧
    (3 ≤ l.retries → ∃ t, exec (.flitTagFail d) s = .next t ∧ ((∀ o ∈ s.rops, o.kind.atomic = false) → d.port < 8 →
      (t.plot d.site).pup.getLsbD d.port = false)) ∧
    (∀ key, s.presided = true →
      (l.active = false → l.key1 = none → becomes (.keyInstall d key)
        { l with key1 := some key, installing := true, ackSender := false, ackReceiver := false }) ∧
      (l.active = true → l.key0 = none → becomes (.keyInstall d key)
        { l with key0 := some key, installing := true, ackSender := false, ackReceiver := false })) ∧
    (l.installing = true → (l.ackSender = false → becomes (.keyAck d true)
        (if l.ackReceiver then { l with ackSender := true, active := !l.active, installing := false, counter := 0 }
        else { l with ackSender := true })) ∧
      (l.ackReceiver = false → becomes (.keyAck d false)
        (if l.ackSender then { l with ackReceiver := true, active := !l.active, installing := false, counter := 0 }
        else { l with ackReceiver := true }))) ∧
    (l.installing = false → (l.active = true → l.key0 ≠ none → becomes (.oldKeyRetire d) { l with key0 := none }) ∧
      (l.active = false → l.key1 ≠ none → becomes (.oldKeyRetire d) { l with key1 := none }))) ∧
  (∀ (s : State) (n m : Nat) (r q : Reeve) (term : Word), s.reeve? n = some r → s.reeve? m = some q → r.failed = false →
    (n ≠ m → q.presiding = true → q.failed = false → q.term = term → ∃ t, exec (.heartbeat n m term) s = .next t ∧ t.reeve? n = some
      (if r.term.toNat < term.toNat ∨ (r.term = term ∧ m < n) then { r with presiding := false, term := term } else r)) ∧
    (r.presiding = false → ∃ t, exec (.presidencyClaim n) s = .next t ∧
      t.reeve? n = some { r with presiding := true, term := r.term + 1 }) ∧
    (∃ t, exec (.reeveFailure n) s = .next t ∧ t.core? (.reeve n) = none ∧
      (t.reeve? n).map (fun v => (v.failed, v.presiding)) = some (true, false) ∧
      ∀ k, k / 512 = n → (t.iface? k).map (fun i => i.st) = if k < 1536 then some .error else none)) ∧
  (∀ s : State, exec .panelPowerOn s = .next
    { State.reset with panel := s.panel, phys := s.phys, agenda := s.agenda, freeCtr := s.freeCtr })

/-- OFF-PANEL LANES: a write of ol.ctl switches the laser, starts a training of a slot below 12, or carries traffic once the
laser is stable, no training runs and the ten slots of the map are locked and differ, else sets MERR; ol.lock and ol.map
keep their values, MERR set, while the lane is up; a ring's heater code has a measurement follow, which a read waits for; a
lane that comes up has its off-panel port up and the keys of its directions (R374, R407, R415 to R417). The model's choice are the
training of a slot from 12 on, which sets MERR and leaves the training as it was, and that the registers stay as they are until
step 4 of the reset sequence (log entry 37), that the keys of a lane's directions appear with counter 0 as it comes up (log entry
71), and that a measurement, a laser's settling and a training end at any moment (log entry 79). -/
def Obligations.LaneSteps : Prop :=
  ∀ (s : State) (site lane : Nat) (x : Island),
    let l := x.lane lane
    let becomes := fun (e : Instr) (p : OlLane → Prop) => ∃ t y, exec e s = .next t ∧ t.cores = s.cores ∧
      t.island? site = some y ∧ y.mem = x.mem ∧ p (y.lane lane) ∧ ∀ k, k ≠ lane → y.lane k = x.lane k
    s.island? site = some x → lane < 4 →
    (x.resetStep < 4 → ∀ on hi v slot, ∀ e ∈ [Instr.olLaser site lane on, .olTrainStart site lane slot, .olAct site lane on,
      .olLockWrite site lane v, .olMapWrite site lane hi v], exec e s = .next s) ∧
    (4 ≤ x.resetStep →
    (l.up = false → l.refuses = false → ∃ t, exec (.olAct site lane true) s = .next t ∧
      (t.plot site).oup.getLsbD (lane / 2) = true ∧ (t.link? ⟨site, 8 + lane⟩).map (fun k => k.counter) = some 0) ∧
    (∀ on, becomes (.olLaser site lane on) fun m => m.len = on ∧ m.lrdy = (l.lrdy && on) ∧ m.act = l.act ∧
      m.training = l.training) ∧
    (∀ slot, (slot % 16 < 12 → becomes (.olTrainStart site lane slot) fun m => m.training = some (slot % 16) ∧ m.tdone = false ∧
        m.eyeok = false ∧ m.up = false) ∧
      (12 ≤ slot % 16 → becomes (.olTrainStart site lane slot) fun m => m.training = l.training ∧ m.merr = true)) ∧
    becomes (.olAct site lane false) (fun m => m.act = false ∧ m.up = false ∧ m.merr = false ∧ m.len = l.len ∧
      m.lrdy = (l.lrdy && l.len) ∧ (m.lock, m.maplo, m.maphi) = (l.lock, l.maplo, l.maphi)) ∧
    becomes (.olAct site lane true) (fun m => m.act = true ∧ m.up = !l.refuses ∧ m.merr = l.refuses) ∧
    (∀ v, becomes (.olLockWrite site lane v) fun m =>
      m = if l.up then { l with merr := true } else { l with lock := v.toNat % 4096 }) ∧
    (∀ v, becomes (.olMapWrite site lane false v) (fun m => m = if l.up then { l with merr := true } else { l with maplo := v }) ∧
      becomes (.olMapWrite site lane true v) fun m => m = if l.up then { l with merr := true } else { l with maphi := v.toNat % 256 }) ∧
    (∀ slot, slot < 12 →
      (∀ v, becomes (.olRingWrite site lane slot v) fun m => lookupD slot 0 m.htr = v.toNat % 4096 ∧ slot ∈ m.unmeasured ∧
        m.act = l.act ∧ m.up = l.up) ∧
      (∀ drop, becomes (.dropMeasurement site lane slot drop) fun m => slot ∉ m.unmeasured ∧
        m.read (0x040 + 4 * slot) = some (BitVec.ofNat 32 (65536 * drop.toNat + lookupD slot 0 l.htr))) ∧
      (slot ∉ l.unmeasured → ∃ t, exec (.olRingRead site lane slot) s = .next t ∧ t.islands = s.islands ∧
        ∀ g ∈ (t.core (.steward site)).gangs, ∀ f ∈ g.act.flows, ∀ i, f.run ≠ .wait .ringRead i)) ∧
    (∀ ok, l.training ≠ none → becomes (.olTrainingDone site lane ok) fun m =>
      m = { l with training := none, tdone := true, eyeok := ok }) ∧
    (l.len = true → becomes (.olLaserStable site lane) fun m => m = { l with lrdy := true }))
end

