-- ==== Sys2Proof/Laws/Memory.lean ====
section
/-! SUPPORT. Memory keeps its canonical form under every operation, a read after a write of the same byte or word gives what
was written, and a write leaves every other byte and poison bit alone (R209, assumption 1). -/

namespace Sys2Proof.Machine

/-! ### Cells -/

theorem cellsFrom_mono {lo hi : Nat} (h : lo ≤ hi) {l : List Host.Cell} (w : cellsFrom hi l = true) : cellsFrom lo l = true := by
  cases l with
  | nil => rfl
  | cons c r => simp only [cellsFrom, Bool.and_eq_true, decide_eq_true_eq] at w ⊢; exact ⟨⟨by omega, w.1.2⟩, w.2⟩

theorem cellAt_below {a lo : Nat} {l : List Host.Cell} (w : cellsFrom lo l = true) (h : a < lo) : cellAt a l = 0 := by
  induction l generalizing lo with
  | nil => rfl
  | cons c r ih =>
    simp only [cellsFrom, Bool.and_eq_true, decide_eq_true_eq] at w
    have : (c.1 == a) = false := by simp; omega
    simp only [cellAt, this, Bool.false_eq_true, if_false]
    exact ih w.2 (by omega)

theorem setCell_cellsFrom {a lo : Nat} {b : Byte} {l : List Host.Cell} (w : cellsFrom lo l = true) (h : lo ≤ a) :
    cellsFrom lo (setCell a b l) = true := by
  induction l generalizing lo with
  | nil =>
    cases hb : b == 0
    · simp only [setCell, hb, Bool.false_eq_true, if_false, cellsFrom, bne, Bool.and_eq_true, decide_eq_true_eq]
      exact ⟨⟨h, rfl⟩, trivial⟩
    · simp only [setCell, hb, if_true, cellsFrom]
  | cons c r ih =>
    simp only [cellsFrom, Bool.and_eq_true, decide_eq_true_eq] at w
    obtain ⟨⟨h1, h2⟩, h3⟩ := w
    simp only [setCell]
    split
    · cases hb : b == 0
      · simp only [Bool.false_eq_true, if_false, cellsFrom, Bool.and_eq_true, decide_eq_true_eq, bne, hb]
        exact ⟨⟨h, rfl⟩, ⟨by omega, h2⟩, h3⟩
      · simp only [if_true, cellsFrom, Bool.and_eq_true, decide_eq_true_eq]; exact ⟨⟨h1, h2⟩, h3⟩
    · split
      · rename_i e
        have e : a = c.1 := by simpa using e
        subst e
        cases hb : b == 0
        · simp only [Bool.false_eq_true, if_false, cellsFrom, Bool.and_eq_true, decide_eq_true_eq, bne, hb]
          exact ⟨⟨h, rfl⟩, h3⟩
        · simp only [if_true]; exact cellsFrom_mono (by omega) h3
      · rename_i n e
        have e : a ≠ c.1 := by simpa using e
        simp only [cellsFrom, Bool.and_eq_true, decide_eq_true_eq]
        exact ⟨⟨h1, h2⟩, ih h3 (by omega)⟩

theorem cellAt_setCell_same {a lo : Nat} {b : Byte} {l : List Host.Cell} (w : cellsFrom lo l = true) :
    cellAt a (setCell a b l) = b := by
  have zero (h : (b == 0) = true) : (0 : Byte) = b := (eq_of_beq h).symm
  induction l generalizing lo with
  | nil =>
    cases hb : b == 0
    · simp only [setCell, hb, Bool.false_eq_true, if_false, cellAt, beq_self_eq_true, if_true]
    · simp only [setCell, hb, if_true, cellAt]; exact zero hb
  | cons c r ih =>
    simp only [cellsFrom, Bool.and_eq_true, decide_eq_true_eq] at w
    simp only [setCell]
    split
    · cases hb : b == 0
      · simp [cellAt]
      · have n : (c.1 == a) = false := by simp; omega
        simp only [if_true, cellAt, n, Bool.false_eq_true, if_false]
        rw [cellAt_below w.2 (by omega)]; exact zero hb
    · split
      · rename_i e
        have e : a = c.1 := by simpa using e
        cases hb : b == 0
        · simp [cellAt]
        · simp only [if_true]; rw [cellAt_below w.2 (by omega)]; exact zero hb
      · rename_i n e
        have n : (c.1 == a) = false := by
          have e : a ≠ c.1 := by simpa using e
          simp; omega
        simp only [cellAt, n, Bool.false_eq_true, if_false]
        exact ih w.2

theorem cellAt_setCell_other {a k : Nat} {b : Byte} {l : List Host.Cell} (h : k ≠ a) :
    cellAt k (setCell a b l) = cellAt k l := by
  have hk : (a == k) = false := by simp; omega
  induction l with
  | nil => cases hb : b == 0 <;> simp only [setCell, hb, Bool.false_eq_true, if_false, if_true, cellAt, hk]
  | cons c r ih =>
    simp only [setCell]
    split
    · cases hb : b == 0 <;> simp [cellAt, hk]
    · split
      · rename_i e
        have e : a = c.1 := by simpa using e
        have n : (c.1 == k) = false := by simp; omega
        cases hb : b == 0 <;> simp [cellAt, hk, n]
      · simp only [cellAt, ih]

/-! ### Poison bits -/

theorem risingFrom_mono {lo hi : Nat} (h : lo ≤ hi) {l : List Nat} (w : risingFrom hi l = true) : risingFrom lo l = true := by
  cases l with
  | nil => rfl
  | cons c r => simp only [risingFrom, Bool.and_eq_true, decide_eq_true_eq] at w ⊢; exact ⟨by omega, w.2⟩

theorem risingFrom_filter {lo : Nat} {l : List Nat} (p : Nat → Bool) (w : risingFrom lo l = true) :
    risingFrom lo (l.filter p) = true := by
  induction l generalizing lo with
  | nil => rfl
  | cons c r ih =>
    simp only [risingFrom, Bool.and_eq_true, decide_eq_true_eq] at w
    by_cases hp : p c = true
    · simp only [List.filter_cons, hp, if_true, risingFrom, Bool.and_eq_true, decide_eq_true_eq]; exact ⟨w.1, ih w.2⟩
    · simp only [List.filter_cons, hp]; exact risingFrom_mono (by omega) (ih w.2)

theorem risingFrom_insertUp {n lo : Nat} {l : List Nat} (w : risingFrom lo l = true) (h : lo ≤ n) :
    risingFrom lo (insertUp n l) = true := by
  induction l generalizing lo with
  | nil => simp [insertUp, risingFrom, h]
  | cons c r ih =>
    simp only [risingFrom, Bool.and_eq_true, decide_eq_true_eq] at w
    simp only [insertUp]
    split
    · simp [risingFrom, h, w.2]; omega
    · split
      · simp [risingFrom, w.1, w.2]
      · rename_i a e
        have e : n ≠ c := by simpa using e
        simp only [risingFrom, Bool.and_eq_true, decide_eq_true_eq]; exact ⟨w.1, ih w.2 (by omega)⟩

theorem mem_insertUp {n k : Nat} {l : List Nat} : k ∈ insertUp n l ↔ k = n ∨ k ∈ l := by
  induction l with
  | nil => simp [insertUp]
  | cons c r ih =>
    simp only [insertUp]
    split
    · simp
    · split
      · rename_i e
        have e : n = c := by simpa using e
        simp [e]
      · simp [ih]; tauto

/-! ### Memory -/

theorem Mem.wf_iff (m : Mem) : m.wf = true ↔ cellsFrom 0 m.bytes = true ∧ risingFrom 0 m.poison = true := by
  simp [Mem.wf]

@[simp] theorem Mem.empty_wf : Mem.empty.wf = true := rfl

theorem Mem.setByte_wf {m : Mem} (h : m.wf = true) (a : Nat) (b : Byte) : (m.setByte a b).wf = true := by
  rw [Mem.wf_iff] at h ⊢; exact ⟨setCell_cellsFrom h.1 (Nat.zero_le a), h.2⟩

theorem Mem.setPoison_wf {m : Mem} (h : m.wf = true) (w : Nat) (p : Bool) : (m.setPoison w p).wf = true := by
  rw [Mem.wf_iff] at h ⊢
  refine ⟨h.1, ?_⟩
  cases p
  · exact risingFrom_filter _ h.2
  · exact risingFrom_insertUp h.2 (Nat.zero_le w)

@[simp] theorem Mem.setByte_poison (m : Mem) (a : Nat) (b : Byte) : (m.setByte a b).poison = m.poison := rfl
@[simp] theorem Mem.setPoison_byte (m : Mem) (w : Nat) (p : Bool) (a : Nat) : (m.setPoison w p).byte a = m.byte a := rfl

theorem Mem.byte_setByte_same {m : Mem} (h : m.wf = true) (a : Nat) (b : Byte) : (m.setByte a b).byte a = b :=
  cellAt_setCell_same ((Mem.wf_iff m).mp h).1

theorem Mem.byte_setByte_other (m : Mem) {a k : Nat} (b : Byte) (h : k ≠ a) : (m.setByte a b).byte k = m.byte k :=
  cellAt_setCell_other h

/-- The bytes of a write, before its poison bit is decided. -/
theorem Mem.write_eq (m : Mem) (d : DWrite) : m.write d =
    let put (m : Mem) (k : Nat) : Mem := if d.mask.getLsbD k then m.setByte (4 * d.word + k) (byteOf d.lv.v k) else m
    let b := put (put (put (put m 0) 1) 2) 3
    if d.whole then b.setPoison d.word d.lv.p else b := rfl

theorem Mem.write_wf {m : Mem} (h : m.wf = true) (d : DWrite) : (m.write d).wf = true := by
  have put (m : Mem) (k : Nat) (h : m.wf = true) :
      (if d.mask.getLsbD k then m.setByte (4 * d.word + k) (byteOf d.lv.v k) else m).wf = true := by
    split
    · exact Mem.setByte_wf h _ _
    · exact h
  have b := put _ 3 (put _ 2 (put _ 1 (put _ 0 h)))
  rw [Mem.write_eq]
  dsimp only
  split
  · exact Mem.setPoison_wf b _ _
  · exact b

theorem Mem.setDword_wf {m : Mem} (h : m.wf = true) (a : Nat) (x : Dword) : (m.setDword a x).wf = true :=
  Mem.write_wf (Mem.write_wf h _) _

theorem cellsFrom_filter {lo : Nat} {l : List Host.Cell} (p : Host.Cell → Bool) (w : cellsFrom lo l = true) :
    cellsFrom lo (l.filter p) = true := by
  induction l generalizing lo with
  | nil => rfl
  | cons c r ih =>
    simp only [cellsFrom, Bool.and_eq_true, decide_eq_true_eq] at w
    by_cases hp : p c = true
    · simp only [List.filter_cons, hp, if_true, cellsFrom, Bool.and_eq_true, decide_eq_true_eq]; exact ⟨w.1, ih w.2⟩
    · simp only [List.filter_cons, hp]; exact cellsFrom_mono (by omega) (ih w.2)

theorem Mem.clear_wf {m : Mem} (h : m.wf = true) (w n : Nat) : (m.clear w n).wf = true := by
  rw [Mem.wf_iff] at h ⊢; exact ⟨cellsFrom_filter _ h.1, risingFrom_filter _ h.2⟩

/-- FRAME OF A WRITE: every byte outside the word keeps its value. -/
theorem Mem.byte_write_other (m : Mem) (d : DWrite) {a : Nat} (h : a / 4 ≠ d.word) : (m.write d).byte a = m.byte a := by
  have put (m : Mem) (k : Nat) (hk : k < 4) :
      (if d.mask.getLsbD k then m.setByte (4 * d.word + k) (byteOf d.lv.v k) else m).byte a = m.byte a := by
    split
    · exact Mem.byte_setByte_other m _ (by omega)
    · rfl
  rw [Mem.write_eq]
  dsimp only
  split
  · rw [Mem.setPoison_byte, put _ 3 (by omega), put _ 2 (by omega), put _ 1 (by omega), put _ 0 (by omega)]
  · rw [put _ 3 (by omega), put _ 2 (by omega), put _ 1 (by omega), put _ 0 (by omega)]

/-- The poison bits after a write (R209). -/
theorem Mem.poison_write (m : Mem) (d : DWrite) (w : Nat) :
    (m.write d).poison.contains w = if d.whole ∧ w = d.word then d.lv.p else m.poison.contains w := by
  have put (m : Mem) (k : Nat) :
      (if d.mask.getLsbD k then m.setByte (4 * d.word + k) (byteOf d.lv.v k) else m).poison = m.poison := by
    split <;> rfl
  rw [Mem.write_eq]
  dsimp only
  by_cases hw : d.whole = true
  · simp only [hw, if_true, true_and]
    unfold Mem.setPoison
    simp only [put]
    cases d.lv.p
    · by_cases e : w = d.word
      · simp [e, remove]
      · simp [e, remove, List.mem_filter]
    · by_cases e : w = d.word
      · simp [e, mem_insertUp]
      · simp [e, mem_insertUp]
  · simp only [hw, Bool.false_eq_true, if_false, false_and, put]

/-- READ AFTER WRITE: a whole word written is the word read. -/
theorem Mem.word_write_whole {m : Mem} (h : m.wf = true) (w : Nat) (x : LV) : (m.write (wholeWrite w x)).word w = x := by
  have bytes (k : Nat) (hk : k < 4) : (m.write (wholeWrite w x)).byte (4 * w + k) = byteOf x.v k := by
    have h0 := Mem.setByte_wf h (4 * w + 0) (byteOf x.v 0)
    have h1 := Mem.setByte_wf h0 (4 * w + 1) (byteOf x.v 1)
    have h2 := Mem.setByte_wf h1 (4 * w + 2) (byteOf x.v 2)
    have e : m.write (wholeWrite w x) = ((((m.setByte (4 * w + 0) (byteOf x.v 0)).setByte (4 * w + 1) (byteOf x.v 1)).setByte
        (4 * w + 2) (byteOf x.v 2)).setByte (4 * w + 3) (byteOf x.v 3)).setPoison w x.p := by
      rw [Mem.write_eq]
      simp only [wholeWrite, show BitVec.getLsbD (15 : BitVec 4) 0 = true from rfl, show BitVec.getLsbD (15 : BitVec 4) 1 = true from rfl,
        show BitVec.getLsbD (15 : BitVec 4) 2 = true from rfl, show BitVec.getLsbD (15 : BitVec 4) 3 = true from rfl, if_true]
    rw [e, Mem.setPoison_byte]
    by_cases k3 : k = 3
    · subst k3; exact Mem.byte_setByte_same h2 _ _
    rw [Mem.byte_setByte_other _ _ (by omega)]
    by_cases k2 : k = 2
    · subst k2; exact Mem.byte_setByte_same h1 _ _
    rw [Mem.byte_setByte_other _ _ (by omega)]
    by_cases k1 : k = 1
    · subst k1; exact Mem.byte_setByte_same h0 _ _
    rw [Mem.byte_setByte_other _ _ (by omega)]
    have k0 : k = 0 := by omega
    subst k0; exact Mem.byte_setByte_same h _ _
  have p := Mem.poison_write m (wholeWrite w x) w
  have hv : wordOfBytes (byteOf x.v 0) (byteOf x.v 1) (byteOf x.v 2) (byteOf x.v 3) = x.v := by
    unfold wordOfBytes byteOf
    apply BitVec.eq_of_getLsbD_eq
    intro i hi
    simp only [BitVec.getLsbD_append, BitVec.getLsbD_extractLsb']
    have at' (n k j : Nat) (h : j < 8) (e : n + j = k) : (decide (j < 8) && x.v.getLsbD (n + j)) = x.v.getLsbD k := by
      simp [h, e]
    split
    · exact at' _ _ _ (by omega) (by omega)
    · split
      · exact at' _ _ _ (by omega) (by omega)
      · split <;> exact at' _ _ _ (by omega) (by omega)
  unfold Mem.word
  rw [show 4 * w = 4 * w + 0 from rfl, bytes 0 (by omega), bytes 1 (by omega), bytes 2 (by omega), bytes 3 (by omega), hv, p]
  simp [wholeWrite]

/-- FRAME OF A WRITE, by words. -/
theorem Mem.word_write_other (m : Mem) (d : DWrite) {w : Nat} (h : w ≠ d.word) : (m.write d).word w = m.word w := by
  unfold Mem.word
  rw [Mem.byte_write_other m d (a := 4 * w) (by omega), Mem.byte_write_other m d (a := 4 * w + 1) (by omega),
    Mem.byte_write_other m d (a := 4 * w + 2) (by omega), Mem.byte_write_other m d (a := 4 * w + 3) (by omega),
    Mem.poison_write]
  simp [h]

end Sys2Proof.Machine
end

