-- ==== Sys2Proof/Laws/State.lean ====
section
/-! SUPPORT. What the updates of the state leave unchanged, and what they change: one lemma for each field and update. -/

namespace Sys2Proof.Machine

/-! ### Fields that an update leaves alone -/

@[simp] theorem State.modCore_panel (s : State) (r : CoreRef) (f : Core → Core) : (s.modCore r f).panel = s.panel := by
  unfold State.modCore; split <;> rfl
@[simp] theorem State.modCore_islands (s : State) (r : CoreRef) (f : Core → Core) : (s.modCore r f).islands = s.islands := by
  unfold State.modCore; split <;> rfl
@[simp] theorem State.modCore_plots (s : State) (r : CoreRef) (f : Core → Core) : (s.modCore r f).plots = s.plots := by
  unfold State.modCore; split <;> rfl
@[simp] theorem State.modCore_contexts (s : State) (r : CoreRef) (f : Core → Core) : (s.modCore r f).contexts = s.contexts := by
  unfold State.modCore; split <;> rfl
@[simp] theorem State.modCore_partitions (s : State) (r : CoreRef) (f : Core → Core) : (s.modCore r f).partitions = s.partitions := by
  unfold State.modCore; split <;> rfl
@[simp] theorem State.modCore_ifaces (s : State) (r : CoreRef) (f : Core → Core) : (s.modCore r f).ifaces = s.ifaces := by
  unfold State.modCore; split <;> rfl
@[simp] theorem State.modCore_reeves (s : State) (r : CoreRef) (f : Core → Core) : (s.modCore r f).reeves = s.reeves := by
  unfold State.modCore; split <;> rfl
@[simp] theorem State.modCore_links (s : State) (r : CoreRef) (f : Core → Core) : (s.modCore r f).links = s.links := by
  unfold State.modCore; split <;> rfl
@[simp] theorem State.modCore_rops (s : State) (r : CoreRef) (f : Core → Core) : (s.modCore r f).rops = s.rops := by
  unfold State.modCore; split <;> rfl
@[simp] theorem State.modCore_phys (s : State) (r : CoreRef) (f : Core → Core) : (s.modCore r f).phys = s.phys := by
  unfold State.modCore; split <;> rfl
@[simp] theorem State.modCore_agenda (s : State) (r : CoreRef) (f : Core → Core) : (s.modCore r f).agenda = s.agenda := by
  unfold State.modCore; split <;> rfl
@[simp] theorem State.modCore_cur (s : State) (r : CoreRef) (f : Core → Core) : (s.modCore r f).cur = s.cur := by
  unfold State.modCore; split <;> rfl
@[simp] theorem State.modCore_freeCtr (s : State) (r : CoreRef) (f : Core → Core) : (s.modCore r f).freeCtr = s.freeCtr := by
  unfold State.modCore; split <;> rfl
@[simp] theorem State.modCore_uid (s : State) (r : CoreRef) (f : Core → Core) : (s.modCore r f).uid = s.uid := by
  unfold State.modCore; split <;> rfl

@[simp] theorem State.modGang_panel (s : State) (r : CoreRef) (slot : Nat) (f : Gang → Gang) : (s.modGang r slot f).panel = s.panel := by simp [State.modGang]
@[simp] theorem State.modGang_islands (s : State) (r : CoreRef) (slot : Nat) (f : Gang → Gang) : (s.modGang r slot f).islands = s.islands := by simp [State.modGang]
@[simp] theorem State.modGang_plots (s : State) (r : CoreRef) (slot : Nat) (f : Gang → Gang) : (s.modGang r slot f).plots = s.plots := by simp [State.modGang]
@[simp] theorem State.modGang_contexts (s : State) (r : CoreRef) (slot : Nat) (f : Gang → Gang) : (s.modGang r slot f).contexts = s.contexts := by simp [State.modGang]
@[simp] theorem State.modGang_partitions (s : State) (r : CoreRef) (slot : Nat) (f : Gang → Gang) : (s.modGang r slot f).partitions = s.partitions := by simp [State.modGang]
@[simp] theorem State.modGang_ifaces (s : State) (r : CoreRef) (slot : Nat) (f : Gang → Gang) : (s.modGang r slot f).ifaces = s.ifaces := by simp [State.modGang]
@[simp] theorem State.modGang_reeves (s : State) (r : CoreRef) (slot : Nat) (f : Gang → Gang) : (s.modGang r slot f).reeves = s.reeves := by simp [State.modGang]
@[simp] theorem State.modGang_links (s : State) (r : CoreRef) (slot : Nat) (f : Gang → Gang) : (s.modGang r slot f).links = s.links := by simp [State.modGang]
@[simp] theorem State.modGang_rops (s : State) (r : CoreRef) (slot : Nat) (f : Gang → Gang) : (s.modGang r slot f).rops = s.rops := by simp [State.modGang]
@[simp] theorem State.modGang_phys (s : State) (r : CoreRef) (slot : Nat) (f : Gang → Gang) : (s.modGang r slot f).phys = s.phys := by simp [State.modGang]
@[simp] theorem State.modGang_agenda (s : State) (r : CoreRef) (slot : Nat) (f : Gang → Gang) : (s.modGang r slot f).agenda = s.agenda := by simp [State.modGang]
@[simp] theorem State.modGang_cur (s : State) (r : CoreRef) (slot : Nat) (f : Gang → Gang) : (s.modGang r slot f).cur = s.cur := by simp [State.modGang]
@[simp] theorem State.modGang_freeCtr (s : State) (r : CoreRef) (slot : Nat) (f : Gang → Gang) : (s.modGang r slot f).freeCtr = s.freeCtr := by simp [State.modGang]
@[simp] theorem State.modGang_uid (s : State) (r : CoreRef) (slot : Nat) (f : Gang → Gang) : (s.modGang r slot f).uid = s.uid := by simp [State.modGang]

@[simp] theorem State.modWg_panel (s : State) (r : CoreRef) (id : Nat) (f : Wg → Wg) : (s.modWg r id f).panel = s.panel := by simp [State.modWg]
@[simp] theorem State.modWg_islands (s : State) (r : CoreRef) (id : Nat) (f : Wg → Wg) : (s.modWg r id f).islands = s.islands := by simp [State.modWg]
@[simp] theorem State.modWg_plots (s : State) (r : CoreRef) (id : Nat) (f : Wg → Wg) : (s.modWg r id f).plots = s.plots := by simp [State.modWg]
@[simp] theorem State.modWg_contexts (s : State) (r : CoreRef) (id : Nat) (f : Wg → Wg) : (s.modWg r id f).contexts = s.contexts := by simp [State.modWg]
@[simp] theorem State.modWg_partitions (s : State) (r : CoreRef) (id : Nat) (f : Wg → Wg) : (s.modWg r id f).partitions = s.partitions := by simp [State.modWg]
@[simp] theorem State.modWg_ifaces (s : State) (r : CoreRef) (id : Nat) (f : Wg → Wg) : (s.modWg r id f).ifaces = s.ifaces := by simp [State.modWg]
@[simp] theorem State.modWg_reeves (s : State) (r : CoreRef) (id : Nat) (f : Wg → Wg) : (s.modWg r id f).reeves = s.reeves := by simp [State.modWg]
@[simp] theorem State.modWg_links (s : State) (r : CoreRef) (id : Nat) (f : Wg → Wg) : (s.modWg r id f).links = s.links := by simp [State.modWg]
@[simp] theorem State.modWg_rops (s : State) (r : CoreRef) (id : Nat) (f : Wg → Wg) : (s.modWg r id f).rops = s.rops := by simp [State.modWg]
@[simp] theorem State.modWg_phys (s : State) (r : CoreRef) (id : Nat) (f : Wg → Wg) : (s.modWg r id f).phys = s.phys := by simp [State.modWg]
@[simp] theorem State.modWg_agenda (s : State) (r : CoreRef) (id : Nat) (f : Wg → Wg) : (s.modWg r id f).agenda = s.agenda := by simp [State.modWg]
@[simp] theorem State.modWg_cur (s : State) (r : CoreRef) (id : Nat) (f : Wg → Wg) : (s.modWg r id f).cur = s.cur := by simp [State.modWg]
@[simp] theorem State.modWg_freeCtr (s : State) (r : CoreRef) (id : Nat) (f : Wg → Wg) : (s.modWg r id f).freeCtr = s.freeCtr := by simp [State.modWg]
@[simp] theorem State.modWg_uid (s : State) (r : CoreRef) (id : Nat) (f : Wg → Wg) : (s.modWg r id f).uid = s.uid := by simp [State.modWg]

@[simp] theorem State.modFlow_panel (s : State) (ag : AgentRef) (f : Flow → Flow) : (s.modFlow ag f).panel = s.panel := by simp [State.modFlow]
@[simp] theorem State.modFlow_islands (s : State) (ag : AgentRef) (f : Flow → Flow) : (s.modFlow ag f).islands = s.islands := by simp [State.modFlow]
@[simp] theorem State.modFlow_plots (s : State) (ag : AgentRef) (f : Flow → Flow) : (s.modFlow ag f).plots = s.plots := by simp [State.modFlow]
@[simp] theorem State.modFlow_contexts (s : State) (ag : AgentRef) (f : Flow → Flow) : (s.modFlow ag f).contexts = s.contexts := by simp [State.modFlow]
@[simp] theorem State.modFlow_partitions (s : State) (ag : AgentRef) (f : Flow → Flow) : (s.modFlow ag f).partitions = s.partitions := by simp [State.modFlow]
@[simp] theorem State.modFlow_ifaces (s : State) (ag : AgentRef) (f : Flow → Flow) : (s.modFlow ag f).ifaces = s.ifaces := by simp [State.modFlow]
@[simp] theorem State.modFlow_reeves (s : State) (ag : AgentRef) (f : Flow → Flow) : (s.modFlow ag f).reeves = s.reeves := by simp [State.modFlow]
@[simp] theorem State.modFlow_links (s : State) (ag : AgentRef) (f : Flow → Flow) : (s.modFlow ag f).links = s.links := by simp [State.modFlow]
@[simp] theorem State.modFlow_rops (s : State) (ag : AgentRef) (f : Flow → Flow) : (s.modFlow ag f).rops = s.rops := by simp [State.modFlow]
@[simp] theorem State.modFlow_phys (s : State) (ag : AgentRef) (f : Flow → Flow) : (s.modFlow ag f).phys = s.phys := by simp [State.modFlow]
@[simp] theorem State.modFlow_agenda (s : State) (ag : AgentRef) (f : Flow → Flow) : (s.modFlow ag f).agenda = s.agenda := by simp [State.modFlow]
@[simp] theorem State.modFlow_cur (s : State) (ag : AgentRef) (f : Flow → Flow) : (s.modFlow ag f).cur = s.cur := by simp [State.modFlow]
@[simp] theorem State.modFlow_freeCtr (s : State) (ag : AgentRef) (f : Flow → Flow) : (s.modFlow ag f).freeCtr = s.freeCtr := by simp [State.modFlow]
@[simp] theorem State.modFlow_uid (s : State) (ag : AgentRef) (f : Flow → Flow) : (s.modFlow ag f).uid = s.uid := by simp [State.modFlow]

@[simp] theorem State.modIsland_panel (s : State) (site : Nat) (f : Island → Island) : (s.modIsland site f).panel = s.panel := rfl
@[simp] theorem State.modIsland_cores (s : State) (site : Nat) (f : Island → Island) : (s.modIsland site f).cores = s.cores := rfl
@[simp] theorem State.modIsland_plots (s : State) (site : Nat) (f : Island → Island) : (s.modIsland site f).plots = s.plots := rfl
@[simp] theorem State.modIsland_contexts (s : State) (site : Nat) (f : Island → Island) : (s.modIsland site f).contexts = s.contexts := rfl
@[simp] theorem State.modIsland_partitions (s : State) (site : Nat) (f : Island → Island) : (s.modIsland site f).partitions = s.partitions := rfl
@[simp] theorem State.modIsland_ifaces (s : State) (site : Nat) (f : Island → Island) : (s.modIsland site f).ifaces = s.ifaces := rfl
@[simp] theorem State.modIsland_reeves (s : State) (site : Nat) (f : Island → Island) : (s.modIsland site f).reeves = s.reeves := rfl
@[simp] theorem State.modIsland_links (s : State) (site : Nat) (f : Island → Island) : (s.modIsland site f).links = s.links := rfl
@[simp] theorem State.modIsland_rops (s : State) (site : Nat) (f : Island → Island) : (s.modIsland site f).rops = s.rops := rfl
@[simp] theorem State.modIsland_phys (s : State) (site : Nat) (f : Island → Island) : (s.modIsland site f).phys = s.phys := rfl
@[simp] theorem State.modIsland_agenda (s : State) (site : Nat) (f : Island → Island) : (s.modIsland site f).agenda = s.agenda := rfl
@[simp] theorem State.modIsland_cur (s : State) (site : Nat) (f : Island → Island) : (s.modIsland site f).cur = s.cur := rfl
@[simp] theorem State.modIsland_freeCtr (s : State) (site : Nat) (f : Island → Island) : (s.modIsland site f).freeCtr = s.freeCtr := rfl
@[simp] theorem State.modIsland_uid (s : State) (site : Nat) (f : Island → Island) : (s.modIsland site f).uid = s.uid := rfl

@[simp] theorem State.modCtxAt_panel (s : State) (site ctx : Nat) (f : CtxIsland → CtxIsland) : (s.modCtxAt site ctx f).panel = s.panel := rfl
@[simp] theorem State.modCtxAt_cores (s : State) (site ctx : Nat) (f : CtxIsland → CtxIsland) : (s.modCtxAt site ctx f).cores = s.cores := rfl
@[simp] theorem State.modCtxAt_plots (s : State) (site ctx : Nat) (f : CtxIsland → CtxIsland) : (s.modCtxAt site ctx f).plots = s.plots := rfl
@[simp] theorem State.modCtxAt_contexts (s : State) (site ctx : Nat) (f : CtxIsland → CtxIsland) : (s.modCtxAt site ctx f).contexts = s.contexts := rfl
@[simp] theorem State.modCtxAt_partitions (s : State) (site ctx : Nat) (f : CtxIsland → CtxIsland) : (s.modCtxAt site ctx f).partitions = s.partitions := rfl
@[simp] theorem State.modCtxAt_ifaces (s : State) (site ctx : Nat) (f : CtxIsland → CtxIsland) : (s.modCtxAt site ctx f).ifaces = s.ifaces := rfl
@[simp] theorem State.modCtxAt_reeves (s : State) (site ctx : Nat) (f : CtxIsland → CtxIsland) : (s.modCtxAt site ctx f).reeves = s.reeves := rfl
@[simp] theorem State.modCtxAt_links (s : State) (site ctx : Nat) (f : CtxIsland → CtxIsland) : (s.modCtxAt site ctx f).links = s.links := rfl
@[simp] theorem State.modCtxAt_rops (s : State) (site ctx : Nat) (f : CtxIsland → CtxIsland) : (s.modCtxAt site ctx f).rops = s.rops := rfl
@[simp] theorem State.modCtxAt_phys (s : State) (site ctx : Nat) (f : CtxIsland → CtxIsland) : (s.modCtxAt site ctx f).phys = s.phys := rfl
@[simp] theorem State.modCtxAt_agenda (s : State) (site ctx : Nat) (f : CtxIsland → CtxIsland) : (s.modCtxAt site ctx f).agenda = s.agenda := rfl
@[simp] theorem State.modCtxAt_cur (s : State) (site ctx : Nat) (f : CtxIsland → CtxIsland) : (s.modCtxAt site ctx f).cur = s.cur := rfl
@[simp] theorem State.modCtxAt_freeCtr (s : State) (site ctx : Nat) (f : CtxIsland → CtxIsland) : (s.modCtxAt site ctx f).freeCtr = s.freeCtr := rfl
@[simp] theorem State.modCtxAt_uid (s : State) (site ctx : Nat) (f : CtxIsland → CtxIsland) : (s.modCtxAt site ctx f).uid = s.uid := rfl

@[simp] theorem State.modContext_panel (s : State) (ctx : Nat) (f : Context → Context) : (s.modContext ctx f).panel = s.panel := rfl
@[simp] theorem State.modContext_cores (s : State) (ctx : Nat) (f : Context → Context) : (s.modContext ctx f).cores = s.cores := rfl
@[simp] theorem State.modContext_islands (s : State) (ctx : Nat) (f : Context → Context) : (s.modContext ctx f).islands = s.islands := rfl
@[simp] theorem State.modContext_plots (s : State) (ctx : Nat) (f : Context → Context) : (s.modContext ctx f).plots = s.plots := rfl
@[simp] theorem State.modContext_partitions (s : State) (ctx : Nat) (f : Context → Context) : (s.modContext ctx f).partitions = s.partitions := rfl
@[simp] theorem State.modContext_ifaces (s : State) (ctx : Nat) (f : Context → Context) : (s.modContext ctx f).ifaces = s.ifaces := rfl
@[simp] theorem State.modContext_reeves (s : State) (ctx : Nat) (f : Context → Context) : (s.modContext ctx f).reeves = s.reeves := rfl
@[simp] theorem State.modContext_links (s : State) (ctx : Nat) (f : Context → Context) : (s.modContext ctx f).links = s.links := rfl
@[simp] theorem State.modContext_rops (s : State) (ctx : Nat) (f : Context → Context) : (s.modContext ctx f).rops = s.rops := rfl
@[simp] theorem State.modContext_phys (s : State) (ctx : Nat) (f : Context → Context) : (s.modContext ctx f).phys = s.phys := rfl
@[simp] theorem State.modContext_agenda (s : State) (ctx : Nat) (f : Context → Context) : (s.modContext ctx f).agenda = s.agenda := rfl
@[simp] theorem State.modContext_cur (s : State) (ctx : Nat) (f : Context → Context) : (s.modContext ctx f).cur = s.cur := rfl
@[simp] theorem State.modContext_freeCtr (s : State) (ctx : Nat) (f : Context → Context) : (s.modContext ctx f).freeCtr = s.freeCtr := rfl
@[simp] theorem State.modContext_uid (s : State) (ctx : Nat) (f : Context → Context) : (s.modContext ctx f).uid = s.uid := rfl

@[simp] theorem State.modPlot_panel (s : State) (site : Nat) (f : Plot → Plot) : (s.modPlot site f).panel = s.panel := rfl
@[simp] theorem State.modPlot_cores (s : State) (site : Nat) (f : Plot → Plot) : (s.modPlot site f).cores = s.cores := rfl
@[simp] theorem State.modPlot_islands (s : State) (site : Nat) (f : Plot → Plot) : (s.modPlot site f).islands = s.islands := rfl
@[simp] theorem State.modPlot_contexts (s : State) (site : Nat) (f : Plot → Plot) : (s.modPlot site f).contexts = s.contexts := rfl
@[simp] theorem State.modPlot_partitions (s : State) (site : Nat) (f : Plot → Plot) : (s.modPlot site f).partitions = s.partitions := rfl
@[simp] theorem State.modPlot_ifaces (s : State) (site : Nat) (f : Plot → Plot) : (s.modPlot site f).ifaces = s.ifaces := rfl
@[simp] theorem State.modPlot_reeves (s : State) (site : Nat) (f : Plot → Plot) : (s.modPlot site f).reeves = s.reeves := rfl
@[simp] theorem State.modPlot_links (s : State) (site : Nat) (f : Plot → Plot) : (s.modPlot site f).links = s.links := rfl
@[simp] theorem State.modPlot_rops (s : State) (site : Nat) (f : Plot → Plot) : (s.modPlot site f).rops = s.rops := rfl
@[simp] theorem State.modPlot_phys (s : State) (site : Nat) (f : Plot → Plot) : (s.modPlot site f).phys = s.phys := rfl
@[simp] theorem State.modPlot_agenda (s : State) (site : Nat) (f : Plot → Plot) : (s.modPlot site f).agenda = s.agenda := rfl
@[simp] theorem State.modPlot_cur (s : State) (site : Nat) (f : Plot → Plot) : (s.modPlot site f).cur = s.cur := rfl
@[simp] theorem State.modPlot_freeCtr (s : State) (site : Nat) (f : Plot → Plot) : (s.modPlot site f).freeCtr = s.freeCtr := rfl
@[simp] theorem State.modPlot_uid (s : State) (site : Nat) (f : Plot → Plot) : (s.modPlot site f).uid = s.uid := rfl

@[simp] theorem State.modReeve_panel (s : State) (n : Nat) (f : Reeve → Reeve) : (s.modReeve n f).panel = s.panel := rfl
@[simp] theorem State.modReeve_cores (s : State) (n : Nat) (f : Reeve → Reeve) : (s.modReeve n f).cores = s.cores := rfl
@[simp] theorem State.modReeve_islands (s : State) (n : Nat) (f : Reeve → Reeve) : (s.modReeve n f).islands = s.islands := rfl
@[simp] theorem State.modReeve_plots (s : State) (n : Nat) (f : Reeve → Reeve) : (s.modReeve n f).plots = s.plots := rfl
@[simp] theorem State.modReeve_contexts (s : State) (n : Nat) (f : Reeve → Reeve) : (s.modReeve n f).contexts = s.contexts := rfl
@[simp] theorem State.modReeve_partitions (s : State) (n : Nat) (f : Reeve → Reeve) : (s.modReeve n f).partitions = s.partitions := rfl
@[simp] theorem State.modReeve_ifaces (s : State) (n : Nat) (f : Reeve → Reeve) : (s.modReeve n f).ifaces = s.ifaces := rfl
@[simp] theorem State.modReeve_links (s : State) (n : Nat) (f : Reeve → Reeve) : (s.modReeve n f).links = s.links := rfl
@[simp] theorem State.modReeve_rops (s : State) (n : Nat) (f : Reeve → Reeve) : (s.modReeve n f).rops = s.rops := rfl
@[simp] theorem State.modReeve_phys (s : State) (n : Nat) (f : Reeve → Reeve) : (s.modReeve n f).phys = s.phys := rfl
@[simp] theorem State.modReeve_agenda (s : State) (n : Nat) (f : Reeve → Reeve) : (s.modReeve n f).agenda = s.agenda := rfl
@[simp] theorem State.modReeve_cur (s : State) (n : Nat) (f : Reeve → Reeve) : (s.modReeve n f).cur = s.cur := rfl
@[simp] theorem State.modReeve_freeCtr (s : State) (n : Nat) (f : Reeve → Reeve) : (s.modReeve n f).freeCtr = s.freeCtr := rfl
@[simp] theorem State.modReeve_uid (s : State) (n : Nat) (f : Reeve → Reeve) : (s.modReeve n f).uid = s.uid := rfl

@[simp] theorem State.modIface_panel (s : State) (n : Nat) (f : Iface → Iface) : (s.modIface n f).panel = s.panel := by
  unfold State.modIface; split <;> rfl
@[simp] theorem State.modIface_cores (s : State) (n : Nat) (f : Iface → Iface) : (s.modIface n f).cores = s.cores := by
  unfold State.modIface; split <;> rfl
@[simp] theorem State.modIface_islands (s : State) (n : Nat) (f : Iface → Iface) : (s.modIface n f).islands = s.islands := by
  unfold State.modIface; split <;> rfl
@[simp] theorem State.modIface_plots (s : State) (n : Nat) (f : Iface → Iface) : (s.modIface n f).plots = s.plots := by
  unfold State.modIface; split <;> rfl
@[simp] theorem State.modIface_contexts (s : State) (n : Nat) (f : Iface → Iface) : (s.modIface n f).contexts = s.contexts := by
  unfold State.modIface; split <;> rfl
@[simp] theorem State.modIface_partitions (s : State) (n : Nat) (f : Iface → Iface) : (s.modIface n f).partitions = s.partitions := by
  unfold State.modIface; split <;> rfl
@[simp] theorem State.modIface_reeves (s : State) (n : Nat) (f : Iface → Iface) : (s.modIface n f).reeves = s.reeves := by
  unfold State.modIface; split <;> rfl
@[simp] theorem State.modIface_links (s : State) (n : Nat) (f : Iface → Iface) : (s.modIface n f).links = s.links := by
  unfold State.modIface; split <;> rfl
@[simp] theorem State.modIface_rops (s : State) (n : Nat) (f : Iface → Iface) : (s.modIface n f).rops = s.rops := by
  unfold State.modIface; split <;> rfl
@[simp] theorem State.modIface_phys (s : State) (n : Nat) (f : Iface → Iface) : (s.modIface n f).phys = s.phys := by
  unfold State.modIface; split <;> rfl
@[simp] theorem State.modIface_agenda (s : State) (n : Nat) (f : Iface → Iface) : (s.modIface n f).agenda = s.agenda := by
  unfold State.modIface; split <;> rfl
@[simp] theorem State.modIface_cur (s : State) (n : Nat) (f : Iface → Iface) : (s.modIface n f).cur = s.cur := by
  unfold State.modIface; split <;> rfl
@[simp] theorem State.modIface_freeCtr (s : State) (n : Nat) (f : Iface → Iface) : (s.modIface n f).freeCtr = s.freeCtr := by
  unfold State.modIface; split <;> rfl
@[simp] theorem State.modIface_uid (s : State) (n : Nat) (f : Iface → Iface) : (s.modIface n f).uid = s.uid := by
  unfold State.modIface; split <;> rfl

@[simp] theorem State.report_panel (s : State) (c : Option Nat) (m : Message) : (s.report c m).panel = s.panel := by
  unfold State.report; split <;> simp
@[simp] theorem State.report_cores (s : State) (c : Option Nat) (m : Message) : (s.report c m).cores = s.cores := by
  unfold State.report; split <;> simp
@[simp] theorem State.report_islands (s : State) (c : Option Nat) (m : Message) : (s.report c m).islands = s.islands := by
  unfold State.report; split <;> simp
@[simp] theorem State.report_plots (s : State) (c : Option Nat) (m : Message) : (s.report c m).plots = s.plots := by
  unfold State.report; split <;> simp
@[simp] theorem State.report_contexts (s : State) (c : Option Nat) (m : Message) : (s.report c m).contexts = s.contexts := by
  unfold State.report; split <;> simp
@[simp] theorem State.report_partitions (s : State) (c : Option Nat) (m : Message) : (s.report c m).partitions = s.partitions := by
  unfold State.report; split <;> simp
@[simp] theorem State.report_reeves (s : State) (c : Option Nat) (m : Message) : (s.report c m).reeves = s.reeves := by
  unfold State.report; split <;> simp
@[simp] theorem State.report_links (s : State) (c : Option Nat) (m : Message) : (s.report c m).links = s.links := by
  unfold State.report; split <;> simp
@[simp] theorem State.report_rops (s : State) (c : Option Nat) (m : Message) : (s.report c m).rops = s.rops := by
  unfold State.report; split <;> simp
@[simp] theorem State.report_phys (s : State) (c : Option Nat) (m : Message) : (s.report c m).phys = s.phys := by
  unfold State.report; split <;> simp
@[simp] theorem State.report_agenda (s : State) (c : Option Nat) (m : Message) : (s.report c m).agenda = s.agenda := by
  unfold State.report; split <;> simp
@[simp] theorem State.report_cur (s : State) (c : Option Nat) (m : Message) : (s.report c m).cur = s.cur := by
  unfold State.report; split <;> simp
@[simp] theorem State.report_freeCtr (s : State) (c : Option Nat) (m : Message) : (s.report c m).freeCtr = s.freeCtr := by
  unfold State.report; split <;> simp
@[simp] theorem State.report_uid (s : State) (c : Option Nat) (m : Message) : (s.report c m).uid = s.uid := by
  unfold State.report; split <;> simp

/-! ### Entries of updated lists -/

theorem find_modify {α : Type} (p q : α → Bool) (f : α → α) (h : ∀ x, q (f x) = q x) (l : List α) :
    (modify p f l).find? q = (l.find? q).map fun x => if p x then f x else x := by
  induction l with
  | nil => rfl
  | cons a r ih =>
    have ha : q (if p a then f a else a) = q a := by split <;> simp [h]
    simp only [modify, List.map_cons, List.find?_cons, ha]
    cases hq : q a
    · exact ih
    · rfl

/-- A core after an update of a core that exists. -/
theorem State.core?_modCore (s : State) (r q : CoreRef) (f : Core → Core) (hf : ∀ c, (f c).ref = c.ref)
    (h : (s.core? r).isSome) : (s.modCore r f).core? q = (s.core? q).map fun c => if q = r then f c else c := by
  have hany : (s.cores.any fun c => c.ref == r) = true := by
    unfold State.core? at h
    rw [Option.isSome_iff_exists] at h
    obtain ⟨c, hc⟩ := h
    exact List.any_eq_true.mpr ⟨c, List.mem_of_find?_eq_some hc, by simpa using List.find?_some hc⟩
  simp only [State.modCore, hany, if_true, State.core?]
  rw [find_modify _ _ _ (fun c => by rw [hf])]
  cases hc : s.cores.find? fun c => c.ref == q with
  | none => rfl
  | some c =>
    have : c.ref = q := by simpa using List.find?_some hc
    simp [this]

/-- A gang after an update of a gang. -/
theorem Core.gang?_modGang (c : Core) (slot k : Nat) (f : Gang → Gang) (hf : ∀ g, (f g).slot = g.slot) :
    (c.modGang slot f).gang? k = (c.gang? k).map fun g => if k = slot then f g else g := by
  simp only [Core.modGang, Core.gang?]
  rw [find_modify _ _ _ (fun g => by rw [hf])]
  cases hg : c.gangs.find? fun g => g.slot == k with
  | none => rfl
  | some g =>
    have : g.slot = k := by simpa using List.find?_some hg
    simp [this]

theorem State.gang?_modGang (s : State) (r q : CoreRef) (slot k : Nat) (f : Gang → Gang)
    (hf : ∀ g, (f g).slot = g.slot) (h : (s.core? r).isSome) :
    (s.modGang r slot f).gang? q k = (s.gang? q k).map fun g => if q = r ∧ k = slot then f g else g := by
  unfold State.gang? State.modGang
  rw [State.core?_modCore s r q (fun c => c.modGang slot f) (fun c => rfl) h]
  cases s.core? q with
  | none => rfl
  | some c =>
    by_cases hq : q = r
    · simp only [hq, Option.map_some, if_true, Option.bind_some, true_and]
      exact Core.gang?_modGang c slot k f hf
    · simp only [hq, Option.map_some, if_false, Option.bind_some, false_and]
      cases c.gang? k <;> rfl

/-- A gang after an update of its core that keeps its gangs. -/
theorem State.gang?_modCore (s : State) (r q : CoreRef) (k : Nat) (f : Core → Core) (hf : ∀ c, (f c).ref = c.ref)
    (hg : ∀ c, (f c).gangs = c.gangs) (h : (s.core? r).isSome) : (s.modCore r f).gang? q k = s.gang? q k := by
  unfold State.gang?
  rw [State.core?_modCore s r q f hf h]
  cases s.core? q with
  | none => rfl
  | some c =>
    simp only [Option.map_some, Option.bind_some]
    split <;> simp [Core.gang?, hg]

/-! ### Gangs and bodies -/

@[simp] theorem Gang.act_modAct (g : Gang) (f : Body → Body) : (g.modAct f).act = f g.act := by
  unfold Gang.modAct Gang.act; cases g.hand <;> rfl


@[simp] theorem Gang.modAct_uid (g : Gang) (f : Body → Body) : (g.modAct f).uid = g.uid := by
  unfold Gang.modAct; cases g.hand <;> rfl
@[simp] theorem Gang.modAct_slot (g : Gang) (f : Body → Body) : (g.modAct f).slot = g.slot := by
  unfold Gang.modAct; cases g.hand <;> rfl
@[simp] theorem Gang.modAct_width (g : Gang) (f : Body → Body) : (g.modAct f).width = g.width := by
  unfold Gang.modAct; cases g.hand <;> rfl
@[simp] theorem Gang.modAct_base (g : Gang) (f : Body → Body) : (g.modAct f).base = g.base := by
  unfold Gang.modAct; cases g.hand <;> rfl
@[simp] theorem Gang.modAct_gix (g : Gang) (f : Body → Body) : (g.modAct f).gix = g.gix := by
  unfold Gang.modAct; cases g.hand <;> rfl
@[simp] theorem Gang.modAct_wgx (g : Gang) (f : Body → Body) : (g.modAct f).wgx = g.wgx := by
  unfold Gang.modAct; cases g.hand <;> rfl
@[simp] theorem Gang.modAct_wg (g : Gang) (f : Body → Body) : (g.modAct f).wg = g.wg := by
  unfold Gang.modAct; cases g.hand <;> rfl
@[simp] theorem Gang.modAct_ctx (g : Gang) (f : Body → Body) : (g.modAct f).ctx = g.ctx := by
  unfold Gang.modAct; cases g.hand <;> rfl
@[simp] theorem Gang.modAct_prio (g : Gang) (f : Body → Body) : (g.modAct f).prio = g.prio := by
  unfold Gang.modAct; cases g.hand <;> rfl
@[simp] theorem Gang.modAct_framemax (g : Gang) (f : Body → Body) : (g.modAct f).framemax = g.framemax := by
  unfold Gang.modAct; cases g.hand <;> rfl
@[simp] theorem Gang.modAct_trapReq (g : Gang) (f : Body → Body) : (g.modAct f).trapReq = g.trapReq := by
  unfold Gang.modAct; cases g.hand <;> rfl
@[simp] theorem Gang.modAct_pend (g : Gang) (f : Body → Body) : (g.modAct f).pend = g.pend := by
  unfold Gang.modAct; cases g.hand <;> rfl
@[simp] theorem Gang.modAct_pl (g : Gang) (f : Body → Body) : (g.modAct f).pl = g.pl := by
  unfold Gang.modAct; cases g.hand <;> rfl
@[simp] theorem Gang.modAct_ppl (g : Gang) (f : Body → Body) : (g.modAct f).ppl = g.ppl := by
  unfold Gang.modAct; cases g.hand <;> rfl
@[simp] theorem Gang.modAct_sstep (g : Gang) (f : Body → Body) : (g.modAct f).sstep = g.sstep := by
  unfold Gang.modAct; cases g.hand <;> rfl
@[simp] theorem Gang.modAct_twin (g : Gang) (f : Body → Body) : (g.modAct f).twin = g.twin := by
  unfold Gang.modAct; cases g.hand <;> rfl
@[simp] theorem Gang.modAct_psn (g : Gang) (f : Body → Body) : (g.modAct f).psn = g.psn := by
  unfold Gang.modAct; cases g.hand <;> rfl
@[simp] theorem Gang.modAct_cause (g : Gang) (f : Body → Body) : (g.modAct f).cause = g.cause := by
  unfold Gang.modAct; cases g.hand <;> rfl
@[simp] theorem Gang.modAct_epc (g : Gang) (f : Body → Body) : (g.modAct f).epc = g.epc := by
  unfold Gang.modAct; cases g.hand <;> rfl
@[simp] theorem Gang.modAct_tval (g : Gang) (f : Body → Body) : (g.modAct f).tval = g.tval := by
  unfold Gang.modAct; cases g.hand <;> rfl
@[simp] theorem Gang.modAct_syTwin (g : Gang) (f : Body → Body) : (g.modAct f).syTwin = g.syTwin := by
  unfold Gang.modAct; cases g.hand <;> rfl
@[simp] theorem Gang.modAct_mxp (g : Gang) (f : Body → Body) : (g.modAct f).mxp = g.mxp := by
  unfold Gang.modAct; cases g.hand <;> rfl
@[simp] theorem Gang.modAct_sysWg (g : Gang) (f : Body → Body) : (g.modAct f).sysWg = g.sysWg := by
  unfold Gang.modAct; cases g.hand <;> rfl
@[simp] theorem Gang.modAct_sysGrid (g : Gang) (f : Body → Body) : (g.modAct f).sysGrid = g.sysGrid := by
  unfold Gang.modAct; cases g.hand <;> rfl
@[simp] theorem Gang.modAct_cluster (g : Gang) (f : Body → Body) : (g.modAct f).cluster = g.cluster := by
  unfold Gang.modAct; cases g.hand <;> rfl
@[simp] theorem Gang.modAct_regionPc (g : Gang) (f : Body → Body) : (g.modAct f).regionPc = g.regionPc := by
  unfold Gang.modAct; cases g.hand <;> rfl
@[simp] theorem Gang.modAct_region (g : Gang) (f : Body → Body) : (g.modAct f).region = g.region := by
  unfold Gang.modAct; cases g.hand <;> rfl
@[simp] theorem Gang.modAct_twinPc (g : Gang) (f : Body → Body) : (g.modAct f).twinPc = g.twinPc := by
  unfold Gang.modAct; cases g.hand <;> rfl
@[simp] theorem Gang.modAct_latches (g : Gang) (f : Body → Body) : (g.modAct f).latches = g.latches := by
  unfold Gang.modAct; cases g.hand <;> rfl
@[simp] theorem Gang.modAct_freed (g : Gang) (f : Body → Body) : (g.modAct f).freed = g.freed := by
  unfold Gang.modAct; cases g.hand <;> rfl
@[simp] theorem Gang.modAct_nextBatch (g : Gang) (f : Body → Body) : (g.modAct f).nextBatch = g.nextBatch := by
  unfold Gang.modAct; cases g.hand <;> rfl
@[simp] theorem Gang.modAct_openBatches (g : Gang) (f : Body → Body) : (g.modAct f).openBatches = g.openBatches := by
  unfold Gang.modAct; cases g.hand <;> rfl
@[simp] theorem Gang.modAct_failMask (g : Gang) (f : Body → Body) : (g.modAct f).failMask = g.failMask := by
  unfold Gang.modAct; cases g.hand <;> rfl
@[simp] theorem Gang.modAct_failure (g : Gang) (f : Body → Body) : (g.modAct f).failure = g.failure := by
  unfold Gang.modAct; cases g.hand <;> rfl
@[simp] theorem Gang.modAct_cellarWait (g : Gang) (f : Body → Body) : (g.modAct f).cellarWait = g.cellarWait := by
  unfold Gang.modAct; cases g.hand <;> rfl
@[simp] theorem Gang.modAct_restore (g : Gang) (f : Body → Body) : (g.modAct f).restore = g.restore := by
  unfold Gang.modAct; cases g.hand <;> rfl
@[simp] theorem Gang.modAct_filled (g : Gang) (f : Body → Body) : (g.modAct f).filled = g.filled := by
  unfold Gang.modAct; cases g.hand <;> rfl
@[simp] theorem Gang.modAct_owed (g : Gang) (f : Body → Body) : (g.modAct f).owed = g.owed := by
  unfold Gang.modAct; cases g.hand <;> rfl
@[simp] theorem Gang.modAct_dbgHeld (g : Gang) (f : Body → Body) : (g.modAct f).dbgHeld = g.dbgHeld := by
  unfold Gang.modAct; cases g.hand <;> rfl
@[simp] theorem Gang.modAct_reissue (g : Gang) (f : Body → Body) : (g.modAct f).reissue = g.reissue := by
  unfold Gang.modAct; cases g.hand <;> rfl

@[simp] theorem Gang.modAct_hand (g : Gang) (f : Body → Body) :
    (g.modAct f).hand = g.hand.map fun h => { h with body := f h.body } := by
  unfold Gang.modAct; cases g.hand <;> simp

theorem modNth_getElem? {α : Type} (f : α → α) (l : List α) (n k : Nat) :
    (modNth f l n)[k]? = if k = n then (l[k]?).map f else l[k]? := by
  induction l generalizing n k with
  | nil => cases n <;> simp [modNth]
  | cons a r ih =>
    cases n with
    | zero => cases k <;> simp [modNth]
    | succ n => cases k with
      | zero => simp [modNth]
      | succ k => simp [modNth, ih]

@[simp] theorem modNth_length {α : Type} (f : α → α) (l : List α) (n : Nat) : (modNth f l n).length = l.length := by
  induction l generalizing n with
  | nil => cases n <;> rfl
  | cons a r ih => cases n <;> simp [modNth, ih]

/-- A flow after an update of a flow that exists. -/
theorem Body.flow_modFlow (b : Body) (n k : Nat) (f : Flow → Flow) (h : n < b.flows.length) :
    (b.modFlow n f).flow k = if k = n then f (b.flow k) else b.flow k := by
  simp only [Body.flow, Body.modFlow, List.getD_eq_getElem?_getD, modNth_getElem?]
  split
  · next e => subst e; simp [h]
  · rfl

@[simp] theorem Body.modFlow_frames (b : Body) (n : Nat) (f : Flow → Flow) : (b.modFlow n f).frames = b.frames := rfl
@[simp] theorem Body.modFlow_grans (b : Body) (n : Nat) (f : Flow → Flow) : (b.modFlow n f).grans = b.grans := rfl
@[simp] theorem Body.modFlow_parted (b : Body) (n : Nat) (f : Flow → Flow) : (b.modFlow n f).parted = b.parted := rfl
@[simp] theorem Body.modFlow_pmsd (b : Body) (n : Nat) (f : Flow → Flow) : (b.modFlow n f).pmsd = b.pmsd := rfl
@[simp] theorem Body.modFlow_flows (b : Body) (n : Nat) (f : Flow → Flow) :
    (b.modFlow n f).flows = modNth f b.flows n := rfl
@[simp] theorem Body.modFlow_trail (b : Body) (n : Nat) (f : Flow → Flow) : (b.modFlow n f).trail = b.trail := rfl
@[simp] theorem Body.modFlow_frame (b : Body) (n : Nat) (f : Flow → Flow) : (b.modFlow n f).frame = b.frame := rfl

end Sys2Proof.Machine
end

