-- ==== Sys2Proof/Laws/Ops.lean ====
section
/-! SUPPORT. One lemma for each shared operation of an instruction's execution, which says what it does. -/

namespace Sys2Proof.Machine

/-! ### A gang whose latches are released -/

@[simp] theorem Gang.freeLatches_latches (g : Gang) : g.freeLatches.latches = [] := rfl
@[simp] theorem Gang.freeLatches_body (g : Gang) : g.freeLatches.body = g.body := rfl
@[simp] theorem Gang.freeLatches_hand (g : Gang) : g.freeLatches.hand = g.hand := rfl
@[simp] theorem Gang.freeLatches_act (g : Gang) : g.freeLatches.act = g.act := rfl
@[simp] theorem Gang.freeLatches_width (g : Gang) : g.freeLatches.width = g.width := rfl
@[simp] theorem Gang.freeLatches_slot (g : Gang) : g.freeLatches.slot = g.slot := rfl
@[simp] theorem Gang.freeLatches_region (g : Gang) : g.freeLatches.region = g.region := rfl
@[simp] theorem Gang.freeLatches_pend (g : Gang) : g.freeLatches.pend = g.pend := rfl

/-- It keeps every field but the latches and the quarters they were released in. -/
theorem Gang.freeLatches_eq (g : Gang) : g.freeLatches = { g with latches := [], freed := g.freeLatches.freed } := rfl

/-- Nothing raised and a destination with room: the instruction goes on. -/
theorem Ex.check_nil {x : Ex} (h : x.full = []) (k : Res) : x.check [] k = k := by
  simp [Ex.check, Ex.stopped, h, judge, firstRaised]

/-- Nothing raised: an instruction is stopped by nothing. -/
theorem Ex.stopped_nil {x : Ex} (h : x.full = []) : x.stopped [] = none := by
  simp [Ex.stopped, h, judge, firstRaised]

theorem takePhys_none {p : Phys → Bool} {l : List Phys} (h : ∀ q ∈ l, p q = false) : takePhys p l = none := by
  induction l with
  | nil => rfl
  | cons q r ih =>
    simp only [List.mem_cons, forall_eq_or_imp] at h
    simp [takePhys, h.1, ih h.2]

/-- No register or window slot that an instruction reads has an error to come. -/
theorem Ex.readPool_of_quiet {x : Ex} (h : ∀ p ∈ x.s.phys, x.meets p = false) : x.readPool = x := by
  unfold Ex.readPool
  dsimp only
  rw [takePhys_none]
  intro q hq
  have := h q hq
  cases q <;> simp only [Ex.meets] at this ⊢
  exact this

/-- A guard with no error to come in the agent's lanes is read as it stands. -/
theorem Ex.guardRead_of_quiet {x : Ex} (h : ∀ p ∈ x.s.phys, ∀ l, p = .guardUe l → x.meets p = false) :
    x.guardRead (x.b.lanes x.g.width x.fi) = ((readOpnd x.g x.b x.fl x.n.h.lit x.n.h.g 1).headD [], x.s) := by
  unfold Ex.guardRead
  dsimp only
  rw [takePhys_none]
  intro q hq
  cases q <;> try rfl
  next l =>
    have := h _ hq l rfl
    simp only [Ex.meets, Ex.lanes] at this
    rw [← this]
    cases x.n.h.g <;> simp

/-- A row that no error to come meets is read as it stands (R349). -/
theorem State.poolRead_of_quiet {s : State} (h : ∀ p ∈ s.phys, ∀ l, p ≠ .storedUe l) (ch : Nat → Charge) (c : Nat → Bool)
    (row : Lanes) : s.poolRead ch c row = (row, s) := by
  unfold State.poolRead
  rw [takePhys_none]
  intro q hq
  cases q <;> first | rfl | exact absurd rfl (h _ hq _)

/-- Values T that no error to come meets are read as they stand (R349). -/
theorem State.tileRead_of_quiet {s : State} (h : ∀ p ∈ s.phys, ∀ t k j, p ≠ .tileUe t k j) (ch : Charge) (tile i : Nat)
    (row : Lanes) : s.tileRead ch tile i row = (row, s) := by
  unfold State.tileRead
  rw [takePhys_none]
  intro q hq
  cases q <;> first | rfl | exact absurd rfl (h _ hq _ _ _)

/-- Partials that no error to come meets are read as they stand (R349). -/
theorem State.partRead_of_quiet {s : State} (h : ∀ p ∈ s.phys, ∀ t k j, p ≠ .partUe t k j) (ch : Charge) (tile i : Nat)
    (l : List Word) : s.partRead ch tile i l = (l.map fun w => ⟨w, false⟩, s) := by
  unfold State.partRead
  rw [takePhys_none]
  intro q hq
  cases q <;> first | rfl | exact absurd rfl (h _ hq _ _ _)

/-- A read of the control window that need not wait is the word there, and changes nothing (R416). -/
theorem State.winFetch_of_read {s : State} {r : CoreRef} {off n : Nat} {v : Dword} (h : s.winRead r off n = some v) :
    s.winFetch r off n = (v, s) := by
  simp [State.winFetch, h]

/-- Reports of operating points apart, dropping old ones changes nothing (R315). -/
@[simp] theorem State.settlePoints_cores (s : State) : s.settlePoints.cores = s.cores := rfl
@[simp] theorem State.settlePoints_rops (s : State) : s.settlePoints.rops = s.rops := rfl
@[simp] theorem State.settlePoints_plots (s : State) : s.settlePoints.plots = s.plots := rfl
@[simp] theorem State.settlePoints_contexts (s : State) : s.settlePoints.contexts = s.contexts := rfl

/-- Steps 1 to 5 of R23 when nothing stands in their way. -/
theorem prepare_of_ready {i : Instr} {s : State} {x : Ex} (h : Ready i s x) : prepare i s = .ok x := by
  obtain ⟨s', ag, g, b, fi, fl, i', n, set, src, pops, full⟩ := x
  obtain ⟨-, ⟨c, hag⟩, hin, hs, hc, hi, hb, hf, hd, haw, hj, hst, hgt, hgc, hsl, hso, hro, hset, hsrc, hpops, hfull, hph⟩ := h
  have hrp := Ex.readPool_of_quiet (x := ⟨s', ag, g, b, fi, fl, i', n, set, src, pops, full⟩) (by simpa [← hs] using hph)
  have hgr := Ex.guardRead_of_quiet (x := ⟨s', ag, g, b, fi, fl, i', n, [], [], [], []⟩) (by
    intro p hp l e
    have := hph p (by simpa [← hs] using hp)
    subst e
    exact this)
  simp only [Ex.regOps, Ex.queueOps, Ex.lanes, Ex.guardRow, Ex.wg, Ex.core] at *
  subst hs hc hi hb hf hfull
  unfold prepare
  simp only [hag, hin, hd, Ex.queueOps, Ex.wg, Ex.core]
  have haw' : ((g.act.flow fi).dormant && !i'.runsDormant g.act.parted) = false := by
    cases hdm : (g.act.flow fi).dormant
    · rfl
    · simp [haw hdm]
  have hpar : ∀ l : List (Bool × Nat), (g.act.parted = true → l = []) → (g.act.parted && !l.isEmpty) = false := by
    intro l hl
    cases hp : g.act.parted
    · rfl
    · simp [hl hp]
  have hpoi : (g.act.lanes g.width fi).flatMap (fun l => if bitOf (g.act.flow fi).xm l then
      poisons 0 .poisonBranch l [laneAt ((readOpnd g g.act (g.act.flow fi) n.h.lit n.h.g 1).headD []) l] else []) = [] := by
    rw [List.flatMap_eq_nil_iff]
    intro l hl
    by_cases hb : bitOf (g.act.flow fi).xm l = true
    · have hc := hgc l hl hb
      rw [if_pos hb, poisons]; simp only [List.filter, hc, List.map]
    · simp [hb]
  simp only [haw', Bool.false_eq_true, if_false]
  rw [hpar _ hj]
  simp only [Bool.false_eq_true, if_false]
  rw [hsl, hst, hgt, hgr, hpoi]
  simp only [Ex.stopped_nil, orStop]
  rw [hso]
  simp only [Ex.stopped_nil]
  rw [← hpops, hro, ← hsrc]
  have hset' : guardSet (g.act.lanes g.width fi) (g.act.flow fi).xm n.h
      ((readOpnd g g.act (g.act.flow fi) n.h.lit n.h.g 1).headD []) = set := hset.symm
  rw [hset']
  simp only [hrp]
  split
  · next ht =>
    rw [takePhys_none]
    intro q hq
    have hm := hph q hq
    cases q <;> simp only [Ex.meets] at hm ⊢
    simpa [ht] using hm
  · rfl

/-- An instruction with nothing in its way is its own checks and effect. -/
theorem issue_of_ready {i : Instr} {s : State} {x : Ex} (h : Ready i s x) (own : Ex → Res) :
    issue i s own = own x := by
  simp only [issue, prepare_of_ready h]

theorem lookupD_of_mem {α : Type} (d : α) (f : Nat → α) (l : List Nat) (i : Nat) (h : i ∈ l) :
    lookupD i d (l.map fun j => (j, f j)) = f i := by
  induction l with
  | nil => cases h
  | cons j r ih =>
    simp only [List.map_cons, lookupD]
    by_cases e : j = i
    · simp [e]
    · have : i ∈ r := by simpa [Ne.symm e] using h
      simp [e, ih this]

theorem lookupD_of_not_mem {α : Type} (d : α) (f : Nat → α) (l : List Nat) (i : Nat) (h : i ∉ l) :
    lookupD i d (l.map fun j => (j, f j)) = d := by
  induction l with
  | nil => rfl
  | cons j r ih =>
    simp only [List.mem_cons, not_or] at h
    simp [lookupD, Ne.symm h.1, ih h.2]

/-- Lane results that leave the state alone. -/
theorem eachLane_pure (f : Nat → State → List LV × State) (s : State) (h : ∀ i, (f i s).2 = s) (l : List Nat) :
    eachLane f l s = (l.map fun i => (i, (f i s).1), s) := by
  induction l with
  | nil => rfl
  | cons i r ih => simp [eachLane, h, ih]

/-- Each lane's result is computed in some state that differs from the first by the earlier lanes' new poison. -/
theorem eachLane_mem (f : Nat → State → List LV × State) (l : List Nat) (s : State) (i : Nat) (h : i ∈ l) :
    ∃ t, lookupD i [] (eachLane f l s).1 = (f i t).1 := by
  induction l generalizing s with
  | nil => cases h
  | cons j r ih =>
    by_cases e : j = i
    · exact ⟨s, by simp [eachLane, lookupD, e]⟩
    · have h' : i ∈ r := by simpa [Ne.symm e] using h
      obtain ⟨t, ht⟩ := ih (f j s).2 h'
      exact ⟨t, by simp [eachLane, lookupD, e, ht]⟩

theorem laneAt_nil (k : Nat) : laneAt [] k = ⟨0, false⟩ := by simp [laneAt]

theorem rowsOf_pure (x : Ex) (n : Nat) (V : Nat → List LV) :
    rowsOf x.w n (x.set.map fun i => (i, V i)) = x.rows n V := by
  unfold rowsOf Ex.rows
  apply List.map_congr_left; intro k _
  apply List.map_congr_left; intro i _
  by_cases h : i ∈ x.set
  · simp [lookupD_of_mem _ V _ _ h, Ex.inSet, h]
  · simp [lookupD_of_not_mem _ V _ _ h, Ex.inSet, h, laneAt_nil]

/-- A lane-wise instruction without new poison writes its lanes' values back and changes nothing else. -/
theorem Ex.lanewise_pure (x : Ex) (n : Nat) (f : Nat → State → List LV × State) (h : ∀ i, (f i x.s).2 = x.s) :
    x.lanewise n f = .next (x.written x.s x.inSet (x.rows n fun i => (f i x.s).1)) := by
  simp only [Ex.lanewise, eachLane_pure f x.s h, rowsOf_pure x n fun i => (f i x.s).1]
  rfl

/-! ### The agent of an instruction that is ready -/

/-- The agent of a ready instruction exists: its core, its gang, its flow. -/
theorem Ready.core_some {i : Instr} {s : State} {x : Ex} (h : Ready i s x) : (s.core? x.ag.core).isSome := by
  obtain ⟨c, hc⟩ := h.agent
  unfold State.agent? at hc
  rw [h.ag]
  cases he : s.core? s.cur.core with
  | none => simp [he] at hc
  | some c => rfl

theorem Ready.gang_eq {i : Instr} {s : State} {x : Ex} (h : Ready i s x) : s.gang? x.ag.core x.ag.slot = some x.g := by
  obtain ⟨c, hc⟩ := h.agent
  unfold State.agent? at hc
  rw [h.ag]
  unfold State.gang?
  cases he : s.core? s.cur.core with
  | none => simp [he] at hc
  | some c =>
    simp only [he] at hc
    cases hg : c.gang? s.cur.slot with
    | none => simp [hg] at hc
    | some g =>
      simp only [hg] at hc
      split at hc
      · simp only [Option.some.injEq, Prod.mk.injEq] at hc
        simp [hg, hc.2.1]
      · cases hc

theorem Ready.flow_lt {i : Instr} {s : State} {x : Ex} (h : Ready i s x) : x.fi < x.b.flows.length := by
  obtain ⟨c, hc⟩ := h.agent
  unfold State.agent? at hc
  cases he : s.core? s.cur.core with
  | none => simp [he] at hc
  | some c =>
    simp only [he] at hc
    cases hg : c.gang? s.cur.slot with
    | none => simp [hg] at hc
    | some g =>
      simp only [hg] at hc
      split at hc
      · next hcond =>
        simp only [Option.some.injEq, Prod.mk.injEq] at hc
        obtain ⟨_, rfl, hfi⟩ := hc
        simp only [Bool.and_eq_true, decide_eq_true_eq, hfi] at hcond
        rw [h.body]; exact hcond.1
      · cases hc

/-- The agent of a ready instruction is ready. -/
theorem Ready.run_eq {i : Instr} {s : State} {x : Ex} (h : Ready i s x) : x.fl.run = .ready := by
  obtain ⟨c, hc⟩ := h.agent
  unfold State.agent? at hc
  cases he : s.core? s.cur.core with
  | none => simp [he] at hc
  | some c =>
    simp only [he] at hc
    cases hg : c.gang? s.cur.slot with
    | none => simp [hg] at hc
    | some g =>
      simp only [hg] at hc
      split at hc
      · next hcond =>
        simp only [Option.some.injEq, Prod.mk.injEq] at hc
        obtain ⟨_, rfl, hfi⟩ := hc
        simp only [Bool.and_eq_true, decide_eq_true_eq, canIssue, beq_iff_eq, hfi] at hcond
        rw [h.flow, h.body]; exact hcond.2.1.1.1.1.1
      · cases hc

/-- The gang of a ready instruction after an update of it. -/
theorem Ready.gang_after {i : Instr} {s : State} {x : Ex} (h : Ready i s x) (f : Gang → Gang)
    (hf : ∀ g, (f g).slot = g.slot) : (s.modGang x.ag.core x.ag.slot f).gang? x.ag.core x.ag.slot = some (f x.g) := by
  rw [State.gang?_modGang s _ _ _ _ f hf h.core_some, h.gang_eq]; simp

theorem Ready.after_modGang {i : Instr} {s : State} {x : Ex} (h : Ready i s x) (f : Gang → Gang)
    (hf : ∀ g, (f g).slot = g.slot) : x.after (s.modGang x.ag.core x.ag.slot f) = f x.g := by
  rw [Ex.after, h.gang_after f hf]; rfl

/-- An update of a ready instruction's gang changes one core only. -/
theorem Ready.only_modGang {i : Instr} {s : State} {x : Ex} (h : Ready i s x) (f : Gang → Gang) :
    OnlyCore x.ag.core s (s.modGang x.ag.core x.ag.slot f) := by
  constructor
  · intro q hq
    unfold State.modGang
    rw [State.core?_modCore s x.ag.core q (fun c => c.modGang x.ag.slot f) (fun c => rfl) h.core_some]
    cases s.core? q <;> simp [hq]
  · unfold State.modGang State.modCore; split <;> rfl

theorem OnlyCore.trans {r : CoreRef} {s t u : State} (h : OnlyCore r s t) (k : OnlyCore r t u) : OnlyCore r s u := by
  refine ⟨fun q hq => (k.1 q hq).trans (h.1 q hq), ?_⟩
  have h2 := h.2
  have k2 := k.2
  rw [k2, h2]

/-! ### Completion -/

@[simp] theorem Gang.addPending_slot (g : Gang) (c : Cause) (v : Dword) : (g.addPending c v).slot = g.slot := by
  unfold Gang.addPending; split <;> rfl
@[simp] theorem Gang.addPending_act (g : Gang) (c : Cause) (v : Dword) : (g.addPending c v).act = g.act := by
  unfold Gang.addPending; split <;> rfl
@[simp] theorem Gang.addPending_region (g : Gang) (c : Cause) (v : Dword) : (g.addPending c v).region = g.region := by
  unfold Gang.addPending; split <;> rfl

@[simp] theorem Ex.trailed_slot (x : Ex) (g : Gang) : (x.trailed g).slot = g.slot := by
  unfold Ex.trailed; split <;> simp [Gang.settleTrail]

/-- What an instruction leaves of its body's trail of MMQs. -/
def Ex.trailOf (x : Ex) (b : Body) : List Trail :=
  match x.i with
  | .mmq .. => b.trail ++ [⟨x.s.uid, x.quarters.length, x.fl.pc, x.pops.map fun q => (q.1, q.2, x.b.headOf q.1 q.2)⟩]
  | _ => []

@[simp] theorem Gang.finish_slot (g : Gang) (x : Ex) (pc : Dword) : (g.finish x pc).slot = g.slot := by
  unfold Gang.finish; dsimp only; split <;> simp
theorem Ex.trailed_act (x : Ex) (g : Gang) : (x.trailed g).act = { g.act with trail := x.trailOf g.act } := by
  unfold Ex.trailed Ex.trailOf
  cases hi : x.i <;> dsimp only
  case mmq => simp
  all_goals
    unfold Gang.settleTrail Gang.act
    simp only [Gang.modAct_hand]
    cases hg : g.hand <;> simp [Gang.modAct, hg]

/-- The body after the completion of an instruction: the pops, the window reset, the PC, the trail of MMQs. -/
theorem Gang.finish_act (g : Gang) (x : Ex) (pc : Dword) :
    (g.finish x pc).act =
      let b := x.pops.foldl (fun b q => b.pop q.1 q.2) g.act
      ({ b with trail := x.trailOf b } : Body).modFlow x.fi fun f =>
        { f with pc := pc, run := .ready, due := none, readyFor := 0, aged := false, passBp := false, noLeaf := [],
                 win := if x.resetsNow then resetWin f.win else f.win } := by
  have key : ∀ (g3 : Gang), (if x.g.sstep && x.g.pl == .u then g3.addPending .singleStep x.fl.pc else g3).act = g3.act := by
    intro g3; split <;> simp
  unfold Gang.finish
  rw [key]
  show (Gang.modAct _ _).act = _
  rw [Gang.act_modAct, Ex.trailed_act, Gang.act_modAct]

end Sys2Proof.Machine
end

