-- ==== Sys2Proof/Laws/Operands.lean ====
section
/-! SUPPORT. What a lane's result is: elements, tags, and the completion of lane-local instructions. -/

namespace Sys2Proof.Machine

theorem nibble_bits : ∀ k : Fin 32, (4294967280#32)[k] = true ∨ (15#32)[k] = true := by decide

/-- The merge of one source is the source unchanged (R87). -/
theorem merge_one (y : LV) : merge [y] = if y.p then some y.v else none := by
  obtain ⟨v, p⟩ := y
  cases p
  · rfl
  · simp only [merge, provCount, List.filter_cons_of_pos, List.filter_nil, List.length_nil, Nat.add_zero, if_true]
    have hmin : BitVec.ofNat 32 (min 15 (v.extractLsb' 0 4).toNat) = v &&& 15#32 := by
      have := (v.extractLsb' 0 4).isLt
      apply BitVec.eq_of_toNat_eq
      rw [Nat.min_eq_right (by omega), BitVec.toNat_and]
      simp only [BitVec.extractLsb'_toNat, Nat.shiftRight_zero, BitVec.toNat_ofNat]
      rw [show (15 % 2^32 : Nat) = 2^4-1 from rfl, Nat.and_two_pow_sub_one_eq_mod]
      omega
    rw [hmin]
    congr 1
    ext k hk
    simp
    cases v[k] <;> simp
    exact nibble_bits ⟨k, hk⟩

theorem wordsOf_length (n x : Nat) : (wordsOf n x).length = n := by
  induction n generalizing x with
  | zero => rfl
  | succ n ih => simp [wordsOf, ih]

/-- A lane result without new poison. -/
theorem State.tag_clean (s : State) (ch : Charge) (srcs : List LV) (n bits : Nat) (els : List El)
    (h : ch.psn = false ∨ firstFresh els = none) :
    s.tag ch srcs n bits els = (tagged srcs (wordsOf n (joinEls bits (els.map El.code))), s) := by
  unfold State.tag State.tagAt tagged
  cases merge srcs with
  | some w => simp [wordsOf_length, List.map_const']
  | none =>
    rcases h with h | h
    · rw [h]
    · rw [h]; cases ch.psn <;> rfl

theorem firstFresh_val {α : Type} (f : α → Nat) (l : List α) : firstFresh (l.map fun k => .val (f k)) = none := by
  induction l with
  | nil => rfl
  | cons a r ih => simp [firstFresh, ih]

/-- A lane-local instruction without new poison. -/
theorem Ex.packed_clean {x : Ex} (hx : x.full = []) (n bits : Nat) (srcs : List Nat) (f : Nat → Nat → El)
    (h : ∀ i, x.g.psn = false ∨ firstFresh ((upTo (32 * n / bits)).map (f i)) = none) :
    x.packed n bits srcs f = .next (x.written x.s x.inSet (x.rows n fun i =>
      tagged (x.srcsOf srcs i) (wordsOf n (joinEls bits ((upTo (32 * n / bits)).map fun k => (f i k).code))))) := by
  have ht : ∀ i, x.s.tag (x.charge i) (srcs.map fun j => x.one j i) n bits ((upTo (32 * n / bits)).map (f i)) =
      (tagged (x.srcsOf srcs i) (wordsOf n (joinEls bits ((upTo (32 * n / bits)).map fun k => (f i k).code))), x.s) := by
    intro i
    rw [State.tag_clean _ _ _ _ _ _ (h i), List.map_map]; rfl
  rw [Ex.packed, Ex.check_nil hx, Ex.lanewise_pure]
  · simp only [ht]
  · intro i; rw [ht i]

/-- A lane-local instruction whose elements are codes. -/
theorem Ex.packed_val {x : Ex} (hx : x.full = []) (n bits : Nat) (srcs : List Nat) (f : Nat → Nat → Nat) :
    x.packed n bits srcs (fun i k => .val (f i k)) = .next (x.written x.s x.inSet (x.rows n fun i =>
      tagged (x.srcsOf srcs i) (wordsOf n (joinEls bits ((upTo (32 * n / bits)).map (f i)))))) :=
  Ex.packed_clean hx n bits srcs _ fun i => .inr (firstFresh_val (f i) _)

theorem joinEls_lt (b : Nat) (l : List Nat) : joinEls b l < 2 ^ (b * l.length) := by
  induction l with
  | nil => simp [joinEls]
  | cons x r ih =>
    have h1 : x % 2 ^ b < 2 ^ b := Nat.mod_lt _ (Nat.two_pow_pos b)
    rw [joinEls, List.length_cons, Nat.mul_add, Nat.mul_one, Nat.pow_add, Nat.mul_comm (2 ^ (b * r.length))]
    calc x % 2 ^ b + 2 ^ b * joinEls b r < 2 ^ b + 2 ^ b * joinEls b r := by omega
      _ = 2 ^ b * (joinEls b r + 1) := by ring
      _ ≤ 2 ^ b * 2 ^ (b * r.length) := Nat.mul_le_mul_left _ ih

/-- Reading back an element of a list of elements. -/
theorem joinEls_get (b : Nat) (l : List Nat) (k : Nat) :
    joinEls b l / 2 ^ (b * k) % 2 ^ b = l.getD k 0 % 2 ^ b := by
  induction l generalizing k with
  | nil => simp [joinEls]
  | cons x r ih =>
    have h1 : x % 2 ^ b < 2 ^ b := Nat.mod_lt _ (Nat.two_pow_pos b)
    cases k with
    | zero => simp [joinEls]
    | succ k =>
      rw [Nat.mul_add, Nat.mul_one, Nat.add_comm, Nat.pow_add, ← Nat.div_div_eq_div_mul, joinEls,
        Nat.add_mul_div_left _ _ (Nat.two_pow_pos b), Nat.div_eq_of_lt h1, Nat.zero_add, ih]
      simp

/-- The words of a number, joined, are its low bits. -/
theorem joinEls_wordsOf (n N : Nat) : joinEls 32 ((wordsOf n N).map fun v => v.toNat) = N % 2 ^ (32 * n) := by
  induction n generalizing N with
  | zero => simp [wordsOf, joinEls, Nat.mod_one]
  | succ n ih =>
    have h : 32 * (n + 1) = 32 + 32 * n := by ring
    simp only [wordsOf, List.map_cons, joinEls, ih, h, BitVec.toNat_ofNat, Nat.mod_mod, Nat.pow_add]
    rw [Nat.mod_mul]

theorem laneAt_map (f : Nat → LV) (w l : Nat) (h : l < w) : laneAt ((upTo w).map f) l = f l := by
  simp [laneAt, upTo, h]

theorem tagged_length (srcs : List LV) (ws : List Word) : (tagged srcs ws).length = ws.length := by
  unfold tagged; split <;> simp

/-- The registers of a lane of the lane set are that lane's values. -/
theorem Ex.rows_lane (x : Ex) (n : Nat) (V : Nat → List LV) (hV : ∀ l, (V l).length = n) (l : Nat) (hl : l ∈ x.set)
    (hw : l < x.w) : (x.rows n V).map (fun row => laneAt row l) = V l := by
  apply List.ext_getElem
  · simp [Ex.rows, upTo, hV]
  · intro k h1 h2
    simp [Ex.rows, upTo] at h1
    have : laneAt ((upTo x.w).map fun i => if x.inSet i then laneAt (V i) k else ⟨0, false⟩) l = laneAt (V l) k := by
      rw [laneAt_map _ _ _ hw]; simp [Ex.inSet, hl]
    simp only [Ex.rows, List.getElem_map, List.map_map, Function.comp, upTo, List.getElem_range] at this ⊢
    rw [this]
    simp [laneAt, h2]

/-- Result rows of one register. -/
theorem Ex.rows_one (x : Ex) (V : Nat → List LV) (hV : ∀ l, (V l).length = 1) :
    ∃ row, x.rows 1 V = [row] ∧ ∀ l ∈ x.set, l < x.w → V l = [laneAt row l] := by
  obtain ⟨row, h⟩ := List.length_eq_one_iff.mp (show (x.rows 1 V).length = 1 by simp [Ex.rows, upTo])
  refine ⟨row, h, fun l hl hw => ?_⟩
  have := Ex.rows_lane x 1 V hV l hl hw
  rw [h] at this
  exact this.symm

/-- Result rows of a pair. -/
theorem Ex.rows_two (x : Ex) (V : Nat → List LV) (hV : ∀ l, (V l).length = 2) :
    ∃ lo hi, x.rows 2 V = [lo, hi] ∧ ∀ l ∈ x.set, l < x.w → V l = [laneAt lo l, laneAt hi l] := by
  obtain ⟨lo, hi, h⟩ := List.length_eq_two.mp (show (x.rows 2 V).length = 2 by simp [Ex.rows, upTo])
  refine ⟨lo, hi, h, fun l hl hw => ?_⟩
  have := Ex.rows_lane x 2 V hV l hl hw
  rw [h] at this
  exact this.symm

/-- A lane-local instruction without new poison, element by element. -/
theorem Ex.packed_elementwise {x : Ex} (hx : x.full = []) (n b : Nat) (js : List Nat) (f : Nat → Nat → El)
    (h : ∀ i, x.g.psn = false ∨ firstFresh ((upTo (32 * n / b)).map (f i)) = none) :
    Elementwise x x.s (x.packed n b js f) n b js fun l k => (f l k).code % 2 ^ b := by
  refine ⟨_, Ex.packed_clean hx n b js f h, by simp [Ex.rows, upTo], fun l hl hw => ?_⟩
  have hlane := Ex.rows_lane x n (fun i => tagged (x.srcsOf js i)
    (wordsOf n (joinEls b ((upTo (32 * n / b)).map fun k => (f i k).code))))
    (fun i => by rw [tagged_length, wordsOf_length]) l hl hw
  cases hm : merge (x.srcsOf js l) with
  | some w =>
    intro row hr
    have : laneAt row l ∈ (x.rows n fun i => tagged (x.srcsOf js i)
      (wordsOf n (joinEls b ((upTo (32 * n / b)).map fun k => (f i k).code)))).map fun row => laneAt row l :=
      List.mem_map_of_mem hr
    rw [hlane] at this
    simp only [tagged, hm, List.mem_map] at this
    obtain ⟨_, _, h⟩ := this
    exact h.symm
  | none =>
    constructor
    · intro row hr
      have : laneAt row l ∈ (x.rows n fun i => tagged (x.srcsOf js i)
        (wordsOf n (joinEls b ((upTo (32 * n / b)).map fun k => (f i k).code)))).map fun row => laneAt row l :=
        List.mem_map_of_mem hr
      rw [hlane] at this
      simp only [tagged, hm, List.mem_map] at this
      obtain ⟨_, _, h⟩ := this
      rw [← h]
    · intro k hk
      have e : (x.rows n fun i => tagged (x.srcsOf js i)
        (wordsOf n (joinEls b ((upTo (32 * n / b)).map fun k => (f i k).code)))).map (fun row => (laneAt row l).v) =
          wordsOf n (joinEls b ((upTo (32 * n / b)).map fun k => (f l k).code)) := by
        have h0 : tagged (x.srcsOf js l) (wordsOf n (joinEls b ((upTo (32 * n / b)).map fun k => (f l k).code))) =
            (wordsOf n (joinEls b ((upTo (32 * n / b)).map fun k => (f l k).code))).map fun v => ⟨v, false⟩ := by
          simp only [tagged, hm]
        rw [h0] at hlane
        have := congrArg (List.map LV.v) hlane
        rw [List.map_map, List.map_map] at this
        exact this.trans (by simp [Function.comp_def])
      unfold elementOf
      rw [e, joinEls_wordsOf]
      have hle : b * (32 * n / b) ≤ 32 * n := Nat.mul_div_le _ _
      have hN := joinEls_lt b ((upTo (32 * n / b)).map fun k => (f l k).code)
      rw [List.length_map, show (upTo (32 * n / b)).length = 32 * n / b by simp [upTo]] at hN
      rw [Nat.mod_eq_of_lt (lt_of_lt_of_le hN (Nat.pow_le_pow_right (by decide) hle)), joinEls_get]
      simp only [upTo, List.getD_eq_getElem?_getD, List.getElem?_map, List.getElem?_range hk, Option.map_some,
        Option.getD_some]

theorem Elementwise.congr {x : Ex} {s : State} {r : Res} {n b : Nat} {js : List Nat} {F G : Nat → Nat → Nat}
    (e : Elementwise x s r n b js F) (h : ∀ l ∈ x.set, l < x.w → ∀ k, F l k = G l k) : Elementwise x s r n b js G := by
  obtain ⟨rows, h1, h2, h3⟩ := e
  refine ⟨rows, h1, h2, fun l hl hw => ?_⟩
  have h3 := h3 l hl hw
  cases hm : merge (x.srcsOf js l) <;> simp only [hm] at h3 ⊢
  · exact ⟨h3.1, fun k hk => (h3.2 k hk).trans (h l hl hw k)⟩
  · exact h3

/-- A lane-local instruction with poison mode off or no new poison, element by element. -/
theorem Ready.el_elementwise {i : Instr} {s : State} {x : Ex} (hr : Ready i s x) (n b : Nat) (js : List Nat)
    (f : Nat → Nat → El) (F : Nat → Nat → Nat) (h : ∀ l k, (f l k).code % 2 ^ b = F l k)
    (hf : ∀ i, x.g.psn = false ∨ firstFresh ((upTo (32 * n / b)).map (f i)) = none) :
    Elementwise x s (x.packed n b js f) n b js F := by
  have := Ex.packed_elementwise hr.full n b js f hf
  rw [hr.state] at this
  exact this.congr fun l _ _ k => h l k

/-- A lane-local instruction whose elements are codes, element by element. -/
theorem Ready.val_elementwise {i : Instr} {s : State} {x : Ex} (hr : Ready i s x) (n b : Nat) (js : List Nat)
    (f F : Nat → Nat → Nat) (hlt : ∀ i k, F i k < 2 ^ b) (h : ∀ l k, f l k = F l k) :
    Elementwise x s (x.packed n b js fun i k => .val (f i k)) n b js F :=
  hr.el_elementwise n b js _ F (fun l k => by rw [El.code, h, Nat.mod_eq_of_lt (hlt l k)])
    fun i => .inr (firstFresh_val (f i) _)

/-- A lane-local instruction of one number. -/
theorem Ready.wide_elementwise {i : Instr} {s : State} {x : Ex} (hr : Ready i s x) (n : Nat) (js : List Nat)
    (f F : Nat → Nat) (hlt : ∀ i, F i < 2 ^ (32 * n)) (h : ∀ l, f l = F l) :
    Elementwise x s (x.wide n js f) n (32 * n) js fun l _ => F l :=
  hr.val_elementwise n (32 * n) js _ _ (fun i _ => hlt i) fun l _ => h l

theorem fitInt_eq (md : IntMod) (sat : Bool) (v : Int) : fitInt md.fmt sat v = clip { md with sat := sat } v := by
  obtain ⟨w, sg, t⟩ := md
  cases w <;> cases sg <;> cases sat <;> simp [fitInt, clip, IntMod.fmt, codeOf, fmtBits, intRange, IntW.bits]

theorem clip_lt (md : IntMod) (v : Int) : clip md v < 2 ^ md.w.bits := by
  have h : (0 : Int) < 2 ^ md.w.bits := by positivity
  refine (Int.toNat_lt (Int.emod_nonneg _ h.ne')).mpr ?_
  push_cast
  exact Int.emod_lt_of_pos _ h

/-- An INT instruction whose elements are exact integers. -/
theorem Ready.int_elementwise {i : Instr} {s : State} {x : Ex} (hr : Ready i s x) (md : IntMod) (n : Nat)
    (js : List Nat) (f F : Nat → Nat → Int) (h : ∀ l k, f l k = F l k) :
    Elementwise x s (x.intOp md n js f) n md.w.bits js fun l k => clip md (F l k) :=
  hr.val_elementwise n md.w.bits js _ _ (fun _ _ => clip_lt _ _) fun l k => by rw [fitInt_eq, h]

/-- The number of registers an operand gives. -/
theorem readOpnd_length (g : Gang) (b : Body) (fl : Flow) (lit : Option Word) (o : Opnd) :
    (readOpnd g b fl lit o 1).length = 1 := by
  cases o <;> simp [readOpnd, upTo]

theorem readOpnd_length2 (g : Gang) (b : Body) (fl : Flow) (lit : Option Word) (o : Opnd) (ext : Bool)
    (h : Role.ok ext (.src 2) o = true) : (readOpnd g b fl lit o 2).length = 2 := by
  cases o with
  | v r => simp [readOpnd, upTo]
  | z => simp [readOpnd]
  | w k => simp [readOpnd, upTo]
  | lit => rfl
  | _ => exact Bool.noConfusion (show false = true from h)

/-- A source of an instruction that is ready, of n registers. -/
theorem Ready.src_at {i : Instr} {s : State} {x : Ex} (hr : Ready i s x) {j : Nat} {p : Opnd × Role}
    (hp : x.n.ops[j]? = some p) : x.src.getD j [] = readOpnd x.g x.b x.fl x.n.h.lit p.1 p.2.span := by
  rw [hr.src, List.getD_eq_getElem?_getD, List.getElem?_map, hp]; rfl

/-- An operand of one register as a number. -/
theorem Ex.num_one {x : Ex} {j : Nat} (h : (x.src.getD j []).length = 1) (i : Nat) : x.num j i = (x.lv j i).v.toNat := by
  unfold Ex.num Ex.lv Ex.lvk Ex.regs
  obtain ⟨r, hr⟩ := List.length_eq_one_iff.mp h
  rw [hr]
  simp only [List.map_cons, List.map_nil, joinEls, List.getD_cons_zero]
  have := (laneAt r i).v.isLt
  omega

/-- The two registers of a pair operand in a lane. -/
theorem Ex.regs_two {x : Ex} {j : Nat} (h : (x.src.getD j []).length = 2) (l : Nat) :
    x.regs j l = [x.lvk j 0 l, x.lvk j 1 l] := by
  unfold Ex.regs Ex.lvk
  obtain ⟨r, q, hr⟩ := List.length_eq_two.mp h
  rw [hr]; rfl

/-- What an instruction that is ready is. -/
theorem Ready.info_eq {i : Instr} {s : State} {x : Ex} (hr : Ready i s x) {n : Info} (h : i.info = some n) : x.n = n := by
  have := hr.info; rw [h] at this; exact (Option.some.inj this).symm

/-- The modifiers of an instruction that is ready are accepted. -/
theorem Ready.modOk {i : Instr} {s : State} {x : Ex} (hr : Ready i s x) : x.n.mod = true := by
  have h := hr.wf
  rw [Instr.wf, hr.info] at h
  simp only [Bool.and_eq_true] at h
  exact h.1.2

/-- The operands of an instruction that is ready stand in roles that accept them. -/
theorem Ready.roleOk {i : Instr} {s : State} {x : Ex} (hr : Ready i s x) {j : Nat} {p : Opnd × Role}
    (hp : x.n.ops[j]? = some p) : Role.ok x.n.h.lit.isSome p.2 p.1 = true := by
  have h := hr.wf
  rw [Instr.wf, hr.info] at h
  simp only [Bool.and_eq_true, Info.opsOk, List.all_eq_true] at h
  exact h.2.1.2 p (List.mem_of_getElem? hp)

/-- A pair source has two registers. -/
theorem Ready.pair_length {i : Instr} {s : State} {x : Ex} (hr : Ready i s x) {j : Nat} {o : Opnd}
    (hp : x.n.ops[j]? = some (o, .src 2)) : (x.src.getD j []).length = 2 := by
  rw [hr.src_at hp]; exact readOpnd_length2 _ _ _ _ _ _ (hr.roleOk hp)

/-- An operand of one register as one source. -/
theorem Ready.one_one {i : Instr} {s : State} {x : Ex} (hr : Ready i s x) {j : Nat} {o : Opnd}
    (hp : x.n.ops[j]? = some (o, .src 1)) (l : Nat) : x.one j l = x.lv j l := by
  have h : (x.src.getD j []).length = 1 := by rw [hr.src_at hp]; exact readOpnd_length _ _ _ _ _
  unfold Ex.one Ex.lv Ex.lvk Ex.regs
  obtain ⟨r, hr⟩ := List.length_eq_one_iff.mp h
  rw [hr]; simp [joinSrc]; split <;> simp_all

theorem Ready.num_one {i : Instr} {s : State} {x : Ex} (hr : Ready i s x) {j : Nat} {o : Opnd}
    (hp : x.n.ops[j]? = some (o, .src 1)) (l : Nat) : x.num j l = (x.lv j l).v.toNat :=
  Ex.num_one (by rw [hr.src_at hp]; exact readOpnd_length _ _ _ _ _) l

/-- An operand of two registers as a number. -/
theorem Ex.num_two {x : Ex} {j : Nat} (h : (x.src.getD j []).length = 2) (i : Nat) : x.num j i = (x.pair j i).toNat := by
  unfold Ex.num Ex.pair Ex.lvk Ex.regs
  obtain ⟨r, q, hr⟩ := List.length_eq_two.mp h
  rw [hr]
  simp only [List.map_cons, List.map_nil, joinEls, List.getD_cons_zero, List.getD_cons_succ, BitVec.toNat_append]
  have h1 := (laneAt r i).v.isLt
  have h2 := (laneAt q i).v.isLt
  rw [← Nat.shiftLeft_add_eq_or_of_lt h1, Nat.shiftLeft_eq]; omega

theorem Ready.num_two {i : Instr} {s : State} {x : Ex} (hr : Ready i s x) {j : Nat} {o : Opnd}
    (hp : x.n.ops[j]? = some (o, .src 2)) (l : Nat) : x.num j l = (x.pair j l).toNat :=
  Ex.num_two (hr.pair_length hp) l

end Sys2Proof.Machine
end

