-- ==== Sys2Proof/Tests/Slice0.lean ====
section
/-! SUPPORT. Tests of the model. -/

namespace Sys2Proof.Tests

open Sys2Proof.Machine

set_option Elab.async false

/-! ### Decoding: every encoded row by a word of the encoding tables -/

def P : Hdr := ⟨none, .z, false, false⟩

/-- What words decode to. -/
def decoded (l : List (List Word)) : List (Except DecodeErr Instr) := l.map decodeWords

/-- Words of the INT class, from the fields of R30 to R33 and R39 to R43. -/
theorem test_decode_int : decoded [
    [0xD0201002, 0x00F0F003], [0x20504006, 0x00F0F006], [0x7040200A, 0x00F0F006], [0x4020100E, 0x00F0F003],
    [0xB0308012, 0x00F00A05], [0x10201016, 0x00F0F003], [0x4020101A, 0x00F0F003], [0xE090701E, 0x00F0F0F0],
    [0xC0201022, 0x00F0F003], [0x30402026, 0x00F0F006], [0x4020102A, 0x58F0F003], [0x0020102E, 0x00F00403],
    [0x30402032, 0x00F0F006], [0xF0402036, 0x00F0F006], [0x0040203A, 0x68F0F007], [0x3020103E, 0x08F0F004],
    [0xA0201042, 0x00F00403], [0x50201046, 0x00F00403], [0x0020104A, 0x00F00403]] = [
    .ok (.iadd P ⟨.w16x2, true, true⟩ (.v 1) (.v 2) (.v 3)), .ok (.isub P ⟨.w8x4, false, false⟩ (.v 4) (.v 5) (.v 6)),
    .ok (.imul P ⟨.w64, true, false⟩ (.v 2) (.v 4) (.v 6)), .ok (.imulh P ⟨.w32, true, false⟩ (.v 1) (.v 2) (.v 3)),
    .ok (.imad P ⟨.w64, false, true⟩ (.v 8) (.v 3) (.v 5) (.v 10)),
    .ok (.imin P ⟨.w16x2, false, false⟩ (.v 1) (.v 2) (.v 3)), .ok (.imax P ⟨.w32, true, false⟩ (.v 1) (.v 2) (.v 3)),
    .ok (.iabs P ⟨.w8x4, true, true⟩ (.v 7) (.v 9)), .ok (.idiv P ⟨.w32, true, true⟩ (.v 1) (.v 2) (.v 3)),
    .ok (.irem P ⟨.w64, false, false⟩ (.v 2) (.v 4) (.v 6)),
    .ok (.icmp P ⟨.w32, true, false⟩ .le true (.v 1) (.v 2) (.v 3)),
    .ok (.isel P ⟨.w32, false, false⟩ (.v 1) (.v 2) (.v 3) (.v 4)), .ok (.dadd P ⟨.w64, false, false⟩ (.v 2) (.v 4) (.v 6)),
    .ok (.dsub P ⟨.w64, true, true⟩ (.v 2) (.v 4) (.v 6)), .ok (.lea P 5 true (.v 2) (.v 4) (.v 7)),
    .ok (.dcmp P ⟨.w64, false, false⟩ .ne false (.v 1) (.v 2) (.v 4)),
    .ok (.dot4 P ⟨.w8x4, false, true⟩ (.v 1) (.v 2) (.v 3) (.v 4)),
    .ok (.dot2 P ⟨.w16x2, true, false⟩ (.v 1) (.v 2) (.v 3) (.v 4)),
    .ok (.isad P ⟨.w32, false, false⟩ (.v 1) (.v 2) (.v 3) (.v 4))] := by rfl

set_option maxRecDepth 8000 in
/-- Words with a guard, GN and NW, and with a literal, from the fields of R30 to R33 and R39 to R43. -/
theorem test_decode_header : decoded [
    [0x40201002, 0x0309F003], [0x0F901007, 0x00F0F0FF, 0x00000005]] = [
    .ok (.iadd ⟨none, .v 9, true, true⟩ ⟨.w32, true, false⟩ (.v 1) (.v 2) (.v 3)),
    .ok (.isub ⟨some 5, .z, false, false⟩ ⟨.w32, false, false⟩ (.v 1) .lid .lit)] := by rfl

/-- Words of the BIT class, from the fields of R30 to R33 and R39 to R43. -/
theorem test_decode_bit : decoded [
    [0x00201102, 0x00F0F0F0], [0x00201106, 0x00F0F003], [0x0020110A, 0x00F0F003], [0x0020110E, 0x00F0F003],
    [0x00201112, 0x00F0F003], [0x00201116, 0x00F0F0F0], [0x1020111A, 0x00F0F003], [0x2020111E, 0x00F0F003],
    [0x00201122, 0x00F0F003], [0x00201126, 0x00F0F003], [0x0020112A, 0x08F0F003], [0x0020112E, 0x00F00403],
    [0x00201132, 0x00F0F0F0], [0x00201136, 0x00F0F0F0], [0x0020113A, 0x00F0F0F0], [0x0020113E, 0x00F0F0F0],
    [0x00201142, 0x10F03E03], [0xE0201146, 0x40F00403], [0x0040214A, 0x00F0F005], [0x0040214E, 0x08F0F005],
    [0x00402152, 0x00F0F0F0]] = [
    .ok (.mov P (.v 1) (.v 2)), .ok (.andI P (.v 1) (.v 2) (.v 3)), .ok (.orI P (.v 1) (.v 2) (.v 3)),
    .ok (.xorI P (.v 1) (.v 2) (.v 3)), .ok (.andn P (.v 1) (.v 2) (.v 3)), .ok (.notI P (.v 1) (.v 2)),
    .ok (.shl P .w16x2 (.v 1) (.v 2) (.v 3)), .ok (.shr P .w8x4 (.v 1) (.v 2) (.v 3)),
    .ok (.sha P .w32 (.v 1) (.v 2) (.v 3)), .ok (.rot P .w32 (.v 1) (.v 2) (.v 3)), .ok (.bfe P true (.v 1) (.v 2) (.v 3)),
    .ok (.bfi P (.v 1) (.v 2) (.v 3) (.v 4)), .ok (.popc P (.v 1) (.v 2)), .ok (.clz P (.v 1) (.v 2)),
    .ok (.ffs P (.v 1) (.v 2)), .ok (.brev P (.v 1) (.v 2)), .ok (.permb P 2 0x3E (.v 1) (.v 2) (.v 3)),
    .ok (.lop3 P 0xE8 (.v 1) (.v 2) (.v 3) (.v 4)), .ok (.dshl P (.v 2) (.v 4) (.v 5)),
    .ok (.dshr P true (.v 2) (.v 4) (.v 5)), .ok (.movd P (.v 2) (.v 4))] := by rfl

/-- Words of the FPA class, from the fields of R30 to R33 and R39 to R43. -/
theorem test_decode_fpa : decoded [
    [0x90201202, 0x20F0F003], [0x20201206, 0x48F0F003], [0x3020120A, 0x10F0F003], [0x4020120E, 0x80F00403],
    [0x80201212, 0x08F0F003], [0x00201216, 0x10F0F003], [0x0020121A, 0xC0F0F003], [0x0020121E, 0x10F00403],
    [0x10201222, 0x00F0F003], [0x00201226, 0x00F0F0F0], [0x2020122A, 0x08F0F0F0], [0x0020122E, 0x00F0F0F0]] = [
    .ok (.fadd P ⟨.rz, true⟩ .f32 true false (.v 1) (.v 2) (.v 3)),
    .ok (.fsub P ⟨.ru, false⟩ .f16x2 false true (.v 1) (.v 2) (.v 3)),
    .ok (.fmul P ⟨.rd, false⟩ .bf16x2 false false (.v 1) (.v 2) (.v 3)),
    .ok (.ffma P ⟨.ro, false⟩ .f32 false false true (.v 1) (.v 2) (.v 3) (.v 4)),
    .ok (.fmin P ⟨.rne, true⟩ .f16x2 (.v 1) (.v 2) (.v 3)), .ok (.fmax P ⟨.rne, false⟩ .bf16x2 (.v 1) (.v 2) (.v 3)),
    .ok (.fcmp P ⟨.rne, false⟩ .f32 .ord (.v 1) (.v 2) (.v 3)),
    .ok (.fdot2 P ⟨.rne, false⟩ .bf16x2 (.v 1) (.v 2) (.v 3) (.v 4)),
    .ok (.fscale P ⟨.rz, false⟩ .f32 (.v 1) (.v 2) (.v 3)), .ok (.ffract P ⟨.rne, false⟩ .f32 (.v 1) (.v 2)),
    .ok (.frnd P ⟨.ru, false⟩ .f16x2 (.v 1) (.v 2)), .ok (.fclass P ⟨.rne, false⟩ .f32 (.v 1) (.v 2))] := by rfl

/-- Words of the FPS class, from the fields of R30 to R33 and R39 to R43. -/
theorem test_decode_fps : decoded [
    [0x10201302, 0x00F0F0F0], [0x10201306, 0x08F0F0F0], [0x1020130A, 0x10F0F0F0], [0x1020130E, 0x00F0F003],
    [0x00201312, 0x08F0F0F0], [0x00201316, 0x10F0F0F0], [0x0020131A, 0x00F0F0F0], [0x0020131E, 0x08F0F0F0],
    [0x00201322, 0x10F0F0F0], [0xC0201326, 0x00F004F0], [0x1030232A, 0x08F00EF0], [0x0040132E, 0x78F002F0],
    [0x80201332, 0x00F00304], [0x00308336, 0x28F000F0], [0x3040233A, 0x00F005F0], [0x0030433E, 0x20F00005]] = [
    .ok (.frcp P ⟨.rz, false⟩ .f32 (.v 1) (.v 2)), .ok (.frsq P ⟨.rz, false⟩ .f16x2 (.v 1) (.v 2)),
    .ok (.fsqrt P ⟨.rz, false⟩ .bf16x2 (.v 1) (.v 2)), .ok (.fdiv P ⟨.rz, false⟩ .f32 (.v 1) (.v 2) (.v 3)),
    .ok (.fexp2 P ⟨.rne, false⟩ .f16x2 (.v 1) (.v 2)), .ok (.flog2 P ⟨.rne, false⟩ .bf16x2 (.v 1) (.v 2)),
    .ok (.fsin P ⟨.rne, false⟩ .f32 (.v 1) (.v 2)), .ok (.fcos P ⟨.rne, false⟩ .f16x2 (.v 1) (.v 2)),
    .ok (.ftanh P ⟨.rne, false⟩ .bf16x2 (.v 1) (.v 2)), .ok (.cvtff P ⟨.ro, true⟩ .f32 .e5m2 (.v 1) (.v 2)),
    .ok (.cvtfi P ⟨.rz, false⟩ .f16 .s64 (.v 2) (.v 3)), .ok (.cvtif P ⟨.rne, false⟩ .n64 .bf16 (.v 1) (.v 4)),
    .ok (.fpack P ⟨.rne, true⟩ .f32 .e4m3 (.v 1) (.v 2) (.v 4)), .ok (.funpk P ⟨.rne, false⟩ .e2m1 .f32 (.v 8) (.v 3)),
    .ok (.mxenc P ⟨.rd, false⟩ .f32 .e2m1 (.v 2) (.v 4)), .ok (.mxdec P ⟨.rne, false⟩ .e5m2 .f32 (.v 4) (.v 3) (.v 5))] := by rfl

/-- Words of the XLN class, from the fields of R30 to R33 and R39 to R43. -/
theorem test_decode_xln : decoded [
    [0x10201402, 0x28F0F003], [0x20201406, 0x38F0F0F0], [0x3020140A, 0x08F0F0F0], [0x4020140E, 0x40F0F0F0],
    [0x50201412, 0x90F0F0F0], [0x30201416, 0x00F0F003], [0x3F00141A, 0x00F0F0F0]] = [
    .ok (.shfl P .w2 .up true (.v 1) (.v 2) (.v 3)), .ok (.vote P .w4 .same true (.v 1) (.v 2)),
    .ok (.matchI P .w8 true (.v 1) (.v 2)), .ok (.redg P .w16 .addf (.v 1) (.v 2)),
    .ok (.scan P .w32 .maxs true (.v 1) (.v 2)), .ok (.bcast P .w8 (.v 1) (.v 2) (.v 3)), .ok (.elect P .w8 (.v 1))] := by rfl

/-- Words of the CTL class, from the fields of R30 to R33 and R39 to R43. -/
theorem test_decode_ctl : decoded [
    [0x103F0502, 0x00F00004], [0x0F0F0506, 0x00F00005], [0x0F0F050A, 0x00F0F0F0], [0x0F0F050E, 0x00F00006],
    [0x0F0F0512, 0x00F0FFF6], [0x002F0516, 0x00F00009], [0x1F0F051A, 0x88F01234], [0x205F051E, 0x00F00002],
    [0x3F010522, 0x08F00100], [0x40608526, 0x00F0F0F0], [0x0F0F052A, 0x00F0F0F0], [0x0F02152E, 0x00F00007],
    [0x0F021532, 0x00F0F0F0], [0x0F0F0536, 0x00F0F0F0], [0x0F00953A, 0x00F0F0F0], [0x0F0F053E, 0x00F0F0F0],
    [0x0F0F0542, 0x00F0F0F0], [0x0F0F0546, 0x00F0F0F0], [0x0F0F054A, 0x00F0F0F0], [0x0F0F054E, 0x00F0F0F0]] = [
    .ok (.ifI P true (.v 3) 4), .ok (.elseI P 5), .ok (.endif P), .ok (.loop P 6), .ok (.endl P 0xFFF6),
    .ok (.breakI P false 0 (.v 2) 9), .ok (.cont P true 17 .z 0x1234), .ok (.jmp P .z (.v 5) 2),
    .ok (.call P 19 (.v 16) 0x100), .ok (.calli P 4 (.v 8) (.v 6)), .ok (.ret P), .ok (.mark P false 0x21 7),
    .ok (.unwind P 0x21), .ok (.part P), .ok (.regang P 9), .ok (.exit P), .ok (.yield P), .ok (.nop P), .ok (.brk P),
    .ok (.rgn P)] := by rfl

/-- Words of the STA class, from the fields of R30 to R33 and R39 to R43. -/
theorem test_decode_sta : decoded [
    [0x3F018602, 0x08F0F0F0], [0x0F018606, 0x00F0F0F0], [0x0180160A, 0x00F0F0F0], [0x0180160E, 0x28F0F0F0],
    [0x01801612, 0x10F0F0F0], [0x0F001616, 0x40F0F0F0], [0x0F00161A, 0x18F0F0F0], [0x1F00161E, 0x00F0F0F0],
    [0x2F001622, 0x00F0F0F0], [0x00102626, 0x20F0F0F0], [0x0020162A, 0x00F0F003]] = [
    .ok (.qdef P 3 1 (.v 24)), .ok (.qclr P (.v 24)), .ok (.qocc P (.v 1) (.v 24)), .ok (.qrd P 5 (.v 1) (.v 24)),
    .ok (.qwr P 2 (.v 1) (.v 24)), .ok (.winrd P 8 (.v 1)), .ok (.winwr P 3 (.v 1)), .ok (.mskrd P true 0 (.v 1)),
    .ok (.mskwr P .pop 0 (.v 1)), .ok (.frmq P 4 (.v 2) (.v 1)), .ok (.frmrd P (.v 1) (.v 2) (.v 3))] := by rfl

/-- Words of the MEM class, from the fields of R30 to R33 and R39 to R43. -/
theorem test_decode_mem : decoded [
    [0x40804702, 0xC8F0F003], [0xB0802706, 0x18F0F0F0], [0x5020170A, 0x00F0F003], [0x9020170E, 0x00F0F003],
    [0x60201712, 0x00F0F003], [0x00201716, 0x00F0F003], [0x2F00171B, 0x00F0F003, 0x00000008], [0x2020171E, 0x48F0F003],
    [0x20201722, 0x20F0F003], [0x202F0726, 0x00F0F003]] = [
    .ok (.ld P .b128 .stream (some true) (.v 4) (.v 8) (.v 3)), .ok (.st P .b64 true .noL1 none (.v 2) (.v 8) .z),
    .ok (.ldl P .s8 (.v 1) (.v 2) (.v 3)), .ok (.stl P .b16 true (.v 1) (.v 2) (.v 3)),
    .ok (.ldc P .s16 (.v 1) (.v 2) (.v 3)), .ok (.stc P .b8 false (.v 1) (.v 2) (.v 3)),
    .ok (.ldk ⟨some 8, .z, false, false⟩ .b32 (.v 1) .z (.v 3)), .ok (.ldacq P .b32 .group .scratch (.v 1) (.v 2) (.v 3)),
    .ok (.strel P .b32 .panel .global false (.v 1) (.v 2) (.v 3)), .ok (.cctl P .evict (.v 2) (.v 3))] := by rfl

/-- Words of the ATM class, from the fields of R30 to R33 and R39 to R43. -/
theorem test_decode_atm : decoded [
    [0xF0402802, 0x58F00603], [0x904F0806, 0x10F00603], [0x5020180A, 0x40F00403], [0xF030280E, 0x48F00805],
    [0x802F0812, 0x18F00403], [0x90201816, 0x58F00403], [0x002F081A, 0x18F00403], [0x7020481E, 0x58F00903]] = [
    .ok (.atom P .add64 .island true (.v 2) (.v 4) (.v 3) (.v 6)), .ok (.acas P .b32 .die false .z (.v 4) (.v 3) (.v 6)),
    .ok (.atoml P .maxN .gang true (.v 1) (.v 2) (.v 3) (.v 4)),
    .ok (.acasl P .b64 .group true (.v 2) (.v 3) (.v 5) (.v 8)), .ok (.atomc P .xorb .island false .z (.v 2) (.v 3) (.v 4)),
    .ok (.acasc P .b32 .island true (.v 1) (.v 2) (.v 3) (.v 4)), .ok (.bankop P .add .island (.v 2) (.v 3) (.v 4)),
    .ok (.bankred P .orb .island true (.v 4) (.v 2) (.v 3) (.v 9))] := by rfl

/-- Words of the ASY class, from the fields of R30 to R33 and R39 to R43. -/
theorem test_decode_asy : decoded [
    [0x10201902, 0x28F0F003], [0x80102906, 0x38F00403], [0x0F00190A, 0x00F0F0F0], [0x001F090E, 0x00F0F0F0],
    [0x10201912, 0x00F0F0F0], [0x001F0916, 0x00F0F002], [0x001F091A, 0x00F0F002], [0x0010291E, 0x00F0F0F0],
    [0x1F0F0922, 0x00F0F0F0], [0x0F001926, 0x00F0F0F0]] = [
    .ok (.cpy P .scratch .global 5 (.v 1) (.v 2) (.v 3)), .ok (.cpys P .global .commons 7 (.v 2) (.v 1) (.v 3) (.v 4)),
    .ok (.seal P (.v 1)), .ok (.bwait P (.v 1)), .ok (.cpwp P true (.v 1) (.v 2)), .ok (.cpwait P (.v 1) (.v 2)),
    .ok (.wlput P (.v 1) (.v 2)), .ok (.wltake P (.v 2) (.v 1)), .ok (.wldone P true), .ok (.wlquiet P (.v 1))] := by rfl

/-- Words of the RMT class, from the fields of R30 to R33 and R39 to R43. -/
theorem test_decode_rmt : decoded [
    [0x10402A02, 0x08F00503], [0x00402A06, 0x00F00603], [0x20402A0A, 0x00F00503], [0xB0201A0E, 0x48F00704],
    [0xF0402A12, 0x40F00806], [0x00302A16, 0x08F0F0F0], [0x003F0A1A, 0x00F0F004], [0x00302A1E, 0x00F0F0F0],
    [0x0F0F0A22, 0x00F0F0F0], [0x0F002A26, 0x08F0F0F0]] = [
    .ok (.put P .scratch true (.v 2) (.v 4) (.v 3) (.v 5)), .ok (.putn P .global false (.v 2) (.v 4) (.v 3) (.v 6)),
    .ok (.get P .commons false (.v 2) (.v 4) (.v 3) (.v 5)), .ok (.ratom P .dec true true (.v 1) (.v 2) (.v 4) (.v 7)),
    .ok (.rcas P .b64 false true (.v 2) (.v 4) (.v 6) (.v 8)), .ok (.notify P true (.v 2) (.v 3)),
    .ok (.nwait P (.v 3) (.v 4)), .ok (.nrd P (.v 2) (.v 3)), .ok (.rfence P), .ok (.rquiet P true (.v 2))] := by rfl

/-- Words of the SYN class, from the fields of R30 to R33 and R39 to R43. -/
theorem test_decode_syn : decoded [
    [0x101F0B02, 0x00F0F0F0], [0x00201B06, 0x00F0F0F0], [0x001F0B0A, 0x00F0F002], [0x001F0B0E, 0x00F0F002],
    [0x00102B12, 0x08F0F0F0], [0x00102B16, 0x08F0F0F0], [0xFF0F0B1A, 0x20F0F0F0], [0x103F0B1E, 0x00F0F0F0],
    [0x00201B22, 0x00F0F0F0], [0x0F002B26, 0x00F0F0F0]] = [
    .ok (.bar P true (.v 1)), .ok (.bara P (.v 1) (.v 2)), .ok (.barw P false (.v 1) (.v 2)),
    .ok (.barinit P (.v 1) (.v 2)), .ok (.barrd P false true (.v 2) (.v 1)), .ok (.barwr P true (.v 2) (.v 1)),
    .ok (.fence P 15 .panel), .ok (.mon P .scratch (.v 3)), .ok (.mwait P (.v 1) (.v 2)), .ok (.clock P (.v 2))] := by rfl

/-- Words of the MTX class, from the fields of R30 to R33 and R39 to R43. -/
theorem test_decode_mtx : decoded [
    [0x60401C02, 0x74F00302], [0x0F001C06, 0x00F0F0F0], [0x30201C0A, 0x00F0F0F0], [0x20401C0E, 0x00F0F0F0],
    [0x0F001C12, 0x00F0F0F0], [0x001F0C16, 0x00F0F0F0], [0x201F0C1A, 0x00F0F002], [0x00201C1E, 0x00F0F0F0],
    [0x0F0F0C22, 0x00F0F0F0]] = [
    .ok (.mmq P true .mxe2m1 .mxe2m1 true (.v 1) (.v 4) (.v 2) (.v 3)), .ok (.accz P (.v 1)),
    .ok (.accrd P .cnt (.v 1) (.v 2)), .ok (.accwr P .part (.v 1) (.v 4)), .ok (.accpro P (.v 1)), .ok (.mxset P (.v 1)),
    .ok (.cbload P .commons (.v 1) (.v 2)), .ok (.cbrd P (.v 1) (.v 2)), .ok (.mxwait P)] := by rfl

/-- Words of the PSN and SYS classes, from the fields of R30 to R33 and R39 to R43. -/
theorem test_decode_sys : decoded [
    [0x10201D02, 0x00F0F0F0], [0x00201D06, 0x00F0F0F0], [0x00201D0A, 0x00F0F0F0], [0x00102D0E, 0x10F0F0F0],
    [0x00102E02, 0x00F0F0F0], [0x00102E06, 0x00F0F0F0], [0x0F0ABE0A, 0x00F0F0F0], [0x0F0F0E0E, 0x00F0F0F0],
    [0x0F0F0E12, 0x00F0F0F0], [0x0F0F0E16, 0x00F0F0F0], [0x0F0F0E1A, 0x00F0F0F0], [0x0F0F0E1E, 0x00F0F0F0]] = [
    .ok (.pchk P true false (.v 1) (.v 2)), .ok (.pset P (.v 1) (.v 2)), .ok (.pclr P (.v 1) (.v 2)),
    .ok (.porg P 2 (.v 2) (.v 1)), .ok (.srd P (.v 2) (.v 1)), .ok (.swr P (.v 2) (.v 1)), .ok (.trap P 0xAB),
    .ok (.tret P), .ok (.savedone P), .ok (.icinv P), .ok (.wfi P), .ok (.halt P)] := by rfl

/-- Words of the short-A forms, from the fields of R30 to R33 and R39 to R43. -/
theorem test_decode_short_a : decoded [
    [0x06040200], [0x06040204], [0x06040208], [0x0604020C], [0x06040210], [0x06040214], [0x06040218], [0x0604021C],
    [0x06040220], [0x06040224], [0x06040228], [0x0604022C], [0x06040230], [0x06040234], [0xF0040238], [0x0604023C],
    [0x06040240], [0x06040244], [0x06040248], [0x0604024C], [0x06040250], [0x06040254], [0x06040258], [0x0604025C],
    [0x06040260], [0x06040264], [0x06040268], [0x0604026C], [0x06040270], [0x06040274], [0xF0040278], [0xF004027C],
    [0xF0040280], [0xF0040284], [0x06040288], [0x0604028C], [0xF0040290], [0x06040294], [0x06040298], [0x0604029C],
    [0x060402A0], [0x060402A4], [0x060402A8]] = [
    .ok (.iaddS32ShortA (.v 2) (.v 4) (.v 6)), .ok (.isubS32ShortA (.v 2) (.v 4) (.v 6)),
    .ok (.imulS32ShortA (.v 2) (.v 4) (.v 6)), .ok (.iminS32ShortA (.v 2) (.v 4) (.v 6)),
    .ok (.imaxS32ShortA (.v 2) (.v 4) (.v 6)), .ok (.iminN32ShortA (.v 2) (.v 4) (.v 6)),
    .ok (.imaxN32ShortA (.v 2) (.v 4) (.v 6)), .ok (.andShortA (.v 2) (.v 4) (.v 6)), .ok (.orShortA (.v 2) (.v 4) (.v 6)),
    .ok (.xorShortA (.v 2) (.v 4) (.v 6)), .ok (.andnShortA (.v 2) (.v 4) (.v 6)), .ok (.shlShortA (.v 2) (.v 4) (.v 6)),
    .ok (.shrShortA (.v 2) (.v 4) (.v 6)), .ok (.shaShortA (.v 2) (.v 4) (.v 6)), .ok (.movShortA (.v 2) (.v 4)),
    .ok (.daddShortA (.v 2) (.v 4) (.v 6)), .ok (.faddF32ShortA (.v 2) (.v 4) (.v 6)),
    .ok (.fsubF32ShortA (.v 2) (.v 4) (.v 6)), .ok (.fmulF32ShortA (.v 2) (.v 4) (.v 6)),
    .ok (.fminF32ShortA (.v 2) (.v 4) (.v 6)), .ok (.fmaxF32ShortA (.v 2) (.v 4) (.v 6)),
    .ok (.faddF16x2ShortA (.v 2) (.v 4) (.v 6)), .ok (.fmulF16x2ShortA (.v 2) (.v 4) (.v 6)),
    .ok (.faddBf16x2ShortA (.v 2) (.v 4) (.v 6)), .ok (.fmulBf16x2ShortA (.v 2) (.v 4) (.v 6)),
    .ok (.icmpEqShortA (.v 2) (.v 4) (.v 6)), .ok (.icmpLtS32ShortA (.v 2) (.v 4) (.v 6)),
    .ok (.icmpLtN32ShortA (.v 2) (.v 4) (.v 6)), .ok (.fcmpLtShortA (.v 2) (.v 4) (.v 6)),
    .ok (.fcmpEqShortA (.v 2) (.v 4) (.v 6)), .ok (.frcpShortA (.v 2) (.v 4)), .ok (.frsqShortA (.v 2) (.v 4)),
    .ok (.popcShortA (.v 2) (.v 4)), .ok (.clzShortA (.v 2) (.v 4)), .ok (.shflIdxShortA (.v 2) (.v 4) (.v 6)),
    .ok (.shflXorShortA (.v 2) (.v 4) (.v 6)), .ok (.voteBallotShortA (.v 2) (.v 4)),
    .ok (.bcastShortA (.v 2) (.v 4) (.v 6)), .ok (.leaShortA (.v 2) (.v 4) (.v 6)),
    .ok (.ldlB32ShortA (.v 2) (.v 4) (.v 6)), .ok (.stlB32ShortA (.v 2) (.v 4) (.v 6)),
    .ok (.ldcB32ShortA (.v 2) (.v 4) (.v 6)), .ok (.stcB32ShortA (.v 2) (.v 4) (.v 6))] := by rfl

/-- Words of the short-B forms, from the fields of R30 to R33 and R39 to R43. -/
theorem test_decode_short_b : decoded [
    [0xC5040201], [0xC5040205], [0xC5040209], [0xC504020D], [0xC5040211], [0x1B040215], [0x1B040219], [0x1B04021D],
    [0xC5F00221], [0xC5040225], [0xC5040229], [0x1B04022D], [0x1B040231], [0x1B040235], [0xC5040239], [0xC504023D],
    [0xC5F00241]] = [
    .ok (.iaddShortB (.v 2) (.v 4) 197), .ok (.isubShortB (.v 2) (.v 4) 197), .ok (.andShortB (.v 2) (.v 4) 197),
    .ok (.orShortB (.v 2) (.v 4) 197), .ok (.xorShortB (.v 2) (.v 4) 197), .ok (.shlShortB (.v 2) (.v 4) 27),
    .ok (.shrShortB (.v 2) (.v 4) 27), .ok (.shaShortB (.v 2) (.v 4) 27), .ok (.movShortB (.v 2) 197),
    .ok (.icmpEqShortB (.v 2) (.v 4) 197), .ok (.icmpLtS32ShortB (.v 2) (.v 4) 197), .ok (.shflXorShortB (.v 2) (.v 4) 27),
    .ok (.shflUpShortB (.v 2) (.v 4) 27), .ok (.shflDownShortB (.v 2) (.v 4) 27), .ok (.ldlB32ShortB (.v 2) (.v 4) 197),
    .ok (.stlB32ShortB (.v 2) (.v 4) 197), .ok (.ldkB32ShortB (.v 2) 197)] := by rfl

/-! ### Ill-formed instructions, by the check that refuses them -/

/-- Operands that their role does not allow: a pair or quad out of alignment, a special operand as a destination, the literal
without its word, w8 as a pair, a window slot as a quad, the reserved code, eight and sixteen registers out of alignment, a
literal as CALL's base, z as a queue name, a reserved guard (R13 to R15, R124, R137, R146). -/
theorem test_wf_operands : ([
    .dadd P ⟨.w64, false, false⟩ (.v 1) (.v 2) (.v 4), .mxdec P ⟨.rne, false⟩ .e4m3 .f32 (.v 2) (.v 3) (.v 5),
    .mov P .xm (.v 1), .mov P (.v 1) .lit, .movd P (.v 2) (.w 7), .mxenc P ⟨.rne, false⟩ .f32 .e2m1 (.v 2) (.w 0),
    .mov P (.v 1) .rsv, .funpk P ⟨.rne, false⟩ .e2m1 .f32 (.v 4) (.v 1), .accrd P .val (.v 2) (.v 1), .accwr P .val (.v 1) (.v 2),
    .call P 1 .lit 0, .qclr P .z, .mov ⟨none, .rsv, false, false⟩ (.v 1) (.v 2)] : List Instr).all (fun i => !i.wf) = true := by rfl

/-- A guard where none is taken, GN without a guard, NW without a result (R36, R37). -/
theorem test_wf_header : ([
    .nop ⟨none, .v 1, false, false⟩, .mov ⟨none, .z, true, false⟩ (.v 1) (.v 2), .nop ⟨none, .z, false, true⟩,
    .st ⟨none, .z, false, true⟩ .b32 false .normal none (.v 1) (.v 2) .z] : List Instr).all (fun i => !i.wf) = true := by rfl

/-- A field that the form leaves unused and that is not z (R34). -/
theorem test_wf_unused : ([
    .jmp P .always (.v 1) 0, .atom P .add .island false (.v 1) (.v 2) .z (.v 3), .atoml P .add .gang false (.v 1) (.v 2) .z (.v 3),
    .atomc P .add .gang false (.v 1) (.v 2) .z (.v 3), .acas P .b32 .die false (.v 1) (.v 4) .z (.v 6),
    .acasl P .b32 .die false (.v 1) (.v 4) .z (.v 6), .acasc P .b32 .die false (.v 1) (.v 4) .z (.v 6),
    .bankred P .add .island false (.v 4) (.v 1) (.v 2) (.v 3), .ratom P .add false false (.v 1) (.v 2) (.v 4) (.v 3),
    .rcas P .b32 false false (.v 1) (.v 2) (.v 4) (.v 6), .mmq P false .bf16 .bf16 false (.v 1) (.v 4) (.v 2) (.v 3),
    .barrd P true false (.v 2) (.v 1), .barrd P true true (.v 2) .z, .rquiet P false (.v 2)] : List Instr).all
    (fun i => !i.wf) = true := by rfl

/-- Modifiers that an INT, BIT, FPA or FPS instruction does not accept (R97, R102, R103, R113 to R128). -/
theorem test_wf_modifiers : ([
    .iadd P ⟨.w64, false, false⟩ (.v 2) (.v 4) (.v 6), .imulh P ⟨.w32, false, true⟩ (.v 1) (.v 2) (.v 3),
    .imin P ⟨.w32, false, true⟩ (.v 1) (.v 2) (.v 3), .iabs P ⟨.w32, false, false⟩ (.v 1) (.v 2),
    .idiv P ⟨.w16x2, false, false⟩ (.v 1) (.v 2) (.v 3), .irem P ⟨.w32, false, true⟩ (.v 1) (.v 2) (.v 3),
    .icmp P ⟨.w64, false, false⟩ .eq false (.v 2) (.v 4) (.v 6), .isel P ⟨.w32, true, false⟩ (.v 1) (.v 2) (.v 3) (.v 4),
    .dadd P ⟨.w32, false, false⟩ (.v 2) (.v 4) (.v 6), .dcmp P ⟨.w64, false, true⟩ .eq false (.v 1) (.v 2) (.v 4),
    .dot4 P ⟨.w32, false, false⟩ (.v 1) (.v 2) (.v 3) (.v 4), .dot2 P ⟨.w8x4, false, false⟩ (.v 1) (.v 2) (.v 3) (.v 4),
    .isad P ⟨.w64, false, false⟩ (.v 2) (.v 4) (.v 6) (.v 8), .fmin P ⟨.rz, false⟩ .f32 (.v 1) (.v 2) (.v 3),
    .fcmp P ⟨.rne, true⟩ .f32 .eq (.v 1) (.v 2) (.v 3), .fdot2 P ⟨.rne, false⟩ .f32 (.v 1) (.v 2) (.v 3) (.v 4),
    .fclass P ⟨.rne, true⟩ .f32 (.v 1) (.v 2), .fexp2 P ⟨.ru, false⟩ .f32 (.v 1) (.v 2), .cvtff P ⟨.rne, false⟩ .f16 .f16 (.v 1) (.v 2),
    .cvtfi P ⟨.rne, false⟩ .e4m3 .s32 (.v 1) (.v 2), .cvtif P ⟨.rne, false⟩ .s32 .e8m0 (.v 1) (.v 2),
    .fpack P ⟨.rne, false⟩ .f16 .e4m3 (.v 1) (.v 2) (.v 4), .funpk P ⟨.rz, false⟩ .f16 .f32 (.v 2) (.v 3),
    .mxenc P ⟨.rne, true⟩ .f32 .e4m3 (.v 2) (.v 4), .mxdec P ⟨.rne, false⟩ .f16 .f32 (.v 4) (.v 1) (.v 2)] : List Instr).all
    (fun i => !i.wf) = true := by rfl

/-- Modifiers that another instruction does not accept (R131, R225 to R227, R239, R245, R275). -/
theorem test_wf_modifiers' : ([
    .mark P true 1 0xF0F0, .st P .s8 false .normal none (.v 1) (.v 2) .z, .stl P .s16 false (.v 1) (.v 2) .z,
    .ldacq P .b128 .island .global (.v 4) (.v 2) .z, .strel P .b128 .island .global false (.v 4) (.v 2) .z,
    .atomc P .sub .island false .z (.v 2) (.v 3) (.v 4), .acasc P .b64 .island false .z (.v 2) (.v 3) (.v 4),
    .bankop P .add64 .island (.v 1) (.v 2) (.v 3), .bankred P .xchg .island true (.v 4) (.v 1) (.v 2) (.v 3),
    .fence P 0 .island, .accwr P .fp (.v 1) (.v 4)] : List Instr).all (fun i => !i.wf) = true := by rfl

/-! ### Witnesses: what an instruction in execution is, and instructions that nothing stands in the way of -/

/-- The instruction in execution that a state and an instruction determine. -/
def exOf (i : Instr) (s : State) : Ex :=
  match s.agent?, i.info with
  | some (_, g, fi), some n =>
    let b := g.act
    let fl := b.flow fi
    let row := (readOpnd g b fl n.h.lit n.h.g 1).headD []
    let pops := popsOf b ((n.h.g, 1) :: (n.sources i).map fun p => (p.1, p.2.span))
    ⟨s, s.cur, g, b, fi, fl, i, n, guardSet (b.lanes g.width fi) fl.xm n.h row,
      n.ops.map fun p => readOpnd g b fl n.h.lit p.1 p.2.span, pops, overRaised b n pops⟩
  | _, _ => ⟨s, s.cur, .firmware 0 0 8 0 0 4 256 0, .start 8 4 0, 0, .start 8 0, i, .gang P true [], [], [], [], []⟩

/-- Whether nothing stands in the instruction's way. -/
def isReady (i : Instr) (s : State) : Bool :=
  match s.agent?, i.info with
  | some (_, g, fi), some n =>
    let b := g.act
    let fl := b.flow fi
    let x := exOf i s
    i.wf && (decodeRaised g b i n).isNone && (!fl.dormant || i.runsDormant b.parted) &&
      (!b.parted || (x.regOps.filterMap fun p => queueOf b p.1 p.2.span).isEmpty) &&
      ((n.ops ++ [(n.h.g, Role.src 1)]).flatMap fun p => storageRaised b p.1 p.2.span).isEmpty && (readRaised b fl n.h.g 1).isEmpty &&
      (x.lanes.all fun l => !bitOf fl.xm l || !(laneAt x.guardRow l).p) && (slotRaised x.wg x.b.parted i).isEmpty &&
      ((n.sources i).flatMap fun p => readRaised b fl p.1 p.2.span).isEmpty && (overRaised b n x.pops).isEmpty && s.phys.all fun p => !x.meets p
  | _, _ => false

/-- The check's answer is what the statements assume. -/
theorem ready {i : Instr} {s : State} (h : isReady i s = true) : Ready i s (exOf i s) := by
  unfold isReady at h
  split at h
  · rename_i c g fi n ha hn
    have e : exOf i s = ⟨s, s.cur, g, g.act, fi, g.act.flow fi, i, n,
        guardSet (g.act.lanes g.width fi) (g.act.flow fi).xm n.h ((readOpnd g g.act (g.act.flow fi) n.h.lit n.h.g 1).headD []),
        n.ops.map fun p => readOpnd g g.act (g.act.flow fi) n.h.lit p.1 p.2.span,
        popsOf g.act ((n.h.g, 1) :: (n.sources i).map fun p => (p.1, p.2.span)),
        overRaised g.act n (popsOf g.act ((n.h.g, 1) :: (n.sources i).map fun p => (p.1, p.2.span)))⟩ := by
      unfold exOf; rw [ha, hn]
    simp only [Bool.and_eq_true, Bool.or_eq_true, Bool.not_eq_true', List.all_eq_true, List.isEmpty_iff,
      Option.isNone_iff_eq_none] at h
    obtain ⟨⟨⟨⟨⟨⟨⟨⟨⟨⟨h1, h2⟩, h3⟩, h4⟩, h5⟩, h6⟩, h7⟩, h8⟩, h9⟩, h10⟩, h11⟩ := h
    rw [e] at *
    exact {
      wf := h1
      agent := ⟨c, ha⟩
      info := hn
      state := rfl
      ag := rfl
      instr := rfl
      body := rfl
      flow := rfl
      decode := h2
      awake := fun d => h3.resolve_left (by rw [d]; exact Bool.noConfusion)
      joined := fun d => h4.resolve_left (by rw [d]; exact Bool.noConfusion)
      storage := h5
      guardThere := h6
      guardClean := fun l hl d => (h7 l hl).resolve_left (by rw [d]; exact Bool.noConfusion)
      slot := h8
      sources := h9
      room := h10
      set := rfl
      src := rfl
      pops := rfl
      full := h10
      quiet := h11 }
  · exact Bool.noConfusion h

/-- Whether nothing stands in the way of the instructions, a condition holds of each, and each answers a next state. -/
def met (s : State) (is : List Instr) (p : Ex → Bool) : Bool :=
  is.all fun i => isReady i s && p (exOf i s) && (match exec i s with | .next _ => true | _ => false)

/-- What `met` says. -/
theorem meets {s : State} {is : List Instr} {p : Ex → Bool} (h : met s is p = true) :
    ∀ i ∈ is, Ready i s (exOf i s) ∧ p (exOf i s) = true ∧ ∃ t, exec i s = .next t := by
  intro i hi
  have e := List.all_eq_true.mp h i hi
  simp only [Bool.and_eq_true] at e
  refine ⟨ready e.1.1, e.1.2, ?_⟩
  cases ho : exec i s with
  | next t => exact ⟨t, rfl⟩
  | fault f => rw [ho] at e; exact absurd e.2 Bool.noConfusion
  | refused r => rw [ho] at e; exact absurd e.2 Bool.noConfusion

/-- Joined, poison mode off, no queue named: what most statements of register instructions assume. -/
def plainly (x : Ex) : Bool := !x.b.parted && !x.g.psn && x.pops.isEmpty

/-- Widths and modifiers used below. -/
def W32 : IntMod := ⟨.w32, true, false⟩
def W64 : IntMod := ⟨.w64, true, false⟩
def rne : FpMod := ⟨.rne, false⟩

/-- A case of a statement: the state, the instruction, the condition. -/
abbrev Case := State × Instr × (Ex → Bool)

/-- Whether every case is ready, meets its condition and answers a next state. -/
def metEach (l : List Case) : Bool := l.all fun p => met p.1 [p.2.1] p.2.2

/-- What `metEach` says. -/
theorem meetsEach {l : List Case} (h : metEach l = true) : ∀ p ∈ l, Ready p.2.1 p.1 (exOf p.2.1 p.1) ∧
    p.2.2 (exOf p.2.1 p.1) = true ∧ ∃ t, exec p.2.1 p.1 = .next t :=
  fun p hp => meets (List.all_eq_true.mp h p hp) p.2.1 (by simp)

/-- LaneLocalPoison, IntegerElements, IntegerDivision, IntegerCompareSelect, IntegerSums: instructions of the INT class
ready in the state of reset. -/
theorem witness_int : ∀ i ∈ [.iadd P W32 (.v 1) (.v 2) (.v 3), .isub P W32 (.v 1) (.v 2) (.v 3), .imul P W64 (.v 2) (.v 4) (.v 6),
    .imulh P W32 (.v 1) (.v 2) (.v 3), .imad P W64 (.v 2) (.v 4) (.v 5) (.v 6), .imin P W32 (.v 1) (.v 2) .lid,
    .imax P W32 (.v 1) (.v 2) .lid, .iabs P W32 (.v 1) (.v 2), .dadd P W64 (.v 2) (.v 4) (.v 6), .dsub P W64 (.v 2) (.v 4) (.v 6),
    .idiv P W32 (.v 1) .lid (.v 2), .irem P W32 (.v 1) .lid (.v 2), .icmp P W32 .le true (.v 1) (.v 2) (.v 3),
    .dcmp P W64 .lt false (.v 2) (.v 4) (.v 6), .isel P ⟨.w32, false, false⟩ (.v 1) (.v 2) (.v 3) (.v 4), .isel P ⟨.w64, false, false⟩ (.v 2) (.v 4) (.v 6) (.v 8),
    .lea P 3 true (.v 2) (.v 4) (.v 6), .dot4 P ⟨.w8x4, true, false⟩ (.v 1) (.v 2) (.v 3) (.v 4),
    .dot2 P ⟨.w16x2, true, false⟩ (.v 1) (.v 2) (.v 3) (.v 4), .isad P ⟨.w8x4, false, false⟩ (.v 1) (.v 2) (.v 3) (.v 4)],
    Ready i .reset (exOf i .reset) ∧ plainly (exOf i .reset) = true ∧ ∃ t, exec i .reset = .next t :=
  meets (by decide +kernel)

/-- BitOperations: instructions of the BIT class ready in the state of reset. -/
theorem witness_bit : ∀ i ∈ [.mov P (.v 1) (.v 2), .movd P (.v 2) (.v 4), .andI P (.v 1) (.v 2) (.v 3), .orI P (.v 1) (.v 2) (.v 3),
    .xorI P (.v 1) (.v 2) (.v 3), .andn P (.v 1) (.v 2) (.v 3), .notI P (.v 1) (.v 2), .popc P (.v 1) .lid, .clz P (.v 1) .lid,
    .ffs P (.v 1) .lid, .brev P (.v 1) .lid, .lop3 P 0xE8 (.v 1) (.v 2) (.v 3) (.v 4), .shl P .w32 (.v 1) (.v 2) .lid,
    .shr P .w16x2 (.v 1) (.v 2) .lid, .sha P .w8x4 (.v 1) (.v 2) .lid, .rot P .w32 (.v 1) (.v 2) .lid, .dshl P (.v 2) (.v 4) .lid,
    .dshr P true (.v 2) (.v 4) .lid, .bfe P true (.v 1) (.v 2) .lid, .bfi P (.v 1) (.v 2) (.v 3) .lid,
    .permb P 5 0x1B (.v 1) (.v 2) (.v 3)],
    Ready i .reset (exOf i .reset) ∧ plainly (exOf i .reset) = true ∧ ∃ t, exec i .reset = .next t :=
  meets (by decide +kernel)

/-- FloatArithmetic, FloatParts, FloatFunctions, Conversions, MxFormats: instructions of the FPA and FPS classes ready in
the state of reset. -/
theorem witness_fp : ∀ i ∈ [.fadd P rne .f32 false true (.v 1) (.v 2) (.v 3), .fsub P rne .f16x2 true false (.v 1) (.v 2) (.v 3),
    .fmul P rne .bf16x2 false false (.v 1) (.v 2) (.v 3), .ffma P rne .f32 false false true (.v 1) (.v 2) (.v 3) (.v 4),
    .fmin P rne .f32 (.v 1) (.v 2) (.v 3), .fmax P rne .f32 (.v 1) (.v 2) (.v 3), .fcmp P rne .f32 .unord (.v 1) (.v 2) (.v 3),
    .fdot2 P rne .f16x2 (.v 1) (.v 2) (.v 3) (.v 4), .fscale P rne .f32 (.v 1) (.v 2) .lid, .frnd P rne .f32 (.v 1) (.v 2),
    .ffract P rne .f32 (.v 1) (.v 2), .fclass P rne .f32 (.v 1) (.v 2), .fpack P rne .f32 .e4m3 (.v 1) (.v 2) (.v 4),
    .frcp P rne .f32 (.v 1) (.v 2), .frsq P rne .f32 (.v 1) (.v 2), .fsqrt P rne .f32 (.v 1) (.v 2),
    .fdiv P rne .f32 (.v 1) (.v 2) (.v 3), .fexp2 P rne .f32 (.v 1) (.v 2), .flog2 P rne .f32 (.v 1) (.v 2),
    .fsin P rne .f32 (.v 1) (.v 2), .fcos P rne .f32 (.v 1) (.v 2), .ftanh P rne .f32 (.v 1) (.v 2),
    .cvtff P rne .f32 .f16 (.v 1) (.v 2), .cvtfi P rne .f32 .s32 (.v 1) (.v 2), .cvtif P rne .s32 .f32 (.v 1) .lid,
    .funpk P rne .f16 .f32 (.v 2) (.v 4), .mxenc P rne .f32 .e4m3 (.v 2) (.v 4), .mxdec P rne .e4m3 .f32 (.v 4) (.v 8) (.v 12)],
    Ready i .reset (exOf i .reset) ∧ (plainly (exOf i .reset) && (exOf i .reset).w % 8 == 0) = true ∧
      ∃ t, exec i .reset = .next t :=
  meets (p := fun x => plainly x && x.w % 8 == 0) (by decide +kernel)

/-- Poison mode on, rows 2 to 5 holding 4 in every lane: no divisor is 0. -/
def strict : State := State.reset.modGang (.reeve 0) 0 fun g =>
  { (g.modAct fun b => [2, 3, 4, 5].foldl (fun b k => b.setRow k (List.replicate 8 ⟨4, false⟩)) b) with psn := true }

/-- `Ex.each`, decided. -/
def eachB (js : List Nat) (n : Nat) (P : Ex → Nat → Nat → Bool) (x : Ex) : Bool :=
  x.g.psn && x.set == upTo 8 && x.set.all fun l => (merge (x.srcsOf js l)).isNone && (upTo n).all fun k => P x l k

/-- An element converted has a value. -/
def converts (src dst : Fmt) (c : Nat) : Bool := match convert src dst .rne false c with
  | .val _ => true
  | .fresh _ _ => false

/-- IntegerDivision, FloatArithmetic, FloatParts, FloatFunctions, Conversions: poison mode on, every element of every lane of the
lane set valid. -/
theorem witness_strict : ∀ p ∈ ([
    (strict, .idiv P W32 (.v 1) .lid (.v 2), eachB [1, 2] 1 fun x l k => x.int W32 2 l k != 0),
    (strict, .irem P W64 (.v 6) (.v 8) (.v 2), eachB [1, 2] 1 fun x l k => x.int W64 2 l k != 0),
    (strict, .fadd P rne .f32 false true (.v 1) (.v 2) (.v 3), eachB [1, 2] 1 fun x l k => (Machine.Num.add .rne (x.fp .f32 1 l k) (x.fp .f32 2 l k).neg).isSome),
    (strict, .fsub P rne .f16x2 false false (.v 1) (.v 2) (.v 3), eachB [1, 2] 2 fun x l k => (Machine.Num.add .rne (x.fp .f16x2 1 l k) (x.fp .f16x2 2 l k).neg).isSome),
    (strict, .fmul P rne .bf16x2 false false (.v 1) (.v 2) (.v 3), eachB [1, 2] 2 fun x l k => (Machine.Num.mul (x.fp .bf16x2 1 l k) (x.fp .bf16x2 2 l k)).isSome),
    (strict, .ffma P rne .f32 false false false (.v 1) (.v 2) (.v 3) (.v 4), eachB [1, 2, 3] 1 fun x l k =>
      !(x.fp .f32 3 l k).isNan && (Machine.Num.mul (x.fp .f32 1 l k) (x.fp .f32 2 l k)).isSome),
    (strict, .fdot2 P rne .f16x2 (.v 1) (.v 2) (.v 3) (.v 4), eachB [1, 2, 3] 1 fun x l _ =>
      (Machine.Num.mul (x.fp .f16x2 1 l 0) (x.fp .f16x2 2 l 0)).isSome && (Machine.Num.mul (x.fp .f16x2 1 l 1) (x.fp .f16x2 2 l 1)).isSome),
    (strict, .ffract P rne .f32 (.v 1) (.v 2), eachB [1] 1 fun x l k => (x.fp .f32 1 l k).fract.isSome),
    (strict, .fpack P rne .f32 .e4m3 (.v 1) (.v 2) (.v 4), eachB [1, 2] 1 fun x l _ =>
      (x.regs 1 l ++ x.regs 2 l).length == 4 && (x.regs 1 l ++ x.regs 2 l).all fun r => converts .f32 .e4m3 r.v.toNat),
    (strict, .frcp P rne .f32 (.v 1) (.v 2), eachB [1] 1 fun x l k => (x.fp .f32 1 l k).rcp.isSome),
    (strict, .frsq P rne .f32 (.v 1) (.v 2), eachB [1] 1 fun x l k => (x.fp .f32 1 l k).rsq.isSome),
    (strict, .fsqrt P rne .f32 (.v 1) (.v 2), eachB [1] 1 fun x l k => (x.fp .f32 1 l k).sqrt.isSome),
    (strict, .fdiv P rne .f32 (.v 1) (.v 2) (.v 3), eachB [1, 2] 1 fun x l k => ((x.fp .f32 1 l k).div (x.fp .f32 2 l k)).isSome),
    (strict, .fexp2 P rne .f32 (.v 1) (.v 2), eachB [1] 1 fun x l k => (x.fp .f32 1 l k).exp2.isSome),
    (strict, .flog2 P rne .f32 (.v 1) (.v 2), eachB [1] 1 fun x l k => (x.fp .f32 1 l k).log2f.isSome),
    (strict, .fsin P rne .f32 (.v 1) (.v 2), eachB [1] 1 fun x l k => ((x.fp .f32 1 l k).turn 0).isSome),
    (strict, .fcos P rne .f32 (.v 1) (.v 2), eachB [1] 1 fun x l k => ((x.fp .f32 1 l k).turn 1).isSome),
    (strict, .ftanh P rne .f32 (.v 1) (.v 2), eachB [1] 1 fun x l k => (x.fp .f32 1 l k).tanh.isSome),
    (strict, .cvtff P rne .f32 .e8m0 (.v 1) (.v 2), eachB [1] 1 fun x l _ => converts .f32 .e8m0 (x.num 1 l % 2 ^ 32)),
    (strict, .cvtfi P rne .f32 .s32 (.v 1) (.v 2), eachB [1] 1 fun x l _ => converts .f32 .s32 (x.num 1 l % 2 ^ 32)),
    (strict, .cvtif P rne .s32 .f32 (.v 1) (.v 2), eachB [1] 1 fun x l _ => converts .s32 .f32 (x.num 1 l % 2 ^ 32)),
    (strict, .funpk P rne .f16 .f32 (.v 8) (.v 4), eachB [1] 2 fun x l k => converts .f16 .f32 (x.elt 1 l 16 k))] : List Case),
    Ready p.2.1 p.1 (exOf p.2.1 p.1) ∧ p.2.2 (exOf p.2.1 p.1) = true ∧ ∃ t, exec p.2.1 p.1 = .next t :=
  meetsEach (by decide +kernel)

/-- ShortInstructions: the short forms of the INT, BIT and FP classes ready in the state of reset. -/
theorem witness_short : ∀ i ∈ ([.iaddS32ShortA, .isubS32ShortA, .imulS32ShortA, .iminS32ShortA, .imaxS32ShortA, .iminN32ShortA,
      .imaxN32ShortA, .andShortA, .orShortA, .xorShortA, .andnShortA, .shlShortA, .shrShortA, .shaShortA, .icmpEqShortA,
      .icmpLtS32ShortA, .icmpLtN32ShortA, .faddF32ShortA, .fsubF32ShortA, .fmulF32ShortA, .fminF32ShortA, .fmaxF32ShortA,
      .faddF16x2ShortA, .fmulF16x2ShortA, .faddBf16x2ShortA, .fmulBf16x2ShortA, .fcmpLtShortA, .fcmpEqShortA,
      .shflIdxShortA, .shflXorShortA, .bcastShortA] : List (Opnd → Opnd → Opnd → Instr)).map (fun f => f (.v 1) (.v 2) (.v 3)) ++
    [.movShortA (.v 1) (.v 2), .popcShortA (.v 1) (.v 2), .clzShortA (.v 1) (.v 2), .daddShortA (.v 2) (.v 4) (.v 6),
      .leaShortA (.v 2) (.v 4) (.v 6), .frcpShortA (.v 1) (.v 2), .frsqShortA (.v 1) (.v 2), .voteBallotShortA (.v 1) (.v 2),
      .movShortB (.v 1) 0x80, .shlShortB (.v 1) (.v 2) 31, .shrShortB (.v 1) (.v 2) 31, .shaShortB (.v 1) (.v 2) 31,
      .shflXorShortB (.v 1) (.v 2) 31, .shflUpShortB (.v 1) (.v 2) 1, .shflDownShortB (.v 1) (.v 2) 1] ++
    ([.iaddShortB, .isubShortB, .andShortB, .orShortB, .xorShortB, .icmpEqShortB, .icmpLtS32ShortB] :
      List (Opnd → Opnd → BitVec 8 → Instr)).map (fun f => f (.v 1) (.v 2) 0xFF),
    Ready i .reset (exOf i .reset) ∧ plainly (exOf i .reset) = true ∧ ∃ t, exec i .reset = .next t :=
  meets (by decide +kernel)

/-- ShuffleAndBroadcast, Votes, Reductions: instructions of the XLN class ready in the state of reset, with clean sources
and a gang of 8 lanes. -/
theorem witness_xln : ∀ i ∈ [.shfl P .w8 .down true (.v 1) (.v 2) .lid, .bcast P .w16 (.v 1) (.v 2) .lid,
    .vote P .w32 .all false (.v 1) .lid, .vote P .w8 .same true (.v 1) .lid, .matchI P .w32 true (.v 1) .lid, .elect P .w8 (.v 1),
    .redg P .w32 .addf (.v 1) .lid, .scan P .w8 .addi true (.v 1) .lid],
    Ready i .reset (exOf i .reset) ∧ (plainly (exOf i .reset) && (exOf i .reset).w == 8 &&
      (exOf i .reset).set.all fun l => !((exOf i .reset).lv 1 l).p && !((exOf i .reset).lv 2 l).p) = true ∧
      ∃ t, exec i .reset = .next t :=
  meets (p := fun x => plainly x && x.w == 8 && x.set.all fun l => !(x.lv 1 l).p && !(x.lv 2 l).p) (by decide +kernel)

/-! ### Witnesses: control, queues, the window -/

/-- Reset with its agent's flow, gang, body changed. -/
def onFlow (f : Flow → Flow) : State := State.reset.modFlow State.reset.cur f
def onGang (f : Gang → Gang) : State := State.reset.modGang (.reeve 0) 0 f
def onBody (f : Body → Body) : State := onGang fun g => g.modAct f

/-- The lanes of 8 for which a condition holds. -/
def lanes8 (p : Nat → Bool) : Word := maskBy fun l => l < 8 && p l

/-- Half of the lanes live, the others in the stack. -/
def split : State := onFlow fun f => { f with xm := 0x0F, stack := [0xFF] }
/-- No lane in xm, in a loop whose lanes have left. -/
def loopOver : State := onFlow fun f => { f with xm := 0, stack := [0, 0xFF] }
/-- In a loop with four lanes left. -/
def inLoop : State := onFlow fun f => { f with xm := 0x0F, stack := [0, 0xFF] }
/-- The stack one below full, and one that a LOOP fills. -/
def deep (n : Nat) : State := onFlow fun f => { f with stack := List.replicate n 0xFF }

/-- The chosen lanes of R133, as CompletionFrame's and MaskedControl's c. -/
def chosen (c : Word) (inv : Bool) (x : Ex) : Bool :=
  (upTo 32).all fun l => c.getLsbD l == (x.fl.xm.getLsbD l && l < x.w && ((x.lv 0 l).v != 0) == !inv) && !(x.lv 0 l).p

/-- CompletionFrame, MaskedControl: IF of a stack one below full and of an empty one, ELSE, ENDIF at one entry and 32, LOOP
with no lane, with 30 entries, ENDL that repeats and that leaves, BREAK and CONT, JMP. -/
theorem witness_control : ∀ p ∈ ([
    (.reset, .ifI P true (.v 1) 4, fun x => chosen 0xFF true x), (.reset, .ifI P false .lid 4, fun x => chosen 0xFE false x),
    (deep 31, .ifI P false (.v 1) 4, fun x => chosen 0 false x && x.fl.stack.length < 32),
    (split, .elseI P 4, fun x => x.fl.stack.length == 1 && x.b.frame.msb == 0),
    (deep 32, .elseI P 4, fun x => x.fl.stack.length == 32), (split, .endif P, fun x => x.fl.stack.length == 1),
    (deep 32, .endif P, fun x => x.fl.stack.length == 32), (loopOver, .loop P 4, fun x => x.fl.xm == 0),
    (deep 30, .loop P 4, fun x => x.fl.xm != 0 && x.fl.stack.length == 30),
    (inLoop, .endl P 0xFFFC, fun x => x.fl.xm ||| x.fl.stack.headD 0 != 0),
    (loopOver, .endl P 0xFFFC, fun x => x.fl.xm ||| x.fl.stack.headD 0 == 0 && x.fl.stack.length == 2),
    (inLoop, .breakI P false 0 .lid 4, fun x => chosen 0x0E false x && x.b.frame.msb + 2 ≤ x.fl.stack.length),
    (inLoop, .cont P true 0 .lid 4, fun x => chosen 0x01 true x && x.b.frame.msb + 2 ≤ x.fl.stack.length),
    (.reset, .jmp P .always .z 4, fun x => x.fl.xm == x.fl.live && x.fl.xm != 0),
    (.reset, .jmp P .z (.v 1) 4, fun x => (upTo 8).all fun l => x.lv 0 l == ⟨0, false⟩),
    (.reset, .jmp P .nz (.v 1) 4, fun x => (upTo 8).all fun l => x.lv 0 l == ⟨0, false⟩),
    (.reset, .jmp P .nz .gw 4, fun x => (upTo 8).all fun l => (x.lv 0 l).v != 0 && !(x.lv 0 l).p)] : List Case),
    Ready p.2.1 p.1 (exOf p.2.1 p.1) ∧ p.2.2 (exOf p.2.1 p.1) = true ∧ ∃ t, exec p.2.1 p.1 = .next t :=
  meetsEach (by decide +kernel)

/-- A call made from reset, its caller marked with id 7. -/
def called : State := onBody fun b => { b with
  frames := ⟨0x40, 0, 4, 0, false, 0, 0, 31, 2, none, none⟩ :: b.frames.map fun f => { f with mv := true, mid := 7, hpc := 0x80 }
  grans := b.grans ++ List.replicate 2 (zeroGranule 8) }

/-- CallAndReturn: CALL of no base, of the first granule and of one that shares all, CALLI; RET and UNWIND of a frame; MARK. -/
theorem witness_call : ∀ p ∈ ([
    (.reset, .call P 4 .z 8, fun x => !x.b.parted && x.g.held + 4 ≤ x.g.framemax && x.core.fits x.g 4 && x.core.handReqs.isEmpty &&
      x.core.waiters.isEmpty && x.fl.pc.toNat % 4 == 0),
    (.reset, .call P 4 (.v 0) 8, fun x => !x.b.parted && !x.b.frame.meetsQueue 0 32),
    (.reset, .call P 4 (.v 24) 8, fun x => !x.b.frame.meetsQueue 24 32 && x.core.fits x.g 3),
    (.reset, .calli P 1 .z (.v 2), fun x => !x.b.parted && (upTo 8).all fun l => x.pair 1 l == 0 && !(x.lvk 1 0 l).p && !(x.lvk 1 1 l).p),
    (called, .ret P, fun x => x.b.frames.length == 2 && x.fl.stack.length == x.b.frame.msb),
    (called, .unwind P 7, fun x => x.fl.xm == x.fl.live && (x.b.frames.getD 1 (.launch 1)).mv && !x.b.frame.mv),
    (.reset, .mark P false 3 8, plainly), (called, .mark P true 0 0xF0F0, plainly)] : List Case),
    Ready p.2.1 p.1 (exOf p.2.1 p.1) ∧ p.2.2 (exOf p.2.1 p.1) = true ∧ ∃ t, exec p.2.1 p.1 = .next t :=
  meetsEach (by decide +kernel)

/-- A parted gang whose other slice waits at REGANG 5. -/
def parted : State := onBody fun b => { b with
  parted := true
  flows := b.flows.flatMap fun f => [{ f with xm := 0x0F }, { f with xm := 0xF0, run := .wait (.regang 5) (.regang P 5) }] }

/-- In S level, as in a handler. -/
def supervisor : State := onGang fun g => { g with pl := .s }

/-- No MMQ of the gang has still to read its B. -/
def unreadNone (x : Ex) : Bool := x.core.tops.all fun e => e.gang != x.g.uid || !e.unread

/-- GangControl: PART, REGANG joined and as the last slice, YIELD, NOP, RGN, EXIT with lanes left, with none, at S level. -/
theorem witness_gang : ∀ p ∈ ([
    (.reset, .part P, fun x => !x.b.parted && x.g.hand == none && unreadNone x), (.reset, .regang P 5, fun x => !x.b.parted),
    (parted, .regang P 5, fun x => x.b.parted && x.fl.stack.length == x.b.pmsd && x.fl.live != 0),
    (.reset, .yield P, plainly), (.reset, .nop P, plainly), (.reset, .rgn P, plainly),
    (split, .exit P, fun x => plainly x && x.b.flows.length == 1 && x.g.pl != .s && (x.fl.stack.any fun e => e &&& ~~~x.fl.xm != 0)),
    (.reset, .exit P, fun x => plainly x && x.g.pl != .s && x.fl.stack.isEmpty && unreadNone x),
    (supervisor, .exit P, fun x => x.g.pl == .s)] : List Case),
    Ready p.2.1 p.1 (exOf p.2.1 p.1) ∧ p.2.2 (exOf p.2.1 p.1) = true ∧ ∃ t, exec p.2.1 p.1 = .next t :=
  meetsEach (by decide +kernel)

/-- Reset's body has its shape. -/
theorem witness_sound : (Gang.firmware 0 0 8 0 0 4 256 0).act.Sound 8 :=
  ⟨by decide, by decide,
    fun g k hg hk => (by decide : ∀ g < 4, ∀ k < 4, granOrd [.launch 4] g = granOrd [.launch 4] k → g = k) g hg k hk, by decide⟩

/-- Reset with queues of depth 2 in rows 8 to 11: one entry in the first, none in the second. -/
def queued : State := onBody fun b => b.modFrame fun f => { f with qd0 := some ⟨8, 2, 2, [1, 0]⟩ }

/-- WriteBack: a result to a plain register, to none, to a queue with room, of an instruction that pops nothing. -/
theorem witness_writeBack : ∀ p ∈ ([
    (.reset, .mov P (.v 1) (.v 2), fun x => x.pops.isEmpty && x.n.ops.headD (.z, .src 1) == (x.n.dest, .dst 1) && x.b.frame.role 1 == .plain),
    (.reset, .mov P .z (.v 2), fun x => x.n.dest == .z && !x.i.resets),
    (queued, .mov P (.v 9) (.v 2), fun x => x.b.frame.role 9 == .name false 1 && x.pops.isEmpty)] : List Case),
    Ready p.2.1 p.1 (exOf p.2.1 p.1) ∧ p.2.2 (exOf p.2.1 p.1) = true ∧ ∃ t, exec p.2.1 p.1 = .next t :=
  meetsEach (by decide +kernel)

/-- Queues: QDEF up to the frame's end, QCLR, QOCC, QRD and QWR of an entry; a pop of a queue. -/
theorem witness_queues : (∀ p ∈ ([
    (.reset, .qdef P 7 1 (.v 16), fun x => !x.b.parted && x.b.frame.qd0 == none && !x.b.frame.meetsQueue 16 32 && 32 ≤ 8 * x.b.frame.ngr),
    (queued, .qclr P (.v 8), fun x => (x.b.frame.qdef false).any fun q => q.base == 8),
    (queued, .qocc P (.v 1) (.v 8), fun x => queueOf x.popped (.v 8) 1 == some (false, 0)),
    (queued, .qrd P 0 (.v 1) (.v 8), fun x => queueOf x.popped (.v 8) 1 == some (false, 0)),
    (queued, .qwr P 0 (.v 1) (.v 8), fun x => queueOf x.popped (.v 8) 1 == some (false, 0))] : List Case),
    Ready p.2.1 p.1 (exOf p.2.1 p.1) ∧ p.2.2 (exOf p.2.1 p.1) = true ∧ ∃ t, exec p.2.1 p.1 = .next t) ∧
    (⟨8, 2, 2, [1, 0]⟩ : QDef).occOf 0 = 1 :=
  ⟨meetsEach (by decide +kernel), rfl⟩

/-- A guard that is 0 leaves the lane set empty. -/
def G : Hdr := ⟨none, .v 0, false, false⟩

/-- WindowMaskFrame: each instruction with lanes, and those that do nothing without. -/
theorem witness_windowMaskFrame : ∀ p ∈ ([
    (.reset, .winrd P 0 (.v 1), plainly), (.reset, .winrd P 8 (.v 1), plainly), (.reset, .winwr P 0 (.v 1), fun x => x.g.hand == none),
    (.reset, .winwr P 8 (.v 1), fun x => x.g.hand == none), (.reset, .winwr G 8 (.v 1), fun x => x.g.hand == none && x.set.isEmpty), (split, .mskrd P false 0 (.v 1), fun x => x.set.head? == some 0),
    (.reset, .mskrd P true 0 (.v 1), fun x => x.set.head? == some 0), (.reset, .mskwr G .push 0 (.v 1), fun x => x.set.isEmpty),
    (deep 31, .mskwr P .push 0 (.v 1), fun x => (x.target' 0).msd == 31), (split, .mskwr P .write 0 (.v 1), fun x => x.targetFloor == 0),
    (split, .mskwr P .pop 1 (.v 1), fun x => (x.target' 0).msd == 1), (split, .mskwr P .target 0 .gw, plainly),
    (.reset, .frmq G 0 (.v 2) (.v 1), fun x => x.set.isEmpty), (.reset, .frmrd G (.v 1) (.v 2) (.v 3), fun x => x.set.isEmpty),
    (called, .frmq P 0 (.v 2) (.v 1), fun x => (x.lv 1 0).v.toNat < x.g.body.frames.length && x.set.head? == some 0),
    (called, .frmq P 4 (.v 2) (.v 1), fun x => x.set.head? == some 0),
    (queued, .frmq P 3 (.v 2) (.v 8), fun x => x.g.hand == none && !x.pops.isEmpty && x.lv 1 0 == ⟨0, false⟩ && x.popped.frames.length == 1 &&
      0 < x.popped.frame.ngr && x.popped.frame.qd0 == some ⟨8, 2, 2, [0, 0]⟩),
    (queued, .frmrd P (.v 1) (.v 8) (.v 3), fun x => x.g.hand == none && x.lv 1 0 == ⟨0, false⟩ && x.lv 2 0 == ⟨0, false⟩ &&
      (x.popped.gran 0).resident),
    (called, .frmrd P (.v 1) (.v 2) (.v 3), fun x => (x.lv 2 0).v.toNat < 8 * 4 && (x.g.body.gran 0).resident)] : List Case),
    Ready p.2.1 p.1 (exOf p.2.1 p.1) ∧ p.2.2 (exOf p.2.1 p.1) = true ∧ ∃ t, exec p.2.1 p.1 = .next t :=
  meetsEach (by decide +kernel)

/-! ### Witnesses: memory, copies, work lists, remote operations, barriers, tiles -/

/-- Context 1 on island 0, with a quota, a list of its own and all else empty. -/
def K1 : CtxIsland :=
  .created 1 1 0 0 ⟨0, 1, 0x100, 0x100000, 0x200000, 4096, 0, 16, [(0, 8192)], [⟨0, 64⟩], [0, 1], [], 8⟩

/-- A 512 MiB page at address 0, with every permission. -/
def page0 : TlbEntry := ⟨1, 0, true, 0, false, false, true, true, true, true⟩

/-- Tables that map the first 512 MiB with every permission: the root in frame 1, the second level in frame 2. -/
def tables : Mem := (Mem.empty.setDword 65536 0x200001).setDword 131072 0x3F

/-- Island 0 with context 1. -/
def isle : Island :=
  { Island.powered 0 false 5 9 7 with mem := tables, resetStep := 6, aliasOf := some 6, ctxs := [K1], keySlots := [⟨0, none, 7⟩, ⟨1, some 1, 8⟩], clockOn := true }

/-- Rows: 10 holds 4, 11 holds 64, 12 holds 0x1001, 13 holds 7, 14 holds 4095, 15 holds 3; row 30 is 1 in lane 0 alone;
all others hold 0. -/
def filled (g : Gang) : Gang := g.modAct fun b =>
  ([(10, 4), (11, 64), (12, 0x1001), (13, 7), (14, 4095), (15, 3)].foldl
    (fun b p => b.setRow p.1 (List.replicate 8 ⟨p.2, false⟩)) b).setRow 30 (⟨1, false⟩ :: List.replicate 7 ⟨0, false⟩)

/-- A gang of context 1 at U level. -/
def gang1 : Gang := { filled (.firmware 0 0 8 0 0 4 256 0) with ctx := some 1, pl := .u, ppl := .u }

/-- Its workgroup, of two gangs: scratch, tiles, a barrier that has its other member's arrival, arguments, a codebook. -/
def wg1 : Wg := { Wg.firmware 0 with
  ctx := some 1
  gangs := 2
  localBytes := 4096
  acc := 4
  barriers := [⟨0, 3, false, 0⟩, ⟨2, 3, false, 0⟩, ⟨0, 3, false, 7⟩]
  argBytes := 1024
  live := 3
  cb := some (List.replicate 192 ⟨0, false⟩) }

/-- Core 0 of die 0 of island 0. -/
def core1 : Core := { Core.idle (.compute 0 0 0) with gangs := [gang1], wgs := [wg1], tlb := [page0] }

/-- One compute core of one island in service with one context. -/
def world : State := { State.reset with
  islands := [isle]
  cores := [core1]
  plots := [⟨0, .serving, .compute, 1, 0, 0, 5, [9, 10, 11, 12], [9, 10, 11, 12], none, .serving⟩]
  contexts := [⟨1, 1, false, false, false, false, 0, 0x10000000, List.replicate 4 ⟨0, 0, 0, 0, 0, 0⟩, [], [], [], 0, false⟩]
  partitions := [⟨1, [(0, [0, 1])]⟩]
  ifaces := [⟨1, 0, .run, some 3, none, false, false, []⟩]
  cur := ⟨.compute 0 0 0, 0, 0⟩ }

/-- World with its gang, workgroup, core, context on the island changed. -/
def wGang (f : Gang → Gang) : State := world.modGang (.compute 0 0 0) 0 f
def wWg (f : Wg → Wg) : State := world.modWg (.compute 0 0 0) 0 f
def wCore (f : Core → Core) : State := world.modCore (.compute 0 0 0) f
def wCtx (f : CtxIsland → CtxIsland) : State := world.modCtxAt 0 1 f

/-- A guard of lane 0 alone, and one of no lane. -/
def L0 : Hdr := ⟨none, .v 30, false, false⟩

/-- A lane is clean in the operands named. -/
def clean (x : Ex) (js : List Nat) : Bool := x.set.all fun l => js.all fun j => (x.regs j l).all fun r => !r.p

/-- Every memory is in its canonical form. -/
def kept (x : Ex) : Bool := x.s.memories.all fun m => m.wf

/-- Lane 0 alone. -/
def lone (x : Ex) : Bool := x.set == [0] && x.w == 8

/-- LocalLoads, LocalStores: loads and stores at address 0 and at the last word of scratch. -/
theorem witness_local : ∀ p ∈ ([
    (world, .ldl P .b64 (.v 2) (.v 11) (.v 1), fun x => clean x [1, 2] && 64 + 8 ≤ x.limit (some .scratch)),
    (world, .ldl ⟨some 4092, .z, false, false⟩ .b32 (.v 2) (.v 1) (.v 1), fun x => clean x [1, 2] && 4096 ≤ x.limit (some .scratch)),
    (world, .ldc P .s8 (.v 2) (.v 11) (.v 1), fun x => clean x [1, 2] && 64 + 1 ≤ x.limit (some .commons)),
    (world, .ldk P .b128 (.v 4) (.v 11) (.v 1), fun x => clean x [1, 2] && 64 + 16 ≤ x.limit none),
    (world, .ldlB32ShortA (.v 2) (.v 11) (.v 10), fun x => clean x [1, 2] && 68 + 4 ≤ x.limit (some .scratch)),
    (world, .ldcB32ShortA (.v 2) (.v 11) (.v 10), fun x => clean x [1, 2] && 68 + 4 ≤ x.limit (some .commons)),
    (world, .ldlB32ShortB (.v 2) (.v 11) 255, fun x => clean x [1, 2] && 64 + 4 * 256 ≤ x.limit (some .scratch)),
    (world, .ldkB32ShortB (.v 2) 255, fun x => clean x [1, 2] && 4 * 256 ≤ x.limit none),
    (world, .stl P .b64 false (.v 2) (.v 11) (.v 1), fun x => kept x && clean x [0, 1, 2] && !x.core.holdsWrite x.g.uid x.s.uid .scratch 64 8),
    (world, .stc P .b8 false (.v 2) (.v 11) (.v 1), fun x => kept x && clean x [0, 1, 2] && !x.core.holdsWrite x.g.uid x.s.uid .commons 64 1),
    (world, .stlB32ShortA (.v 2) (.v 11) (.v 10), fun x => clean x [0, 1, 2]),
    (world, .stcB32ShortA (.v 2) (.v 11) (.v 10), fun x => clean x [0, 1, 2]),
    (world, .stlB32ShortB (.v 2) (.v 11) 1, fun x => clean x [0, 1, 2])] : List Case),
    Ready p.2.1 p.1 (exOf p.2.1 p.1) ∧ p.2.2 (exOf p.2.1 p.1) = true ∧ ∃ t, exec p.2.1 p.1 = .next t :=
  meetsEach (by decide +kernel)

/-- LocalLoads: an uncorrectable error to come in the word that lane 0 of a load reads, at address 64. -/
theorem witness_scratchError :
    let s : State := { world with phys := [.readUe 3 .scratch 16] }
    let i : Instr := .ldl L0 .b32 (.v 2) (.v 11) (.v 1)
    let x := exOf i { s with phys := [] }
    Ready i { s with phys := [] } x ∧ s.memories.all (fun m => m.wf) = true ∧ x.set = [0] ∧
      ((x.lv 1 0).v + (x.lv 2 0).v + 0).toNat / 4 = 16 ∧ (!(x.lv 1 0).p && !(x.lv 2 0).p && 64 + 4 ≤ x.limit (some .scratch)) = true ∧
      ∃ t, exec i s = .next t := by
  refine ⟨ready (by decide +kernel), by decide +kernel, by decide +kernel, by decide +kernel, by decide +kernel, ?_⟩
  cases h : exec (.ldl L0 .b32 (.v 2) (.v 11) (.v 1)) { world with phys := [.readUe 3 .scratch 16] } with
  | next t => exact ⟨t, rfl⟩
  | fault f => exact absurd (show (match exec (.ldl L0 .b32 (.v 2) (.v 11) (.v 1)) { world with phys := [.readUe 3 .scratch 16] } with
      | .next _ => true | _ => false) = true by decide +kernel) (by rw [h]; exact Bool.noConfusion)
  | refused r => exact absurd (show (match exec (.ldl L0 .b32 (.v 2) (.v 11) (.v 1)) { world with phys := [.readUe 3 .scratch 16] } with
      | .next _ => true | _ => false) = true by decide +kernel) (by rw [h]; exact Bool.noConfusion)

/-- A poisoned lane 0 of row 3. -/
def tainted : State := wGang fun g => g.modAct fun b => b.setRow 3 (⟨0x4001, true⟩ :: List.replicate 7 ⟨0, false⟩)

/-- An infinity in lane 0 of row 4, poison mode off or on. -/
def infinite (psn : Bool) : State := wGang fun g =>
  { (g.modAct fun b => b.setRow 4 (⟨0x7F800000, false⟩ :: List.replicate 7 ⟨0, false⟩)) with psn := psn }

/-- What Atomics assumes of one lane, at address 64, whose operand has poison in one of its registers. -/
def oneAtom (sp : Space) (n ja : Nat) (x : Ex) : Bool :=
  kept x && lone x && !x.g.psn && x.lv ja 0 == ⟨64, false⟩ && x.lv (ja + 1) 0 == ⟨0, false⟩ && (x.regs (ja + 2) 0).any (·.p) &&
    64 + n ≤ x.limit (some sp) && !x.core.holdsWrite x.g.uid x.s.uid sp 64 n

/-- LocalStores, Atomics, IntegerCompareSelect, MxFormats: a store of a poisoned lane traps without .pz, and with .pz writes; the other statements of poisoned data. -/
theorem witness_poisonStore : ∀ p ∈ ([
    (tainted, .stl L0 .b32 false (.v 3) (.v 11) (.v 1), fun x => kept x && lone x && clean x [1, 2] && (x.lv 0 0).p && x.g.region == none),
    (tainted, .stl L0 .b32 true (.v 3) (.v 11) (.v 1), fun x => lone x && (x.lv 0 0).p && !x.core.holdsWrite x.g.uid x.s.uid .scratch 64 4),
    (tainted, .mov P (.v 1) (.v 3), fun x => (x.lv 1 0).p && (merge [x.lv 1 0]).isSome),
    (tainted, .pset P (.v 1) (.v 3), fun x => (x.lv 1 0).p), (tainted, .pchk P true true (.v 1) (.v 3), fun x => (x.lv 1 0).p),
    (tainted, .pclr P (.v 1) (.v 3), fun x => (x.lv 1 0).p),
    (tainted, .porg P 0 (.v 4) (.v 3), fun x => x.set.all fun l => (x.s.polRegs (x.charge 0)).2.1 ≤ provOrigin (x.lv 1 l).v &&
      provOrigin (x.lv 1 l).v != 8191),
    (tainted, .isel L0 ⟨.w32, false, false⟩ (.v 1) (.v 8) (.v 9) (.v 3), fun x => (x.lv 3 0).p),
    (tainted, .isel L0 ⟨.w64, false, false⟩ (.v 4) (.v 6) (.v 8) (.v 3), fun x => (x.lv 3 0).p),
    (tainted, .isel L0 ⟨.w64, false, false⟩ (.v 4) (.v 6) (.v 2) (.v 16), fun x => x.lv 3 0 == ⟨0, false⟩ && !(x.lvk 2 0 0).p && (x.lvk 2 1 0).p),
    (infinite false, .mxenc P rne .f32 .e4m3 (.v 20) (.v 4), fun x => !x.b.parted && x.w == 8 && !x.g.psn && x.set.length == 8 &&
      (merge ((upTo 8).flatMap fun l => x.regs 1 l)).isNone && (lf32.decode ((x.regs 1 0).getD 0 ⟨0, false⟩).v.toNat).toRat.isNone),
    (infinite true, .mxenc P rne .f32 .e4m3 (.v 20) (.v 4), fun x => x.g.psn &&
      (lf32.decode ((x.regs 1 0).getD 0 ⟨0, false⟩).v.toNat).toRat.isNone),
    (tainted, .mxenc P rne .f32 .e4m3 (.v 20) (.v 0), fun x => (merge ((upTo 8).flatMap fun l => x.regs 1 l)).isSome),
    (tainted, .atoml L0 .add .group true (.v 2) (.v 11) (.v 1) (.v 3), oneAtom .scratch 4 1),
    (tainted, .atoml L0 .xchg .group true (.v 2) (.v 11) (.v 1) (.v 3), oneAtom .scratch 4 1),
    (tainted, .atomc L0 .add .group false .z (.v 11) (.v 1) (.v 3), oneAtom .commons 4 0),
    (tainted, .acasl L0 .b32 .group true (.v 4) (.v 11) (.v 1) (.v 2), oneAtom .scratch 4 1),
    (tainted, .acasc L0 .b32 .group false .z (.v 11) (.v 1) (.v 2), oneAtom .commons 4 0),
    (world, .pset L0 (.v 1) (.v 2), fun x => lone x && !(x.lv 1 0).p && (x.s.polRegs (x.charge 0)).2.1 < 8191 &&
      (x.s.ctxAt? 0 1).isSome)] : List Case),
    Ready p.2.1 p.1 (exOf p.2.1 p.1) ∧ p.2.2 (exOf p.2.1 p.1) = true ∧ ∃ t, exec p.2.1 p.1 = .next t :=
  meetsEach (by decide +kernel)

/-- The checks of `Ex.Passes`, decided. -/
def passes? (x : Ex) (a : Acc) : Bool :=
  x.set.all fun l => !(x.one a.ja l).p && !(x.one (a.ja + 1) l).p && (x.ea a l).toNat % a.n == 0 &&
    (if a.sp = some .global then x.g.ctx.isNone || canonical (x.ea a l) else (x.ea a l).toNat + a.n ≤ x.limit a.sp) &&
    (match x.tr a l with | .ok _ _ => true | _ => false) &&
    (inWindow (x.ea a l).toNat || x.s.installed x.ag.core (x.ea a l).toNat a.n)

/-- What they say. -/
theorem passes {x : Ex} {a : Acc} (h : passes? x a = true) : x.Passes a := by
  simp only [passes?, List.all_eq_true, Bool.and_eq_true, Bool.not_eq_true', beq_iff_eq, Bool.or_eq_true] at h
  refine ⟨fun l hl => ⟨(h l hl).1.1.1.1.1, (h l hl).1.1.1.1.2⟩, fun l hl => (h l hl).1.1.1.2, fun l hl => ?_, fun _ l hl => ?_,
    fun _ _ l hl => (h l hl).2⟩
  · have e := (h l hl).1.1.2
    split
    · rename_i g; rw [if_pos g] at e
      simpa using e
    · rename_i g; rw [if_neg g] at e
      simpa using e
  · have e := (h l hl).1.2
    split at e
    · exact ⟨_, _, by assumption⟩
    · exact absurd e Bool.noConfusion

/-- What a memory instruction's access is (Mem.lean). -/
def acc1 (sp : Space) (n : Nat) (k : Access) (lvl : Lvl) (ja : Nat) : Acc := ⟨some sp, n, k, lvl, ja, 0⟩

/-- Ready, with its access checked, clear of the control window and of MMQs whose pass has not started. -/
def reaches (s : State) (i : Instr) (a : Acc) : Bool :=
  isReady i s && passes? (exOf i s) a && (exOf i s).set.all fun l => (exOf i s).winOff a l == none &&
    !(exOf i s).core.holdsWrite (exOf i s).g.uid s.uid .global ((exOf i s).ea a l).toNat a.n

/-- What `reaches` says. -/
theorem reached {s : State} {i : Instr} {a : Acc} (hs : a.sp = some .global) (h : reaches s i a = true) :
    Ready i s (exOf i s) ∧ (exOf i s).Passes a ∧ (∀ l ∈ (exOf i s).set, (exOf i s).winOff a l = none) ∧ (exOf i s).Unheld a := by
  simp only [reaches, Bool.and_eq_true, List.all_eq_true, beq_iff_eq, Bool.not_eq_true'] at h
  have r := ready h.1.1
  refine ⟨r, passes h.1.2, fun l hl => (h.2 l hl).1, fun l hl sp e => ?_⟩
  rw [hs] at e
  injection e with e
  rw [← e, show (exOf i s).s = s from r.state]
  exact (h.2 l hl).2

/-- The same of several instructions. -/
theorem reachedAll {s : State} {l : List (Instr × Acc)} (h : (l.all fun p => p.2.sp == some .global && reaches s p.1 p.2) = true) :
    ∀ p ∈ l, Ready p.1 s (exOf p.1 s) ∧ (exOf p.1 s).Passes p.2 ∧ (∀ k ∈ (exOf p.1 s).set, (exOf p.1 s).winOff p.2 k = none) ∧
      (exOf p.1 s).Unheld p.2 := fun p hp => by
  have e := List.all_eq_true.mp h p hp
  simp only [Bool.and_eq_true, beq_iff_eq] at e
  exact reached e.1 e.2

/-- Atomics: an operand, and a new word of a swap, with poison. -/
theorem witness_globalPoison : ∀ p ∈ [((.atom L0 .add .island true (.v 8) (.v 4) (.v 1) (.v 3) : Instr), acc1 .global 4 .atomic .i 1),
    (.atom L0 .xchg .island false .z (.v 4) (.v 1) (.v 3), acc1 .global 4 .atomic .i 0),
    (.acas L0 .b32 .die true (.v 8) (.v 4) (.v 1) (.v 2), acc1 .global 4 .atomic .d 1)],
    Ready p.1 tainted (exOf p.1 tainted) ∧ (exOf p.1 tainted).Passes p.2 ∧
      (∀ k ∈ (exOf p.1 tainted).set, (exOf p.1 tainted).winOff p.2 k = none) ∧ (exOf p.1 tainted).Unheld p.2 :=
  reachedAll (by decide +kernel)

/-- GlobalAccess, Atomics: loads, stores and atomics of lane 0 and of all lanes. -/
theorem witness_global : ∀ p ∈ [((.ld L0 .b32 .normal none (.v 2) (.v 4) (.v 1) : Instr), acc1 .global 4 .read .c 1),
    (.ld P .b128 .noL1 none (.v 4) (.v 4) (.v 11), acc1 .global 16 .read .d 1),
    (.ldacq L0 .b32 .island .global (.v 2) (.v 4) (.v 1), acc1 .global 4 .read .i 1),
    (.st L0 .b32 false .normal none (.v 2) (.v 4) (.v 1), acc1 .global 4 .write .c 1),
    (.strel L0 .b32 .island .global false (.v 2) (.v 4) (.v 1), acc1 .global 4 .write .i 1),
    (.atom L0 .add .island true (.v 2) (.v 4) (.v 1) (.v 10), acc1 .global 4 .atomic .i 1),
    (.atom P .fadd .die false .z (.v 4) (.v 1) (.v 10), acc1 .global 4 .atomic .d 0),
    (.acas L0 .b32 .island true (.v 2) (.v 4) (.v 1) (.v 8), acc1 .global 4 .atomic .i 1)],
    Ready p.1 world (exOf p.1 world) ∧ (exOf p.1 world).Passes p.2 ∧
      (∀ k ∈ (exOf p.1 world).set, (exOf p.1 world).winOff p.2 k = none) ∧ (exOf p.1 world).Unheld p.2 :=
  reachedAll (by decide +kernel)

/-- The steward's firmware on island 0, with the control window's base in rows 4 and 5. -/
def firm : State := { world with
  cores := [{ Core.idle (.steward 0) with
    gangs := [(filled (.firmware 0 0 8 0 0 4 256 0)).modAct fun b => b.setRow 5 (List.replicate 8 ⟨0x08000000, false⟩)]
    wgs := [.firmware 0] }]
  cur := ⟨.steward 0, 0, 0⟩ }

/-- GlobalAccess: 8 bytes at the start of the control window; a core that holds a sector of L1. -/
theorem witness_window :
    (∀ p ∈ [((.ld L0 .b64 .normal none (.v 2) (.v 4) (.v 1) : Instr), acc1 .global 8 .read .c 1),
      (.st L0 .b64 false .normal none (.v 2) (.v 4) (.v 1), acc1 .global 8 .write .c 1)],
      Ready p.1 firm (exOf p.1 firm) ∧ (exOf p.1 firm).Passes p.2 ∧ (exOf p.1 firm).set = [0] ∧
        (exOf p.1 firm).winOff p.2 0 = some 0) ∧
    (firm.winRead (.steward 0) 0 8).isSome = true ∧
    (let s := wCore fun c => { c with l1 := [⟨0, List.replicate 8 ⟨⟨0, false⟩, 1, false⟩⟩] }
     ((s.island? 0).isSome && (s.core? (.compute 0 0 0)).isSome && (s.core (.compute 0 0 0)).l1.all fun t => t.words.length == 8) =
       true) := by
  refine ⟨List.forall_mem_cons.mpr ⟨?_, List.forall_mem_cons.mpr ⟨?_, fun _ h => nomatch h⟩⟩, by decide +kernel, by decide +kernel⟩
  · exact ⟨ready (by decide +kernel), passes (by decide +kernel), by decide +kernel, by decide +kernel⟩
  · exact ⟨ready (by decide +kernel), passes (by decide +kernel), by decide +kernel, by decide +kernel⟩

/-- Atomics, SweepsFencesCache: atomics of scratch and Commons, sweeps of no, one and four segments, fences and lines. -/
theorem witness_atomics : ∀ p ∈ ([
    (world, .atoml P .add .group true (.v 2) (.v 11) (.v 1) (.v 10), fun x => kept x && !x.g.psn && clean x [1, 2, 3] && 68 ≤ x.limit (some .scratch) &&
      !((x.memory (some .scratch) x.s).word 16).p && !x.core.holdsWrite x.g.uid x.s.uid .scratch 64 4),
    (world, .acasl P .b64 .group false .z (.v 11) (.v 1) (.v 4), fun x => !x.g.psn && clean x [0, 1, 2]),
    (world, .atomc P .xchg .group true (.v 2) (.v 11) (.v 1) (.v 10), fun x => !x.g.psn && 72 ≤ x.limit (some .commons)),
    (world, .acasc P .b32 .group true (.v 2) (.v 11) (.v 1) (.v 8), fun x => !x.g.psn && clean x [1, 2, 3]),
    (world, .bankop G .add .group (.v 1) (.v 1) (.v 1), fun x => x.set.isEmpty),
    (world, .bankred G .add .group true (.v 4) (.v 1) (.v 1) (.v 1), fun x => x.set.isEmpty),
    (world, .bankop L0 .xchg .group (.v 1) (.v 11) (.v 30), fun x => lone x && x.sweep 0 0 == ⟨0, 0, 64, 0, 0, 1⟩ && clean x [0, 1, 2] &&
      80 ≤ x.limit (some .commons) && !x.core.holdsWrite x.g.uid x.s.uid .commons 0 16),
    (world, .bankred L0 .add .group true (.v 4) (.v 1) (.v 11) (.v 10), fun x => lone x && x.sweep 1 0 == ⟨0, 0, 64, 0, 0, 4⟩ &&
      clean x [1, 2, 3] && !x.core.holdsWrite x.g.uid x.s.uid .commons 0 16),
    (world, .fence P 15 .island, fun x => plainly x && unreadNone x), (world, .fence P 1 .group, plainly),
    (world, .cctl P .wb (.v 4) (.v 1), fun x => clean x [0, 1] && x.set.all fun l => canonical (x.ea ⟨some .global, 1, .control, .c, 0, 0⟩ l) &&
      !x.walks (x.ea ⟨some .global, 1, .control, .c, 0, 0⟩ l) .control),
    (world, .cctl P .evict (.v 4) (.v 1), fun x => clean x [0, 1])] : List Case),
    Ready p.2.1 p.1 (exOf p.2.1 p.1) ∧ p.2.2 (exOf p.2.1 p.1) = true ∧ ∃ t, exec p.2.1 p.1 = .next t :=
  meetsEach (by decide +kernel)

/-- A copy of one word by the gang, in its batch 0. -/
def copy1 : Copy := ⟨9, 0, 0, none, 0, ⟨some 1, 0, some (.compute 0 0 0), 0, 0, 0, false⟩, .scratch, .commons, 0, 0, 1, 1, 0, 0, [], 0⟩

/-- A batch open, with room for no other, done, failed, in flight. -/
def batches (n : Nat) : State := wGang fun g => { g with nextBatch := BitVec.ofNat 16 n, openBatches := (upTo n).map (BitVec.ofNat 16) }
def failed : State := (batches 1).modGang (.compute 0 0 0) 0 fun g => { g with failure := some ⟨.siteLost, 5, some 0⟩ }
def copying (n : Nat) : State := (batches 1).modCore (.compute 0 0 0) fun c => { c with chans := [(0, List.replicate n copy1)] }

/-- What the statement on copies assumes of the lanes. -/
def copies (segs : Bool) (dsp ssp : Space) (x : Ex) : Bool :=
  x.set.all fun l => (x.copyRaised dsp ssp segs l).isEmpty && (x.copyHole dsp ssp segs l).isNone &&
    ((x.copyReq dsp ssp segs l).bytes == 0 || (x.copyReq dsp ssp segs l).pages.all fun p =>
      match translate x.tlbs x.g.ctx x.g.pl p.2 p.1 with | .ok _ _ => true | _ => false)

/-- CopiesAndBatches: copies that join, of nothing, that find no room and that stand behind another; the batch and channel
instructions, each way they go. -/
theorem witness_copies : ∀ p ∈ ([
    (world, .cpy L0 .global .scratch 0 (.v 4) (.v 11) (.v 10), fun x => copies false .global .scratch x && (x.copyReq .global .scratch false 0).bytes == 4 &&
      x.core.copyTurn 0 x.ag && (x.core.wg? x.g.wg).isSome),
    (world, .cpy P .scratch .commons 7 (.v 1) (.v 1) (.v 1), fun x => copies false .scratch .commons x && (x.copyReq .scratch .commons false 0).bytes == 0),
    (world, .cpys L0 .commons .global 7 (.v 1) (.v 4) (.v 12) (.v 8), fun x => copies true .commons .global x &&
      (x.copyReq .commons .global true 0).bytes == 4),
    (copying 127, .cpy L0 .scratch .commons 0 (.v 1) (.v 1) (.v 10), fun x => copies false .scratch .commons x && (x.core.chan 0).length == 127),
    (copying 128, .cpy L0 .scratch .commons 0 (.v 1) (.v 1) (.v 10), fun x => copies false .scratch .commons x && (x.core.chan 0).length == 128),
    (wCore fun c => { c with copyWaits := [(0, ⟨.compute 0 0 0, 1, 0⟩)] }, .cpy L0 .scratch .commons 0 (.v 1) (.v 1) (.v 10),
      fun x => copies false .scratch .commons x && !x.core.copyTurn 0 x.ag),
    (batches 15, .seal P (.v 1), fun x => plainly x && x.g.openBatches.length == 15),
    (batches 1, .bwait P (.v 1), fun x => plainly x && x.lv 0 0 == ⟨0, false⟩ && x.g.nextBatch == 1 && !x.s.batchBusy x.ag.core x.g.uid 0),
    (failed, .bwait P (.v 1), fun x => x.g.failure.isSome && x.g.openBatches == [0] && !x.s.batchBusy x.ag.core x.g.uid 0),
    (copying 1, .bwait P (.v 1), fun x => x.s.batchBusy x.ag.core x.g.uid 0),
    (world, .cpwp P true (.v 1) (.v 13), fun x => x.lv 1 0 == ⟨7, false⟩), (world, .cpwp P false (.v 1) (.v 13), fun x => x.lv 1 0 == ⟨7, false⟩),
    (world, .cpwait P (.v 13) (.v 1), fun x => (x.wg.chanW.getD 7 0 - (x.lv 1 0).v).msb == false && x.lv 0 0 == ⟨7, false⟩),
    (world, .cpwait P (.v 13) (.v 10), fun x => (x.wg.chanW.getD 7 0 - (x.lv 1 0).v).msb && x.lv 0 0 == ⟨7, false⟩)] : List Case),
    Ready p.2.1 p.1 (exOf p.2.1 p.1) ∧ p.2.2 (exOf p.2.1 p.1) = true ∧ ∃ t, exec p.2.1 p.1 = .next t :=
  meetsEach (by decide +kernel)

/-- List 0 with one item out and none, or one, in it. -/
def working (items : Lanes) : State := wCtx fun k => { k with lists := [⟨0, 64, items⟩], out := 8, qt := false }

/-- WorkLists: a run put, none put, a take of quiescence, of an item, of nothing yet, items done and held, the flag read. -/
theorem witness_workLists : ∀ p ∈ ([
    (world, .wlput P (.v 10) (.v 1), fun x => x.set.head? == some 0 && x.lv 1 0 == ⟨0, false⟩ && x.ctxIsland.claimed 0 + 8 ≤ x.ctxIsland.capacity 0),
    (world, .wlput G (.v 10) (.v 1), fun x => x.set.isEmpty), (world, .wltake P (.v 2) (.v 1), fun x => x.ctxIsland.qt && x.lv 1 0 == ⟨0, false⟩),
    (working [⟨5, false⟩], .wltake P (.v 2) (.v 1), fun x => !x.ctxIsland.qt && (x.ctxIsland.items 0).length == 1),
    (working [], .wltake P (.v 2) (.v 1), fun x => !x.ctxIsland.qt && (x.ctxIsland.items 0).isEmpty),
    (working [], .wldone P false, fun x => x.set.length == 8 && x.ctxIsland.out == 8), (working [], .wldone P true, fun x => x.ctxIsland.out + 8 < 2 ^ 32),
    (world, .wlquiet P (.v 1), fun x => x.ctxIsland.qt), (working [], .wlquiet P (.v 1), fun x => !x.ctxIsland.qt)] : List Case),
    Ready p.2.1 p.1 (exOf p.2.1 p.1) ∧ p.2.2 (exOf p.2.1 p.1) = true ∧ ∃ t, exec p.2.1 p.1 = .next t :=
  meetsEach (by decide +kernel)

/-- A remote operation of the gang to its own island. -/
def rop1 (kind : RopKind) (st : RopSt) : Rop :=
  { id := 5, gang := 0, grid := none, ag := world.cur, charge := ⟨some 1, 0, some (.compute 0 0 0), 0, 0, 0, false⟩, site := 0, kind := kind,
    target := 0, route := 0, desc := 0, remote := 0, bytes := 4, sp := .scratch, localAddr := 0, wg := 0, pages := [],
    operand := [⟨1, false⟩], nt := false, ret := true, lane := 0, solo := none, batch := none, st := st, done := 0, data := [], behind := [],
    serve := none, refused := false, path := [] }

/-- World with a remote operation in flight. -/
def remote (o : Rop) : State := { world with rops := [o] }

/-- What the statement on issue assumes of lane 0. -/
def issues (req : Ex → RmtReq) (words : Ex → List LV) (x : Ex) : Bool :=
  let q := req x
  lone x && x.answers.isEmpty && (x.rmtRaised q (words x) 0).isEmpty && !x.isHole q && x.rmtIssues q &&
    q.pages.all fun p => match translate x.tlbs x.g.ctx x.g.pl q.access p with | .ok _ _ => true | _ => false

/-- RemoteOperations: each kind issued; replies there; counters, fences, and both ways of RQUIET. -/
theorem witness_remote : ∀ p ∈ ([
    (world, .put L0 .scratch false (.v 4) (.v 6) (.v 10) (.v 11), issues (fun x => ⟨.put, x.pair 0 0, x.pair 1 0, 4, some .scratch, 64, [], false, false⟩)
      fun x => [x.one 0 0, x.one 1 0, x.one 2 0, x.one 3 0]),
    (world, .putn L0 .global true (.v 4) (.v 6) (.v 10) (.v 8), issues (fun x => ⟨.putn, x.pair 0 0, x.pair 1 0, 4, some .global, x.pair 3 0, [], true, false⟩)
      fun x => [x.one 0 0, x.one 1 0, x.one 2 0, x.one 3 0]),
    (world, .get L0 .global false (.v 4) (.v 6) (.v 10) (.v 8), issues (fun x => ⟨.get, x.pair 0 0, x.pair 1 0, 4, some .global, x.pair 3 0, [], false, false⟩)
      fun x => [x.one 0 0, x.one 1 0, x.one 2 0, x.one 3 0]),
    (world, .notify L0 false (.v 4) (.v 10), issues (fun x => ⟨.notify, x.pair 0 0, 0, 0, none, 0, [x.lv 1 0], false, false⟩) fun x => [x.one 0 0, x.one 1 0]),
    (world, .ratom L0 .add false true (.v 2) (.v 4) (.v 6) (.v 10), issues (fun x => ⟨.ratom .add, x.pair 2 0, x.pair 1 0, 4, none, 0, x.regs 3 0, false, true⟩)
      fun x => [x.one 2 0, x.one 1 0]),
    (world, .rcas L0 .b32 false false .z (.v 4) (.v 6) (.v 8), issues (fun x => ⟨.rcas .b32, x.pair 1 0, x.pair 0 0, 4, none, 0, x.regs 2 0, false, false⟩)
      fun x => [x.one 1 0, x.one 0 0]),
    (remote { rop1 (.ratom .add) .answered with data := [⟨9, false⟩] }, .ratom L0 .add false true (.v 2) (.v 4) (.v 6) (.v 10), fun x => x.answers.length == 1),
    (remote { rop1 (.rcas .b32) .answered with data := [⟨9, false⟩] }, .rcas L0 .b32 false true (.v 2) (.v 4) (.v 6) (.v 8), fun x => x.answers.length == 1),
    (wCtx fun k => { k with holes := 1 }, .put L0 .scratch true (.v 4) (.v 6) (.v 10) (.v 11), fun x => lone x &&
      x.isHole (x.transferReq .put .scratch true 0) && x.lv 2 0 == ⟨4, false⟩ &&
      (x.rmtRaised (x.transferReq .put .scratch true 0) [x.one 0 0, x.one 1 0, x.one 2 0, x.one 3 0] 0).isEmpty),
    (wCtx fun k => { k with holes := 1 }, .ratom L0 .add true true (.v 2) (.v 4) (.v 6) (.v 10), fun x => lone x && x.answers.isEmpty &&
      x.isHole (x.atomicReq (.ratom .add) 1 true true 0) && (x.rmtRaised (x.atomicReq (.ratom .add) 1 true true 0) [x.one 2 0, x.one 1 0] 0).isEmpty),
    (wCtx fun k => { k with holes := 1 }, .rcas L0 .b64 true false .z (.v 4) (.v 6) (.v 8), fun x => lone x && x.answers.isEmpty &&
      x.isHole (x.atomicReq (.rcas .b64) 2 true false 0) && (x.rmtRaised (x.atomicReq (.rcas .b64) 2 true false 0) [x.one 1 0, x.one 0 0] 0).isEmpty),
    (wCtx fun k => { k with holes := 1 }, .notify L0 true (.v 4) (.v 10), fun x => lone x && x.isHole (x.postedReq true 0) &&
      (x.rmtRaised (x.postedReq true 0) [x.one 0 0, x.one 1 0] 0).isEmpty),
    (world, .nrd P (.v 2) (.v 14), fun x => x.set.all fun l => x.lv 1 l == ⟨4095, false⟩), (world, .nwait G (.v 1) (.v 4), fun x => x.set.isEmpty),
    (world, .nwait P (.v 14) (.v 4), fun x => x.lv 0 0 == ⟨4095, false⟩ && (x.pair 1 0).toNat ≤ (x.ctxIsland.counter 4095).toNat),
    (world, .nwait P (.v 1) (.v 10), fun x => (x.ctxIsland.counter 0).toNat < (x.pair 1 0).toNat && !(x.one 1 0).p),
    (world, .rfence P, plainly), (remote (rop1 .put .flying), .rquiet P false .z, fun x => !x.s.quiet x.ag.core x.g.uid),
    (world, .rquiet P false .z, fun x => x.s.quiet x.ag.core x.g.uid && x.g.failure.isNone),
    (failed, .rquiet P false .z, fun x => x.s.quiet x.ag.core x.g.uid && x.g.failure.isSome && x.g.pl != .s),
    (failed, .rquiet P true (.v 2), fun x => x.s.quiet x.ag.core x.g.uid)] : List Case),
    Ready p.2.1 p.1 (exOf p.2.1 p.1) ∧ p.2.2 (exOf p.2.1 p.1) = true ∧ ∃ t, exec p.2.1 p.1 = .next t :=
  meetsEach (by decide +kernel)

/-- A monitor of the gang on line 0 of scratch. -/
def monitored (trigger restored : Bool) : State := world.modFlow world.cur fun f => { f with mon := some ⟨.scratch, 0, trigger, restored⟩ }

/-- An arrival that the barrier named by row r waits for. -/
def arrives (j n : Nat) (x : Ex) : Bool :=
  !x.b.parted && x.lv j x.fl.lowXm == ⟨BitVec.ofNat 32 n, false⟩ && (match x.wg.barriers[n]? with
    | some z => !z.bkn && z.mbr.getLsbD x.g.gix && !z.arr.getLsbD x.g.gix
    | none => false)

/-- BarriersAndMonitors: a first and a last arrival, a wait over and not, the doublewords; a monitor set, and MWAIT each way. -/
theorem witness_barriers : ∀ p ∈ ([
    (world, .barinit P (.v 1) (.v 30), fun x => x.lv 1 x.fl.lowXm == ⟨1, false⟩ && x.wg.live == 3 && (x.wg.barrier 0).arr == 0),
    (world, .bar P false (.v 1), fun x => arrives 0 0 x && (x.wg.barrier 0).arr ||| 1 != (x.wg.barrier 0).mbr),
    (world, .bar P false (.v 30), fun x => arrives 0 1 x && (x.wg.barrier 1).arr ||| 1 == (x.wg.barrier 1).mbr && x.s.slw x.ag.core == 0 && x.fl.due.isNone),
    (world, .bara P (.v 2) (.v 1), arrives 1 0), (world, .bara P (.v 2) (.v 30), arrives 1 1),
    (world, .barw P false (.v 1) (.v 10), fun x => (x.lv 1 0).v != (x.wg.barrier 0).phase && x.fl.due.isNone && !(x.wg.barrier 0).bkn),
    (world, .barw P false (.v 1) (.v 1), fun x => (x.lv 1 0).v == (x.wg.barrier 0).phase), (world, .barrd G false false (.v 2) (.v 1), fun x => x.set.isEmpty),
    (world, .barwr G true (.v 4) (.v 1), fun x => x.set.isEmpty), (world, .barrd P true false (.v 2) .z, fun x => x.set.head? == some 0),
    (world, .barrd P false true (.v 2) (.v 1), fun x => x.lv 1 0 == ⟨0, false⟩), (world, .barrd P false false (.v 2) (.v 30), fun x => x.lv 1 0 == ⟨1, false⟩),
    (world, .barwr P true (.v 4) (.v 1), fun x => x.pair 0 0 == 0 && clean x [0, 1]),
    (world, .barwr P false (.v 4) (.v 1), fun x => x.pair 0 0 == 0 && clean x [0, 1]),
    (world, .mon G .scratch (.v 1), fun x => x.set.isEmpty),
    (world, .mon P .scratch (.v 11), fun x => passes? { x with set := [0] } ⟨some .scratch, 4, .read, .c, 0, 0⟩),
    (world, .mon P .global (.v 4), fun x => passes? { x with set := [0] } ⟨some .global, 4, .read, .c, 0, 0⟩),
    (world, .mwait P (.v 1) (.v 10), fun x => x.fl.mon.isNone && !(x.lv 1 0).p), (monitored true false, .mwait P (.v 1) (.v 10), fun x => !(x.lv 1 0).p),
    (monitored false true, .mwait P (.v 1) (.v 10), fun x => !(x.lv 1 0).p), (monitored false false, .mwait P (.v 1) (.v 1), fun x => x.lv 1 0 == ⟨0, false⟩),
    (monitored false false, .mwait P (.v 1) (.v 10), fun x => x.lv 1 0 == ⟨4, false⟩),
    (world, .clock P (.v 2), fun x => x.ag.core.site == some 0), (.reset, .clock P (.v 2), fun x => x.ag.core.site == none)] : List Case),
    Ready p.2.1 p.1 (exOf p.2.1 p.1) ∧ p.2.2 (exOf p.2.1 p.1) = true ∧ ∃ t, exec p.2.1 p.1 = .next t :=
  meetsEach (by decide +kernel)

/-- A tile operation of the gang that waits for its pass. -/
def top1 : TileOp := ⟨3, 0, 0, 0, 0, 16, ⟨some 1, 0, some (.compute 0 0 0), 0, 0, 0, false⟩, none, .accz, none, false, 3, 1⟩

/-- A tile operation of one quarter on a tile with its 8 rows, its workgroup there, no other operation waiting. -/
def onTile (x : Ex) (k : Nat) : Bool :=
  x.lv 0 0 == ⟨BitVec.ofNat 32 k, false⟩ && k < x.wg.acc && (x.core.wg? x.g.wg).isSome && x.core.tops.isEmpty && x.w == 8 &&
    (((x.s.core x.ag.core).wg x.g.wg).tile k).length == 8

/-- TilesAndCodebook: rows of A, words of B and a shape table without poison, of the lengths that its layouts name, no scale the
NaN code; words whose first poisoned one is the third. -/
theorem witness_layouts :
    let row : ARow := ⟨List.replicate 16 ⟨0x3F803F80, false⟩, ⟨0x7F7F, false⟩⟩
    let ws (n : Nat) : Lanes := List.replicate (n / 4) ⟨0x3C3C3C3C, false⟩
    let poisoned : Lanes := [⟨1, false⟩, ⟨2, false⟩, ⟨0x4001, true⟩, ⟨0x4002, true⟩]
    (row.a.length = 16 ∧ row.a.all (fun v => !v.p) = true ∧ row.c.p = false ∧
      AFmt.mxe4m3.isMx = true ∧ AFmt.bf16.isMx = false ∧
      ((List.range (16 / fmtBits AFmt.mxe4m3.elt)).all fun b => (row.c.v.extractLsb' (8 * b) 8).toNat != 255) = true) ∧
    ([BFmt.bf16, .mxe4m3, .qc].all fun bf => (ws bf.extent).length == bf.extent / 4 && (ws bf.extent).all fun v => !v.p && v.v != 0xFFFFFFFF) = true ∧
    (List.replicate 192 (⟨0, false⟩ : LV)).length = 192 ∧ BFmt.bf16.scales = 0 ∧
    poisoned[2]? = some ⟨0x4001, true⟩ ∧ ∀ n < 2, (laneAt poisoned n).p = false := by
  decide +kernel

/-- TilesAndCodebook: each instruction on tile 0 or the last tile; the codebook; a wait for the matrix engine over and not. -/
theorem witness_tiles : ∀ p ∈ ([
    (world, .mmq P false .bf16 .bf16 false (.v 15) (.v 0) (.v 11) .z, fun x => plainly x && x.core.passes.isEmpty && x.core.tops.isEmpty &&
      x.lv 0 0 == ⟨3, false⟩ && x.lv 2 0 == ⟨64, false⟩ && 64 + BFmt.bf16.extent ≤ x.limit (some .scratch)),
    (world, .accz P (.v 15), fun x => onTile x 3 && !x.g.psn), (world, .accpro P (.v 1), fun x => onTile x 0 && !x.g.psn),
    (wGang fun g => { g with psn := true }, .accpro P (.v 15), fun x => onTile x 3 && x.g.psn),
    (world, .accwr P .part (.v 15) (.v 16), fun x => onTile x 3 && clean x [1] && !x.b.parted),
    (world, .accwr P .cnt (.v 15) (.v 16), fun x => onTile x 3 && clean x [1] && !x.b.parted),
    (tainted, .accwr L0 .val (.v 1) (.v 0), fun x => onTile x 0 && (x.regs 1 0).any (·.p) && !x.b.parted),
    (world, .accrd P .part (.v 16) (.v 15), fun x => x.lv 1 0 == ⟨3, false⟩ && x.core.tops.isEmpty && !x.b.parted),
    (world, .accrd P .cnt (.v 2) (.v 1), fun x => x.lv 1 0 == ⟨0, false⟩), (world, .accrd P .fp (.v 16) (.v 1), fun x => !x.g.psn && x.set.all fun l => x.lv 1 l == ⟨0, false⟩ && l < 8),
    (world, .mxwait P, fun x => x.core.tops.isEmpty), (wCore fun c => { c with tops := [top1] }, .mxwait P, fun x => x.core.tops.any fun o => o.gang == x.g.uid),
    (world, .mxset P (.v 1), fun x => x.lv 0 0 == ⟨0, false⟩), (world, .mxset P (.v 10), fun x => x.lv 0 0 == ⟨4, false⟩),
    (world, .cbload G .scratch (.v 1) (.v 1), fun x => x.set.isEmpty), (world, .cbload P .commons (.v 1) (.v 11), fun x => clean x [0, 1] && 64 + 768 ≤ x.limit (some .commons)),
    (world, .cbload P .global (.v 4) (.v 11), fun x => clean x [0, 1] && x.g.ctx.isSome && x.set.head? == some 0 && x.pair 0 0 == 0 && x.core.l1.isEmpty &&
      (x.ag.core.site.bind x.s.island?).isSome && x.tlbs.tlb == [page0]), (world, .cbrd P (.v 2) (.v 11), fun x => x.lv 1 0 == ⟨64, false⟩)] : List Case),
    Ready p.2.1 p.1 (exOf p.2.1 p.1) ∧ p.2.2 (exOf p.2.1 p.1) = true ∧ ∃ t, exec p.2.1 p.1 = .next t :=
  meetsEach (by decide +kernel)

/-! ### Witnesses: system registers, traps, the step -/

/-- World after its gang took a trap of a cause. -/
def inHandler (c : Cause) : State := world.takeTrap (.compute 0 0 0) 0 0 c 0 0x10 0

/-- SystemRegisters: reads and writes with no lane, allowed, of no register, without access. -/
theorem witness_systemRegisters : ∀ p ∈ ([
    (world, .srd G (.v 2) (.v 1), fun x => x.set.isEmpty), (world, .swr G (.v 4) (.v 1), fun x => x.set.isEmpty),
    (world, .srd P (.v 2) (.v 1), fun x => x.lv 1 0 == ⟨0, false⟩ && x.g.pl.column (.r, .rw, .rw) == .r),
    (firm, .swr ⟨some 16, .v 30, false, false⟩ (.v 6) .lit, fun x => x.lv 1 0 == ⟨16, false⟩ && clean x [0] &&
      (sysAccess 16).any fun c => x.g.pl.column c == .rw),
    (world, .swr L0 (.v 4) (.v 1), fun x => x.lv 1 0 == ⟨0, false⟩ && ((sysAccess 0).any fun c => x.g.pl.column c == .r) && x.g.region.isNone),
    (firm, .swr L0 (.v 6) (.v 30), fun x => x.lv 1 0 == ⟨1, false⟩ && x.g.pl.column (.no, .rw, .rw) == .rw && clean x [0]),
    (world, .srd P (.v 2) (.v 11), fun x => (sysAccess (x.lv 1 0).v.toNat).isNone && x.g.region.isNone),
    (world, .swr L0 (.v 4) (.v 30), fun x => (sysAccess (x.lv 1 0).v.toNat).any (fun c => x.g.pl.column c == .no) && x.g.region.isNone)] : List Case),
    Ready p.2.1 p.1 (exOf p.2.1 p.1) ∧ p.2.2 (exOf p.2.1 p.1) = true ∧ ∃ t, exec p.2.1 p.1 = .next t :=
  meetsEach (by decide +kernel)

/-- SystemInstructions: traps, returns from an M-level gang, from a handler and from a fatal one, the others. -/
theorem witness_system : ∀ p ∈ ([
    (world, .trap P 255, plainly), (world, .brk P, plainly), (.reset, .tret P, fun x => x.g.hand == none),
    (inHandler .softwareTrap, .tret P, fun x => x.g.hand.any (fun k => k.kind == .context && !k.cause.fatal) && !x.g.body.dead),
    (inHandler .vacate, .tret P, fun x => x.g.hand.any fun k => k.kind == .context && k.cause.fatal), (world, .icinv P, plainly),
    (.reset, .wfi P, plainly), (.reset, .halt P, plainly),
    (inHandler .softwareTrap, .savedone P, fun x => x.g.cause.toNat % 256 != 0xB3)] : List Case),
    Ready p.2.1 p.1 (exOf p.2.1 p.1) ∧ p.2.2 (exOf p.2.1 p.1) = true ∧ ∃ t, exec p.2.1 p.1 = .next t :=
  meetsEach (by decide +kernel)

/-- The page at 0 serves every access below 512 MiB. -/
theorem translates (a : Access) (va : Dword) (h : va.toNat < 2 ^ 29) :
    ∃ pa cp, translate core1 (some 1) .u a va = .ok pa cp ∧ translate core1 (some 1) .s a va = .ok pa cp := by
  have e : tlbFind core1.tlb 1 va = some page0 := by
    have : pageNo true va = 0 := by simp only [pageNo, if_true]; omega
    simp [tlbFind, core1, page0, this]
  exact ⟨page0.phys va, false, by cases a <;> simp [Machine.translate, e] <;> rfl, by cases a <;> simp [Machine.translate, e] <;> rfl⟩

/-- SystemInstructions, TilesAndCodebook: SAVEDONE in the handler of a preemption with its record at 0, no transfer in flight,
every page of it there; a shape table in the global space. -/
theorem witness_savedone :
    let x := exOf (.savedone P) (inHandler .preempt)
    Ready (.savedone P) (inHandler .preempt) x ∧ x.g.cause.toNat % 256 = 0xB3 ∧ laneAt (x.b.row 0) x.fl.lowXm = ⟨0, false⟩ ∧
      laneAt (x.b.row 1) x.fl.lowXm = ⟨0, false⟩ ∧ x.g.ctx = some 1 ∧ x.core.chans = [] ∧ (inHandler .preempt).rops = [] ∧
      x.tlbs.tlb = core1.tlb ∧ x.g.pl = .s :=
  ⟨ready (by decide +kernel), by decide +kernel, by decide +kernel, by decide +kernel, by decide +kernel, by decide +kernel,
    by decide +kernel, by decide +kernel, by decide +kernel⟩

/-- TrapEntry's cases of a gang: killed at S level, halted in an M-level handler, entered, made to wait, held. -/
def trapCase (s : State) (r : CoreRef) (cause : Cause) : Bool × Bool × Bool × Bool :=
  match s.gang? r 0 with
  | none => (false, false, false, false)
  | some g =>
    let held := (cause == .breakpoint || cause == .singleStep) && s.debugged g
    let room := (s.core r).handReqs.isEmpty && (s.core r).fits g 2 && g.settled
    (g.pl == .s, g.pl == .m && g.hand != none, held, room)

/-- TrapEntry: each of its cases. -/
theorem witness_trapEntry :
    trapCase world (.compute 0 0 0) .softwareTrap = (false, false, false, true) ∧
    trapCase State.reset (.reeve 0) .softwareTrap = (false, false, false, true) ∧
    trapCase (inHandler .softwareTrap) (.compute 0 0 0) .badOperand = (true, false, false, true) ∧
    trapCase (State.reset.takeTrap (.reeve 0) 0 0 .softwareTrap 0 0 0) (.reeve 0) .badOperand = (false, true, false, true) ∧
    trapCase (wCore fun c => { c with handReqs := [3] }) (.compute 0 0 0) .badOperand = (false, false, false, false) ∧
    trapCase (world.modContext 1 fun k => { k with debugged := true }) (.compute 0 0 0) .breakpoint = (false, false, true, true) := by
  decide +kernel

/-- BeforeExecution's cases: a cause at decoding, dormancy, a queue named while parted, a poisoned guard. -/
def before (s : State) (i : Instr) : Option (Option Cause × Bool × Bool × Bool) :=
  match s.agent?, i.info with
  | some (_, g, fi), some n =>
    let fl := g.act.flow fi
    let x : Ex := ⟨s, s.cur, g, g.act, fi, fl, i, n, [], [], [], []⟩
    if i.wf then some (decodeRaised g g.act i n, fl.dormant && !i.runsDormant g.act.parted,
      g.act.parted && !(x.regOps.filterMap fun p => queueOf g.act p.1 p.2.span).isEmpty,
      g.region.isNone && (x.regOps.flatMap fun p => storageRaised g.act p.1 p.2.span).isEmpty && (readRaised g.act fl n.h.g 1).isEmpty &&
        x.lanes.any fun l => fl.xm.getLsbD l && (laneAt x.guardRow l).p) else none
  | _, _ => none

/-- BeforeExecution: each of its cases. -/
theorem witness_beforeExecution :
    before world (.mov P (.v 239) (.v 1)) = some (some .badOperand, false, false, false) ∧
    before world (.wfi P) = some (some .privileged, false, false, false) ∧
    before loopOver (.mov P (.v 1) (.v 2)) = some (none, true, false, false) ∧
    before (parted.modGang (.reeve 0) 0 fun g => g.modAct fun b => b.modFrame fun f => { f with qd0 := some ⟨8, 2, 2, [1, 0]⟩ })
      (.mov P (.v 1) (.v 8)) = some (none, false, true, false) ∧
    before tainted (.mov ⟨none, .v 3, false, false⟩ (.v 1) (.v 2)) = some (none, false, false, true) :=
  ⟨by decide +kernel, by decide +kernel, by decide +kernel, by decide +kernel, by decide +kernel⟩

/-- StepRuns: an instruction stored where the first step fetches is fetched and decoded, in installed memory. -/
theorem witness_stepRuns :
    let s := State.reset.withFetchWord 32 0x03020900
    (match s.agent? with
      | some (c, g, fi) => s.agenda == [] && g.nextPending.isNone && g.act.missing.isEmpty && !c.breaks g (g.act.flow fi) &&
          g.ctx.isNone && c.icache.isEmpty && (g.act.flow fi).pc == 0 && s.installed s.cur.core 0 4 &&
          (match s.fetch s.cur g fi 0 with
            | .ok (ws, _) => (match decodeWords ws with | .ok i => i == .iaddS32ShortA (.v 9) (.v 2) (.v 3) | .error _ => false)
            | .error _ => false)
      | none => false) = true := by
  decide +kernel

/-- A step runs it: the PC moves on, and the next core has its turn. -/
theorem test_step : (match step (State.reset.withFetchWord 32 0x03020900) with
    | .next t => ((t.gang? (.reeve 0) 0).map fun g => (g.act.flow 0).pc) == some 4 && t.cur == ⟨.reeve 1, 0, 0⟩
    | _ => false) = true := by
  decide +kernel

/-- MemoriesCanonical: reset's memories are canonical, and it steps. -/
theorem witness_canonical : (∀ m ∈ State.reset.memories, m.wf = true) ∧ ∃ t, step State.reset = .next t := by
  refine ⟨by decide, ?_⟩
  cases h : step State.reset with
  | next t => exact ⟨t, rfl⟩
  | fault f => exact absurd (show (match step State.reset with | .next _ => true | _ => false) = true by decide +kernel) (by rw [h]; exact Bool.noConfusion)
  | refused r => exact absurd (show (match step State.reset with | .next _ => true | _ => false) = true by decide +kernel) (by rw [h]; exact Bool.noConfusion)

/-! ### Witnesses: steps of other agents -/

/-- A case of a statement about a step: the state, the step, the condition. -/
abbrev EvCase := State × Instr × Bool

/-- What `all` of the cases says: the condition holds and the step happens. -/
theorem happens {l : List EvCase}
    (h : (l.all fun p => p.2.2 && (match exec p.2.1 p.1 with | .next _ => true | _ => false)) = true) :
    ∀ p ∈ l, p.2.2 = true ∧ ∃ t, exec p.2.1 p.1 = .next t := by
  intro p hp
  have e := List.all_eq_true.mp h p hp
  simp only [Bool.and_eq_true] at e
  refine ⟨e.1, ?_⟩
  cases ho : exec p.2.1 p.1 with
  | next t => exact ⟨t, rfl⟩
  | fault f => rw [ho] at e; exact absurd e.2 Bool.noConfusion
  | refused r => rw [ho] at e; exact absurd e.2 Bool.noConfusion

/-- The agent of world, and its core. -/
def A : AgentRef := ⟨.compute 0 0 0, 0, 0⟩
def C0 : CoreRef := .compute 0 0 0

/-- No error to come, canonical memories, no dirty data in the caches of the core. -/
def quietly (s : State) : Bool := s.phys.isEmpty && (s.memories.all fun m => m.wf) && (s.core C0).l1.isEmpty && (isle.queue 0).isEmpty

/-- A state whose agent does something else than issue. -/
def doing (s : State) (r : Run) : State := s.modFlow s.cur fun f => { f with run := r }

/-- The premise of WaitsEnd: executed again, the instruction does not wait as before. -/
def over' (s : State) (w : Wait) (i : Instr) : EvCase × (Instr → EvCase) :=
  let t := doing s (.wait w i)
  let ok := match exec i s with
    | .next u => (u.flow? s.cur).map (fun f => f.run) != some (.wait w i) && (t.flow? s.cur).map (fun f => f.run) == some (.wait w i)
    | _ => false
  ((t, i, ok), fun e => (t, e, ok))

/-- WaitsEnd: each wait, over. -/
theorem witness_waitsEnd : ∀ p ∈ ([
    (over' (batches 1) .bwait (.bwait P (.v 1))).2 (.bwaitWake A), (over' world .cpwait (.cpwait P (.v 13) (.v 1))).2 (.cpwaitWake A),
    (over' world .nwait (.nwait P (.v 14) (.v 4))).2 (.nwaitWake A), (over' world .wltake (.wltake P (.v 2) (.v 1))).2 (.wltakeWake A),
    (over' world .mxwait (.mxwait P)).2 (.mxwaitWake A), (over' world .accrd (.accrd P .part (.v 16) (.v 15))).2 (.accrdWake A),
    (over' world .rquiet (.rquiet P false .z)).2 (.rquietWake A),
    (over' world (.barw 0 4) (.barw P false (.v 1) (.v 10))).2 (.barrierWaitEnd A),
    (over' (wCore fun c => { c with copyWaits := [(0, A)] }) .copyEntry (.cpy L0 .scratch .commons 0 (.v 1) (.v 1) (.v 10))).2 (.copyEntryGrant C0 0),
    (over' (wCore fun c => { c with remoteWaits := [A] }) .remoteSlot (.put L0 .scratch false (.v 4) (.v 6) (.v 10) (.v 11))).2 (.remoteSlotGrant C0),
    (doing world (.wait (.bar 2 0 false) (.bar P false (.v 1))), .barrierWaitEnd A, isReady (.bar P false (.v 1)) world &&
      !(wg1.barrier 2).bkn && (wg1.barrier 2).phase != 0)] : List EvCase), p.2.2 = true ∧ ∃ t, exec p.2.1 p.1 = .next t :=
  happens (by decide +kernel)

/-- An agent that waits on an instruction which is ready once it issues again and meets a condition, and the step that ends the wait. -/
def wakes (s : State) (w : Wait) (i e : Instr) (p : Ex → Bool) : EvCase :=
  let t := doing s (.wait w i)
  let again : State := { (t.modGang C0 0 fun g => { g with trapReq := none }).modFlow A fun f => { f with run := .ready } with cur := A }
  (t, e, isReady i again && p (exOf i again) && (t.gang? C0 0).any fun g => g.trapReq.isNone && g.act.missing.isEmpty)

/-- WaitsEnd, second part: each state in which a wait ends. -/
theorem witness_wakes : ∀ p ∈ ([
    wakes (batches 1) .bwait (.bwait P (.v 1)) (.bwaitWake A) (fun x => plainly x && x.g.failure.isNone && x.g.nextBatch == 1 &&
      !x.s.batchBusy x.ag.core x.g.uid 0),
    wakes world .cpwait (.cpwait P (.v 13) (.v 1)) (.cpwaitWake A) (fun x => !(x.wg.chanW.getD 7 0 - (x.lv 1 0).v).msb && x.lv 0 0 == ⟨7, false⟩),
    wakes world .nwait (.nwait P (.v 14) (.v 4)) (.nwaitWake A) (fun x => (x.pair 1 0).toNat ≤ (x.ctxIsland.counter 4095).toNat),
    wakes world .wltake (.wltake P (.v 2) (.v 1)) (.wltakeWake A) (fun x => x.ctxIsland.qt && x.ctxIsland.takers.isEmpty),
    wakes world .mxwait (.mxwait P) (.mxwaitWake A) (fun x => x.core.tops.isEmpty),
    wakes world .accrd (.accrd P .part (.v 16) (.v 15)) (.accrdWake A) (fun x => x.core.tops.isEmpty && x.lv 1 0 == ⟨3, false⟩ && 3 < x.wg.acc),
    wakes world .rquiet (.rquiet P false .z) (.rquietWake A) (fun x => x.s.quiet x.ag.core x.g.uid && x.g.failure.isNone),
    wakes world (.barw 0 4) (.barw P false (.v 1) (.v 10)) (.barrierWaitEnd A) (fun x => !(x.wg.barrier 0).bkn && (x.lv 1 0).v != (x.wg.barrier 0).phase &&
      x.fl.due.isNone),
    wakes world (.bar 2 0 false) (.bar P false (.v 1)) (.barrierWaitEnd A) (fun x => !(x.wg.barrier 2).bkn && (x.wg.barrier 2).phase != 0 && x.fl.due.isNone),
    wakes (wCore fun c => { c with copyWaits := [(0, A)] }) .copyEntry (.cpy L0 .scratch .commons 0 (.v 1) (.v 1) (.v 10)) (.copyEntryGrant C0 0)
      (fun x => copies false .scratch .commons x && (x.core.chan 0).isEmpty),
    wakes (wCore fun c => { c with remoteWaits := [A] }) .remoteSlot (.put L0 .scratch false (.v 4) (.v 6) (.v 10) (.v 11)) (.remoteSlotGrant C0)
      (fun x => issues (fun x => x.transferReq .put .scratch false 0) (fun x => [x.one 0 0, x.one 1 0, x.one 2 0, x.one 3 0]) x),
    wakes (wCore fun c => { c with remoteWaits := [A] }) .remoteSlot (.notify L0 false (.v 4) (.v 10)) (.remoteSlotGrant C0)
      (fun x => issues (fun x => x.postedReq false 0) (fun x => [x.one 0 0, x.one 1 0]) x),
    wakes (wCore fun c => { c with remoteWaits := [A] }) .remoteSlot (.ratom L0 .add false true (.v 2) (.v 4) (.v 6) (.v 10)) (.remoteSlotGrant C0)
      (fun x => issues (fun x => x.atomicReq (.ratom .add) 1 false true 0) (fun x => [x.one 2 0, x.one 1 0]) x)] : List EvCase),
    p.2.2 = true ∧ ∃ t, exec p.2.1 p.1 = .next t :=
  happens (by decide +kernel)

/-- A trap that waits for its handler frame, the only request. -/
def requested (s : State) (k : HandlerKind) : State :=
  (s.modGang s.cur.core 0 fun g => { g with trapReq := some ⟨k, .badOperand, 3, 0x10, 7, 0, false⟩ }).modCore s.cur.core fun c => { c with handReqs := [0] }

/-- The premise of HandlerAndFrameSteps on requests. -/
def granted (s : State) : Bool :=
  match s.gang? s.cur.core 0 with
  | some g => (s.core s.cur.core).handReqs == [0] && (s.core s.cur.core).fits g 2 && g.settled && !g.mwaitHeld && !(s.core s.cur.core).halted && g.trapReq.isSome
  | none => false

/-- A gang that waits for granules, alone in the queue since cycle 0, on a core that has reached a cycle. -/
def framing (need cycle : Nat) (call : Option Instr) : State :=
  (doing world (.frameWait need call)).modCore C0 fun c => { c with waiters := [(0, 0, 0)], cycle := cycle }

/-- A call that needs 250 granules of a pool that has 248 free, its gang with two frames of four. -/
def crowded : State := (framing 250 16384 (some (.call P 30 .z 8))).modGang C0 0 fun g =>
  { g with body := { g.body with grans := List.replicate 8 (zeroGranule 8), frames := [⟨0, 0, 4, 0, false, 0, 0, 31, 4, none, none⟩, .launch 4] } }

/-- The gang with its granule 1 in the Cellar. -/
def refilling : State := (framing 1 9 none).modGang C0 0 fun g =>
  { g with body := { g.body with grans := modNth (fun x => { x with resident := false }) g.body.grans 1 } }

/-- The same crowd on a reeve's core. -/
def spilling : State := ((doing .reset (.frameWait 250 (some (.call P 30 .z 8)))).modCore (.reeve 0) fun c =>
  { c with waiters := [(0, 0, 0)], cycle := 16384 }).modGang (.reeve 0) 0 fun g =>
  { g with body := { g.body with grans := List.replicate 8 (zeroGranule 8), frames := [⟨0, 0, 4, 0, false, 0, 0, 31, 4, none, none⟩, .launch 4] } }

/-- HandlerAndFrameSteps: what is written to memory moves no image of a reeve's gangs. -/
theorem witness_images (m : Mem) (p : Nat × Nat) :
    (spilling.withIslandMem (.reeve 0) m).imageWords (.reeve 0) .write p = spilling.imageWords (.reeve 0) .write p := rfl

/-- HandlerAndFrameSteps: a request granted, a pending cause taken, a delay over, a refill and a call with their granules,
the Cellar's timeout and its spill. -/
theorem witness_handlers : ∀ p ∈ ([
    (requested world .context, .handlerFrameGrant C0, granted (requested world .context)),
    (requested world .context, .trapEntry A, granted (requested world .context)),
    (requested firm .machine, .machineTrapEntry firm.cur, granted (requested firm .machine)),
    (wGang fun g => { g with pend := [⟨.preempt, 5⟩] }, .pendingCauseTaken A, ({ gang1 with pend := [⟨.preempt, 5⟩] } : Gang).nextPending.isSome &&
      world.free? A && !((world.flow? A).any fun f => f.unsettled)),
    (world.modFlow A fun f => { f with due := some 0 }, .sluiceReleaseDelay A, true),
    (wGang fun g => { g with pend := [⟨.preempt, 5⟩] }, .pendingCauseTaken A, gang1.pl == .u && (gang1.act.flows.all fun f => f.inMwait.isNone) &&
      gang1.trapReq.isNone && gang1.reissue.isNone && !world.debugged gang1),
    (refilling, .frameWait C0, match refilling.gang? C0 0 with
      | some g => g.act.missing == [1] && g.body.missing == [1] && g.owed.isEmpty && g.hand.isNone && quietly refilling && refilling.free? A &&
          (refilling.core C0).fits g (g.needOf 0) && !(refilling.imageWords C0 .read (0, 1)).contains none
      | none => false),
    (spilling, .cellarSpill (.reeve 0), match (spilling.core (.reeve 0)).needy, spilling.gang? (.reeve 0) 0 with
      | some y, some w =>
        let c := spilling.core (.reeve 0)
        let picks := c.spills w y.need (c.victims y)
        let words := picks.flatMap (spilling.imageWords (.reeve 0) .write)
        y.slot == 0 && !y.handler && c.gangs.length == 1 && c.gangs.all (fun k => k.body.frames.length ≤ 255) && picks == [(0, 0), (0, 1)] && !words.contains none && words == words.eraseDups &&
          spilling.phys.isEmpty && (spilling.memories.all fun m => m.wf) && c.l1.isEmpty
      | _, _ => false),
    (framing 0 9 none, .frameWait C0, (gang1.act.missing == []) && (framing 0 9 none).free? A && core1.fits gang1 0),
    (framing 4 9 (some (.call P 4 .z 8)), .frameWait C0, (match exec (.call P 4 .z 8) world with | .next _ => true | _ => false) && core1.fits gang1 4),
    (crowded, .cellarTimeout C0, (crowded.cellarAct C0).isSome && (crowded.core C0).waiters == [(0, 0, 0)]),
    (crowded, .cellarSpill C0, (crowded.cellarAct C0).isSome && ((crowded.core C0).needy.any fun y => !y.handler) &&
      (crowded.core C0).gangs.length == 1)] : List EvCase), p.2.2 = true ∧ ∃ t, exec p.2.1 p.1 = .next t :=
  happens (by decide +kernel)

/-- A parked access. -/
def parks (va : Dword) (fault : Option Cause) : State := doing world (.parked ⟨va, .read, 0, fault⟩)

/-- AgentSteps: a walk that finds its leaf and one that finds none, service and refusal, the ends of MWAIT, replay, a state
error, ageing at its bound, the debugger. -/
theorem witness_agents : ∀ p ∈ ([
    (parks 0x1FFFFFFF none, .tlbWalkDone A, (isle.seek C0 K1 0x1FFFFFFF).isSome),
    (parks 0x20000000 none, .tlbWalkDone A, (isle.seek C0 K1 0x20000000).isNone),
    (doing world (.parked ⟨0x20000000, .control, 0, none⟩), .tlbWalkDone A, (isle.seek C0 K1 0x20000000).isNone),
    (parks 0 (some .pageRead), .pageFaultServiced (.agent A) [(131072, 0)], 131072 % 8 == 0 && 131072 + 8 ≤ isle.bytes && world.heldPages 0 == []),
    (parks 0 (some .pageRead), .pageFaultRefused (.agent A), true),
    (remote { rop1 .put .flying with serve := some .pageRead }, .pageFaultServiced (.op 5) [(131072, 0)], (remote (rop1 .put .flying)).heldPages 0 == []),
    (remote { rop1 .put .flying with serve := some .pageRead }, .pageFaultRefused (.op 5), true),
    (doing (monitored false false) (.wait (.mwait none) (.mwait P (.v 1) (.v 1))), .mwaitTimeout A, world.free? A),
    (doing (monitored true false) (.wait (.mwait none) (.mwait P (.v 1) (.v 1))), .mwaitWake A, world.free? A),
    (doing (wGang fun g => { g with region := some ⟨4, 0, 1, 0xFF, [], none, none, [], 0⟩ }) .replay, .regionReplay A, core1.tops == []),
    (world, .mcStateUe A, true), (world.modFlow A fun f => { f with readyFor := Config.agedCycles }, .agedPromotion A, true),
    (wGang fun g => { g with dbgHeld := some 0 }, .debugResume A, gang1.act.flows.length == 1)] : List EvCase),
    p.2.2 = true ∧ ∃ t, exec p.2.1 p.1 = .next t :=
  happens (by decide +kernel)

/-- A grid of one workgroup of context 1. -/
def grid1 : Grid :=
  ⟨7, 1, 0, 0, 0, 1, ⟨8, 1, 4, 16, false, 0, 0, 0, 0, 0, 0x400⟩, .empty, 3, 3, 0xFFFF, some 9, [(4, 0)], false, none, 1, false, false, false, 0, 0⟩

/-- World with the island changed. -/
def wIsle (f : Island → Island) : State := world.modIsland 0 f

/-- A grid past its watchdog. -/
def late : State := wIsle fun x => { x with
  clock := 0x100001
  grids := [{ grid1 with released := some 0 }]
  ctxs := [{ K1 with watchdog := 1 }] }

/-- ContainmentSteps: each of them. -/
theorem witness_containment : ∀ p ∈ ([
    (world, .debuggerCoreStop C0, !core1.stopped), (wCore fun c => { c with stopped := true }, .debugResume ⟨C0, 5, 0⟩, (world.gang? C0 5).isNone),
    (world, .wfiEvent C0, true), (firm.modCore (.steward 0) fun c => { c with halted := true }, .coreReset (.steward 0), true),
    (world, .contextKill 1, (world.context? 1).any fun k => !k.killed), (world, .headerUe ⟨1535, none⟩, world.rops == []), (world, .headerUe ⟨1, some (0, 1)⟩, true),
    (late, .watchdog 0 7, true)] : List EvCase), p.2.2 = true ∧ ∃ t, exec p.2.1 p.1 = .next t :=
  happens (by decide +kernel)

/-- The matrix array with an MMQ of the gang whose pass stands so. -/
def passing (p : PassState) (cycle : Nat) (b : Option (Lanes × Lanes)) : State := wCore fun c => { c with
  tops := [{ top1 with act := .mmq .bf16 .bf16 false 0 [], b := b }]
  passes := [⟨[3], p⟩]
  cycle := cycle }

/-- A pass whose end lets its MMQ and the ACCZ that waits for it take effect; another gang's ACCZ waits for its own MMQ. -/
def twoTops : State := (passing (.running 0) Config.passCycles (some ([], []))).modCore C0 fun c => { c with
  tops := c.tops ++ [{ top1 with id := 4 }, { top1 with id := 5, gang := 9, act := .mmq .bf16 .bf16 false 0 [] }, { top1 with id := 6, gang := 9 }] }

/-- MemoryAndMatrixSteps: every tile there has its 8 rows. -/
theorem witness_tileRows (w n : Nat) : (((twoTops.core C0).wg w).tile n).length = 8 := by
  have e : ∀ v : Wg, v.tiles = [] → (v.tile n).length = 8 := fun v h => by
    rw [Wg.tile, h]; rfl
  refine e _ ?_
  rw [Core.wg]
  cases h : (twoTops.core C0).wg? w with
  | none => rfl
  | some v => exact (by decide +kernel : ∀ v ∈ (twoTops.core C0).wgs, v.tiles = []) v (List.mem_of_find?_eq_some h)

/-- MemoryAndMatrixSteps: each level's step, the scrub, the end of a translation, a copy's word, a run's arrival, the carve;
a pass at the bounds of its clocks. -/
theorem witness_memorySteps : ∀ p ∈ ([
    (wCore fun c => { c with l1 := [⟨5, List.replicate 8 ⟨⟨1, false⟩, 15, true⟩⟩] }, .l1WriteOnward C0 5, true),
    (wIsle fun x => { x with l2 := [(1, [wholeWrite 9 ⟨1, false⟩])] }, .l2WriteToL3 0 1, true), (world, .scrubUe 0 0x100, isle.l2 == []),
    (world, .tlbInvalidate 0 1 0, core1.chans == [] && world.rops == []),
    (copying 1, .copyPerform C0 0, !((copying 1).core C0).holdsCopy copy1 (copy1.wordAddr 0).2),
    (wCtx fun k => { k with puts := [⟨0, [⟨5, false⟩]⟩] }, .wlputAppend 0 1 0, true),
    (wCore fun c => { c with carveWant := some 3, wgs := [] }, .carveChange C0, true),
    (passing (.gathering 0) Config.passGather none, .matrixPassClose C0, true),
    (passing .closed 40 none, .matrixPassStart C0, (passing .closed 40 none).sluiceOpen C0 && quietly (passing .closed 40 none) &&
      ((passing .closed 40 none).core C0).tops.any fun o => [3].contains o.id && o.unread),
    (twoTops, .matrixPassEnd C0, twoTops.phys.isEmpty && (twoTops.core C0).passes.length == 1),
    (passing (.running 0) Config.passCycles (some ([], [])), .matrixPassEnd C0, true)] : List EvCase),
    p.2.2 = true ∧ ∃ t, exec p.2.1 p.1 = .next t :=
  happens (by decide +kernel)

/-- A remote operation in flight and whether it can be performed at its target. -/
def there (o : Rop) : Bool := (remote o).reaches o && (remote o).carries ((remote o).wayTo o.path) &&
  match (remote o).nextTr o with
  | .ok _ _ => true
  | _ => false

/-- An operation on an address that the target does not map. -/
def lostAt (kind : RopKind) : Rop := { rop1 kind .flying with remote := 0x20000000 }

/-- Whether it finds a fault there. -/
def faults (o : Rop) : Bool := (remote o).reaches o && (remote o).carries ((remote o).wayTo o.path) &&
  match (remote o).nextTr o with
  | .denied _ => true
  | _ => false

/-- A context with a group of two members. -/
def voting (mem : BitVec 48) : State := (wCtx fun k => { k with ballots := [2] }).modContext 1 (fun k => { k with groups := [⟨2, mem, 0, 0, 0, 0, 0⟩] }) |>.modPlot 1 fun p => { p with st := .serving }

/-- RemoteSteps: words that arrive, the last and not; counters; data and replies that return; a lost site; votes. -/
theorem witness_remoteSteps : ∀ p ∈ ([
    (remote (rop1 .put .flying), .remoteWriteArrival 5, there (rop1 .put .flying)),
    (remote { rop1 .put .flying with bytes := 8 }, .remoteWriteArrival 5, there { rop1 .put .flying with bytes := 8 }),
    (remote (rop1 .putn .flying), .remoteWriteArrival 5, there (rop1 .putn .flying)),
    (remote (rop1 .putn .incrementing), .putnIncrement 5, !(remote (rop1 .putn .incrementing)).ropLost (rop1 .putn .incrementing)),
    (remote (rop1 .get .flying), .getTargetRead 5, there (rop1 .get .flying)),
    (remote (lostAt .put), .remoteWriteArrival 5, faults (lostAt .put)), (remote (lostAt .get), .getTargetRead 5, faults (lostAt .get)),
    (remote (lostAt (.ratom .add)), .remoteAtomicAtTarget 5, faults (lostAt (.ratom .add)) && (remote (lostAt (.ratom .add))).laneFirst (lostAt (.ratom .add))),
    (remote { rop1 .put .flying with refused := true }, .remoteOpFail 5,
      (remote { rop1 .put .flying with refused := true }).arrived { rop1 .put .flying with refused := true }),
    (remote { rop1 .get .returning with data := [⟨3, false⟩] }, .getDataArrival 5,
      !(remote (rop1 .get .returning)).holdsGet (rop1 .get .returning) && world.carries (wayBack []) &&
        !(remote (rop1 .get .returning)).ropLost (rop1 .get .returning)),
    (remote (rop1 (.ratom .add) .flying), .remoteAtomicAtTarget 5, there (rop1 (.ratom .add) .flying) &&
      (remote (rop1 (.ratom .add) .flying)).laneFirst (rop1 (.ratom .add) .flying)),
    (remote { rop1 (.ratom .add) .returning with gang := 77 }, .remoteReplyArrival 5, !(core1.gangs.any fun g => g.uid == 77)),
    (remote (rop1 .notify .flying), .notifyIncrement 5, (remote (rop1 .notify .flying)).reaches (rop1 .notify .flying) &&
      (((remote (rop1 .notify .flying)).ctxAt? 0 1).map fun k => k.counter 0) == some 0),
    ({ remote (rop1 .put .flying) with plots := [] }, .remoteOpFail 5,
      (({ remote (rop1 .put .flying) with plots := [] } : State).ropFault (rop1 .put .flying)).isSome),
    (voting 3, .voteCount 0 1 2, ((voting 3).group? 1 2).any fun g => g.mem.getLsbD 0 && !(voting 3).allVoted { g with votes := g.votes ||| 1 }),
    (voting 2, .voteCount 0 1 2, ((voting 2).group? 1 2).any fun g => !g.mem.getLsbD 0)] : List EvCase),
    p.2.2 = true ∧ ∃ t, exec p.2.1 p.1 = .next t :=
  happens (by decide +kernel)

/-- A packet at 0x30000 that launches one workgroup of the descriptor at 0x30200, by the fields of R62 and R307. -/
def packetMem : Mem :=
  [(0x30000, 0x101), (0x30004, 1), (0x30008, 0x30200), (0x30018, 1), (0x30020, 0x10003), (0x30200, 0x400), (0x30208, 0x0F040101),
    (0x30218, 0x100), (0x3021C, 4)].foldl (fun m p => m.write (wholeWrite (p.1 / 4) ⟨p.2, false⟩)) tables

/-- Queue 0 of context 1 with that ring, and with the ring at the zeros after it. -/
def queueAt (base : Dword) (f : LaunchQueue → LaunchQueue) : State :=
  (wIsle fun x => { x with mem := packetMem }).modContext 1 fun k => { k with queues := [f ⟨base, 0, 0, 1, 0, 0⟩] }

/-- The same with the island having received this index last, and with some words changed. -/
def seenAlready : State := (queueAt 0x30000 id).modIsland 0 fun x => { x with seen := [(1, 0, 0)] }
def refused (l : List (Nat × Word)) : State := (queueAt 0x30000 id).modIsland 0 fun x =>
  { x with mem := l.foldl (fun m p => m.write (wholeWrite (p.1 / 4) ⟨p.2, false⟩)) x.mem }

/-- What LaunchSteps assumes of a packet that is taken. -/
def packet (s : State) (code : BitVec 8) : Bool :=
  match s.context? 1, s.queue? 1 0, s.homeOf 1 with
  | some k, some q, some x => q.qerr == 0 && q.qrd != q.qwr && !k.killed && !q.broken && (s.reeves.any fun r => r.presiding && !r.failed) &&
      (match x.readVa 1 q.qbase 32 with | some p => s.packetCode 1 p == code | none => false)
  | _, _, _ => false

/-- Grid 7 on the island, its workgroups dealt or not. -/
def gridded (g : Grid) : State := wIsle fun x => { x with grids := [g] }

/-- LaunchSteps: doorbells, restarts, packets routed, refused and of a broken queue; a release and a completion. -/
theorem witness_launch : ∀ p ∈ ([
    (queueAt 0x30000 id, .launchQueueDoorbell 1 0 16, world.runs 1), (queueAt 0x30000 id, .launchQueueDoorbell 1 0 17, world.runs 1),
    (queueAt 0x30000 id, .queueRestart 1 0, true), (queueAt 0x30000 fun q => { q with qerr := 3 }, .queueRestart 1 0, true),
    (queueAt 0x30000 id, .launchPacket 1 0, packet (queueAt 0x30000 id) 0), (queueAt 0x40000 id, .launchPacket 1 0, packet (queueAt 0x40000 id) 1),
    (seenAlready, .launchPacket 1 0, packet seenAlready 0), (refused ([(0x30020, 0x10000)]), .launchPacket 1 0, packet (refused [(0x30020, 0x10000)]) 4),
    (refused [(0x30008, 0x30240)], .launchPacket 1 0, packet (refused [(0x30008, 0x30240)]) 2),
    (refused [(0x30018, 2)], .launchPacket 1 0, packet (refused [(0x30018, 2)]) 3),
    (refused [(0x30210, 16)], .launchPacket 1 0, packet (refused [(0x30210, 16)]) 5),
    (refused [(0x30208, 0xFF1E2003)], .launchPacket 1 0, packet (refused [(0x30208, 0xFF1E2003)]) 6),
    (queueAt 0x30000 fun q => { q with qwr := 17 }, .launchPacket 1 0, ((queueAt 0x30000 fun q => { q with qwr := 17 }).queue? 1 0).any fun q => q.broken),
    (gridded { grid1 with deps := [(4, 0)] }, .gridRelease 0 7, isle.depsHold grid1 && isle.eligible grid1 == [0, 1]),
    (gridded { grid1 with released := some 0, remaining := 0 }, .gridComplete 0 7, !(gridded grid1).gridBusy 0 7)] : List EvCase),
    p.2.2 = true ∧ ∃ t, exec p.2.1 p.1 = .next t :=
  happens (by decide +kernel)

/-- Grid 7 of four workgroups dealt to cluster 0, none to cluster 1, with points reported. -/
def dealt : State := wIsle fun x => { x with
  grids := [{ grid1 with count := 4, remaining := 4, brt := 0xFFFF, released := some 0, pcls := 0, cmpl := none }]
  cqueues := [⟨0, 7, (upTo 4).map fun n => ⟨n, none⟩, 0, false⟩, ⟨1, 7, [], 1, false⟩]
  oppoints := [⟨0, 0, 0, some 0⟩] }

/-- AdmissionSteps: a head taken by the first core of its cluster, a barter, an
operating point at its bounds, a core vacated and open again. -/
theorem witness_admission : ∀ p ∈ ([
    (dealt, .workgroupAdmit C0 7, (match dealt.island? 0, (dealt.island? 0).bind fun x => x.grid? 7 with
      | some x, some g => x.head 0 7 == some ⟨0, none⟩ && dealt.admits C0 g ⟨0, none⟩ && dealt.stableFor x g &&
          dealt.turnOf x 0 0 0 g ⟨0, none⟩
      | _, _ => false)),
    (dealt, .operatingPointStable 0 0 0 0, ((dealt.island? 0).bind fun x => dealt.hint x 0 0) == some 0), (dealt, .barterRequest 0 1 7, dealt.admits (.compute 0 0 8) grid1 ⟨0, none⟩),
    ({ dealt with cores := [{ core1 with wgs := [{ wg1 with grid := some 7 }] }] }, .vacateRequest 0 1 7,
      ((coresOf 0).filter (({ dealt with cores := [{ core1 with wgs := [{ wg1 with grid := some 7 }] }] } : State).mayVacate
        ((dealt.island? 0).getD isle) 0)).take 1 == [C0]),
    (wCore fun c => { c with vacated := true, frozen := true, gangs := [], wgs := [] }, .coreVacated C0, true)] : List EvCase),
    p.2.2 = true ∧ ∃ t, exec p.2.1 p.1 = .next t :=
  happens (by decide +kernel)

/-- A control record at 0x40000 of a joined gang with one frame of four granules (R359). -/
def recordMem : Mem :=
  [(0x40008, 0x01000010), (0x4000C, 0xFF), (0x40010, 1), (0x41010, 0x3E4)].foldl (fun m p => m.write (wholeWrite (p.1 / 4) ⟨p.2, false⟩)) tables

/-- A gang that has not made its restore entry, with its control record or zeros. -/
def restoring (m : Mem) (f : Body → Body) : State :=
  (world.modIsland 0 fun x => { x with mem := m }).modGang C0 0 fun g => { g with restore := some 0x40000, body := f g.body }

/-- RestoreSteps: a wrong record, a right one, the entry with its granules free; the TRET of a workgroup of one gang. -/
theorem witness_restore : ∀ p ∈ ([
    (restoring tables fun b => { b with frames := [], grans := [] }, .restoreEntry A,
      ((restoring tables fun b => { b with frames := [], grans := [] }).acquire C0 .i).recordWrong C0 gang1 0x40000),
    (restoring recordMem fun b => { b with frames := [], grans := [] }, .restoreEntry A,
      !((restoring recordMem fun b => { b with frames := [], grans := [] }).acquire C0 .i).recordWrong C0 gang1 0x40000 &&
        ((restoring recordMem id).areaBad C0 gang1 0x40000).isNone),
    ((restoring recordMem fun b => { b with grans := b.grans.map fun g => { g with resident := false } }).modCore C0 fun c =>
      { c with waiters := [(0, 0, 0)] }, .restoreEntry A, core1.handReqs == []),
    (wGang fun g => { g with hand := some ⟨.restore, .preempt, 0, { Body.start 8 2 0 with
      flows := [{ Flow.start 8 0 with run := .wait .restoreTret (.tret P) }] }, false⟩, pl := .s }, .restoreTretRelease C0 0, !gang1.body.dead)] : List EvCase),
    p.2.2 = true ∧ ∃ t, exec p.2.1 p.1 = .next t :=
  happens (by decide +kernel)

/-- World with plot 0 in a state. -/
def plotted (st : PlotSt) : State := world.modPlot 0 fun p => { p with st := st }

/-- The reset sequence of plot 0 after a step, its plot changed. -/
def resetting (n : Nat) (f : Plot → Plot) : State := ((plotted .powered).modIsland 0 fun x => { x with resetStep := n }).modPlot 0 f

/-- Whether the next digest is the one that the operator has approved. -/
def approves (s : State) (k : Nat) : Bool :=
  (s.plot 0).approved.head? == isle.digests.head? && (s.plot 0).approved[k]? == some ((s.plot 0).digests.getD k 0)

/-- PlotSteps: each event in a state that lists it and in one that does not; the reset sequence's first and last step;
training with no neighbour and with one; admission; loss. -/
theorem witness_plots : ∀ p ∈ ([
    (plotted .powered, .measurementRefused 0, true), (plotted .vacant, .measurementRefused 0, true), (plotted .measured, .trainingFailed 0, true),
    (plotted .lost, .trainingFailed 0, true), (plotted .trained, .plotAdmit 0, true), (plotted .admitted, .plotAdmit 0, true),
    (plotted .released, .serviceRequest 0, true), (plotted .serving, .serviceRequest 0, true), (plotted .serving, .heartbeatMiss 0, true),
    (plotted .fenced, .heartbeatMiss 0, true), (plotted .draining, .fatalIslandError 0, true), (plotted .lost, .fatalIslandError 0, true),
    ({ plotted .seated with islands := [] }, .powerGood 0, true), (plotted .powered, .powerGood 0, true), (plotted .powered, .presenceLost 0, true),
    (plotted .fenced, .presenceLost 0, true), (plotted .lost, .presenceLost 0, true), (plotted .vacant, .presenceDetected 0 ⟨.compute, 5, [9]⟩, true),
    (plotted .vacant, .presenceDetected 0 ⟨.granary, 5, [9]⟩, true), (plotted .lost, .presenceDetected 0 ⟨.granary, 5, [9]⟩, true),
    (plotted .serving, .drainRequest 0, K1.binding == .bound),
    ((plotted .serving).modCtxAt 0 1 fun k => { k with binding := .unbound }, .drainRequest 0, true), (plotted .lost, .drainRequest 0, true),
    (plotted .admitted, .firstBind 0 1, (plotted .admitted).bound 1 0), (resetting 1 id, .resetStepRelease 0, approves (resetting 1 id) 1),
    (resetting 1 fun p => { p with approved := [9, 9] }, .resetStepRelease 0, !approves (resetting 1 fun p => { p with approved := [9, 9] }) 1),
    (resetting 2 id, .resetStepRelease 0, true), (resetting 3 id, .resetStepRelease 0, approves (resetting 3 id) 3),
    (resetting 4 id, .resetStepRelease 0, approves (resetting 4 id) 2), (resetting 5 id, .resetStepRelease 0, true),
    (plotted .measured, .portsTrained 0 0, [1, 6, 2, 12].all fun m => !((plotted .measured).plot m).st.isTrained),
    ((plotted .measured).modPlot 1 fun p => { p with st := .measured }, .portsTrained 0 2,
      hopTo 0 1 == some 1 && (((plotted .measured).modPlot 1 fun p => { p with st := .measured }).plot 1).st.canTrain),
    (plotted .lost, .plotLoss 0, world.rops == [] && (plotted .lost).presided),
    ((plotted .lost).modPlot 0 fun p => { p with lossOf := some [1] }, .plotLoss 0,
      !((plotted .lost).modPlot 0 fun p => { p with lossOf := some [1] }).containing && world.contexts.all fun k => world.mapsDone k.num)] : List EvCase),
    p.2.2 = true ∧ ∃ t, exec p.2.1 p.1 = .next t :=
  happens (by decide +kernel)

/-- Interface 1 in a state, its session open or not. -/
def iface (st : Tdisp) (open' : Bool) : State := world.modIface 1 fun i => { i with st := st, established := open', sessionKey := some 3 }

/-- A descriptor of a second context, and of the first on an island that it has left. -/
def onIsle (ctx root : Nat) (cls : List Nat) : IslandDesc := ⟨0, root, 0x100, 0x100000, 0x200000, 4096, 0, 16, [(8192, 8192)], [⟨ctx, 64⟩], cls, [], 8⟩
def alone : State := (iface .run true).modIsland 0 fun x => { x with ctxs := [], keySlots := [] }

/-- Context 1 with an update of its map in progress, or about to begin. -/
def mapping (l : List MapJob) : State := (wCtx fun k => { k with maps := if l = [] then [⟨[(8, 5)], false, false⟩] else l }).modContext 1
  fun k => { k with heals := [0] }

/-- ContextSteps: a creation, both halves of a withdrawal, a publication, a rebinding. -/
theorem witness_contexts : ∀ p ∈ ([
    (iface .run true, .contextCreate ⟨255, 1, false, false, false, false, 0, 0, [onIsle 2 3 [0, 1]], [], [⟨15, 1, 1⟩]⟩,
      (iface .run true).canBind 1 255 (onIsle 2 3 [0, 1]) && (world.context? 255).isNone && world.presided && 1 % 256 != 0),
    (world, .contextWithdraw 1 0, K1.binding == .bound),
    ((wCtx fun k => { k with binding := .leaving }).modCore C0 fun c => { c with gangs := [], wgs := [] }, .contextWithdraw 1 0,
      !((wCtx fun k => { k with binding := .leaving }).modCore C0 fun c => { c with gangs := [], wgs := [] }).ctxBusy 1 0),
    (mapping [], .mapPublish 0 1, tables.wf && K1.mapFrame == 16),
    (mapping [⟨[(8, 5)], true, false⟩], .mapPublish 0 1, tables.wf), (mapping [⟨[], true, false⟩], .mapPublish 0 1, tables.wf),
    (alone, .contextRebind 1 (onIsle 0 1 [0, 1]), alone.canBind 1 1 (onIsle 0 1 [0, 1]) && alone.presided)] : List EvCase),
    p.2.2 = true ∧ ∃ t, exec p.2.1 p.1 = .next t :=
  happens (by decide +kernel)

/-- A descriptor of one gang of four granules at 0x100 in reeve 2's memory. -/
def launchable : State := State.reset.modReeve 2 fun v =>
  { v with mem := [(0x100, 0x400), (0x108, 0xFF040101), (0x118, 0x100), (0x11C, 4)].foldl (fun m p => m.write (wholeWrite (p.1 / 4) ⟨p.2, false⟩)) v.mem }

/-- FirmwareRegisters: each register at its bounds. -/
theorem witness_firmware : ∀ p ∈ ([
    (world, .controlWindowWrite 0 (.region 63 false) 5, true), (world, .controlWindowWrite 0 (.region 0 true) 5, true),
    (world, .controlWindowWrite 0 .generation 0x1FFFF, true), (world, .controlWindowWrite 0 (.route 1 false) 5, true),
    (world, .controlWindowWrite 0 (.route 255 true) 5, true), (world, .controlWindowWrite 0 (.sls 1) 1, true), (world, .controlWindowWrite 0 (.sls 0) 64, true),
    (world, .controlWindowWrite 0 (.slw 1) 255, true), (world, .controlWindowWrite 0 (.breakpoint C0 7 1) 0x401, true),
    (world, .controlWindowWrite 0 (.breakpoint C0 0 1) 0, true), (world, .regionTableRewrite 0 [(63, 1, 2), (0, 3, 4)], true),
    (.reset, .fwLaunchRegister (.reeve 2) 0x100, (State.reset.core? (.reeve 2)).isSome)] : List EvCase),
    p.2.2 = true ∧ ∃ t, exec p.2.1 p.1 = .next t :=
  happens (by decide +kernel)

/-- HostRequests: each message in the states that its clauses name. -/
theorem witness_host : ∀ p ∈ ([
    (world, .getVersion 1, world.presided), (world, .getCapabilities 1, true), (world, .negotiateAlgorithms 1, true), (world, .getDigests 1, true),
    (world, .getCertificate 1, true), (world, .challenge 1 5, true), (world, .getMeasurements 1 0 5, true), (world, .getMeasurements 1 254 5, true),
    (world, .keyExchange 1 5, true), (iface .run false, .finish 1, true), (iface .run true, .finish 1, true), (world, .keyUpdate 1, true),
    (world, .endSession 1, true), (world, .ideKm 1 0, true), (iface .run true, .keyUpdate 1, true), (iface .run true, .endSession 1, true),
    (iface .run true, .ideKm 1 9, true), (iface .unlocked false, .lockInterfaceRequest 1, true), (iface .run false, .lockInterfaceRequest 1, true),
    (iface .locked false, .startInterfaceRequest 1, true), (iface .run false, .startInterfaceRequest 1, true),
    (iface .unlocked false, .stopInterfaceRequest 1, true), (iface .run false, .stopInterfaceRequest 1, true),
    ({ iface .run false with contexts := [] }, .stopInterfaceRequest 1, ({ iface .run false with contexts := [] } : State).partition 1 == []),
    ({ iface .run false with islands := [{ isle with ctxs := [] }] }, .stopInterfaceRequest 1,
      ({ iface .run false with islands := [{ isle with ctxs := [] }] } : State).partition 1 == [1]),
    (iface .run false, .stopInterfaceRequest 1, (world.partition 1).contains 1 && (world.context? 1).any fun k => !k.killed && k.iface == 1),
    (iface .unlocked false, .hostConfigWrite 1 0 0, true), (iface .locked false, .hostConfigWrite 1 0 0, true),
    (iface .error false, .hostConfigWrite 1 0 0, true)] : List EvCase),
    p.2.2 = true ∧ ∃ t, exec p.2.1 p.1 = .next t :=
  happens (by decide +kernel)

/-- TlpsAndKeySlots: TLPs in each state of the interface, on both sides of offset 0x10000, with and without IDE; a queue
block's last word; device memory; a key slot. -/
theorem witness_tlps : ∀ p ∈ ([
    (iface .error false, .hostTlp 1 true false (.barRead 0), true), (iface .error false, .hostTlp 1 true false (.barWrite 0 1), true),
    (iface .error false, .hostTlp 1 true false (.memWrite 1 0 0 [1]), true), (iface .locked false, .hostTlp 1 true false (.barRead 0x10000), true),
    (iface .unlocked false, .hostTlp 1 true false (.barWrite 0x10000 1), true), (iface .unlocked false, .hostTlp 1 true false (.barWrite 0xFFFF 1), true),
    (iface .locked false, .hostTlp 1 true false (.memWrite 1 0 0 [1]), true), (world, .hostTlp 1 false false (.barRead 0x10000), true),
    (world, .hostTlp 1 true false (.barRead 0x1009C), (world.barQueue 1 0x1009C).isSome),
    (world, .hostTlp 1 true false (.barWrite 0x1009C 7), (world.barQueue 1 0x1009C).isSome),
    (world, .hostTlp 1 true false (.memWrite 1 0 64 [7]), (isle.ownPa 1 64).isSome && 1 ∈ world.partition 1),
    (world, .hostTlp 1 true true (.memWrite 1 0 64 [7]), (isle.ownPa 1 64).isSome && 1 ∈ world.partition 1 && K1.polhead < 8191),
    ((wCtx fun k => { k with binding := .unbound }).modCore C0 fun c => { c with gangs := [], wgs := [] }, .keySlotRetire 0 1, K1.keySlot == 1),
    (((wCtx fun k => { k with binding := .unbound }).modCore C0 fun c => { c with gangs := [], wgs := [] }).modIface 1 fun i => { i with stopping := true },
      .keySlotRetire 0 1, (world.context? 1).any (fun c => c.iface == 1) && world.islands.length == 1 && isle.ctxs.length == 1)] : List EvCase),
    p.2.2 = true ∧ ∃ t, exec p.2.1 p.1 = .next t :=
  happens (by decide +kernel)

/-- A link direction of site 0, its first key in use. -/
def linked (f : Link → Link) : State := { world with links := [f ⟨⟨0, 1⟩, some 3, none, false, 0, 9, false, false, false, 0, 2⟩] }

/-- A reeve presides in a term. -/
def ruled (n : Nat) (term : Word) : State :=
  { world with reeves := world.reeves.map fun r => if r.num == n then { r with presiding := true, term := term } else r }

/-- LinksAndReeves: the third and the fourth failure, keys in both slots, both acknowledgements, the old key's end; terms above,
equal and below; a claim, a failure, power-on. -/
theorem witness_links : ∀ p ∈ ([
    (linked fun l => { l with retries := 2 }, .flitTagFail ⟨0, 1⟩, true), (linked fun l => { l with retries := 3 }, .flitTagFail ⟨0, 1⟩, world.rops == []),
    (linked id, .keyInstall ⟨0, 1⟩ 8, true), (linked fun l => { l with active := true, key0 := none, key1 := some 4 }, .keyInstall ⟨0, 1⟩ 8, true),
    (linked fun l => { l with key1 := some 4, installing := true }, .keyAck ⟨0, 1⟩ true, true),
    (linked fun l => { l with key1 := some 4, installing := true, ackReceiver := true }, .keyAck ⟨0, 1⟩ true, true),
    (linked fun l => { l with key1 := some 4, installing := true, ackSender := true }, .keyAck ⟨0, 1⟩ false, true),
    (linked fun l => { l with key1 := some 4, active := true }, .oldKeyRetire ⟨0, 1⟩, true), (linked fun l => { l with key1 := some 4 }, .oldKeyRetire ⟨0, 1⟩, true),
    (ruled 2 1, .heartbeat 0 2 1, (ruled 2 1).presided), (ruled 1 0, .heartbeat 2 1 0, (ruled 1 0).presided), (ruled 1 0, .heartbeat 0 1 0, (ruled 1 0).presided),
    (world, .presidencyClaim 1, (world.reeve? 1).any fun r => !r.presiding && !r.failed), (.reset, .reeveFailure 0, true), (world, .panelPowerOn, true)] : List EvCase),
    p.2.2 = true ∧ ∃ t, exec p.2.1 p.1 = .next t :=
  happens (by decide +kernel)

/-- Lane 3 of island 0 changed. -/
def laned (f : OlLane → OlLane) : State := world.modLane 0 3 f

/-- LaneSteps: each write, on both sides of slot 12, with the lane up and down. -/
theorem witness_lanes : ∀ p ∈ ([
    (world, .olLaser 0 3 true, true), (world, .olTrainStart 0 3 11, true), (world, .olTrainStart 0 3 12, true), (world, .olAct 0 3 false, true),
    (world, .olAct 0 3 true, OlLane.reset.refuses), (world, .olLockWrite 0 3 0xFFFF, true), (laned fun l => { l with up := true }, .olLockWrite 0 3 1, true),
    (world, .olMapWrite 0 3 false 1, true), (laned fun l => { l with up := true }, .olMapWrite 0 3 true 1, true), (world, .olRingWrite 0 3 11 0x1FFF, true),
    (world, .dropMeasurement 0 3 11 5, true), (world, .olRingRead 0 3 11, true), (laned fun l => { l with training := some 4 }, .olTrainingDone 0 3 true, true),
    (laned fun l => { l with len := true }, .olLaserStable 0 3, true)] : List EvCase),
    p.2.2 = true ∧ ∃ t, exec p.2.1 p.1 = .next t :=
  happens (by decide +kernel)

/-! ### Witnesses: physical errors, words moved, launches -/

/-- A gang whose lanes run in pairs, and an error to come. -/
def erring (e : List Phys) : State := { wGang fun g => { g with twin := true } with phys := e }

/-- The same with the PC of its last mismatch and sy.twin. -/
def twinned (pc : Option Dword) (n : Dword) (e : List Phys) : State :=
  { wGang fun g => { g with twin := true, twinPc := pc, syTwin := n } with phys := e }

/-- A workgroup without a codebook slot. -/
def slotless : State := wWg fun w => { w with cb := none }

/-- BeforeExecution: a mismatch, an error in an operand, the three instructions that need the codebook slot. -/
theorem witness_physical : ∀ p ∈ ([
    (erring [.twin 0], .iadd P W32 (.v 1) (.v 8) (.v 9), isReady (.iadd P W32 (.v 1) (.v 8) (.v 9)) (erring []) &&
      (exOf (.iadd P W32 (.v 1) (.v 8) (.v 9)) (erring [])).g.twin && (Instr.iadd P W32 (.v 1) (.v 8) (.v 9)).paired),
    (twinned none 0x400000002 [], .iadd P W32 (.v 1) (.v 8) (.v 9), isReady (.iadd P W32 (.v 1) (.v 8) (.v 9)) (twinned none 0x400000002 [])),
    (twinned none 0x400000002 [.twin 7, .corrected 0], .iadd P W32 (.v 1) (.v 8) (.v 9), !(gang1.twinPc == some 0) && gang1.region.isNone),
    (twinned (some 0) 0xFFFFFFFF00000001 [.twin 0], .iadd P W32 (.v 1) (.v 8) (.v 9), (gang1.act.flow 0).pc == 0),
    (twinned (some 0) 0x400000002 [.twin 0], .iadd P W32 (.v 1) (.v 8) (.v 9), isReady (.iadd P W32 (.v 1) (.v 8) (.v 9)) (twinned (some 0) 0x400000002 [])),
    ((twinned none 0 [.twin 0]).modGang C0 0 fun g => { g with region := some ⟨4, 0, 1, 0xFF, [], none, none, [], 0⟩ }, .iadd P W32 (.v 1) (.v 8) (.v 9),
      isReady (.iadd P W32 (.v 1) (.v 8) (.v 9)) ((twinned none 0 []).modGang C0 0 fun g => { g with region := some ⟨4, 0, 1, 0xFF, [], none, none, [], 0⟩ })),
    (erring [.operandUe 1 0 2], .mov P (.v 1) (.v 8), isReady (.mov P (.v 1) (.v 8)) (erring []) &&
      (exOf (.mov P (.v 1) (.v 8)) (erring [])).set.contains 2),
    (slotless, .cbrd P (.v 2) (.v 11), isReady (.cbrd P (.v 2) (.v 11)) slotless), (slotless, .cbload P .scratch (.v 1) (.v 11), true),
    (slotless, .mmq P false .e4m3 .qc false (.v 15) (.v 0) (.v 11) .z, true)] : List EvCase), p.2.2 = true ∧ ∃ t, exec p.2.1 p.1 = .next t :=
  happens (by decide +kernel)

/-- The word that an operation moves next has a place at its sender. -/
def hasWord (o : Rop) : Bool := quietly (remote o) && ((remote o).xferWord o.ag.core o.wg o.charge o.sp o.pages
  (wrapAddr o.sp (o.localAddr + BitVec.ofNat 64 (4 * o.done)))).isSome

/-- MemoryAndMatrixSteps, RemoteSteps, FirmwareRegisters, AgentSteps, LaneSteps: words that a copy and remote operations move, poisoned
ones too, results of atomics, an error met in a dirty line of L2, launches started and ignored, a lane before its firmware is measured. -/
theorem witness_moved : ∀ p ∈ ([
    (copying 1, .copyPerform C0 0, quietly (copying 1) && ((copying 1).xferWord C0 0 copy1.charge .scratch [] 0).isSome &&
      ((copying 1).xferWord C0 0 copy1.charge .commons [] 0).isSome),
    (remote (rop1 .put .flying), .remoteWriteArrival 5, there (rop1 .put .flying) && hasWord (rop1 .put .flying)),
    (remote { rop1 .get .returning with data := [⟨0x7FE14001, true⟩] }, .getDataArrival 5, hasWord (rop1 .get .returning)),
    (remote { rop1 (.rcas .b32) .flying with operand := [⟨0, false⟩, ⟨5, false⟩] }, .remoteAtomicAtTarget 5,
      there { rop1 (.rcas .b32) .flying with operand := [⟨0, false⟩, ⟨5, false⟩] } && hasWord (rop1 (.rcas .b32) .flying)),
    (wIsle fun x => { x with l2 := [(0, [wholeWrite 64 ⟨1, false⟩])] }, .scrubUe 0 0x104, true),
    (wIsle fun x => { x with l2 := [(0, [wholeWrite 65 ⟨1, false⟩])] }, .scrubUe 0 0x104, true),
    (world, .operatingPointStable 0 0 3 15, (world.hint isle 0 3).isNone),
    (launchable, .fwLaunchRegister (.reeve 2) 0x100, launchable.installed (.reeve 2) 0x100 32 && ((launchable.core? (.reeve 2)).any fun c =>
      (c.freeSlot == some 1) && (c.place 8 4).isSome) && (Desc.parse fun k => byteOf (launchable.wordI (.reeve 2) ((0x100 + k) / 4)).v (k % 4)) ==
        some ⟨8, 1, 4, 256, false, 0, 0, 0, 0, 0, 0x400⟩),
    (world, .controlWindowWrite 0 (.breakpoint C0 7 1) 0x400, (world.core? C0).isSome),
    (wIsle fun x => { x with resetStep := 3 }, .olLaser 0 3 true, true), (wIsle fun x => { x with resetStep := 3 }, .olMapWrite 0 3 true 1, true)] : List EvCase),
    p.2.2 = true ∧ ∃ t, exec p.2.1 p.1 = .next t :=
  happens (by decide +kernel)

/-! ### Witnesses: numbers, bodies, encodings -/

/-- RoundingAndExactness, FloatFunctions, Conversions: a quotient that is exact and one that is a tie, a code of a format,
values with a rational number, an operand that is not 0. -/
theorem witness_numbers : (0 < 2 ∧ 2 ^ 2 ∣ 12 ∧ ¬ 2 ^ 2 ∣ 14 ∧ 2 * 14 = (2 * (14 / 2 ^ 2) + 1) * 2 ^ 2) ∧
    (lf32 ∈ [lf32, lf16, lbf16, le4m3, le5m2, le2m1] ∧ 0xFF7FFFFF < 2 ^ lf32.bits) ∧
    (Num.toRat (.fin true 3 1)).isSome = true ∧ (Num.toRat (.fin false 1 0)).isSome = true ∧
    Fmt.s32 ∈ [Fmt.s8, .n8, .s16, .n16, .s32, .n32, .s64, .n64] ∧ (3 : Nat) ≠ 0 ∧ (3 : Nat) < 2 ^ 26 ∧ (511 : Nat) < 512 ∧
    ([lf32, lf16, lbf16].all fun l => [.rne, .rz, .rd, .ro, .ru].all fun md => match l.round md true 3 1000 with
      | .over n => n && (1 : Nat) != 0
      | .code _ => false) = true ∧ (Machine.Num.add .rd (.fin true 3 0) (.fin false 3 0)) = some (.fin true 0 0) ∧
    (2 : Rat) ^ ((128 : Int) - 127) ≤ (3 : Nat) * (2 : Rat) ^ (0 : Int) ∧ (3 : Nat) * (2 : Rat) ^ (0 : Int) < 2 * (2 : Rat) ^ ((128 : Int) - 127) :=
  ⟨by decide, by decide, by decide, by decide, by decide, by decide, by decide, by decide, by decide +kernel, by decide +kernel, by norm_num, by norm_num⟩

/-- WriteBack, BarriersAndMonitors: a plain result of a gang whose registers each have their place. -/
theorem witness_writeSound :
    let x := exOf (.mov P (.v 1) (.v 2)) .reset
    Ready (.mov P (.v 1) (.v 2)) .reset x ∧ x.b.Sound x.w ∧ x.pops = [] ∧ x.n.h.nw = false ∧ x.n.dest = .v 1 ∧
      x.b.frame.role 1 = .plain ∧ 1 < 8 * x.b.frame.ngr :=
  ⟨ready (by decide +kernel), witness_sound, by decide +kernel, by decide +kernel, by decide +kernel, by decide +kernel, by decide +kernel⟩

/-- Queues: a body with an entry in a queue, every register of it in its place. -/
theorem witness_pop :
    let b := ((Gang.firmware 0 0 8 0 0 4 256 0).act).modFrame fun f => { f with qd0 := some ⟨8, 2, 2, [1, 0]⟩ }
    b.Sound 8 ∧ b.frame.qdef false = some ⟨8, 2, 2, [1, 0]⟩ ∧ 8 + 2 * 2 ≤ 8 * b.frame.ngr :=
  ⟨⟨by decide, by decide, fun g k hg hk =>
    (by decide : ∀ g < 4, ∀ k < 4, granOrd [.launch 4] g = granOrd [.launch 4] k → g = k) g hg k hk, by decide⟩, rfl, by decide⟩

/-- GlobalAccess, Atomics: the agent's core has its island. -/
theorem witness_housed : (exOf (.ld L0 .b32 .normal none (.v 2) (.v 4) (.v 1)) world).housed :=
  ⟨show (world.cur.core.site.bind world.island?).isSome = true by decide +kernel, by decide +kernel⟩

/-- RoundTripAll: instructions that are well formed. -/
theorem witness_wellFormed : ∀ i ∈ [Instr.iadd P W32 (.v 1) (.v 2) (.v 3), .shlShortB (.v 1) (.v 2) 31, .wfi P,
    .isub ⟨some 5, .v 9, true, true⟩ ⟨.w32, false, false⟩ (.v 1) .lid .lit], i.wf = true := by decide +kernel

/-! ### The manual's worked examples -/

/-- The worked example of spec 01: the gang of width 8 with v4 to v7 as its table gives them. -/
def worked : State :=
  let row (r : List LV) : Lanes := r ++ List.replicate 4 ⟨0, false⟩
  let c (v : Word) : LV := ⟨v, false⟩
  State.reset.modGang (.reeve 0) 0 fun g => g.modAct fun b =>
    ((((b.setRow 4 (row [c 0x3F800000, c 0x3F800000, c 0x3F800000, c 0x40800000])).setRow 5
      (row [c 0x40000000, c 0x40000000, ⟨0x7FE01230, true⟩, c 0x3F000000])).setRow 6
      (row [c 0x3F800000, c 0x3F800000, ⟨0x7FE04491, true⟩, c 0xC0000000])).setRow 7
      (row [c 1, c 0, c 1, c 5])).setRow 3 (row [c 0x12345678, c 0x12345678, c 0x12345678, c 0x12345678])

/-- Rows of the gang after a step, and slot w1. -/
def rowAfter (r : Res) (n : Nat) : Option (Lanes × Lanes) :=
  match r with
  | .next t => (t.gang? (.reeve 0) 0).map fun g => ((g.act.row n).take 4, (((g.act.flow 0).win.getD 0 ⟨false, []⟩).lanes).take 4)
  | _ => none

/-- v3 and w1 after `?v7 FFMA.f32.rne v3, v4, v5, v6`, words 0x0040_320E and 0x0007_0605 (spec 01, "Worked example"). -/
theorem test_example_ffma :
    rowAfter (step (worked.withFetchWord 64 0x000706050040320E)) 3 = some
      ([⟨0x40400000, false⟩, ⟨0x12345678, false⟩, ⟨0x7FE01231, true⟩, ⟨0, false⟩],
       [⟨0x40400000, false⟩, ⟨0, false⟩, ⟨0x7FE01231, true⟩, ⟨0, false⟩]) := by decide +kernel

/-- v2 and v3 hold a word each in lane 0. -/
def pairIn (a b : Word) : State :=
  State.reset.modGang (.reeve 0) 0 fun g => g.modAct fun k =>
    (k.setRow 2 (⟨a, false⟩ :: List.replicate 7 ⟨0, false⟩)).setRow 3 (⟨b, false⟩ :: List.replicate 7 ⟨0, false⟩)

/-- What an instruction of two words leaves in lane 0 of v1. -/
def laneAfter (s : State) (w : Nat) : Option LV := (rowAfter (step (s.withFetchWord 64 w)) 1).map fun p => laneAt p.1 0

/-- IADD.s8x4.sat, IADD.s8x4 and IADD.n8x4.sat of the bytes that the table of spec 05 after R104 gives. -/
theorem test_example_iadd : ([0x00F0F003E0201002, 0x00F0F00360201002, 0x00F0F003A0201002].map
    (laneAfter (pairIn 0x7F800105 0x0180FF7F))) =
    [some ⟨0x7F80007F, false⟩, some ⟨0x80000084, false⟩, some ⟨0x80FFFF84, false⟩] := by decide +kernel

/-- PERMB with #0x0FA: A's byte 2, B's byte 3, A's byte 3 and A's byte 0, from byte 0 upwards (R108). -/
theorem test_example_permb :
    laneAfter (pairIn 0xA3A2A1A0 0xB3B2B1B0) 0x10F03E0300201142 = some ⟨0xA0A3B3A2, false⟩ := by decide +kernel

/-- 3.0 as E8M0 is 0x80 under rne, rz and rd, 0x81 under ro and ru (R82). -/
theorem test_example_e8m0 : ([RMode.rne, .rz, .rd, .ro, .ru].map fun m => convert .f32 .e8m0 m false 0x40400000) =
    [.val 0x80, .val 0x80, .val 0x80, .val 0x81, .val 0x81] := by decide +kernel

/-- 1 + 2^-18 + 2^-20 rounds to 0x3F80_0040 in A26, and 1.5 × 2^-127 to +0 (R75). -/
theorem test_example_a26 : toA26 (.fin false (2 ^ 20 + 5) (-20)) = 0x3F800040 ∧ toA26 (.fin false 3 (-128)) = 0 := by
  decide +kernel

/-- A carries COUNT 14, B and C are poisoned: A's origin and kind with COUNT 15 (R87). -/
theorem test_example_merge : merge [⟨0x7FE0123E, true⟩, ⟨0x7FE04490, true⟩, ⟨0x7FE05560, true⟩] = some 0x7FE0123F := by
  decide +kernel

/-- The walk worked through in spec 09: the level-3 entry 0x0000_0123_4560_0037 gives 0x0012_3456_0000 with U, X and R and
without W and CP. -/
theorem test_example_walk : ((walk (((Mem.empty.setDword 0x10000 0x200001).setDword 0x21000 0x300001).setDword 0x30080
    0x0000012345600037) Config.computeHbmBytes 1 5 0x4000100000).map fun e => (e.phys 0x4000100000, e.cp, e.q)) =
    some (0x001234560000, false, false) ∧
    ((walk (((Mem.empty.setDword 0x10000 0x200001).setDword 0x21000 0x300001).setDword 0x30080
    0x0000012345600037) Config.computeHbmBytes 1 5 0x4000100000).map fun e => (e.u, e.x, e.w, e.r)) =
    some (true, true, false, true) := by decide +kernel

end Sys2Proof.Tests
end

/-! ## The registers of firmware and operator (R18, R62, R217, R218, R318, R351, R370) -/

namespace Sys2Proof.Machine

/-! ### Sparse lists and sorted gangs -/

@[simp] theorem lookupD_setAt_same {α : Type} (k : Nat) (d v : α) (l : List (Nat × α)) : lookupD k d (setAt k v l) = v := by
  induction l with
  | nil => simp [setAt, upsert, lookupD]
  | cons p r ih =>
    by_cases h : p.1 = k
    · simp [setAt, upsert, lookupD, h]
    · simpa [setAt, upsert, lookupD, h] using ih

theorem lookupD_setAt_other {α : Type} {j k : Nat} (d v : α) (l : List (Nat × α)) (h : j ≠ k) :
    lookupD j d (setAt k v l) = lookupD j d l := by
  induction l with
  | nil => simp [setAt, upsert, lookupD, h.symm]
  | cons p r ih =>
    by_cases hp : p.1 = k
    · simp [setAt, upsert, lookupD, hp, h.symm]
    · have ih : lookupD j d (upsert (fun p => p.1 == k) (k, v) r) = lookupD j d r := ih
      simp [setAt, upsert, lookupD, hp, ih]

/-- A gang put into a core's list changes no search that it does not meet. -/
theorem find?_insertGang_other {p : Gang → Bool} {g : Gang} (h : p g = false) (l : List Gang) :
    (insertGang g l).find? p = l.find? p := by
  induction l with
  | nil => simp [insertGang, h]
  | cons a r ih =>
    unfold insertGang
    split
    · simp [h]
    · simp [List.find?_cons, ih]

/-- A gang put into a list is found by a search that nothing else there meets. -/
theorem find?_insertGang_same {p : Gang → Bool} {g : Gang} (h : p g = true) {l : List Gang} (hl : ∀ x ∈ l, p x = false) :
    (insertGang g l).find? p = some g := by
  induction l with
  | nil => simp [insertGang, h]
  | cons a r ih =>
    obtain ⟨ha, hr⟩ := List.forall_mem_cons.mp hl
    unfold insertGang
    split
    · simp [h]
    · simp [ha, ih hr]

/-! ### Islands and cores after an update -/

/-- An island after an update of it. -/
theorem State.island?_modIsland {s : State} {site : Nat} {x : Island} (f : Island → Island) (hf : ∀ y, (f y).site = y.site)
    (h : s.island? site = some x) : (s.modIsland site f).island? site = some (f x) := by
  have hx : x.site = site := by simpa using List.find?_some h
  unfold State.island? State.modIsland at *
  rw [find_modify _ _ _ (fun y => by rw [hf]), h]
  simp [hx]

/-- An update of one core that exists changes nothing else. -/
theorem State.only_modCore {s : State} {r : CoreRef} (f : Core → Core) (hf : ∀ c, (f c).ref = c.ref)
    (h : (s.core? r).isSome) : OnlyCore r s (s.modCore r f) := by
  constructor
  · intro q hq
    rw [State.core?_modCore s r q f hf h]
    cases s.core? q <;> simp [hq]
  · unfold State.modCore; split <;> rfl

/-- A core that exists after an update of it. -/
theorem State.core_modCore {s : State} {r : CoreRef} {c : Core} (f : Core → Core) (hf : ∀ c, (f c).ref = c.ref)
    (h : s.core? r = some c) : (s.modCore r f).core r = f c := by
  rw [State.core, State.core?_modCore s r r f hf (by simp [h]), h]
  simp

/-! ### The region and route tables (R217, R370) -/

/-- A doubleword of an entry written: reserved bits 0, the other doubleword as before. -/
@[simp] theorem Island.region_setRegion (x : Island) (i : Nat) (hi : Bool) (v : Dword) : (x.setRegion i hi v).region i =
    if hi then ((x.region i).1, v &&& ~~~0xF0000) else (v &&& ~~~0xFFFFE, (x.region i).2) := by
  simp [Island.setRegion, Island.region]

theorem Island.region_setRegion_other (x : Island) {i k : Nat} (hi : Bool) (v : Dword) (h : k ≠ i) :
    (x.setRegion i hi v).region k = x.region k := by
  simp [Island.setRegion, Island.region, lookupD_setAt_other _ _ _ h]

/-- A doubleword of a route written: reserved bits 0, the other doubleword as before. -/
@[simp] theorem Island.route_setRoute (x : Island) (n : Nat) (hi : Bool) (v : Dword) : (x.setRoute n hi v).route n =
    if hi then ((x.route n).1, v &&& 0x8000000007FFFFFF) else (v, (x.route n).2) := by
  simp [Island.setRoute, Island.route]

/-- Both doublewords of an entry of the region table rewritten (R218). -/
def Island.putRegion (x : Island) (e : Nat × Dword × Dword) : Island := (x.setRegion e.1 false e.2.1).setRegion e.1 true e.2.2

theorem Island.region_putRegion (x : Island) (e : Nat × Dword × Dword) :
    (x.putRegion e).region e.1 = (e.2.1 &&& ~~~0xFFFFE, e.2.2 &&& ~~~0xF0000) := by
  simp [Island.putRegion]

theorem Island.region_putRegion_other (x : Island) {e : Nat × Dword × Dword} {k : Nat} (h : k ≠ e.1) :
    (x.putRegion e).region k = x.region k := by
  simp [Island.putRegion, Island.region_setRegion_other _ _ _ h]

/-- What a rewrite of entries leaves of an island: everything but the table. -/
theorem Island.foldl_putRegion (entries : List (Nat × Dword × Dword)) (x : Island) :
    entries.foldl Island.putRegion x = { x with regions := (entries.foldl Island.putRegion x).regions } := by
  induction entries generalizing x with
  | nil => rfl
  | cons e r ih => exact (ih (x.putRegion e)).trans rfl

/-- An entry that a rewrite does not name stays. -/
theorem Island.region_foldl_putRegion_other {k : Nat} (entries : List (Nat × Dword × Dword)) (x : Island)
    (h : k ∉ entries.map fun p => p.1) : (entries.foldl Island.putRegion x).region k = x.region k := by
  induction entries generalizing x with
  | nil => rfl
  | cons e r ih =>
    obtain ⟨he, hr⟩ := not_or.mp (mt List.mem_cons.mpr h)
    exact (ih _ hr).trans (x.region_putRegion_other he)

/-- Every entry of a rewrite that names each once stands in the table afterwards. -/
theorem Island.region_foldl_putRegion {e : Nat × Dword × Dword} (entries : List (Nat × Dword × Dword)) (x : Island)
    (hn : (entries.map fun p => p.1).Nodup) (he : e ∈ entries) :
    (entries.foldl Island.putRegion x).region e.1 = (e.2.1 &&& ~~~0xFFFFE, e.2.2 &&& ~~~0xF0000) := by
  induction entries generalizing x with
  | nil => cases he
  | cons a r ih =>
    obtain ⟨ha, hr⟩ := List.nodup_cons.mp hn
    rcases List.mem_cons.mp he with rfl | he
    · exact (Island.region_foldl_putRegion_other r _ ha).trans (x.region_putRegion e)
    · exact ih _ hr he

/-- The table after a rewrite, GENERATION one more, and in L3 only lines of frames whose entry stays (R218). -/
def Island.rewrite (x : Island) (entries : List (Nat × Dword × Dword)) : Island :=
  let y := entries.foldl Island.putRegion x
  { y with generation := x.generation + 1, l3 := x.l3.filter fun n => x.regionOf (n / 512) == y.regionOf (n / 512)
           retain := x.retain.filter fun p => x.regionOf (p.1 / 512) == y.regionOf (p.1 / 512) }

theorem Island.rewrite_site (x : Island) (entries : List (Nat × Dword × Dword)) : (x.rewrite entries).site = x.site := by
  change (entries.foldl Island.putRegion x).site = _
  rw [Island.foldl_putRegion]

theorem Island.rewrite_mem (x : Island) (entries : List (Nat × Dword × Dword)) : (x.rewrite entries).mem = x.mem := by
  change (entries.foldl Island.putRegion x).mem = _
  rw [Island.foldl_putRegion]

/-! ### Breakpoints (R351) -/

/-- A core whose breakpoint i is set at an address, or cleared by one that is no multiple of 4. -/
def Core.setBreakpoint (c : Core) (i ctx : Nat) (v : Dword) : Core :=
  { c with bps := (c.bps.filter fun b => b.index != i) ++ if v.toNat % 4 == 0 then [⟨i, ctx, v⟩] else [] }

theorem Core.setBreakpoint_index (c : Core) (i ctx : Nat) (v : Dword) :
    (c.setBreakpoint i ctx v).bps.filter (fun b => b.index == i) = if v.toNat % 4 = 0 then [⟨i, ctx, v⟩] else [] := by
  by_cases hv : v.toNat % 4 = 0 <;> simp [Core.setBreakpoint, List.filter_filter, hv]

/-! ### The firmware launch register (R18) -/

/-- A slot that a core gives to a new gang holds none. -/
theorem Core.freeSlot_free {c : Core} {slot : Nat} (h : c.freeSlot = some slot) : ∀ g ∈ c.gangs, (g.slot == slot) = false := by
  have := List.find?_some h
  simpa using this

/-- The kernel descriptor that a core sees at an address (R62). -/
def State.launchDesc (s : State) (r : CoreRef) (a : Nat) : Option Desc :=
  Desc.parse fun k => byteOf (s.wordI r ((a + k) / 4)).v ((a + k) % 4)

/-- What an M-level gang's descriptor must not ask for (R18). -/
def Desc.bare (d : Desc) : Prop :=
  d.gangs = 1 ∧ d.localBytes = 0 ∧ d.args = 0 ∧ d.commons = 0 ∧ d.acc = 0 ∧ d.bars = 0 ∧ d.cbslot = false

/-- When a store to the firmware launch register starts a gang (R18). -/
def State.Launches (s : State) (r : CoreRef) (a : Nat) : Prop :=
  s.installed r a 32 = true ∧ (∀ k < 32, (s.wordI r ((a + k) / 4)).p = false) ∧ ∃ d, s.launchDesc r a = some d ∧ d.bare ∧
    (s.core r).freeSlot ≠ none ∧ (s.core r).place d.width d.frame ≠ none

theorem Desc.bare_iff (d : Desc) : (d.gangs != 1 || d.localBytes != 0 || d.args != 0 || d.commons != 0 || d.acc != 0 ||
    d.bars != 0 || d.cbslot) = false ↔ d.bare := by
  simp [Desc.bare, and_assoc]

theorem State.launch_clean_iff (s : State) (r : CoreRef) (a : Nat) :
    ((upTo 32).any fun k => (s.wordI r ((a + k) / 4)).p) = false ↔ ∀ k < 32, (s.wordI r ((a + k) / 4)).p = false := by
  simp [upTo]

/-- A store that starts no gang is ignored. -/
theorem State.fwLaunch_ignored {s : State} {r : CoreRef} {v : Dword} (h : ¬ s.Launches r v.toNat) : s.fwLaunch r v = s := by
  unfold State.fwLaunch
  dsimp only
  split
  · rfl
  next hin =>
  split
  · rfl
  next hclean =>
  split
  · rfl
  next d hd =>
  split
  · rfl
  next hbare =>
  split
  next slot base hslot hbase =>
    exact absurd ⟨by simpa using hin, (s.launch_clean_iff r _).mp (by simpa using hclean), d, hd,
      d.bare_iff.mp (by simpa using hbare), by simp [hslot], by simp [hbase]⟩ h
  · rfl

/-- A core on which the register has started a gang with a workgroup of its own number. -/
def Core.launched (c : Core) (uid slot base : Nat) (d : Desc) : Core :=
  { c with gangs := insertGang (.firmware uid slot d.width base uid d.frame d.framemax d.entry) c.gangs
           wgs := c.wgs ++ [.firmware uid] }

/-- The gang that the register starts, in the lowest free slot and base. -/
theorem State.fwLaunch_starts {s : State} {r : CoreRef} {v : Dword} {d : Desc} {slot base : Nat}
    (h : s.Launches r v.toNat) (hd : s.launchDesc r v.toNat = some d) (hs : (s.core r).freeSlot = some slot)
    (hb : (s.core r).place d.width d.frame = some base) :
    s.fwLaunch r v = s.fresh.2.modCore r (·.launched s.uid slot base d) := by
  obtain ⟨hin, hclean, d', hd', hbare, -, -⟩ := h
  obtain rfl : d' = d := by rw [hd] at hd'; exact (Option.some.inj hd').symm
  unfold State.launchDesc at hd
  have hclean := (s.launch_clean_iff r _).mpr hclean
  have hbare := d'.bare_iff.mpr hbare
  simp only [State.fwLaunch, hin, Bool.not_true, Bool.false_eq_true, if_false, hclean, hd, hbare, hs, hb]
  rfl

/-- A gang after a new one in a free slot of its core. -/
theorem State.gang?_launched {s : State} {r : CoreRef} {c : Core} {slot : Nat} (uid base : Nat) (d : Desc) (h : s.core? r = some c)
    (hs : c.freeSlot = some slot) (k : Nat) : (s.modCore r (·.launched uid slot base d)).gang? r k =
      if k = slot then some (.firmware uid slot d.width base uid d.frame d.framemax d.entry) else s.gang? r k := by
  unfold State.gang?
  rw [State.core?_modCore s r r (·.launched uid slot base d) (fun _ => rfl) (by simp [h]), h]
  simp only [Option.map_some, if_true, Option.bind_some, Core.gang?, Core.launched]
  split
  · next e => subst e; exact find?_insertGang_same (by simp [Gang.firmware]) (Core.freeSlot_free hs)
  · next e => exact find?_insertGang_other (by simpa [Gang.firmware] using Ne.symm e) _

/-! ### The registers -/

theorem exec_controlWindowWrite (site : Nat) (reg : WindowReg) (v : Dword) (s : State) :
    exec (.controlWindowWrite site reg v) s = execControlWindowWrite site reg v s := rfl

theorem exec_regionTableRewrite (site : Nat) (entries : List (Nat × Dword × Dword)) (s : State) :
    exec (.regionTableRewrite site entries) s = execRegionTableRewrite site entries s := rfl

theorem exec_fwLaunchRegister (r : CoreRef) (v : Dword) (s : State) :
    exec (.fwLaunchRegister r v) s = execFwLaunchRegister r v s := rfl

/-- An outcome that leaves every core, and of an island all but its tables and registers, of which p holds. -/
def LeavesIsland (o : Res) (s : State) (site : Nat) (x : Island) (p : Island → Prop) : Prop :=
  ∃ t y, o = .next t ∧ t.cores = s.cores ∧ t.island? site = some y ∧ p y ∧ y.mem = x.mem ∧ y.ctxs = x.ctxs

theorem leavesIsland_modIsland {s : State} {site : Nat} {x : Island} {o : Res} {p : Island → Prop}
    (hx : s.island? site = some x) (f : Island → Island) (ho : o = .next (s.modIsland site f))
    (hsite : ∀ y, (f y).site = y.site) (hmem : (f x).mem = x.mem) (hctxs : (f x).ctxs = x.ctxs) (hp : p (f x)) :
    LeavesIsland o s site x p :=
  ⟨_, _, ho, rfl, State.island?_modIsland f hsite hx, hp, hmem, hctxs⟩

section
variable {s : State} {site : Nat} {x : Island} (hx : s.island? site = some x)
include hx

/-- A write of a doubleword of the region table (R217). -/
theorem exec_write_region (v : Dword) {e : Nat} (he : e < 64) (hi : Bool) :
    LeavesIsland (exec (.controlWindowWrite site (.region e hi) v) s) s site x fun y => y.region e =
      if hi then ((x.region e).1, v &&& ~~~0xF0000) else (v &&& ~~~0xFFFFE, (x.region e).2) :=
  leavesIsland_modIsland hx (·.setRegion e hi v)
    (by rw [exec_controlWindowWrite]; simp [execControlWindowWrite, hx, he])
    (fun _ => rfl) rfl rfl (x.region_setRegion e hi v)

/-- A write of a doubleword of a route (R370). -/
theorem exec_write_route (v : Dword) {e : Nat} (h1 : 1 ≤ e) (he : e < 256) (hi : Bool) :
    LeavesIsland (exec (.controlWindowWrite site (.route e hi) v) s) s site x fun y => y.route e =
      if hi then ((x.route e).1, v &&& 0x8000000007FFFFFF) else (v, (x.route e).2) :=
  leavesIsland_modIsland hx (·.setRoute e hi v)
    (by rw [exec_controlWindowWrite]; simp [execControlWindowWrite, hx, h1, he])
    (fun _ => rfl) rfl rfl (x.route_setRoute e hi v)

theorem exec_write_generation (v : Dword) :
    LeavesIsland (exec (.controlWindowWrite site .generation v) s) s site x fun y => y.generation = v.setWidth 16 :=
  leavesIsland_modIsland hx ({ · with generation := v.setWidth 16 })
    (by rw [exec_controlWindowWrite]; simp [execControlWindowWrite, hx])
    (fun _ => rfl) rfl rfl rfl

/-- SLS of a die is from 1 to 64 (R318). -/
theorem exec_write_sls (v : Dword) {die : Nat} (hd : die < 2) (h1 : 1 ≤ v.toNat) (h64 : v.toNat ≤ 64) :
    LeavesIsland (exec (.controlWindowWrite site (.sls die) v) s) s site x fun y => lookupD die 64 y.sls = v.toNat :=
  leavesIsland_modIsland hx (fun y => { y with sls := setAt die v.toNat y.sls })
    (by rw [exec_controlWindowWrite]; simp [execControlWindowWrite, hx, hd, h1, h64])
    (fun _ => rfl) rfl rfl (lookupD_setAt_same ..)

/-- SLW of a die is below 256 (R318). -/
theorem exec_write_slw (v : Dword) {die : Nat} (hd : die < 2) (h : v.toNat < 256) :
    LeavesIsland (exec (.controlWindowWrite site (.slw die) v) s) s site x fun y => lookupD die 0 y.slw = v.toNat :=
  leavesIsland_modIsland hx (fun y => { y with slw := setAt die v.toNat y.slw })
    (by rw [exec_controlWindowWrite]; simp [execControlWindowWrite, hx, hd, h])
    (fun _ => rfl) rfl rfl (lookupD_setAt_same ..)

/-- A breakpoint of a compute core is set, or cleared where the address is no multiple of 4 (R351). -/
theorem exec_write_breakpoint (v : Dword) {die pos i : Nat} (ctx : Nat) (hi : i < 8)
    (hc : (s.core? (.compute site die pos)).isSome) :
    ∃ t, exec (.controlWindowWrite site (.breakpoint (.compute site die pos) i ctx) v) s = .next t ∧
      OnlyCore (.compute site die pos) s t ∧ (t.core (.compute site die pos)).bps.filter (fun b => b.index == i) =
        if v.toNat % 4 = 0 then [⟨i, ctx, v⟩] else [] := by
  obtain ⟨c, hc⟩ := Option.isSome_iff_exists.mp hc
  refine ⟨s.modCore _ (·.setBreakpoint i ctx v), ?_, State.only_modCore _ (fun _ => rfl) (by simp [hc]), ?_⟩
  · rw [exec_controlWindowWrite]
    simp [execControlWindowWrite, hx, hi, CoreRef.site, CoreRef.isCompute, Core.setBreakpoint]
  · rw [State.core_modCore (·.setBreakpoint i ctx v) (fun _ => rfl) hc, Core.setBreakpoint_index]

/-- A rewrite of the region table takes effect whole, and GENERATION grows by 1 (R218). -/
theorem exec_regionTableRewrite_leaves {entries : List (Nat × Dword × Dword)} (he : ∀ e ∈ entries, e.1 < 64) :
    ∃ t y, exec (.regionTableRewrite site entries) s = .next t ∧ t.cores = s.cores ∧ t.island? site = some y ∧
      y.generation = x.generation + 1 ∧ y.mem = x.mem ∧ ∀ e, (entries.map fun p => p.1).Nodup → e ∈ entries →
        y.region e.1 = (e.2.1 &&& ~~~0xFFFFE, e.2.2 &&& ~~~0xF0000) := by
  have hall : ((s.island? site).isSome && entries.all fun e => e.1 < 64) = true := by simpa [hx] using fun a b c h => he _ h
  refine ⟨s.modIsland site (·.rewrite entries), x.rewrite entries, ?_, rfl,
    State.island?_modIsland _ (Island.rewrite_site · entries) hx, rfl, x.rewrite_mem entries,
    fun e hn h => Island.region_foldl_putRegion entries x hn h⟩
  · rw [exec_regionTableRewrite, execRegionTableRewrite, hall]
    rfl

end

/-- A store to the firmware launch register that starts a gang leaves it in the lowest free slot, at the lowest base, and every
other gang as it was (R18). -/
theorem exec_fwLaunchRegister_starts {s : State} {r : CoreRef} {c : Core} {v : Dword} (hc : s.core? r = some c)
    (hr : r.isCompute = false) (h : s.Launches r v.toNat) {d : Desc} {slot base : Nat}
    (hd : s.launchDesc r v.toNat = some d) (hs : c.freeSlot = some slot) (hb : c.place d.width d.frame = some base) :
    ∃ t g, exec (.fwLaunchRegister r v) s = .next t ∧ t.islands = s.islands ∧ t.gang? r slot = some g ∧
      (g.width, g.base, g.gix, g.pl, g.ctx) = (d.width, base, 0, .m, none) ∧ g.framemax = d.framemax ∧
      g.body = .start d.width d.frame d.entry ∧ (t.core r).waiters = c.waiters ∧
      ∀ k, k ≠ slot → t.gang? r k = s.gang? r k := by
  have hcore : s.core r = c := by simp [State.core, hc]
  have hfresh : s.fresh.2.core? r = some c := hc
  have hgang := State.gang?_launched s.uid base d hfresh hs
  refine ⟨s.fresh.2.modCore r (·.launched s.uid slot base d), _, ?_, State.modCore_islands .., (hgang slot).trans (if_pos rfl),
    rfl, rfl, rfl, ?_, fun k hk => (hgang k).trans (if_neg hk)⟩
  · rw [exec_fwLaunchRegister, execFwLaunchRegister, State.fwLaunch_starts h hd (hcore ▸ hs) (hcore ▸ hb)]
    simp [when, hc, hr]
  · rw [State.core_modCore (·.launched s.uid slot base d) (fun _ => rfl) hfresh]
    rfl

/-- Settles O56: each register by its own lemma above. -/
theorem firmwareRegisters : Obligations.FirmwareRegisters := by
  intro s site x v hx
  refine ⟨fun e he => ⟨exec_write_region hx v he false, exec_write_region hx v he true⟩, exec_write_generation hx v,
    fun e h1 he => ⟨exec_write_route hx v h1 he false, exec_write_route hx v h1 he true⟩,
    fun die hd => ⟨exec_write_sls hx v hd, exec_write_slw hx v hd⟩, fun die pos i ctx hi hc => exec_write_breakpoint hx v ctx hi hc,
    fun entries => exec_regionTableRewrite_leaves hx, fun r c hc hr => ?_⟩
  have hcore : s.core r = c := by simp [State.core, hc]
  subst hcore
  exact ⟨fun h => by
      rw [exec_fwLaunchRegister, execFwLaunchRegister, State.fwLaunch_ignored h]
      simp [when, hc, hr],
    fun h d slot base => exec_fwLaunchRegister_starts hc hr h⟩

end Sys2Proof.Machine

/-! ## Reset and steps (R10, R18, R23, R28, R29, R316) -/

namespace Sys2Proof.Machine

/-! ### The agent whose turn it is -/

/-- The core, the gang and the flow of the agent whose turn it is. -/
theorem State.agent?_some {s : State} {c : Core} {g : Gang} {fi : Nat} (h : s.agent? = some (c, g, fi)) :
    s.core? s.cur.core = some c ∧ c.gang? s.cur.slot = some g ∧ fi = g.act.fi s.cur.slice ∧ fi < g.act.flows.length ∧
      canIssue c g (g.act.flow fi) = true := by
  unfold State.agent? at h
  split at h
  · cases h
  next c' hc =>
  split at h
  · cases h
  next g' hg =>
  dsimp only at h
  split at h
  next hi =>
    obtain ⟨rfl, rfl, rfl⟩ : c' = c ∧ g' = g ∧ g'.act.fi s.cur.slice = fi := by simpa using h
    simp only [Bool.and_eq_true, decide_eq_true_eq] at hi
    exact ⟨hc, hg, rfl, hi⟩
  · cases h

theorem State.agent?_gang {s : State} {c : Core} {g : Gang} {fi : Nat} (h : s.agent? = some (c, g, fi)) :
    s.gang? s.cur.core s.cur.slot = some g := by
  obtain ⟨hc, hg, -⟩ := s.agent?_some h
  simp [State.gang?, hc, hg]

/-! ### The fetch (R28, R29, R330) -/

theorem OnlyCore.refl (r : CoreRef) (s : State) : OnlyCore r s s := ⟨fun _ _ => rfl, rfl⟩

/-- What a fetch leaves of a state: all but the instruction cache of a core, and what it notes there. -/
structure FetchesOnly (r : CoreRef) (s t : State) : Prop where
  only : OnlyCore r s t
  gangs : ∀ slot, t.gang? r slot = s.gang? r slot
  core : (t.core? r).isSome

theorem FetchesOnly.refl {r : CoreRef} {s : State} (h : (s.core? r).isSome) : FetchesOnly r s s :=
  ⟨.refl r s, fun _ => rfl, h⟩

theorem FetchesOnly.trans {r : CoreRef} {s t u : State} (h : FetchesOnly r s t) (k : FetchesOnly r t u) : FetchesOnly r s u :=
  ⟨h.only.trans k.only, fun slot => (k.gangs slot).trans (h.gangs slot), k.core⟩

/-- A core that has put a word into its instruction cache. -/
def Core.cached (c : Core) (n : Nat) (w : Word) : Core := { c with icache := c.icache ++ [(n, w)], noted := 0 :: c.noted }

theorem State.fetchesOnly_cached {s : State} {r : CoreRef} (h : (s.core? r).isSome) (n : Nat) (w : Word) :
    FetchesOnly r s (s.modCore r (·.cached n w)) := by
  refine ⟨State.only_modCore _ (fun _ => rfl) h, fun slot => State.gang?_modCore s r r slot _ (fun _ => rfl) (fun _ => rfl) h, ?_⟩
  rw [State.core?_modCore s r r (·.cached n w) (fun _ => rfl) h]
  simpa using h

/-- A word that is fetched stands in the instruction cache, or at I, from where it goes into the cache. -/
theorem State.fetchWord_ok {s t : State} {ag : AgentRef} {g : Gang} {fi : Nat} {pc va : Dword} {w : Word}
    (h : s.fetchWord ag g fi pc va = .ok (w, t)) :
    t = s ∨ ∃ n, t = s.modCore ag.core (·.cached n w) := by
  unfold State.fetchWord at h
  dsimp only at h
  split at h
  · cases h
  split at h
  · cases h
  · cases h
  · cases h
  next pa cp _ =>
  split at h
  next p _ =>
    exact .inl (Prod.mk.inj (Except.ok.inj h)).2.symm
  split at h
  · cases h
  · obtain ⟨rfl, rfl⟩ := Prod.mk.inj (Except.ok.inj h)
    exact .inr ⟨_, rfl⟩

theorem State.fetchWord_only {s t : State} {ag : AgentRef} {g : Gang} {fi : Nat} {pc va : Dword} {w : Word}
    (hc : (s.core? ag.core).isSome) (h : s.fetchWord ag g fi pc va = .ok (w, t)) : FetchesOnly ag.core s t := by
  obtain rfl | ⟨n, rfl⟩ := State.fetchWord_ok h
  · exact .refl hc
  · exact State.fetchesOnly_cached hc n w

/-- More words are fetched one after another. -/
theorem State.fetchWords_succ_ok {s t : State} {ag : AgentRef} {g : Gang} {fi n : Nat} {pc va : Dword} {ws : List Word}
    (h : s.fetchWords ag g fi pc (n + 1) va = .ok (ws, t)) :
    ∃ w s1 ws', s.fetchWord ag g fi pc va = .ok (w, s1) ∧ s1.fetchWords ag g fi pc n (va + 4) = .ok (ws', t) ∧ ws = w :: ws' := by
  unfold State.fetchWords at h
  split at h
  · cases h
  next w s1 hw =>
  split at h
  · cases h
  next ws' s2 hws =>
    obtain ⟨rfl, rfl⟩ := Prod.mk.inj (Except.ok.inj h)
    exact ⟨w, s1, ws', hw, hws, rfl⟩

theorem State.fetchWords_only {s t : State} {ag : AgentRef} {g : Gang} {fi n : Nat} {pc va : Dword} {ws : List Word}
    (hc : (s.core? ag.core).isSome) (h : s.fetchWords ag g fi pc n va = .ok (ws, t)) : FetchesOnly ag.core s t := by
  induction n generalizing s va ws with
  | zero =>
    obtain ⟨-, rfl⟩ := Prod.mk.inj (Except.ok.inj h)
    exact .refl hc
  | succ n ih =>
    obtain ⟨w, s1, ws', hw, hws, -⟩ := State.fetchWords_succ_ok h
    have h1 := State.fetchWord_only hc hw
    exact h1.trans (ih h1.core hws)

/-- A fetch is that of its first word, then of as many as that one asks for. -/
theorem State.fetch_ok {s t : State} {ag : AgentRef} {g : Gang} {fi : Nat} {pc : Dword} {ws : List Word}
    (h : s.fetch ag g fi pc = .ok (ws, t)) :
    ∃ w s1 ws', s.fetchWord ag g fi pc pc = .ok (w, s1) ∧
      s1.fetchWords ag g fi pc (formWords w - 1) (pc + 4) = .ok (ws', t) ∧ ws = w :: ws' := by
  unfold State.fetch at h
  split at h
  · cases h
  next w s1 hw =>
  split at h
  · cases h
  next ws' s2 hws =>
    obtain ⟨rfl, rfl⟩ := Prod.mk.inj (Except.ok.inj h)
    exact ⟨w, s1, ws', hw, hws, rfl⟩

/-- A fetch changes nothing but its core's instruction cache. -/
theorem State.fetch_only {s t : State} {ag : AgentRef} {g : Gang} {fi : Nat} {pc : Dword} {ws : List Word}
    (hc : (s.core? ag.core).isSome) (h : s.fetch ag g fi pc = .ok (ws, t)) : FetchesOnly ag.core s t := by
  obtain ⟨w, s1, ws', hw, hws, -⟩ := State.fetch_ok h
  have h1 := State.fetchWord_only hc hw
  exact h1.trans (State.fetchWords_only h1.core hws)

/-! ### A fetch at M level gives the words at I (R28) -/

/-- The instruction cache of a core holds what I holds. -/
def State.faithful (s : State) (r : CoreRef) : Prop := ∀ p ∈ (s.core r).icache, p.2 = (s.wordI r p.1).v

theorem State.wordI_modCore (s : State) (r q : CoreRef) (f : Core → Core) (w : Nat) : (s.modCore r f).wordI q w = s.wordI q w := by
  cases q <;> simp [State.wordI, State.reeve?, State.island?, CoreRef.site]

theorem State.installed_modCore (s : State) (r q : CoreRef) (f : Core → Core) (a n : Nat) :
    (s.modCore r f).installed q a n = s.installed q a n := by
  simp [State.installed, State.island?]

theorem State.installed_mono {s : State} {r : CoreRef} {a n b k : Nat} (h : s.installed r a n = true) (hk : b + k ≤ a + n) :
    s.installed r b k = true := by
  unfold State.installed at *
  split at h
  · split at h
    · simp only [decide_eq_true_eq] at h ⊢; omega
    · cases h
  · simp only [decide_eq_true_eq] at h ⊢; omega

/-- A word fetched at M level, through a faithful instruction cache, is the word at I. -/
theorem State.fetchWord_at_M {s : State} {ag : AgentRef} {g : Gang} (fi : Nat) (pc va : Dword) (hg : g.ctx = none)
    (hc : (s.core? ag.core).isSome) (hf : s.faithful ag.core) (hi : s.installed ag.core va.toNat 4 = true) :
    ∃ t, s.fetchWord ag g fi pc va = .ok ((s.wordI ag.core (va.toNat / 4)).v, t) ∧ t.faithful ag.core ∧ (t.core? ag.core).isSome ∧
      (∀ w, t.wordI ag.core w = s.wordI ag.core w) ∧ ∀ a n, t.installed ag.core a n = s.installed ag.core a n := by
  unfold State.fetchWord
  simp only [hg, Option.isSome_none, Bool.false_and, Bool.false_eq_true, if_false, translate]
  split
  next p hp =>
    have hm := List.mem_of_find?_eq_some hp
    have hp : p.1 = va.toNat / 4 := by simpa using List.find?_some hp
    exact ⟨s, by rw [hf p hm, hp], hf, hc, fun _ => rfl, fun _ _ => rfl⟩
  next =>
    simp only [hi, Bool.not_true, Bool.and_false, Bool.false_eq_true, if_false]
    refine ⟨s.modCore ag.core (·.cached _ _), rfl, ?_, ?_, fun w => State.wordI_modCore .., fun a n => State.installed_modCore ..⟩
    · obtain ⟨c, hcs⟩ := Option.isSome_iff_exists.mp hc
      intro p hp
      have hcore : s.core ag.core = c := by simp [State.core, hcs]
      rw [State.core_modCore (Core.cached · _ _) (fun _ => rfl) hcs] at hp
      rw [State.wordI_modCore]
      rcases List.mem_append.mp hp with hp | hp
      · exact hf p (hcore ▸ hp)
      · obtain rfl := List.mem_singleton.mp hp
        rfl
    · rw [State.core?_modCore s _ _ (·.cached _ _) (fun _ => rfl) hc]
      simpa using hc

/-- n + 1 words from an address on are the first and the n from the next word on. -/
theorem words_succ {α : Type} (f : Nat → α) (a n : Nat) : (List.range (n + 1)).map (fun k => f (a / 4 + k)) =
    f (a / 4) :: (List.range n).map fun k => f ((a + 4) / 4 + k) := by
  rw [List.range_succ_eq_map, List.map_cons, List.map_map]
  refine congrArg₂ _ rfl (List.map_congr_left fun k _ => congrArg f ?_)
  change a / 4 + (k + 1) = (a + 4) / 4 + k
  omega

theorem toNat_add_four {va : Dword} (h : va.toNat + 4 < 2 ^ 64) : (va + 4).toNat = va.toNat + 4 := by
  rw [BitVec.toNat_add]
  exact Nat.mod_eq_of_lt h

theorem State.fetchWords_at_M {s : State} {ag : AgentRef} {g : Gang} (fi : Nat) (pc : Dword) {va : Dword} {n : Nat}
    (hg : g.ctx = none) (hc : (s.core? ag.core).isSome) (hf : s.faithful ag.core) (hv : va.toNat + 4 * n < 2 ^ 64)
    (hi : s.installed ag.core va.toNat (4 * n) = true) :
    ∃ t, s.fetchWords ag g fi pc n va = .ok ((List.range n).map fun k => (s.wordI ag.core (va.toNat / 4 + k)).v, t) := by
  induction n generalizing s va with
  | zero => exact ⟨s, rfl⟩
  | succ n ih =>
    obtain ⟨t, hw, hf', hc', hword, hinst⟩ := State.fetchWord_at_M fi pc va hg hc hf (State.installed_mono hi (by omega))
    have hnext := toNat_add_four (va := va) (by omega)
    obtain ⟨u, hws⟩ := ih hc' hf' (va := va + 4) (by omega) (by rw [hinst]; exact State.installed_mono hi (by omega))
    refine ⟨u, ?_⟩
    rw [words_succ fun k => (s.wordI ag.core k).v]
    simp only [State.fetchWords, hw, hws, hword, hnext]

/-- An instruction has 1 to 3 words (R28). -/
theorem formWords_bounds (w : Word) : 1 ≤ formWords w ∧ formWords w ≤ 3 := by
  unfold formWords; split <;> simp

/-- A fetch at M level with an empty instruction cache gives the words in memory. -/
theorem State.fetch_at_M {s : State} {ag : AgentRef} {g : Gang} (fi : Nat) {pc : Dword} (hg : g.ctx = none)
    (hc : (s.core? ag.core).isSome) (hf : s.faithful ag.core) (hpc : pc.toNat + 12 < 2 ^ 64)
    (hi : s.installed ag.core pc.toNat (4 * formWords (s.wordI ag.core (pc.toNat / 4)).v) = true) :
    ∃ t, s.fetch ag g fi pc = .ok ((List.range (formWords (s.wordI ag.core (pc.toNat / 4)).v)).map
      (fun k => (s.wordI ag.core (pc.toNat / 4 + k)).v), t) := by
  obtain ⟨h1, h3⟩ := formWords_bounds (s.wordI ag.core (pc.toNat / 4)).v
  obtain ⟨n, hn⟩ := Nat.exists_eq_add_of_le' h1
  obtain ⟨t, hw, hf', hc', hword, hinst⟩ := State.fetchWord_at_M fi pc pc hg hc hf (State.installed_mono hi (by omega))
  have hnext := toNat_add_four (va := pc) (by omega)
  obtain ⟨u, hws⟩ := State.fetchWords_at_M fi pc (va := pc + 4) (n := n) hg hc' hf' (by omega)
    (by rw [hinst]; exact State.installed_mono hi (by omega))
  refine ⟨u, ?_⟩
  rw [hn, words_succ fun k => (s.wordI ag.core k).v]
  simp only [State.fetch, hw, hn, Nat.add_sub_cancel, hws, hword, hnext]

/-! ### Steps -/

/-- The front of a turn that runs an instruction (R23). -/
theorem State.front_run {s s1 : State} {c : Core} {g : Gang} {fi : Nat} {ws : List Word} {i : Instr}
    (ha : s.agent? = some (c, g, fi)) (hpc : (g.act.flow fi).pc.toNat % 4 = 0) (hm : g.act.missing = [])
    (hb : c.breaks g (g.act.flow fi) = false) (hf : s.fetch s.cur g fi (g.act.flow fi).pc = .ok (ws, s1))
    (hd : decodeWords ws = .ok i) : s.front = .run i s1 := by
  have hlow : (g.act.flow fi).pc.extractLsb' 0 2 = 0 := by
    apply BitVec.eq_of_toNat_eq
    simpa using hpc
  simp [State.front, ha, hm, hb, hlow, hf, hd]

/-- Settles O40: every field by evaluation, the gang of each reeve's core in turn. -/
theorem resetState : Obligations.ResetState := by
  unfold Obligations.ResetState
  refine ⟨rfl, rfl, rfl, rfl, fun _ => rfl, rfl, by decide, by decide, fun n hn => ?_⟩
  match n, hn with
  | 0, _ | 1, _ | 2, _ =>
    exact ⟨_, _, rfl, rfl, rfl, rfl, rfl, rfl, rfl, rfl, rfl, rfl, rfl, rfl, rfl, by decide, rfl, rfl, by decide⟩

/-- Settles O39: the front of the turn is the instruction, in both kinds of turn. -/
theorem stepRuns : Obligations.StepRuns := by
  intro s0 s1 a c g fi ws i s pc runs ha hpc
  obtain ⟨hcore, -, -⟩ := State.agent?_some ha
  have hsome : (s.core? s.cur.core).isSome := by simp [hcore]
  have hgang : (s.gang? a.core a.slot).bind Gang.nextPending = g.nextPending := by
    rw [show s.gang? a.core a.slot = some g from State.agent?_gang ha]; rfl
  constructor
  · intro hp hm hb hf hd
    have hrun : s.front = .run i s1 := State.front_run ha hpc hm hb hf hd
    have honly := State.fetch_only hsome hf
    refine ⟨honly.only, (honly.gangs _).trans (State.agent?_gang ha), fun hag hsel => ?_, fun r hsel => ?_⟩
    · change step s0 = _
      rw [step, hag]
      simp only [ownTurn, hsel, turn]
      rw [hgang, hp, hrun]
      change advance (exec i s1) = _
      cases exec i s1 <;> rfl
    · change step _ = _
      simp only [step, agendaTurn]
      rw [hsel]
      simp only []
      rw [hgang, hp, hrun]
      simp only []
      cases exec i s1 <;> rfl
  · rintro n rfl hg hic hlt hi
    have hfaith : s.faithful s.cur.core := by
      intro p hp
      rw [show s.core s.cur.core = c by simp [State.core, hcore], hic] at hp
      cases hp
    exact State.fetch_at_M fi hg hsome hfaith hlt hi

end Sys2Proof.Machine

/-! ## System registers (R19 to R22, R329) -/

namespace Sys2Proof.Machine

/-! ### Checks that one lane fails, or none -/

theorem poisons_of_clean {l : List LV} (ord : Nat) (c : Cause) (lane : Nat) (h : ∀ v ∈ l, v.p = false) :
    poisons ord c lane l = [] := by
  rw [poisons, List.filter_eq_nil_iff.mpr fun v hv => by simp [h v hv]]
  rfl

/-- One raised cause where no region is open: the trap (R322). -/
theorem Ex.check_one {x : Ex} (h : x.g.region = none) (r : Raised) (k : Res) : x.check [r] k = x.trap x.s r := by
  simp [Ex.check, Ex.stopped, judge, firstRaised, h]

/-! ### Access to system registers (R19, R22, R329) -/

/-- Whether an agent may read, or write, register n (R19). -/
def Ex.may (x : Ex) (n : Nat) (write : Bool) : Prop :=
  ∃ c, sysAccess n = some c ∧ if write then x.g.pl.column c = .rw else x.g.pl.column c ≠ .no

section
variable {x : Ex} {l : Nat} (hp : (x.lv 1 l).p = false)
include hp

theorem Ex.sysRaised_may {write : Bool} (h : x.may (x.lv 1 l).v.toNat write) : x.sysRaised l write = [] := by
  obtain ⟨c, hc, hk⟩ := h
  have hcol : (x.g.pl.column c == .no || (write && x.g.pl.column c != .rw)) = false := by
    cases write <;> simp_all
  simp only [Ex.sysRaised, hc, hcol]
  rw [poisons_of_clean _ _ _ (by simpa using hp)]
  rfl

/-- A number that the map does not list (R21). -/
theorem Ex.sysRaised_unlisted (write : Bool) (h : sysAccess (x.lv 1 l).v.toNat = none) :
    x.sysRaised l write = [.lane' 1 .badOperand l ((x.lv 1 l).v.setWidth 64)] := by
  simp only [Ex.sysRaised, h]
  rw [poisons_of_clean _ _ _ (by simpa using hp)]
  rfl

/-- A level without the access (R22). -/
theorem Ex.sysRaised_denied {write : Bool} {c : Acs × Acs × Acs} (hc : sysAccess (x.lv 1 l).v.toNat = some c)
    (h : x.g.pl.column c = .no ∨ write = true ∧ x.g.pl.column c = .r) :
    x.sysRaised l write = [.lane' 1 .privileged l ((x.lv 1 l).v.setWidth 64)] := by
  have hcol : (x.g.pl.column c == .no || (write && x.g.pl.column c != .rw)) = true := by
    rcases h with h | ⟨hw, h⟩
    · simp [h]
    · simp [h, hw]
  simp only [Ex.sysRaised, hc, hcol]
  rw [poisons_of_clean _ _ _ (by simpa using hp)]
  rfl

end

/-! ### What a register holds (R19, R20, R428) -/

theorem extractLsb'_ofNat {s n : Nat} (N : Nat) (h : s + n ≤ 64) :
    (BitVec.ofNat 64 N).extractLsb' s n = BitVec.ofNat n (N / 2 ^ s) := by
  apply BitVec.eq_of_getLsbD_eq
  intro i hi
  simp only [BitVec.getLsbD_extractLsb', BitVec.getLsbD_ofNat, Nat.testBit_div_two_pow]
  rw [show decide (s + i < 64) = true from decide_eq_true (by omega), Bool.true_and, Nat.add_comm]

/-- The code of a gang's width in sy.status. -/
def widthCode (w : Nat) : Nat := if w = 8 then 1 else if w = 16 then 2 else 3

/-- sy.status as the number that its fields make (R20). -/
theorem Ex.status_eq (x : Ex) : x.status = BitVec.ofNat 64 (x.fl.msd * 2 ^ 18 + widthCode x.w * 2 ^ 14 + x.g.ppl.num * 2 ^ 8 +
    (x.g.body.parted || x.b.parted).toNat * 2 ^ 7 + x.g.region.isSome.toNat * 2 ^ 6 + x.g.sstep.toNat * 2 ^ 5 +
    x.g.twin.toNat * 2 ^ 4 + x.g.psn.toNat * 2 ^ 3 + x.g.pl.num) := by
  have bit (b : Bool) (n : Nat) : (if b then 2 ^ n else 0) = b.toNat * 2 ^ n := by cases b <;> simp
  have gwc : (match x.w with | 8 => 1 | 16 => 2 | _ => 3) = widthCode x.w := by
    unfold widthCode
    split <;> simp_all
  simp only [Ex.status, bit]
  exact congrArg (fun k => BitVec.ofNat 64 (x.fl.msd * 2 ^ 18 + k * 2 ^ 14 + _ + _ + _ + _ + _ + _ + _)) gwc

theorem Level.num_le (l : Level) : l.num ≤ 3 := by cases l <;> decide

/-- The fields of sy.status (R20). -/
theorem Ex.status_fields (x : Ex) : x.status.extractLsb' 0 3 = BitVec.ofNat 3 x.g.pl.num ∧ x.status.getLsbD 3 = x.g.psn ∧
    x.status.getLsbD 4 = x.g.twin ∧ x.status.getLsbD 5 = x.g.sstep ∧ x.status.getLsbD 6 = x.g.region.isSome ∧
    x.status.getLsbD 7 = (x.g.body.parted || x.b.parted) ∧ x.status.extractLsb' 8 6 = BitVec.ofNat 6 x.g.ppl.num ∧
    x.status.extractLsb' 14 4 = (if x.w = 8 then 1 else if x.w = 16 then 2 else 3) ∧
    x.status.extractLsb' 18 6 = BitVec.ofNat 6 x.fl.stack.length ∧ (x.fl.stack.length ≤ 32 → x.status >>> 24 = 0) := by
  have hpl := x.g.pl.num_le
  have hppl := x.g.ppl.num_le
  have hw : widthCode x.w ≤ 3 := by unfold widthCode; split <;> [skip; split] <;> decide
  have hwc : (if x.w = 8 then 1 else if x.w = 16 then 2 else 3 : BitVec 4) = BitVec.ofNat 4 (widthCode x.w) := by
    unfold widthCode; split <;> [skip; split] <;> rfl
  rw [hwc, x.status_eq]
  have h7 := (x.g.body.parted || x.b.parted).toNat_le
  have h6 := x.g.region.isSome.toNat_le
  have h5 := x.g.sstep.toNat_le
  have h4 := x.g.twin.toNat_le
  have h3 := x.g.psn.toNat_le
  have hmsd : x.fl.msd = x.fl.stack.length := rfl
  have field {n N M : Nat} (h : N % 2 ^ n = M % 2 ^ n) : BitVec.ofNat n N = BitVec.ofNat n M := by
    apply BitVec.eq_of_toNat_eq
    simpa using h
  have flag {N k : Nat} {b : Bool} (hk : k < 64) (h : N / 2 ^ k % 2 = b.toNat) : (BitVec.ofNat 64 N).getLsbD k = b := by
    rw [BitVec.getLsbD_ofNat, decide_eq_true hk, Bool.true_and, Nat.testBit_eq_decide_div_mod_eq, h]
    cases b <;> rfl
  refine ⟨?_, flag (by decide) ?_, flag (by decide) ?_, flag (by decide) ?_, flag (by decide) ?_, flag (by decide) ?_, ?_, ?_, ?_,
    fun h => ?_⟩
  case refine_10 =>
    apply BitVec.eq_of_toNat_eq
    simp only [BitVec.toNat_ushiftRight, BitVec.toNat_ofNat, Nat.shiftRight_eq_div_pow]
    change _ = 0
    omega
  case refine_1 | refine_7 | refine_8 | refine_9 =>
    rw [extractLsb'_ofNat _ (by decide)]
    apply field
    omega
  all_goals omega

section
variable {x : Ex}

theorem Ex.ctxReg_core (f : CtxIsland → Dword) (g : Core → Dword) (h : x.g.ctx = none) : x.ctxReg f g = g x.core := by
  simp [Ex.ctxReg, h]

theorem Ex.ctxReg_context (f : CtxIsland → Dword) (g : Core → Dword) {c j : Nat} {k : CtxIsland} (hc : x.g.ctx = some c)
    (hj : x.ag.core.site = some j) (hk : x.s.ctxAt? j c = some k) : x.ctxReg f g = f k := by
  simp [Ex.ctxReg, hc, hj, hk]

/-- The log of an M-level gang is its core's (R428). -/
theorem Ex.polRegs_core (h : x.g.ctx = none) (l : Nat) :
    x.s.polRegs (x.charge l) = (x.core.pol, x.core.polhead, x.core.fullSeen) := by
  simp [State.polRegs, Ex.charge, Ex.core, h]

theorem Ex.polRegs_context {c : Nat} {k : CtxIsland} (hc : x.g.ctx = some c) (l : Nat)
    (hk : x.s.ctxAt? (x.ag.core.site.getD 0) c = some k) : x.s.polRegs (x.charge l) = (k.pol, k.polhead, k.fullSeen) := by
  simp [State.polRegs, Ex.charge, hc, hk]

theorem Ex.setPolHead_core (h : x.g.ctx = none) (l head : Nat) (seen : Bool) :
    x.s.setPolHead (x.charge l) head seen = x.s.modCore x.ag.core fun c => { c with polhead := head, fullSeen := seen } := by
  simp [State.setPolHead, Ex.charge, h]

theorem Ex.setPolHead_context {c : Nat} (h : x.g.ctx = some c) (l head : Nat) (seen : Bool) :
    x.s.setPolHead (x.charge l) head seen =
      x.s.modCtxAt (x.ag.core.site.getD 0) c fun k => { k with polhead := head, fullSeen := seen } := by
  simp [State.setPolHead, Ex.charge, h]

end

/-- A read leaves the state, but that off the compute dies it may use free values. -/
theorem Ex.sysRead_state (x : Ex) (n : Nat) :
    (x.sysRead n).2 = x.s ∨ x.ag.core.isCompute = false ∧ (x.sysRead n).2 = x.s.freeD.2 := by
  unfold Ex.sysRead
  split
  case h_11 =>
    cases hr : x.ag.core
    case reeve => exact .inr ⟨rfl, rfl⟩
    all_goals exact .inl rfl
  case h_13 =>
    by_cases h : x.ag.core.isCompute = true
    · exact .inl (by simp [h])
    · exact .inr ⟨by simpa using h, by simp [h]⟩
  all_goals exact .inl rfl

theorem State.freeD_only (r : CoreRef) (s : State) : OnlyCore r s s.freeD.2 := ⟨fun _ _ => rfl, rfl⟩

/-- The free granules of each physical quarter (R19). -/
theorem Ex.sysRead_granules (x : Ex) {q : Nat} (hq : q < 4) :
    (x.sysRead 0x011).1.extractLsb' (16 * q) 16 = BitVec.ofNat 16 (x.core.freeGran q) := by
  change (BitVec.ofNat 64 (joinEls 16 ((upTo 4).map x.core.freeGran))).extractLsb' (16 * q) 16 = _
  rw [extractLsb'_ofNat _ (by omega)]
  apply BitVec.eq_of_toNat_eq
  rw [BitVec.toNat_ofNat, BitVec.toNat_ofNat, joinEls_get]
  simp [upTo, hq]

theorem Ex.sysRead_stalls (x : Ex) {n : Nat} (h1 : 0x100 ≤ n) : (x.sysRead n).1 = lookupD (n - 0x100) 0 x.core.stalls := by
  unfold Ex.sysRead
  split
  case h_22 => rfl
  all_goals omega

theorem Ex.sysWrite_stalls (x : Ex) {n : Nat} (d : Dword) (h1 : 0x100 ≤ n) :
    x.sysWrite n d = x.s.modCore x.ag.core fun c => { c with stalls := setAt (n - 0x100) d c.stalls } := by
  unfold Ex.sysWrite
  split
  case h_17 => simp [h1]
  all_goals omega

/-- The mark of a full log that stays full (R333). -/
theorem full_mark (h p : Nat) (f : Bool) :
    (h == 8191 && p == 8191 && f) = decide (h = 8191 ∧ p = 8191 ∧ f = true) := by
  rw [Bool.eq_iff_iff]
  simp [and_assoc]

/-! ### SRD and SWR (R329) -/

section
variable {h : Hdr} {d a : Opnd} {s : State} {x : Ex} {l : Nat}

theorem Ready.exec_srd (hr : Ready (.srd h d a) s x) : exec (.srd h d a) s = x.srd := issue_of_ready hr Ex.srd
theorem Ready.exec_swr (hr : Ready (.swr h d a) s x) : exec (.swr h d a) s = x.swr := issue_of_ready hr Ex.swr

theorem Ready.srd_empty (hr : Ready (.srd h d a) s x) (hset : x.set = []) :
    exec (.srd h d a) s = .next (x.written s x.inSet (pairRows x.w 0)) := by
  rw [hr.exec_srd, Ex.srd, show x.lowest = none by simp [Ex.lowest, hset], ← hr.state]
  exact Ex.check_nil hr.full _

theorem Ready.swr_empty (hr : Ready (.swr h d a) s x) (hset : x.set = []) : exec (.swr h d a) s = .next (x.ended s x.next) := by
  rw [hr.exec_swr, Ex.swr, show x.lowest = none by simp [Ex.lowest, hset], ← hr.state]
  exact Ex.check_nil hr.full _

/-- A read that the level has. -/
theorem Ready.srd_reads (hr : Ready (.srd h d a) s x) (hl : x.set.head? = some l) (hp : (x.lv 1 l).p = false)
    (hm : x.may (x.lv 1 l).v.toNat false) :
    let r := x.sysRead (x.lv 1 l).v.toNat
    exec (.srd h d a) s = .next (x.written r.2 x.inSet (pairRows x.w r.1)) := by
  rw [hr.exec_srd, Ex.srd, show x.lowest = some l from hl]
  dsimp only
  rw [Ex.sysRaised_may hp hm, Ex.check_nil hr.full]
  rfl

/-- A write that the level has. -/
theorem Ready.swr_writes (hr : Ready (.swr h d a) s x) (hl : x.set.head? = some l) (hp : (x.lv 1 l).p = false)
    (hm : x.may (x.lv 1 l).v.toNat true) (hc : ∀ r ∈ x.regs 0 l, r.p = false) :
    exec (.swr h d a) s = .next (x.ended (x.sysWrite (x.lv 1 l).v.toNat (x.pair 0 l)) x.next) := by
  rw [hr.exec_swr, Ex.swr, show x.lowest = some l from hl]
  dsimp only
  rw [Ex.sysRaised_may hp hm, poisons_of_clean _ _ _ hc]
  exact Ex.check_nil hr.full _

/-- A cause that the register number raises ends SRD where no region is open. -/
theorem Ready.srd_traps (hr : Ready (.srd h d a) s x) (hl : x.set.head? = some l) (hg : x.g.region = none) {r : Raised}
    (hs : x.sysRaised l false = [r]) : exec (.srd h d a) s = x.trap s r := by
  rw [hr.exec_srd, Ex.srd, show x.lowest = some l from hl]
  dsimp only
  rw [hs, Ex.check_one hg, hr.state]

theorem Ready.swr_traps (hr : Ready (.swr h d a) s x) (hl : x.set.head? = some l) (hg : x.g.region = none) {r : Raised}
    (hs : x.sysRaised l true = [r]) : exec (.swr h d a) s = x.trap s r := by
  rw [hr.exec_swr, Ex.swr, show x.lowest = some l from hl]
  dsimp only
  rw [hs, show firstOf [[r], poisons 2 .poisonStore l (x.regs 0 l)] = [r] from rfl, Ex.check_one hg, hr.state]

end

/-- Settles O35: reads and writes by the register's number, traps by the checks of the number. -/
theorem systemRegisters : Obligations.SystemRegisters := by
  intro h d a s x
  dsimp only
  refine ⟨Ready.srd_empty, Ready.swr_empty, fun l hl hp => ⟨fun hr hm => ?_, fun hr hm hc => ?_, fun hg hr => ?_⟩⟩
  · obtain rfl := hr.state
    refine ⟨_, _, hr.srd_reads hl hp hm, ?_, fun hcomp => ?_, ?_⟩
    · rcases x.sysRead_state (x.lv 1 l).v.toNat with e | ⟨-, e⟩ <;> rw [e]
      · exact .refl _ _
      · exact x.s.freeD_only _
    · rcases x.sysRead_state (x.lv 1 l).v.toNat with e | ⟨e, -⟩
      · exact e
      · rw [hcomp] at e; cases e
    · generalize (x.lv 1 l).v.toNat = n
      have value {k : Nat} {v : Dword} (hk : (x.sysRead k).1 = v) (e : n = k) : (x.sysRead n).1 = v := e ▸ hk
      refine ⟨value rfl, value rfl, value rfl, value rfl, value rfl, value rfl, value rfl, value rfl, value rfl, value rfl,
        fun e k hk => value (by simp [Ex.sysRead, hk]) e, fun e => ?_, value ?_,
        fun e q hq => e ▸ x.sysRead_granules hq, value rfl, fun e hcomp => value (by simp [Ex.sysRead, hcomp]) e, value rfl,
        fun h1 _ => x.sysRead_stalls h1, fun hctx => ?_, fun c j k hctx hj hk => ?_⟩
      · rw [show (x.sysRead n).1 = x.status from value rfl e]
        exact x.status_fields
      · cases hreg : x.g.region <;> simp [Ex.sysRead, hreg]
      · exact ⟨value (Ex.ctxReg_core _ _ hctx), value (congrArg Prod.fst (Ex.polRegs_core hctx 0)),
          value (congrArg (fun p : Dword × Nat × Bool => BitVec.ofNat 64 p.2.1) (Ex.polRegs_core hctx 0)),
          value (Ex.ctxReg_core _ _ hctx)⟩
      · have hpol := Ex.polRegs_context hctx 0 (by simpa [hj] using hk)
        exact ⟨value (Ex.ctxReg_context _ _ hctx hj hk), value (congrArg Prod.fst hpol),
          value (congrArg (fun p : Dword × Nat × Bool => BitVec.ofNat 64 p.2.1) hpol), value (Ex.ctxReg_context _ _ hctx hj hk)⟩
  · obtain rfl := hr.state
    refine ⟨_, hr.swr_writes hl hp hm hc, ?_⟩
    generalize (x.lv 1 l).v.toNat = n
    have value {k : Nat} {t : State} (hk : x.sysWrite k (x.pair 0 l) = t) (e : n = k) : x.sysWrite n (x.pair 0 l) = t := e ▸ hk
    refine ⟨value rfl, value rfl, value rfl, value rfl, value rfl, value rfl, value rfl, value rfl, value rfl, value rfl, value rfl,
      fun e => ⟨fun c k hctx hk => value ?_ e, fun hctx => value ?_ e⟩, value rfl, value rfl, fun h1 _ => x.sysWrite_stalls _ h1,
      value rfl, value rfl, value ?_⟩
    · refine (Ex.setPolHead_context hctx 0 _ _).trans ?_
      rw [Ex.polRegs_context hctx 0 hk, full_mark]
    · refine (Ex.setPolHead_core hctx 0 _ _).trans ?_
      rw [Ex.polRegs_core hctx 0, full_mark]
    · simp [Ex.sysWrite]
  · rcases hr with hr | hr <;> obtain rfl := hr.state
    · rw [hr.instr]
      exact ⟨fun hn => hr.srd_traps hl hg (Ex.sysRaised_unlisted hp false hn),
        fun c hc hk => hr.srd_traps hl hg (Ex.sysRaised_denied hp hc (hk.imp_right fun k => absurd k.1 nofun))⟩
    · rw [hr.instr]
      exact ⟨fun hn => hr.swr_traps hl hg (Ex.sysRaised_unlisted hp true hn),
        fun c hc hk => hr.swr_traps hl hg (Ex.sysRaised_denied hp hc (hk.imp_right fun k => ⟨rfl, k.2⟩))⟩

end Sys2Proof.Machine

/-! ## Write-back of a result row (R26, R144, R147) -/

namespace Sys2Proof.Machine

/-! ### Lists -/

theorem setNth_eq_set {α : Type} (l : List α) (n : Nat) (y : α) : setNth l n y = l.set n y := by
  induction l generalizing n with
  | nil => rfl
  | cons a r ih => cases n <;> simp [setNth, ih]

theorem laneAt_mapIdx (f : Nat → LV → LV) {row : Lanes} {l : Nat} (h : l < row.length) :
    laneAt (row.mapIdx f) l = f l (laneAt row l) := by
  simp [laneAt, h]

/-! ### Frames: what a queue definition does not touch (R137, R146) -/

@[simp] theorem Frame.setQdef_ord (f : Frame) (second : Bool) (d : Option QDef) : (f.setQdef second d).ord = f.ord := by
  cases second <;> rfl
@[simp] theorem Frame.setQdef_abase (f : Frame) (second : Bool) (d : Option QDef) : (f.setQdef second d).abase = f.abase := by
  cases second <;> rfl
@[simp] theorem Frame.setQdef_ngr (f : Frame) (second : Bool) (d : Option QDef) : (f.setQdef second d).ngr = f.ngr := by
  cases second <;> rfl

/-- A register's place does not depend on the queue definitions. -/
theorem granOrd_setQdef (fs : List Frame) (second : Bool) (d : Option QDef) (g : Nat) :
    granOrd (modNth (fun f => f.setQdef second d) fs 0) g = granOrd fs g := by
  cases fs with
  | nil => rfl
  | cons f rest => cases rest <;> simp [modNth, granOrd, Frame.shared]

/-- A name of a queue that is defined numbers one of its queues. -/
theorem QDef.role_name {d : QDef} {t second : Bool} {r j : Nat} (h : d.role t r = .name second j) : t = second ∧ j < d.count := by
  unfold QDef.role at h
  split at h
  next hc =>
    simp only [Bool.and_eq_true, decide_eq_true_eq] at hc
    obtain ⟨rfl, rfl⟩ := RegRole.name.inj h
    exact ⟨rfl, by omega⟩
  next =>
    split at h <;> cases h

theorem Frame.role_name {f : Frame} {second : Bool} {r j : Nat} {d : QDef} (h : f.role r = .name second j)
    (hd : f.qdef second = some d) : j < d.count := by
  have named {q : Option QDef} {t : Bool} (hq : (q.map fun d => d.role t r).getD .plain = .name second j)
      (ht : f.qdef t = q) : j < d.count := by
    cases q with
    | none => cases hq
    | some e =>
      obtain ⟨rfl, hj⟩ := QDef.role_name (d := e) hq
      rw [hd] at ht
      exact Option.some.inj ht ▸ hj
  unfold Frame.role at h
  split at h
  · exact named h rfl
  · exact named h rfl

/-- A queue's registers lie in its definition's storage (R153). -/
theorem QDef.entryReg_lt {d : QDef} {j e : Nat} (hj : j < d.count) (he : e < d.depth) :
    d.entryReg j e < d.base + d.count * d.depth := by
  have h1 : (j + 1) * (d.depth - 1) ≤ d.count * (d.depth - 1) := Nat.mul_le_mul_right _ hj
  have h2 : d.count * d.depth = d.count * (d.depth - 1) + d.count := by
    rw [← Nat.mul_succ]
    congr 1
    omega
  rw [Nat.succ_mul] at h1
  unfold QDef.entryReg
  split
  · omega
  next h =>
    have : e ≠ 0 := by simpa using h
    omega

/-! ### Rows of a sound body (R10, R137) -/

section
variable {b : Body} {w : Nat}

/-- A row after a write of a row: every register has a place of its own. -/
theorem Body.Sound.row_setRow (hs : b.Sound w) {r q : Nat} (hr : r < 8 * b.frame.ngr) (hq : q < 8 * b.frame.ngr) (row : Lanes) :
    (b.setRow r row).row q = if q = r then row else b.row q := by
  have hg := hs.there (r / 8) (by omega)
  obtain ⟨h8, -⟩ := hs.shape _ (List.getElem_mem hg)
  simp only [Body.row, Body.rowIn, Body.setRow, Body.gran, List.getD_eq_getElem?_getD, modNth_getElem?]
  by_cases hqr : q / 8 = r / 8
  · rw [hqr, if_pos rfl, List.getElem?_eq_getElem hg]
    simp only [Option.map_some, Option.getD_some, setNth_eq_set, List.getElem?_set]
    by_cases hm : r % 8 = q % 8
    · rw [if_pos hm, if_pos (by omega : q = r), if_pos (by omega)]
      rfl
    · rw [if_neg hm, if_neg (fun e => hm (by rw [e]))]
  · rw [if_neg fun e => hqr (hs.apart _ _ (by omega) (by omega) e), if_neg fun e => hqr (by rw [e])]

theorem Body.row_setQdef (b : Body) (second : Bool) (d : Option QDef) (q : Nat) :
    (b.modFrame fun f => f.setQdef second d).row q = b.row q := by
  simp only [Body.row, Body.rowIn, Body.modFrame, Body.gran, granOrd_setQdef]

end

/-! ### Pops (R147) -/

theorem shiftQueue_frames (d : QDef) (j n e : Nat) (b : Body) : (shiftQueue d j n e b).frames = b.frames := by
  induction n generalizing e b with
  | zero => rfl
  | succ n ih => exact ih _ _

theorem shiftQueue_flows (d : QDef) (j n e : Nat) (b : Body) : (shiftQueue d j n e b).flows = b.flows := by
  induction n generalizing e b with
  | zero => rfl
  | succ n ih => exact ih _ _

theorem Body.modFrame_ngr (b : Body) (f : Frame → Frame) (hf : ∀ g, (f g).ngr = g.ngr) : (b.modFrame f).frame.ngr = b.frame.ngr := by
  unfold Body.modFrame Body.frame
  cases b.frames with
  | nil => rfl
  | cons a r => exact hf a

@[simp] theorem Body.pop_flows (b : Body) (second : Bool) (j : Nat) : (b.pop second j).flows = b.flows := by
  unfold Body.pop
  split
  · rfl
  · exact shiftQueue_flows ..

@[simp] theorem Body.pop_ngr (b : Body) (second : Bool) (j : Nat) : (b.pop second j).frame.ngr = b.frame.ngr := by
  unfold Body.pop
  split
  · rfl
  · rw [Body.modFrame_ngr _ _ fun g => Frame.setQdef_ngr g _ _]
    exact congrArg (fun l => (List.headD l (.launch 1)).ngr) (shiftQueue_frames ..)

/-- The pops of an instruction's queue sources (R147). -/
def Body.pops (b : Body) (qs : List (Bool × Nat)) : Body := qs.foldl (fun b q => b.pop q.1 q.2) b

@[simp] theorem Body.pops_flows (b : Body) (qs : List (Bool × Nat)) : (b.pops qs).flows = b.flows := by
  induction qs generalizing b with
  | nil => rfl
  | cons q r ih => exact (ih _).trans (b.pop_flows q.1 q.2)

@[simp] theorem Body.pops_ngr (b : Body) (qs : List (Bool × Nat)) : (b.pops qs).frame.ngr = b.frame.ngr := by
  induction qs generalizing b with
  | nil => rfl
  | cons q r ih => exact (ih _).trans (b.pop_ngr q.1 q.2)

/-! ### Write-back to D (R26, R147) -/

/-- The row that a destination register takes: the result in the lanes of the set, its own lanes elsewhere. -/
def blend (inSet : Nat → Bool) (row old : Lanes) : Lanes := row.mapIdx fun i y => if inSet i then y else laneAt old i

theorem laneAt_blend (inSet : Nat → Bool) {row : Lanes} (old : Lanes) {l : Nat} (h : l < row.length) :
    laneAt (blend inSet row old) l = if inSet l then laneAt row l else laneAt old l := laneAt_mapIdx _ h

section
variable (g : Gang) (inSet : Nat → Bool) (row : Lanes)

theorem Gang.writeD_none {nw : Bool} {d : Opnd} (h : nw = true ∨ d = .z) (rows : List Lanes) : g.writeD nw d inSet rows = g := by
  rcases h with rfl | rfl
  · unfold Gang.writeD; split <;> rfl
  · rfl

theorem Gang.writeD_plain {r : Fin 240} (h : g.act.frame.role r.val = .plain) :
    (g.writeD false (.v r) inSet [row]).act = g.act.setRow r.val (blend inSet row (g.act.row r.val)) := by
  simp only [Gang.writeD, Bool.false_eq_true, if_false, h]
  change (g.modAct _).act = _
  rw [Gang.act_modAct]
  rfl

theorem Gang.writeD_queue {r : Fin 240} {second : Bool} {j : Nat} (h : g.act.frame.role r.val = .name second j) :
    (g.writeD false (.v r) inSet [row]).act = g.act.push second j inSet row := by
  simp only [Gang.writeD, Bool.false_eq_true, if_false, h]
  exact g.act_modAct _

@[simp] theorem Body.push_flows (b : Body) (second : Bool) (j : Nat) : (b.push second j inSet row).flows = b.flows := by
  unfold Body.push; split <;> rfl

/-- A push: the new entry behind the newest, the occupancy one more (R147). -/
theorem Body.push_eq {b : Body} {second : Bool} {j : Nat} {d : QDef} (h : b.frame.qdef second = some d) :
    b.push second j inSet row = (b.setRow (d.entryReg j (d.occOf j)) (blend inSet row
      (if d.occOf j = 0 then row.map fun _ => ⟨0, false⟩ else b.row (d.entryReg j (d.occOf j - 1))))).modFrame
        fun f => f.setQdef second (some { d with occ := d.occ.set j (d.occOf j + 1) }) := by
  simp only [Body.push, h, setNth_eq_set, beq_iff_eq]
  rfl

@[simp] theorem Gang.writeD_slot (nw : Bool) (d : Opnd) (rows : List Lanes) : (g.writeD nw d inSet rows).slot = g.slot := by
  unfold Gang.writeD
  split
  · split
    · rfl
    · split <;> simp
  · rfl

@[simp] theorem Gang.writeD_flows (nw : Bool) (d : Opnd) : (g.writeD nw d inSet [row]).act.flows = g.act.flows := by
  unfold Gang.writeD
  split
  · split
    · rfl
    · split
      · rw [Gang.act_modAct]; simp
      · change (g.modAct _).act.flows = _
        rw [Gang.act_modAct]
        rfl
  · rfl

end

/-! ### The completion of an instruction with one result row -/

theorem Ex.resetsNow_of_not_resets {x : Ex} (h : x.i.resets = false) : x.resetsNow = false := by
  unfold Ex.resetsNow
  split
  next hi => rw [hi] at h; cases h
  next => simp [h]

/-- The flow of an instruction that leaves the window's marks, after the pops. -/
def Flow.completed (f : Flow) (pc : Dword) : Flow :=
  { f with pc := pc, run := .ready, due := none, readyFor := 0, aged := false, passBp := false, noLeaf := [] }

section
variable {i : Instr} {s : State} {x : Ex} (hr : Ready i s x)
include hr

/-- The body of a ready instruction after its completion, before its write-back. -/
theorem Ready.finish_act (hi : i.resets = false) (pc : Dword) :
    let b := x.b.pops x.pops
    (x.g.finish x pc).act = ({ b with trail := x.trailOf b } : Body).modFlow x.fi (·.completed pc) := by
  rw [Gang.finish_act, ← hr.body, Ex.resetsNow_of_not_resets (hr.instr ▸ hi)]
  rfl

/-- A ready instruction's operands lie within the frame (R11). -/
theorem Ready.within {r : Fin 240} {o : Role} (h : (Opnd.v r, o) ∈ x.n.ops) : r.val + o.span ≤ 8 * x.b.frame.ngr := by
  have hd := hr.decode
  unfold decodeRaised at hd
  split at hd
  · cases hd
  next hb =>
    simp only [Bool.or_eq_true, not_or, List.any_eq_true, not_exists, not_and] at hb
    simpa [beyondFrame] using hb.1 _ h

/-- The gang after the write-back of some rows. -/
theorem Ready.after_written (inSet : Nat → Bool) (rows : List Lanes) :
    x.after (x.written s inSet rows) = x.write x.g inSet rows x.next :=
  hr.after_modGang _ fun g => by simp [Ex.write, Gang.pushes]

/-- The body after a write-back is what the write to D has made of it, but for the window. -/
theorem Ready.act_written (inSet : Nat → Bool) (rows : List Lanes) : ∃ f, (x.after (x.written s inSet rows)).act =
    ((x.g.finish x x.next).writeD x.n.h.nw x.n.dest inSet rows).act.modFlow x.fi f :=
  ⟨_, by rw [hr.after_written, Ex.write, Gang.pushes, Gang.act_modAct]⟩

/-- The flow after the write-back of one row: the PC past the instruction, the row in the window's newest slot. -/
theorem Ready.flow_written (hi : i.resets = false) (row : Lanes) :
    x.flowAfter (x.written s x.inSet [row]) = { x.fl.completed x.next with win := pushWin x.fl.win x.inSet row } := by
  rw [Ex.flowAfter, hr.after_written, Ex.write, Gang.pushes, Gang.act_modAct]
  have hfl := hr.flow_lt
  rw [Body.flow_modFlow _ _ _ _ (by rw [Gang.writeD_flows, hr.finish_act hi]; simpa using hfl), if_pos rfl]
  have hflow : ((x.g.finish x x.next).writeD x.n.h.nw x.n.dest x.inSet [row]).act.flow x.fi = x.fl.completed x.next := by
    rw [Body.flow, Gang.writeD_flows, ← Body.flow, hr.finish_act hi, Body.flow_modFlow _ _ _ _ (by simpa using hfl), if_pos rfl,
      Body.flow, hr.flow, Body.flow, Body.pops_flows]
  rw [hflow]
  simp [hr.instr, hi, Flow.completed]

/-- NW and z write no register. -/
theorem Ready.written_none (hi : i.resets = false) (row : Lanes) (h : x.n.h.nw = true ∨ x.n.dest = .z) :
    (x.after (x.written s x.inSet [row])).act.frames = (x.b.pops x.pops).frames ∧
    (x.after (x.written s x.inSet [row])).act.grans = (x.b.pops x.pops).grans := by
  rw [hr.after_written, Ex.write, Gang.pushes, Gang.act_modAct, Gang.writeD_none _ _ h, hr.finish_act hi]
  exact ⟨rfl, rfl⟩

variable {row : Lanes} {r : Fin 240} (hs : (x.b.pops x.pops).Sound x.w) (hrow : row.length = x.w) (hnw : x.n.h.nw = false)
  (hd : x.n.dest = .v r)
include hs hrow hnw hd

/-- A plain destination register takes the row in the lanes of the set, and no other register changes (R26). -/
theorem Ready.written_plain (hi : i.resets = false) (hin : r.val < 8 * x.b.frame.ngr)
    (h : (x.b.pops x.pops).frame.role r.val = .plain) :
    let p := x.b.pops x.pops
    let b := (x.after (x.written s x.inSet [row])).act
    b.frames = p.frames ∧ ∀ q < 8 * p.frame.ngr, ∀ l < x.w, laneAt (b.row q) l =
      if q = r.val ∧ x.inSet l = true then laneAt row l else laneAt (p.row q) l := by
  intro p b
  obtain ⟨f, hact⟩ : ∃ f, b = _ := hr.act_written x.inSet [row]
  rw [hnw, hd, Gang.writeD_plain _ _ _ (by rw [hr.finish_act hi]; exact h), hr.finish_act hi] at hact
  refine ⟨hact ▸ rfl, fun q hq l hl => ?_⟩
  have hb : b.row q = (p.setRow r.val (blend x.inSet row (p.row r.val))).row q := by rw [hact]; rfl
  rw [hb, hs.row_setRow (by simpa [p] using hin) hq]
  by_cases hqr : q = r.val
  · simp only [hqr, if_true, true_and]
    exact laneAt_blend _ _ (by omega)
  · simp [hqr, p]

/-- A queue that D names takes the row behind its newest entry, in the lanes outside the set that entry's lanes, and no other
register changes (R147). -/
theorem Ready.written_queue (hi : i.resets = false) {second : Bool} {j : Nat} {d : QDef}
    (h : (x.b.pops x.pops).frame.role r.val = .name second j) (hq : (x.b.pops x.pops).frame.qdef second = some d)
    (hroom : d.occOf j < d.depth) (hfit : d.base + d.count * d.depth ≤ 8 * (x.b.pops x.pops).frame.ngr) :
    let p := x.b.pops x.pops
    let b := (x.after (x.written s x.inSet [row])).act
    b.frames.drop 1 = p.frames.drop 1 ∧
    b.frame = p.frame.setQdef second (some { d with occ := d.occ.set j (d.occOf j + 1) }) ∧
    ∀ q < 8 * p.frame.ngr, ∀ l < x.w, laneAt (b.row q) l =
      if q = d.entryReg j (d.occOf j) then
        (if x.inSet l then laneAt row l
         else if d.occOf j = 0 then ⟨0, false⟩ else laneAt (p.row (d.entryReg j (d.occOf j - 1))) l)
      else laneAt (p.row q) l := by
  intro p b
  obtain ⟨f, hact⟩ : ∃ f, b = _ := hr.act_written x.inSet [row]
  rw [hnw, hd, Gang.writeD_queue _ _ _ (by rw [hr.finish_act hi]; exact h), hr.finish_act hi,
    Body.push_eq x.inSet row (d := d) (by exact hq)] at hact
  have hent := QDef.entryReg_lt (Frame.role_name h hq) hroom
  obtain ⟨f, rest, hf⟩ : ∃ f rest, p.frames = f :: rest := List.exists_cons_of_ne_nil hs.framed
  have hframes : b.frames = f.setQdef second (some { d with occ := d.occ.set j (d.occOf j + 1) }) :: rest := by
    rw [hact]
    change modNth _ p.frames 0 = _
    rw [hf]
    rfl
  refine ⟨by rw [hframes, hf]; rfl, by rw [Body.frame, Body.frame, hframes, hf]; rfl, fun q hq l hl => ?_⟩
  have hb : b.row q = (p.setRow (d.entryReg j (d.occOf j)) (blend x.inSet row
      (if d.occOf j = 0 then row.map fun _ => ⟨0, false⟩ else p.row (d.entryReg j (d.occOf j - 1))))).row q := by
    rw [hact]
    exact Body.row_setQdef (p.setRow _ _) _ _ _
  rw [hb, hs.row_setRow (by omega) hq]
  by_cases hqe : q = d.entryReg j (d.occOf j)
  · simp only [hqe, if_true]
    rw [laneAt_blend _ _ (by omega)]
    by_cases h0 : d.occOf j = 0
    · simp [h0, laneAt, hrow, hl]
    · simp [h0]
  · simp [hqe, p]

end

/-- Settles O21: the flow after the write-back, then the registers by what D is. -/
theorem writeBack : Obligations.WriteBack := by
  intro i s x row p hr hs hrow hD hi t b newest
  have hflow := hr.flow_written hi row
  refine ⟨hr.only_modGang _, by rw [hflow]; rfl, by rw [hflow]; rfl, by rw [hflow]; rfl, fun l hl => ?_, by rw [hflow]; rfl,
    hr.written_none hi row, fun hnw r hd => ⟨hr.written_plain hs hrow hnw hd hi ?_,
      fun second j d h hq hroom _ hfit => hr.written_queue hs hrow hnw hd hi h hq hroom hfit⟩⟩
  · rw [hflow]
    exact laneAt_mapIdx _ (by omega)
  · have hmem : (Opnd.v r, Role.dst 1) ∈ x.n.ops := by
      rw [hd] at hD
      cases hops : x.n.ops with
      | nil => rw [hops] at hD; cases hD
      | cons a rest => rw [hops] at hD; exact List.mem_cons.mpr (.inl hD.symm)
    exact hr.within hmem

end Sys2Proof.Machine

/-! ## An error in a register that has no lanes (R349) -/

namespace Sys2Proof.Machine

/-! ### The newest window slot after a write-back -/

/-- A core that a state does not hold has no gang after an update of a gang. -/
theorem State.gang?_modGang_absent {s : State} {r : CoreRef} (h : s.core? r = none) (slot k : Nat) (f : Gang → Gang) :
    (s.modGang r slot f).gang? r k = none := by
  have hany : (s.cores.any fun c => c.ref == r) = false := by
    simpa [State.core?] using h
  have hidle : ((Core.idle r).modGang slot f).ref == r := beq_self_eq_true r
  unfold State.core? at h
  simp only [State.gang?, State.modGang, State.modCore, hany, Bool.false_eq_true, if_false, State.core?, List.find?_append, h,
    Option.none_or, List.find?_cons, hidle]
  rfl

/-- The newest slot of a flow of one gang holds the row that an instruction has pushed last. -/
theorem Ex.write_newest {x : Ex} (hi : x.i.resets = false) (g : Gang) (inSet : Nat → Bool) (row : Lanes) (pc : Dword)
    (hfi : x.fi < (x.write g inSet [row] pc).act.flows.length) :
    ((x.write g inSet [row] pc).act.flow x.fi).win.head? =
      some ⟨true, row.mapIdx fun i v => if inSet i then v else ⟨0, false⟩⟩ := by
  unfold Ex.write Gang.pushes at *
  rw [Gang.act_modAct] at *
  rw [Body.modFlow_flows, modNth_length] at hfi
  rw [Body.flow_modFlow _ _ _ _ hfi, if_pos rfl]
  simp [hi, pushWin]

/-- The newest window slot of the first flow of the first gang of reeve 0. -/
def newestSlot : Res → Option Slot
  | .next t => (t.gang? (.reeve 0) 0).bind fun g => (g.act.flow 0).win.head?
  | _ => none

/-! ### A gang without rows -/

/-- The first gang of reeve 0 as at reset, but that its registers hold no lanes. -/
def rowlessGang : Gang := { Gang.firmware 0 0 8 0 0 4 256 0 with body := { Body.start 8 4 0 with grans := [] } }

def rowless : State := State.reset.modGang (.reeve 0) 0 fun _ => rowlessGang

/-- The same with an uncorrectable error to come in lane 0 of the register that operand 1 names. -/
def rowlessErring : State := { rowless with phys := [.operandUe 1 0 0] }

def plainHdr : Hdr := ⟨none, .z, false, false⟩
def rowlessInstr : Instr := .mov plainHdr (.v 1) (.v 2)

/-- MOV v1, v2 in execution there: v2 is read as a row without lanes. -/
def rowlessMov : Ex where
  s := rowless
  ag := ⟨.reeve 0, 0, 0⟩
  g := rowlessGang
  b := rowlessGang.body
  fi := 0
  fl := .start 8 0
  i := rowlessInstr
  n := .res plainHdr true (ops2 (.v 1) (.v 2))
  set := upTo 8
  src := [[[]], [[]]]
  pops := []
  full := []

theorem rowlessMov_ready : Ready rowlessInstr rowless rowlessMov where
  wf := rfl
  agent := ⟨_, rfl⟩
  info := rfl
  state := rfl
  ag := rfl
  instr := rfl
  body := rfl
  flow := rfl
  decode := rfl
  awake := by decide
  joined := by decide
  storage := rfl
  guardThere := rfl
  guardClean := by decide
  slot := rfl
  sources := rfl
  room := rfl
  set := by decide
  src := rfl
  pops := rfl
  full := rfl
  quiet := nofun

/-- The model reads 0, clean, in the lane that the error is to come in, and the error is gone. -/
theorem rowless_newestSlot : newestSlot (exec rowlessInstr rowlessErring) = some ⟨true, List.replicate 8 ⟨0, false⟩⟩ := by
  decide +kernel

/-- The newest slot after any write-back of one row by that MOV is that row, if it is full. -/
theorem rowlessMov_written {t : State} {row : Lanes} {z : Slot}
    (h : newestSlot (.next (rowlessMov.written t rowlessMov.inSet [row])) = some z)
    (hz : z.full = true) : z.lanes = row.mapIdx fun i v => if rowlessMov.inSet i then v else ⟨0, false⟩ := by
  obtain ⟨g, hg, hhead⟩ := Option.bind_eq_some_iff.mp h
  cases hcore : t.core? (.reeve 0) with
  | none => exact absurd ((State.gang?_modGang_absent hcore 0 0 _).symm.trans hg) nofun
  | some c =>
    have hg := (State.gang?_modGang t (.reeve 0) (.reeve 0) 0 0 (fun g => rowlessMov.write g rowlessMov.inSet [row] rowlessMov.next)
      (fun g => by simp [Ex.write, Gang.pushes]) (by simp [hcore])).symm.trans hg
    obtain ⟨g', -, rfl⟩ := Option.map_eq_some_iff.mp hg
    rw [if_pos ⟨rfl, rfl⟩] at hhead
    by_cases hfi : 0 < (rowlessMov.write g' rowlessMov.inSet [row] rowlessMov.next).act.flows.length
    · have hnew := Ex.write_newest (x := rowlessMov) rfl g' rowlessMov.inSet row rowlessMov.next hfi
      exact congrArg Slot.lanes (Option.some.inj (hhead.symm.trans hnew))
    · rw [Body.flow, List.getD_eq_default _ _ (by omega)] at hhead
      obtain rfl := Option.some.inj hhead
      cases hz

/-- Refutes O38: its last clause does not ask that the register read has a row of the gang's lanes (`Body.Sound`). Where the row
has none, there is no value that the error could make poison, and MOV writes 0, clean. -/
theorem not_beforeExecution : ¬ Obligations.BeforeExecution := by
  rintro ⟨-, -, -, -, hmov⟩
  obtain ⟨t, row, hexec, -, hp, -⟩ := hmov plainHdr (.v 1) 2 rowlessErring rowlessMov 0 rowlessMov_ready rfl (by decide) (by decide)
  have hlanes := rowlessMov_written ((congrArg newestSlot hexec).symm.trans rowless_newestSlot) rfl
  have hrow : 0 < row.length := by
    rw [List.length_pos_iff]
    rintro rfl
    cases hp
  have hclean := congrArg (fun l => (laneAt l 0).p) hlanes
  rw [laneAt_mapIdx _ hrow] at hclean
  exact absurd (hclean.trans hp) nofun

end Sys2Proof.Machine

/-! ## Encodings (R28 to R45) -/

namespace Sys2Proof.Laws.RoundTrip
/-- Settles O41: each constructor of `Instr` by the lemma of its own row; the last group are steps that no word encodes. -/
theorem roundTripAll : Obligations.RoundTripAll :=
  Instr.rec
    iadd isub imul imulh imad imin imax iabs idiv irem icmp isel dadd dsub lea dcmp dot4 dot2 isad mov andI orI xorI andn notI
    shl shr sha rot bfe bfi popc clz ffs brev permb lop3 dshl dshr movd fadd fsub fmul ffma fmin fmax fcmp fdot2 fscale ffract
    frnd fclass frcp frsq fsqrt fdiv fexp2 flog2 fsin fcos ftanh cvtff cvtfi cvtif fpack funpk mxenc mxdec shfl vote matchI
    redg scan bcast elect ifI elseI endif loop endl breakI cont jmp call calli ret mark unwind part regang exit yield nop brk
    rgn qdef qclr qocc qrd qwr winrd winwr mskrd mskwr frmq frmrd ld st ldl stl ldc stc ldk ldacq strel cctl atom acas atoml
    acasl atomc acasc bankop bankred cpy cpys RoundTrip.seal bwait cpwp cpwait wlput wltake wldone wlquiet put putn get ratom
    rcas notify nwait nrd rfence rquiet bar bara barw barinit barrd barwr fence mon mwait clock mmq accz accrd accwr accpro
    mxset cbload cbrd mxwait pchk pset pclr porg srd swr trap tret savedone icinv wfi halt
    iaddS32ShortA isubS32ShortA imulS32ShortA iminS32ShortA imaxS32ShortA iminN32ShortA imaxN32ShortA andShortA orShortA
    xorShortA andnShortA shlShortA shrShortA shaShortA movShortA daddShortA faddF32ShortA fsubF32ShortA fmulF32ShortA
    fminF32ShortA fmaxF32ShortA faddF16x2ShortA fmulF16x2ShortA faddBf16x2ShortA fmulBf16x2ShortA icmpEqShortA icmpLtS32ShortA
    icmpLtN32ShortA fcmpLtShortA fcmpEqShortA frcpShortA frsqShortA popcShortA clzShortA shflIdxShortA shflXorShortA
    voteBallotShortA bcastShortA leaShortA ldlB32ShortA stlB32ShortA ldcB32ShortA stcB32ShortA
    iaddShortB isubShortB andShortB orShortB xorShortB shlShortB shrShortB shaShortB movShortB icmpEqShortB icmpLtS32ShortB
    shflXorShortB shflUpShortB shflDownShortB ldlB32ShortB stlB32ShortB ldkB32ShortB
    trapEntry machineTrapEntry pendingCauseTaken barrierWaitEnd sluiceReleaseDelay frameWait handlerFrameGrant cellarTimeout
    cellarSpill tlbWalkDone pageFaultServiced pageFaultRefused mwaitWake mwaitTimeout copyEntryGrant copyPerform bwaitWake
    cpwaitWake wlputAppend wltakeWake matrixPassClose matrixPassStart matrixPassEnd mxwaitWake accrdWake regionReplay scrubUe
    l1WriteOnward l2WriteToL3 remoteSlotGrant remoteWriteArrival putnIncrement getDataArrival remoteAtomicAtTarget
    remoteReplyArrival notifyIncrement remoteOpFail nwaitWake rquietWake voteCount launchQueueDoorbell queueRestart
    launchPacket gridRelease gridComplete workgroupAdmit barterRequest carveChange operatingPointStable agedPromotion watchdog
    vacateRequest coreVacated restoreEntry restoreTretRelease contextKill headerUe mcStateUe fwLaunchRegister
    regionTableRewrite tlbInvalidate controlWindowWrite mapPublish presenceDetected presenceLost powerGood resetStepRelease
    measurementRefused trainingFailed portsTrained plotAdmit firstBind drainRequest serviceRequest heartbeatMiss
    fatalIslandError plotLoss contextCreate contextWithdraw contextRebind flitTagFail keyInstall keyAck oldKeyRetire heartbeat
    presidencyClaim getVersion getCapabilities negotiateAlgorithms getDigests getCertificate challenge getMeasurements
    keyExchange finish keyUpdate endSession ideKm stopInterfaceRequest hostConfigWrite hostTlp keySlotRetire olLaser
    olTrainStart olAct olLockWrite olMapWrite olRingWrite olRingRead olTrainingDone olLaserStable wfiEvent coreReset
    debugResume reeveFailure lockInterfaceRequest startInterfaceRequest debuggerCoreStop panelPowerOn getTargetRead
    dropMeasurement

/-- Settles O42: each word by evaluation of the decoder. -/
theorem decodeWords : Obligations.DecodeWords := by
  unfold Obligations.DecodeWords
  decide +kernel

end Sys2Proof.Laws.RoundTrip

/-! ## Short forms of the INT, BIT and FP classes (R42, R43) -/

namespace Sys2Proof

/-- Operand j of an instruction, with its role. -/
def Instr.operand (i : Instr) (j : Nat) : Option (Opnd × Role) := i.info.bind fun n => n.ops[j]?

/-- The literal of an instruction: the word of the extended form, or the immediate of a short-B form as its operand reads it. -/
def Instr.literal (i : Instr) : Option Word := i.info.bind fun n => n.h.lit

end Sys2Proof

namespace Sys2Proof.Machine

/-! ### Integers of a code (R68, R97) -/

theorem intVal_natural {n : Nat} (a : BitVec n) : intVal false n a.toNat = a.toNat := by
  simp [intVal, Nat.mod_eq_of_lt a.isLt]

theorem intVal_signed {n : Nat} (hn : 0 < n) (a : BitVec n) : intVal true n a.toNat = a.toInt := by
  obtain ⟨m, rfl⟩ : ∃ m, n = m + 1 := ⟨n - 1, by omega⟩
  have h := a.isLt
  rw [BitVec.toInt_eq_toNat_cond]
  simp only [intVal, Nat.mod_eq_of_lt h, Nat.add_sub_cancel, Bool.true_and, decide_eq_true_eq]
  rw [Nat.pow_succ] at h ⊢
  by_cases hm : 2 ^ m ≤ a.toNat
  · rw [if_pos hm, if_neg (by omega), pow_succ]; rfl
  · rw [if_neg hm, if_pos (by omega)]

/-- A code is its integer modulo 2^n. -/
@[simp] theorem ofInt_intVal {n : Nat} (hn : 0 < n) (sg : Bool) (a : BitVec n) : BitVec.ofInt n (intVal sg n a.toNat) = a := by
  cases sg with
  | false => rw [intVal_natural, BitVec.ofInt_natCast, BitVec.ofNat_toNat, BitVec.setWidth_eq]
  | true => rw [intVal_signed hn, BitVec.ofInt_toInt]

theorem codeOf_eq (n : Nat) (v : Int) : codeOf n v = (BitVec.ofInt n v).toNat := by
  simp [codeOf, BitVec.toNat_ofInt]

/-- Without saturation an exact integer wraps. -/
theorem fitInt_wrap (md : IntMod) (v : Int) : fitInt md.fmt false v = (BitVec.ofInt md.w.bits v).toNat := by
  have hbits : fmtBits md.fmt = md.w.bits := by obtain ⟨w, sg, _⟩ := md; cases w <;> cases sg <;> rfl
  rw [← hbits]
  exact codeOf_eq _ v

theorem intVal_eq_iff {n : Nat} (hn : 0 < n) (sg : Bool) (a b : BitVec n) :
    intVal sg n a.toNat = intVal sg n b.toNat ↔ a = b :=
  ⟨fun h => by rw [← ofInt_intVal hn sg a, h, ofInt_intVal hn], fun h => by rw [h]⟩

/-! ### Shifts and counts (R105, R106) -/

theorem shlEl_eq {n : Nat} (a : BitVec n) (t : Nat) : shlEl n a.toNat t = (a <<< t).toNat := by
  rw [BitVec.toNat_shiftLeft, Nat.shiftLeft_eq, shlEl]
  split
  · next h => rw [Nat.mod_eq_zero_of_dvd (dvd_mul_of_dvd_right (pow_dvd_pow 2 h) _)]
  · rfl

theorem shrEl_eq {n : Nat} (a : BitVec n) (t : Nat) : shrEl n a.toNat t = (a >>> t).toNat := by
  rw [BitVec.toNat_ushiftRight, Nat.shiftRight_eq_div_pow, shrEl]
  split
  · next h => rw [Nat.div_eq_of_lt (a.isLt.trans_le (Nat.pow_le_pow_right (by decide) h))]
  · rfl

/-- A quotient by 2^t of an integer of n bits is the same from t = n on. -/
theorem toInt_div_min {n : Nat} (a : BitVec n) (t : Nat) : a.toInt / 2 ^ min t n = a.toInt / 2 ^ t := by
  rcases Nat.le_total t n with h | h
  · rw [min_eq_left h]
  · have hlt := BitVec.toInt_lt (x := a)
    have hle := BitVec.le_toInt a
    have hpow : ∀ k, n ≤ k → a.toInt < 2 ^ k ∧ -2 ^ k ≤ a.toInt := fun k hk => by
      have h1 : (2 : Int) ^ (n - 1) ≤ 2 ^ k := pow_le_pow_right₀ (by decide) (by omega)
      omega
    have hdiv : ∀ k, n ≤ k → a.toInt / 2 ^ k = if a.toInt < 0 then -1 else 0 := fun k hk => by
      obtain ⟨h1, h2⟩ := hpow k hk
      split
      · next h => exact Int.ediv_eq_neg_one_of_neg_of_le h (by omega)
      · next h => exact Int.ediv_eq_zero_of_lt (by omega) h1
    rw [min_eq_right h, hdiv n le_rfl, hdiv t h]

theorem shaEl_eq {n : Nat} (hn : 0 < n) (a : BitVec n) (t : Nat) : shaEl n a.toNat t = (a.sshiftRight t).toNat := by
  rw [shaEl, codeOf_eq, intVal_signed hn, Int.fdiv_eq_ediv_of_nonneg _ (by positivity), toInt_div_min]
  congr 1
  rw [← BitVec.ofInt_toInt (x := a.sshiftRight t), BitVec.toInt_sshiftRight, Int.shiftRight_eq_div_pow]
  push_cast
  rfl

/-- The leading zeros of a word, by the place of its highest bit. -/
theorem leading_eq (a : Word) : BitVec.ofNat 32 (leading a) = a.clz := by
  unfold leading
  by_cases h : a = 0
  · subst h; decide
  · have hlt := BitVec.toNat_lt_two_pow_sub_clz (x := a)
    have hle := BitVec.two_pow_sub_clz_le_toNat_of_ne_zero (by decide) h
    have hclz : a.clz.toNat < 32 := by simpa using BitVec.lt_def.mp (BitVec.clz_lt_iff_ne_zero.mpr h)
    have hlog : a.toNat.log2 = 31 - a.clz.toNat :=
      (Nat.log2_eq_iff (by simpa [← BitVec.toNat_inj] using h)).mpr ⟨hle, by convert hlt using 2; omega⟩
    rw [if_neg (by simpa using h), hlog, show 31 - (31 - a.clz.toNat) = a.clz.toNat by omega, BitVec.ofNat_toNat,
      BitVec.setWidth_eq]

/-! ### Operations on codes that are operations on words -/

/-- A computation on the codes of two words is an operation on the words. -/
def OnWords (g : Nat → Nat → Nat) (f : Word → Word → Word) : Prop := ∀ u v : Word, g u.toNat v.toNat = (f u v).toNat

/-- An exact integer of two words, wrapped to a word (R97, R98). -/
def wrapped (sg : Bool) (g : Int → Int → Int) (a b : Nat) : Nat :=
  fitInt (IntMod.fmt ⟨.w32, sg, false⟩) false (g (intVal sg 32 a) (intVal sg 32 b))

theorem onWords_wrapped {sg : Bool} {g : Int → Int → Int} {f : Word → Word → Word}
    (h : ∀ u v : Word, BitVec.ofInt 32 (g (intVal sg 32 u.toNat) (intVal sg 32 v.toNat)) = f u v) : OnWords (wrapped sg g) f :=
  fun u v => (fitInt_wrap ⟨.w32, sg, false⟩ _).trans (congrArg BitVec.toNat (h u v))

theorem onWords_add (sg : Bool) : OnWords (wrapped sg (· + ·)) (· + ·) :=
  onWords_wrapped fun u v => by simp [BitVec.ofInt_add]

theorem onWords_sub (sg : Bool) : OnWords (wrapped sg (· - ·)) (· - ·) :=
  onWords_wrapped fun u v => by simp [Int.sub_eq_add_neg, BitVec.ofInt_add, BitVec.ofInt_neg, BitVec.sub_eq_add_neg]

theorem onWords_mul (sg : Bool) : OnWords (wrapped sg (· * ·)) (· * ·) :=
  onWords_wrapped fun u v => by simp [BitVec.ofInt_mul]

section
variable {sg : Bool} {le : Word → Word → Prop} [DecidableRel le]
  (h : ∀ u v : Word, intVal sg 32 u.toNat ≤ intVal sg 32 v.toNat ↔ le u v)
include h

theorem onWords_min : OnWords (wrapped sg min) fun u v => if le u v then u else v :=
  onWords_wrapped fun u v => by rw [min_def]; simp only [h]; split <;> simp

theorem onWords_max : OnWords (wrapped sg max) fun u v => if le u v then v else u :=
  onWords_wrapped fun u v => by rw [max_def]; simp only [h]; split <;> simp

end

theorem intVal_le_signed (u v : Word) : intVal true 32 u.toNat ≤ intVal true 32 v.toNat ↔ u.toInt ≤ v.toInt := by
  rw [intVal_signed (by decide), intVal_signed (by decide)]

theorem intVal_le_natural (u v : Word) : intVal false 32 u.toNat ≤ intVal false 32 v.toNat ↔ u.toNat ≤ v.toNat := by
  rw [intVal_natural, intVal_natural, Int.ofNat_le]

/-- A comparison of two words that leaves all ones or 0 (R101). -/
def compared (sg : Bool) (c : Cond) (a b : Nat) : Nat :=
  if Cond.holds c (intVal sg 32 a) (intVal sg 32 b) then 2 ^ 32 - 1 else 0

theorem onWords_compared {sg : Bool} {c : Cond} {P : Word → Word → Prop} [DecidableRel P]
    (h : ∀ u v : Word, Cond.holds c (intVal sg 32 u.toNat) (intVal sg 32 v.toNat) = true ↔ P u v) :
    OnWords (compared sg c) fun u v => if decide (P u v) then BitVec.allOnes 32 else 0 :=
  fun u v => by
    simp only [compared, h, decide_eq_true_eq]
    split <;> rfl

theorem condHolds_eq (u v : Word) : Cond.holds .eq (intVal false 32 u.toNat) (intVal false 32 v.toNat) = true ↔ u = v := by
  rw [Cond.holds, beq_iff_eq, intVal_eq_iff (by decide)]

theorem condHolds_lt_signed (u v : Word) :
    Cond.holds .lt (intVal true 32 u.toNat) (intVal true 32 v.toNat) = true ↔ u.toInt < v.toInt := by
  rw [Cond.holds, decide_eq_true_eq, intVal_signed (by decide), intVal_signed (by decide)]

theorem condHolds_lt_natural (u v : Word) :
    Cond.holds .lt (intVal false 32 u.toNat) (intVal false 32 v.toNat) = true ↔ u.toNat < v.toNat := by
  rw [Cond.holds, decide_eq_true_eq, intVal_natural, intVal_natural, Int.ofNat_lt]

theorem onWords_shl : OnWords (shlEl 32) fun u v => u <<< v.toNat := fun u v => shlEl_eq u v.toNat
theorem onWords_shr : OnWords (shrEl 32) fun u v => u >>> v.toNat := fun u v => shrEl_eq u v.toNat
theorem onWords_sha : OnWords (shaEl 32) fun u v => u.sshiftRight v.toNat := fun u v => shaEl_eq (by decide) u v.toNat

/-! ### Elements of an outcome -/

/-- The elements of an outcome matter in the clean lanes of the lane set alone, and only as many as D holds. -/
theorem Elementwise.congr_on {x : Ex} {s : State} {r : Res} {n b : Nat} {js : List Nat} {F G : Nat → Nat → Nat}
    (e : Elementwise x s r n b js F)
    (h : ∀ l ∈ x.set, l < x.w → merge (x.srcsOf js l) = none → ∀ k < 32 * n / b, F l k = G l k) :
    Elementwise x s r n b js G := by
  obtain ⟨rows, hr, hlen, hlane⟩ := e
  refine ⟨rows, hr, hlen, fun l hl hw => ?_⟩
  have hlane := hlane l hl hw
  cases hm : merge (x.srcsOf js l) <;> simp only [hm] at hlane ⊢
  · exact ⟨hlane.1, fun k hk => (hlane.2 k hk).trans (h l hl hw hm k hk)⟩
  · exact hlane

theorem eachLane_congr {f g : Nat → State → List LV × State} {l : List Nat} (h : ∀ i ∈ l, ∀ s, f i s = g i s) (s : State) :
    eachLane f l s = eachLane g l s := by
  induction l generalizing s with
  | nil => rfl
  | cons i is ih =>
    obtain ⟨hi, his⟩ := List.forall_mem_cons.mp h
    simp only [eachLane, hi, ih his]

/-- The elements of a lane-local instruction matter in the clean lanes of the lane set alone. -/
theorem Ex.packed_congr {x : Ex} {n b : Nat} {js : List Nat} {f g : Nat → Nat → El}
    (h : ∀ l ∈ x.set, merge (x.srcsOf js l) = none → ∀ k < 32 * n / b, f l k = g l k) : x.packed n b js f = x.packed n b js g := by
  unfold Ex.packed Ex.lanewise
  rw [eachLane_congr]
  intro l hl s
  unfold State.tag State.tagAt
  cases hm : merge (js.map fun j => x.one j l) with
  | some w => rfl
  | none =>
    have hels : (upTo (32 * n / b)).map (f l) = (upTo (32 * n / b)).map (g l) :=
      List.map_congr_left fun k hk => h l hl hm k (List.mem_range.mp hk)
    rw [hels]

section
variable {i : Instr} {s : State} {x : Ex} (hr : Ready i s x)
include hr

/-- An instruction that is ready comes to its own effect. -/
theorem Ready.elementwise {own : Ex → Res} {n b : Nat} {js : List Nat} {F : Nat → Nat → Nat} (h : exec i s = issue i s own)
    (e : Elementwise x s (own x) n b js F) : Elementwise x s (exec i s) n b js F := by
  rwa [h, issue_of_ready hr]

theorem Ready.op_at {j : Nat} {p : Opnd × Role} (h : i.operand j = some p) : x.n.ops[j]? = some p := by
  rwa [Instr.operand, hr.info] at h

/-- The literal, as an operand reads it in every lane of the gang. -/
theorem Ready.lv_lit {j l : Nat} {v : Word} (hj : i.operand j = some (.lit, .src 1)) (hv : i.literal = some v) (hl : l < x.w) :
    x.lv j l = ⟨v, false⟩ := by
  rw [Instr.literal, hr.info] at hv
  have hv : x.n.h.lit = some v := hv
  simp only [Ex.lv, Ex.lvk, hr.src_at (hr.op_at hj), readOpnd, Role.span, hv]
  rw [Ex.w] at hl
  simp [laneAt, hl]

/-- A lane-local instruction whose clean lanes make no new poison, or with poison mode off. -/
theorem Ready.clean_elementwise (n b : Nat) {js : List Nat} {f : Nat → Nat → El}
    (h : x.g.psn = false ∨ ∀ l ∈ x.set, merge (x.srcsOf js l) = none → ∀ k < 32 * n / b, ∃ c, f l k = .val c) :
    Elementwise x s (x.packed n b js f) n b js fun l k => (f l k).code % 2 ^ b := by
  rcases h with hpsn | hval
  · exact hr.el_elementwise n b js f _ (fun _ _ => rfl) fun _ => .inl hpsn
  · have hcode : ∀ l ∈ x.set, merge (x.srcsOf js l) = none → ∀ k < 32 * n / b, f l k = .val (f l k).code := fun l hl hm k hk => by
      obtain ⟨c, hc⟩ := hval l hl hm k hk
      rw [hc]; rfl
    rw [Ex.packed_congr hcode]
    exact hr.el_elementwise n b js _ _ (fun _ _ => rfl) fun l => .inr (firstFresh_val (fun k => (f l k).code) _)

/-- A lane-local instruction of one number of b bits in a lane. -/
theorem Ready.number_elementwise {n b : Nat} {js : List Nat} {f : Nat → Nat → Nat} {F : Nat → BitVec b} (hb : 32 * n / b = 1)
    (h : ∀ l ∈ x.set, l < x.w → f l 0 = (F l).toNat) :
    Elementwise x s (x.packed n b js fun l k => .val (f l k)) n b js fun l _ => (F l).toNat :=
  (hr.clean_elementwise n b (.inr fun _ _ _ _ _ => ⟨_, rfl⟩)).congr_on fun l hl hw _ k hk => by
    obtain rfl : k = 0 := by omega
    rw [El.code, h l hl hw, Nat.mod_eq_of_lt (F l).isLt]

/-! ### Results of one register -/

theorem Ready.elt_word {j : Nat} {o : Opnd} (hj : i.operand j = some (o, .src 1)) (l : Nat) :
    x.elt j l 32 0 = (x.lv j l).v.toNat := by
  rw [Ex.elt, hr.num_one (hr.op_at hj), Nat.mul_zero, Nat.pow_zero, Nat.div_one, Nat.mod_eq_of_lt (BitVec.isLt _)]

theorem Ready.unary_elementwise {f : Word → Word} :
    Elementwise x s (x.bit1 f) 1 32 [1] fun l _ => (f (x.lv 1 l).v).toNat :=
  hr.wide_elementwise 1 [1] _ _ (fun _ => BitVec.isLt _) fun _ => rfl

theorem Ready.bitwise_elementwise {f : Word → Word → Word} :
    Elementwise x s (x.bit2 f) 1 32 [1, 2] fun l _ => (f (x.lv 1 l).v (x.lv 2 l).v).toNat :=
  hr.wide_elementwise 1 [1, 2] _ _ (fun _ => BitVec.isLt _) fun _ => rfl

theorem Ready.binary_elementwise {a b : Opnd} (ha : i.operand 1 = some (a, .src 1)) (hb : i.operand 2 = some (b, .src 1))
    {g : Nat → Nat → Nat} {f : Word → Word → Word} (h : OnWords g f) :
    Elementwise x s (x.packed 1 32 [1, 2] fun l k => .val (g (x.elt 1 l 32 k) (x.elt 2 l 32 k))) 1 32 [1, 2]
      fun l _ => (f (x.lv 1 l).v (x.lv 2 l).v).toNat :=
  hr.number_elementwise rfl fun l _ _ => by rw [hr.elt_word ha, hr.elt_word hb, h]

section
variable {a b : Opnd} (ha : i.operand 1 = some (a, .src 1)) (hb : i.operand 2 = some (b, .src 1)) {f : Word → Word → Word}
include ha hb

theorem Ready.int2_elementwise {sg : Bool} {g : Int → Int → Int} (h : OnWords (wrapped sg g) f) :
    Elementwise x s (x.int2 ⟨.w32, sg, false⟩ 1 g) 1 32 [1, 2] fun l _ => (f (x.lv 1 l).v (x.lv 2 l).v).toNat :=
  hr.binary_elementwise (g := wrapped sg g) ha hb h

theorem Ready.shift_elementwise {g : Nat → Nat → Nat → Nat} (h : OnWords (g 32) f) :
    Elementwise x s (x.shift .w32 g) 1 32 [1, 2] fun l _ => (f (x.lv 1 l).v (x.lv 2 l).v).toNat :=
  hr.binary_elementwise (g := g 32) ha hb h

theorem Ready.icmp_elementwise {sg : Bool} {c : Cond} (h : OnWords (compared sg c) f) :
    Elementwise x s (x.icmp ⟨.w32, sg, false⟩ c false) 1 32 [1, 2] fun l _ => (f (x.lv 1 l).v (x.lv 2 l).v).toNat :=
  hr.binary_elementwise (g := compared sg c) ha hb h

end

/-- A literal in place of operand B. -/
theorem Ready.literal_elementwise {v : Word} (hb : i.operand 2 = some (.lit, .src 1)) (hv : i.literal = some v) {r : Res}
    {n b : Nat} {js : List Nat} {f : Word → Word → Word} {g : Word → Word} (hg : ∀ u, f u v = g u)
    (e : Elementwise x s r n b js fun l _ => (f (x.lv 1 l).v (x.lv 2 l).v).toNat) :
    Elementwise x s r n b js fun l _ => (g (x.lv 1 l).v).toNat :=
  e.congr fun l _ hl _ => by rw [hr.lv_lit hb hv hl, hg]

/-! ### Results of a pair -/

theorem Ready.elt_pair {j : Nat} {o : Opnd} (hj : i.operand j = some (o, .src 2)) (l : Nat) :
    x.elt j l 64 0 = (x.pair j l).toNat := by
  rw [Ex.elt, hr.num_two (hr.op_at hj), Nat.mul_zero, Nat.pow_zero, Nat.div_one, Nat.mod_eq_of_lt (BitVec.isLt _)]

theorem Ready.dadd_elementwise {a b : Opnd} (ha : i.operand 1 = some (a, .src 2)) (hb : i.operand 2 = some (b, .src 2))
    (sg : Bool) : Elementwise x s (Ex.dadd ⟨.w64, sg, false⟩ x) 2 64 [1, 2] fun l _ => (x.pair 1 l + x.pair 2 l).toNat := by
  refine hr.number_elementwise (b := 64) rfl fun l _ _ => ?_
  have hint : ∀ j o, i.operand j = some (o, .src 2) → x.int ⟨.w64, sg, false⟩ j l 0 = intVal sg 64 (x.pair j l).toNat :=
    fun j o hj => congrArg (intVal sg 64) (hr.elt_pair hj l)
  calc fitInt (IntMod.fmt ⟨.w64, sg, false⟩) false (x.int ⟨.w64, sg, false⟩ 1 l 0 + x.int ⟨.w64, sg, false⟩ 2 l 0)
    _ = (BitVec.ofInt 64 (intVal sg 64 (x.pair 1 l).toNat + intVal sg 64 (x.pair 2 l).toNat)).toNat := by
      rw [hint 1 a ha, hint 2 b hb]; exact fitInt_wrap ⟨.w64, sg, false⟩ _
    _ = (x.pair 1 l + x.pair 2 l).toNat := by rw [BitVec.ofInt_add, ofInt_intVal (by decide), ofInt_intVal (by decide)]

theorem Ready.lea_elementwise {a b : Opnd} (ha : i.operand 1 = some (a, .src 2)) (hb : i.operand 2 = some (b, .src 1)) :
    Elementwise x s (Ex.lea 0 false x) 2 64 [1, 2] fun l _ => (x.pair 1 l + (x.lv 2 l).v.setWidth 64).toNat := by
  refine hr.number_elementwise (b := 64) rfl fun l _ _ => ?_
  calc codeOf 64 (x.num 1 l + intVal false 32 (x.num 2 l) * 2 ^ 0)
    _ = (BitVec.ofInt 64 ((x.pair 1 l).toNat + (x.lv 2 l).v.toNat)).toNat := by
      rw [codeOf_eq, hr.num_two (hr.op_at ha), hr.num_one (hr.op_at hb), intVal_natural, Int.pow_zero, Int.mul_one]
    _ = (x.pair 1 l + (x.lv 2 l).v.setWidth 64).toNat := by
      rw [BitVec.ofInt_add, BitVec.ofInt_natCast, BitVec.ofInt_natCast, BitVec.ofNat_toNat, BitVec.ofNat_toNat,
        BitVec.setWidth_eq]

end

/-! ### Floating point (R76 to R78, R84, R111) -/

theorem Layout.signed_lt (l : Layout) (neg : Bool) {mag : Nat} (h : mag < 2 ^ (l.eb + l.fb)) : l.signed neg mag < 2 ^ l.bits := by
  rw [Layout.bits, Nat.add_assoc, Nat.pow_add, Layout.signed]
  split <;> omega

theorem Layout.infMag_lt (l : Layout) : l.infMag < 2 ^ (l.eb + l.fb) := by
  rw [Layout.infMag, Nat.pow_add]
  exact Nat.mul_lt_mul_of_pos_right (Nat.sub_lt (Nat.two_pow_pos _) (by decide)) (Nat.two_pow_pos _)

theorem Layout.maxMag_lt (l : Layout) : l.maxMag < 2 ^ (l.eb + l.fb) := by
  have hinf := l.infMag_lt
  have hpos := Nat.two_pow_pos (l.eb + l.fb)
  unfold Layout.maxMag
  split
  · exact (Nat.sub_le _ _).trans_lt hinf
  all_goals omega

theorem Layout.overflow_lt (l : Layout) (mode : RMode) (neg : Bool) : l.overflow mode neg < 2 ^ l.bits := by
  have hmag : ∀ big : Bool, (if big then l.infMag else l.maxMag) < 2 ^ (l.eb + l.fb) := fun big => by
    split
    · exact l.infMag_lt
    · exact l.maxMag_lt
  exact l.signed_lt neg (hmag _)

theorem Layout.round_lt {l : Layout} {mode : RMode} {neg : Bool} {m c : Nat} {e : Int} (h : l.round mode neg m e = .code c) :
    c < 2 ^ l.bits := by
  unfold Layout.round at h
  split at h
  · cases h; exact l.signed_lt neg (Nat.two_pow_pos _)
  · dsimp only at h
    split at h
    · next hle => cases h; exact l.signed_lt neg (hle.trans_lt l.maxMag_lt)
    · cases h

/-- The result of an operation is a code of its layout. -/
theorem Layout.finish_lt (l : Layout) (hnan : l.nanCode < 2 ^ l.bits) (mode : RMode) (sat : Bool) (v : Num) :
    l.finish mode sat v < 2 ^ l.bits := by
  cases v with
  | nan => exact hnan
  | inf neg =>
    refine l.signed_lt neg ?_
    split
    · exact l.maxMag_lt
    · exact l.infMag_lt
  | fin neg m e =>
    unfold Layout.finish
    dsimp only
    split
    · next h => exact Layout.round_lt h
    · split
      · exact l.signed_lt _ l.maxMag_lt
      · exact l.overflow_lt _ _

theorem ftyLayout_bits (ty : FTy) : (ftyLayout ty).bits = ty.bits := by cases ty <;> rfl

theorem ftyLayout_answer_lt (fm : FpMod) (ty : FTy) (v : Option Num) : (ftyLayout ty).answer fm v < 2 ^ ty.bits := by
  have hnan : (ftyLayout ty).nanCode < 2 ^ (ftyLayout ty).bits := by cases ty <;> decide
  rw [← ftyLayout_bits]
  cases v with
  | none => exact hnan
  | some v => exact Layout.finish_lt _ hnan _ _ v

/-- With poison mode off an element is its answer, also of an invalid operation (R84). -/
theorem Layout.code_el (l : Layout) (fm : FpMod) (nanIn : Bool) (v : Option Num) :
    (l.el fm.mode fm.sat nanIn v).code = l.answer fm v := by
  cases v with
  | none => cases nanIn <;> rfl
  | some v => cases v <;> rfl

/-- A valid operation makes no new poison (R84). -/
theorem Layout.el_some (l : Layout) (fm : FpMod) (nanIn : Bool) (v : Num) :
    l.el fm.mode fm.sat nanIn (some v) = .val (l.answer fm (some v)) := by
  cases v <;> rfl

/-- An FPA or FPS instruction whose operations are valid, or with poison mode off. -/
theorem Ready.fp_elementwise {i : Instr} {s : State} {x : Ex} (hr : Ready i s x) {fm : FpMod} {ty : FTy} {js : List Nat}
    {V : Nat → Nat → Option Num} (hV : x.g.psn = false ∨ x.each js (32 / ty.bits) fun l k => V l k ≠ none) :
    Elementwise x s (x.fpOp fm ty js V) 1 ty.bits js fun l k => (ftyLayout ty).answer fm (V l k) := by
  refine (hr.clean_elementwise 1 ty.bits (hV.imp_right fun hV l hl hm k hk => ?_)).congr_on fun l _ _ _ k _ => ?_
  · obtain ⟨v, hv⟩ := Option.ne_none_iff_exists'.mp (hV l hl hm k hk)
    rw [hv]
    exact ⟨_, Layout.el_some _ fm _ v⟩
  · rw [Layout.code_el, Nat.mod_eq_of_lt (ftyLayout_answer_lt fm ty _)]

/-- FCMP of single values that both are numbers, all ones where the condition on their order holds (R115). -/
theorem Ready.fcmp_elementwise {i : Instr} {s : State} {x : Ex} (hr : Ready i s x) {c : FCond} {P : Int → Bool}
    (hc : ∀ u v : Num, FCond.holds c u v = (!u.isNan && !v.isNan && P (Num.cmp u v))) :
    Elementwise x s (Ex.fcmp .f32 c x) 1 32 [1, 2] fun l _ =>
      let u := x.fp .f32 1 l 0
      let v := x.fp .f32 2 l 0
      if !u.isNan && !v.isNan && P (Num.cmp u v) then 2 ^ 32 - 1 else 0 :=
  (hr.clean_elementwise 1 32 (.inr fun _ _ _ _ _ => ⟨_, rfl⟩)).congr_on fun l _ _ _ k hk => by
    obtain rfl : k = 0 := by omega
    simp only [El.code, FTy.bits, hc]
    split <;> rfl

theorem fcondHolds_lt (u v : Num) : FCond.holds .lt u v = (!u.isNan && !v.isNan && decide (Num.cmp u v < 0)) := by
  unfold FCond.holds
  cases u.isNan <;> cases v.isNan <;> rfl

theorem fcondHolds_eq (u v : Num) : FCond.holds .eq u v = (!u.isNan && !v.isNan && decide (Num.cmp u v = 0)) := by
  unfold FCond.holds
  cases u.isNan <;> cases v.isNan <;> rfl


/-! ### The obligation -/

/-- Settles O13: each form has its long instruction's effect on the operands of its own row, a literal among them in short-B. -/
theorem shortInstructions : Obligations.ShortInstructions := by
  unfold Obligations.ShortInstructions
  refine ⟨fun d a b s x => ?shortA, fun d a imm n s x => ?shortB, fun d a b s x => ?fp⟩
  case shortA =>
    exact ⟨fun hr => hr.elementwise rfl (hr.int2_elementwise rfl rfl (onWords_add true)),
      fun hr => hr.elementwise rfl (hr.int2_elementwise rfl rfl (onWords_sub true)),
      fun hr => hr.elementwise rfl (hr.int2_elementwise rfl rfl (onWords_mul true)),
      fun hr => hr.elementwise rfl (hr.int2_elementwise rfl rfl (onWords_min intVal_le_signed)),
      fun hr => hr.elementwise rfl (hr.int2_elementwise rfl rfl (onWords_max intVal_le_signed)),
      fun hr => hr.elementwise rfl (hr.int2_elementwise rfl rfl (onWords_min intVal_le_natural)),
      fun hr => hr.elementwise rfl (hr.int2_elementwise rfl rfl (onWords_max intVal_le_natural)),
      fun hr => hr.elementwise rfl hr.bitwise_elementwise,
      fun hr => hr.elementwise rfl hr.bitwise_elementwise,
      fun hr => hr.elementwise rfl hr.bitwise_elementwise,
      fun hr => hr.elementwise rfl hr.bitwise_elementwise,
      fun hr => hr.elementwise rfl (hr.shift_elementwise rfl rfl onWords_shl),
      fun hr => hr.elementwise rfl (hr.shift_elementwise rfl rfl onWords_shr),
      fun hr => hr.elementwise rfl (hr.shift_elementwise rfl rfl onWords_sha),
      fun hr => hr.elementwise rfl (hr.icmp_elementwise rfl rfl (onWords_compared condHolds_eq)),
      fun hr => hr.elementwise rfl (hr.icmp_elementwise rfl rfl (onWords_compared condHolds_lt_signed)),
      fun hr => hr.elementwise rfl (hr.icmp_elementwise rfl rfl (onWords_compared condHolds_lt_natural)),
      fun hr => hr.elementwise rfl hr.unary_elementwise,
      fun hr => hr.elementwise rfl hr.unary_elementwise,
      fun hr => hr.elementwise rfl (hr.unary_elementwise.congr fun _ _ _ _ => congrArg BitVec.toNat (leading_eq _)),
      fun hr => hr.elementwise rfl (hr.dadd_elementwise rfl rfl false),
      fun hr => hr.elementwise rfl (hr.lea_elementwise rfl rfl)⟩
  case shortB =>
    have hn : (n.setWidth 32).toNat = n.toNat := BitVec.toNat_setWidth_of_le (by decide)
    have himm : (imm.signExtend 32).toInt = imm.toInt := BitVec.toInt_signExtend_of_le (by decide)
    have same : ∀ {f : Word → Word → Word} {v : Word} (u : Word), f u v = f u v := fun _ => rfl
    exact ⟨fun hr => hr.elementwise rfl (hr.literal_elementwise rfl rfl same (hr.int2_elementwise rfl rfl (onWords_add false))),
      fun hr => hr.elementwise rfl (hr.literal_elementwise rfl rfl same (hr.int2_elementwise rfl rfl (onWords_sub false))),
      fun hr => hr.elementwise rfl (hr.literal_elementwise rfl rfl same hr.bitwise_elementwise),
      fun hr => hr.elementwise rfl (hr.literal_elementwise rfl rfl same hr.bitwise_elementwise),
      fun hr => hr.elementwise rfl (hr.literal_elementwise rfl rfl same hr.bitwise_elementwise),
      fun hr => hr.elementwise rfl (hr.literal_elementwise (g := fun u => u <<< n.toNat) rfl rfl (fun _ => by rw [hn])
        (hr.shift_elementwise rfl rfl onWords_shl)),
      fun hr => hr.elementwise rfl (hr.literal_elementwise (g := fun u => u >>> n.toNat) rfl rfl (fun _ => by rw [hn])
        (hr.shift_elementwise rfl rfl onWords_shr)),
      fun hr => hr.elementwise rfl (hr.literal_elementwise (g := fun u => u.sshiftRight n.toNat) rfl rfl (fun _ => by rw [hn])
        (hr.shift_elementwise rfl rfl onWords_sha)),
      fun hr => hr.elementwise rfl (hr.literal_elementwise rfl rfl same
        (hr.icmp_elementwise rfl rfl (onWords_compared condHolds_eq))),
      fun hr => hr.elementwise rfl (hr.literal_elementwise rfl rfl (fun _ => by rw [himm])
        (hr.icmp_elementwise rfl rfl (onWords_compared condHolds_lt_signed))),
      fun hr => hr.elementwise rfl (hr.unary_elementwise.congr fun _ _ hl _ => by rw [hr.lv_lit rfl rfl hl]; rfl)⟩
  case fp =>
    refine ⟨?_, ?_, ?_, ?_, ?_, ?_, ?_, ?_, ?_, ?_, ?_, ?lt, ?eq⟩
    case lt => exact fun hr => hr.elementwise rfl (hr.fcmp_elementwise (P := fun c => decide (c < 0)) fcondHolds_lt)
    case eq => exact fun hr => hr.elementwise rfl (hr.fcmp_elementwise (P := fun c => decide (c = 0)) fcondHolds_eq)
    all_goals exact fun hr hV => hr.elementwise rfl (hr.fp_elementwise hV)

end Sys2Proof.Machine

/-! ## A literal in a lane that the gang does not have (R43, R205) -/

namespace Sys2Proof.Machine

/-- The flow of a third slice, where a gang of 8 lanes has two: its lane 8 is live. -/
def strayFlow : Flow := { Flow.start 8 0 with xm := 0x100 }

/-- A gang of 8 lanes in three slices, whose register 1 holds 0xFFFFFFFC in a lane 8. -/
def strayGang : Gang :=
  { Gang.firmware 0 0 8 0 0 4 256 0 with
    body := { ((Body.start 8 4 0).setRow 1 (List.replicate 8 ⟨0, false⟩ ++ [⟨0xFFFFFFFC, false⟩])) with
      parted := true, flows := [strayFlow, strayFlow, strayFlow] } }

/-- That gang on the core of reeve 0, in a workgroup with 4 bytes of scratch; it is the third slice's turn. -/
def stray : State :=
  { State.reset.modCore (.reeve 0) fun c => { c with gangs := [strayGang], wgs := [{ Wg.firmware 0 with localBytes := 4 }] } with
    cur := ⟨.reeve 0, 0, 2⟩ }

/-- LDL.B32 v0, v1, 1 in its short-B form: its operand B reads 4. -/
def strayInstr : Instr := .ldlB32ShortB (.v 0) (.v 1) 1

def strayLdl : Ex where
  s := stray
  ag := ⟨.reeve 0, 0, 2⟩
  g := strayGang
  b := strayGang.body
  fi := 2
  fl := strayFlow
  i := strayInstr
  n := .res ⟨some 4, .z, false, false⟩ true (ops3 (.v 0) (.v 1) .lit)
  set := [8]
  src := [[strayGang.body.row 0], [strayGang.body.row 1], [List.replicate 8 ⟨4, false⟩]]
  pops := []
  full := []

theorem strayLdl_ready : Ready strayInstr stray strayLdl where
  wf := rfl
  agent := ⟨_, rfl⟩
  info := rfl
  state := rfl
  ag := rfl
  instr := rfl
  body := rfl
  flow := rfl
  decode := rfl
  awake := by decide
  joined := by decide
  storage := rfl
  guardThere := rfl
  guardClean := by decide
  slot := rfl
  sources := rfl
  room := rfl
  set := by decide
  src := rfl
  pops := rfl
  full := rfl
  quiet := nofun

/-- The PC of the slice after an outcome. -/
def strayPc : Res → Option Dword
  | .next t => some (strayLdl.flowAfter t).pc
  | _ => none

/-- In lane 8 operand B reads 0, so that the address is 0xFFFFFFFC, out of range: the load traps. -/
theorem stray_traps : strayPc (exec strayInstr stray) = some 0 := by decide +kernel

/-- Had the load completed, the slice would stand past it. -/
theorem strayPc_written (row : Lanes) : strayPc (.next (strayLdl.written stray strayLdl.inSet [row])) = some 4 :=
  congrArg (fun f : Flow => some f.pc) (strayLdl_ready.flow_written rfl row)

/-- Refutes O24: it takes the immediate of LDL's short-B form for operand B in every lane of the lane set, also in one that the
gang does not have, which `Ready` leaves open. There the operand reads 0: in lane 8 the address is A, 0xFFFFFFFC and out of
range, while A + 4 is 0 and in range, and the load traps. -/
theorem not_localLoads : ¬ Obligations.LocalLoads := by
  rintro ⟨hloads, -⟩
  obtain ⟨-, -, -, -, -, hshort, -⟩ := hloads .plain .b32 (.v 0) (.v 1) .z 1 stray strayLdl
  obtain ⟨rows, hexec, hlen, -⟩ := hshort strayLdl_ready (by decide +kernel)
  obtain ⟨row, rfl⟩ := List.length_eq_one_iff.mp hlen
  have hpc := stray_traps.symm.trans ((congrArg strayPc hexec).trans (strayPc_written row))
  exact absurd hpc (by decide)

end Sys2Proof.Machine

/-! ## Poison in lane-local instructions (R84, R87, R94) -/

namespace Sys2Proof.Machine

/-! ### Lanes of a result -/

/-- Lane by lane, each register of a row is the value computed for that lane. -/
theorem laneAt_rowsOf {w n l : Nat} {res : List (Nat × List LV)} {row : Lanes} (h : row ∈ rowsOf w n res) (hl : l < w) :
    ∃ k < n, laneAt row l = laneAt (lookupD l [] res) k := by
  obtain ⟨k, hk, rfl⟩ := List.mem_map.mp h
  exact ⟨k, List.mem_range.mp hk, laneAt_map _ _ _ hl⟩

/-- A lane-wise instruction completes: its lanes' values, in the state that they leave. -/
theorem Ex.lanewise_eq (x : Ex) (n : Nat) (f : Nat → State → List LV × State) :
    x.lanewise n f = .next (x.written (eachLane f x.set x.s).2 x.inSet (rowsOf x.w n (eachLane f x.set x.s).1)) := rfl

/-- Lanes that leave the state alone. -/
theorem eachLane_kept {f : Nat → State → List LV × State} {V : Nat → List LV} {l : List Nat} {s : State}
    (h : ∀ i ∈ l, f i s = (V i, s)) : eachLane f l s = (l.map fun i => (i, V i), s) := by
  induction l with
  | nil => rfl
  | cons i r ih =>
    obtain ⟨hi, hr⟩ := List.forall_mem_cons.mp h
    simp only [eachLane, hi, ih hr, List.map_cons]

theorem eachLane_state {f : Nat → State → List LV × State} {l : List Nat} {s : State} (h : ∀ i ∈ l, (f i s).2 = s) :
    (eachLane f l s).2 = s := by
  rw [eachLane_kept (f := f) (V := fun i => (f i s).1) fun i hi => Prod.ext rfl (h i hi)]

/-- The only lane's register. -/
theorem laneAt_lookupD_single (l : Nat) (v : LV) : laneAt (lookupD l [] [(l, [v])]) 0 = v := by
  simp [lookupD, laneAt]

/-! ### Tags (R84, R87) -/

/-- With poison mode off a result makes no entry. -/
theorem State.tag_state {s : State} {ch : Charge} (h : ch.psn = false) (srcs : List LV) (n bits : Nat) (els : List El) :
    (s.tag ch srcs n bits els).2 = s := by
  rw [State.tag_clean s ch srcs n bits els (.inl h)]

theorem State.tag_merged {s : State} {ch : Charge} {srcs : List LV} {w : Word} (h : merge srcs = some w) (n bits : Nat)
    (els : List El) : (s.tag ch srcs n bits els).1 = List.replicate n ⟨w, true⟩ := by
  simp only [State.tag, State.tagAt, h]

/-- With poison mode off clean sources give clean registers. -/
theorem State.tag_unmerged {s : State} {ch : Charge} {srcs : List LV} (h : merge srcs = none) (hpsn : ch.psn = false)
    (n bits : Nat) (els : List El) (k : Nat) : (laneAt (s.tag ch srcs n bits els).1 k).p = false := by
  rw [State.tag_clean s ch srcs n bits els (.inl hpsn)]
  simp only [tagged, h, laneAt, List.getD_eq_getElem?_getD, List.getElem?_map]
  cases (wordsOf n (joinEls bits (els.map El.code)))[k]? <;> rfl

/-! ### Elements of all sources (R94) -/

/-- An instruction whose lanes each give n registers of elements, computed from all of its sources (R94). -/
def Packs (i : Instr) (n : Nat) : Prop :=
  ∃ (b : Nat) (f : Ex → Nat → Nat → El) (info : Info), i.info = some info ∧
    ∀ s, exec i s = issue i s fun x => x.packed n b ((upTo (info.ops.length - 1)).map (· + 1)) (f x)

/-- FUNPK takes the formats of at most 16 bits (R124). -/
theorem funpk_regs_pos {h : Hdr} {fm : FpMod} {src dst : Fmt} {d a : Opnd} {s : State} {x : Ex}
    (hr : Ready (.funpk h fm src dst d a) s x) : 0 < 32 / fmtBits src := by
  have hmod : (fm.rneOnly && !fm.sat && src.packOk && dst == .f32) = true := by
    have := hr.modOk
    rwa [hr.info_eq rfl] at this
  simp only [Bool.and_eq_true] at hmod
  obtain ⟨⟨-, hpack⟩, -⟩ := hmod
  cases src with
  | s64 | n64 => exact Bool.noConfusion hpack
  | _ => decide

/-- The lane-local instructions by the number of registers that they give. -/
theorem Ready.packs {i : Instr} {s : State} {x : Ex} (hr : Ready i s x) (h : i.laneLocal = true) :
    ∃ n, 0 < n ∧ Packs i n := by
  have hregs : ∀ w : IntW, 0 < w.regs := fun w => by cases w <;> decide
  have hcvt : ∀ f : Fmt, 0 < f.regs := fun f => by cases f <;> decide
  cases i with
  | iadd | isub | imin | imax | iabs | icmp | dcmp | dot4 | dot2 | isad
  | mov | andI | orI | xorI | andn | notI | shl | shr | sha | rot | bfe | bfi | popc | clz | ffs | brev | permb | lop3
  | fadd | fsub | fmul | ffma | fmin | fmax | fcmp | fdot2 | fscale | ffract | frnd | fclass | frcp | frsq | fsqrt | fdiv
  | fexp2 | flog2 | fsin | fcos | ftanh =>
    exact ⟨1, Nat.one_pos, _, _, _, rfl, fun _ => rfl⟩
  | iaddS32ShortA | isubS32ShortA | imulS32ShortA | iminS32ShortA | imaxS32ShortA | iminN32ShortA | imaxN32ShortA | andShortA
  | orShortA | xorShortA | andnShortA | shlShortA | shrShortA | shaShortA | movShortA | icmpEqShortA | icmpLtS32ShortA
  | icmpLtN32ShortA | popcShortA | clzShortA | faddF32ShortA | fsubF32ShortA | fmulF32ShortA | fminF32ShortA | fmaxF32ShortA
  | faddF16x2ShortA | fmulF16x2ShortA | faddBf16x2ShortA | fmulBf16x2ShortA | fcmpLtShortA | fcmpEqShortA | frcpShortA
  | frsqShortA | iaddShortB | isubShortB | andShortB | orShortB | xorShortB | shlShortB | shrShortB | shaShortB | movShortB
  | icmpEqShortB | icmpLtS32ShortB =>
    exact ⟨1, Nat.one_pos, _, _, _, rfl, fun _ => rfl⟩
  | dadd | dsub | lea | dshl | dshr | movd | daddShortA | leaShortA =>
    exact ⟨2, Nat.two_pos, _, _, _, rfl, fun _ => rfl⟩
  | imul _ md | imulh _ md | imad _ md | idiv _ md | irem _ md => exact ⟨md.w.regs, hregs _, _, _, _, rfl, fun _ => rfl⟩
  | cvtff _ _ _ dst | cvtfi _ _ _ dst | cvtif _ _ _ dst => exact ⟨dst.regs, hcvt _, _, _, _, rfl, fun _ => rfl⟩
  | funpk _ _ src => exact ⟨32 / fmtBits src, funpk_regs_pos hr, _, _, _, rfl, fun _ => rfl⟩
  | _ => exact Bool.noConfusion (show false = true from h)

/-- Settles O1: a lane's tag, by whether its sources have a merge. -/
theorem laneLocalPoison : Obligations.LaneLocalPoison := by
  unfold Obligations.LaneLocalPoison
  intro i s x hlocal hr
  obtain ⟨n, hn, b, f, info, hinfo, hexec⟩ := hr.packs hlocal
  obtain rfl := hr.info_eq hinfo
  rw [hexec, issue_of_ready hr, Ex.packed, Ex.check_nil hr.full, Ex.lanewise_eq]
  refine ⟨_, _, rfl, fun hpsn => ?state, ?rows, fun l hl hw row hrow => ?lane⟩
  case state =>
    rw [hr.state]
    exact eachLane_state fun l _ => State.tag_state (ch := x.charge l) hpsn _ _ _ _
  case rows =>
    exact List.ne_nil_of_length_pos (by simpa [rowsOf, upTo] using hn)
  case lane =>
    obtain ⟨k, hk, hlane⟩ := laneAt_rowsOf hrow hw
    obtain ⟨t, ht⟩ := eachLane_mem _ x.set x.s l hl
    rw [hlane, ht, Ex.srcsOf]
    split
    · next w hm =>
      rw [State.tag_merged hm]
      simp [laneAt, hk]
    · next hm =>
      exact fun hpsn => State.tag_unmerged (ch := x.charge l) hm hpsn _ _ _ _

end Sys2Proof.Machine

/-! ## The poison instructions and the poison-origin log (R85, R88, R332, R333, R336) -/

namespace Sys2Proof.Machine

/-! ### Provenance words (R85) -/

/-- ORIGIN, KIND and COUNT of a provenance word. -/
theorem provWord_fields (o k c : Nat) :
    (provWord o k c).extractLsb' 8 13 = BitVec.ofNat 13 o ∧ (provWord o k c).extractLsb' 4 4 = BitVec.ofNat 4 k ∧
      (provWord o k c).extractLsb' 0 4 = BitVec.ofNat 4 c := by
  unfold provWord
  generalize BitVec.ofNat 13 o = o
  generalize BitVec.ofNat 4 k = k
  generalize BitVec.ofNat 4 c = c
  refine ⟨?_, ?_, ?_⟩ <;> (ext i hi; interval_cases i <;> simp)

theorem provOrigin_provWord {o : Nat} (ho : o < 8192) (k c : Nat) : provOrigin (provWord o k c) = o := by
  rw [provOrigin, (provWord_fields o k c).1, BitVec.toNat_ofNat, Nat.mod_eq_of_lt ho]

theorem provKind_provWord {k : Nat} (hk : k < 16) (o c : Nat) : provKind (provWord o k c) = k := by
  rw [provKind, (provWord_fields o k c).2.1, BitVec.toNat_ofNat, Nat.mod_eq_of_lt hk]

theorem provCount_provWord {c : Nat} (hc : c < 16) (o k : Nat) : provCount (provWord o k c) = c := by
  rw [provCount, (provWord_fields o k c).2.2, BitVec.toNat_ofNat, Nat.mod_eq_of_lt hc]

/-! ### The context of a log (R332) -/

/-- The island's record of a context after an update of that record. -/
theorem State.ctxAt?_modCtxAt {s : State} {site c : Nat} {k : CtxIsland} {f : CtxIsland → CtxIsland}
    (hf : ∀ k, (f k).ctx = k.ctx) (h : s.ctxAt? site c = some k) : (s.modCtxAt site c f).ctxAt? site c = some (f k) := by
  obtain ⟨y, hy, hk⟩ := Option.bind_eq_some_iff.mp h
  have hkc : k.ctx = c := by simpa using List.find?_some hk
  unfold Island.ctx? at hk
  rw [State.ctxAt?, State.modCtxAt, State.island?_modIsland (·.modCtx c f) (fun _ => rfl) hy, Option.bind_some, Island.ctx?,
    Island.modCtx, find_modify _ _ _ fun k => by rw [hf], hk]
  simp [hkc]

/-- An update of an island that keeps its contexts. -/
theorem State.ctxAt?_modIsland {s : State} {site c : Nat} {k : CtxIsland} {f : Island → Island}
    (hf : ∀ y, (f y).site = y.site) (hctxs : ∀ y, (f y).ctxs = y.ctxs) (h : s.ctxAt? site c = some k) :
    (s.modIsland site f).ctxAt? site c = some k := by
  obtain ⟨y, hy, hk⟩ := Option.bind_eq_some_iff.mp h
  rw [State.ctxAt?, State.island?_modIsland f hf hy, Option.bind_some, Island.ctx?, hctxs]
  exact hk

theorem Island.dirty3_keeps (x : Island) (n : Nat) : (x.dirty3 n).site = x.site ∧ (x.dirty3 n).ctxs = x.ctxs := by
  unfold Island.dirty3
  repeat' split
  all_goals exact ⟨rfl, rfl⟩

/-- A write at I keeps every context's record. -/
theorem State.ctxAt?_performI {s : State} {site c : Nat} {k : CtxIsland} (d : DWrite) (h : s.ctxAt? site c = some k) :
    (s.performI site d).ctxAt? site c = some k :=
  State.ctxAt?_modIsland (f := fun x => { x.dirty3 (d.word / 32) with mem := x.mem.write d })
    (fun y => (y.dirty3_keeps _).1) (fun y => (y.dirty3_keeps _).2) h

section
variable {s : State} {ch : Charge} {c : Nat} (hc : ch.ctx = some c)
include hc

/-- A write of the log of a context that the island has keeps the context's record. -/
theorem State.ctxAt?_polStore {k : CtxIsland} {va d : Dword} {t : State} (ht : s.polStore ch va d = some t)
    (h : s.ctxAt? ch.site c = some k) : t.ctxAt? ch.site c = some k := by
  simp only [State.polStore, hc] at ht
  split at ht
  · cases ht
  · split at ht
    · cases ht
    · split at ht
      · cases ht
        exact State.ctxAt?_performI _ (State.ctxAt?_performI _ h)
      · cases ht

theorem State.ctxAt?_losePol {k : CtxIsland} (h : s.ctxAt? ch.site c = some k) :
    (s.losePol ch).ctxAt? ch.site c = some { k with lostPol := k.lostPol + 1 } := by
  have hmod := State.ctxAt?_modCtxAt (f := fun k => { k with lostPol := k.lostPol + 1 }) (fun _ => rfl) h
  simp only [State.losePol, hc, State.ctxAt?, State.island?, State.report_islands] at hmod ⊢
  exact hmod

/-- The doublewords of an entry, one after another. -/
theorem State.ctxAt?_polStores {k : CtxIsland} (a : Dword) (dws : List Dword) {p : Option State × Nat} {t : State}
    (hp : ∀ u, p.1 = some u → u.ctxAt? ch.site c = some k)
    (ht : (dws.foldl (fun (p : Option State × Nat) x =>
      (p.1.bind fun t => t.polStore ch (a + BitVec.ofNat 64 (8 * p.2)) x, p.2 + 1)) p).1 = some t) :
    t.ctxAt? ch.site c = some k := by
  induction dws generalizing p with
  | nil => exact hp t ht
  | cons d dws ih =>
    refine ih (fun u hu => ?_) ht
    obtain ⟨v, hv, hu⟩ := Option.bind_eq_some_iff.mp hu
    exact State.ctxAt?_polStore hc hu (hp v hv)

/-- An entry of the log, written or lost, leaves the context with its record. -/
theorem State.ctxAt?_polEntry {k : CtxIsland} (e : Nat) (dws : List Dword) (h : s.ctxAt? ch.site c = some k) :
    ((s.polEntry ch e dws).ctxAt? ch.site c).isSome = true := by
  unfold State.polEntry
  dsimp only
  split
  · next t ht => rw [State.ctxAt?_polStores hc _ dws (fun u hu => by cases hu; exact h) ht]; rfl
  · rw [State.ctxAt?_losePol hc h]; rfl

/-- The head that an island's record of the context is set to. -/
theorem State.polRegs_setPolHead (h : (s.ctxAt? ch.site c).isSome = true) (head : Nat) (seen : Bool) :
    ((s.setPolHead ch head seen).polRegs ch).2.1 = head := by
  obtain ⟨k, hk⟩ := Option.isSome_iff_exists.mp h
  simp only [State.setPolHead, State.polRegs, hc]
  rw [State.ctxAt?_modCtxAt (f := fun k => { k with polhead := head, fullSeen := seen }) (fun _ => rfl) hk]

end

/-! ### New origins (R88, R333) -/

/-- A new origin is a provenance word of its kind with count 0. -/
theorem State.newOrigin_word (s : State) (ch : Charge) (kind : Nat) (addr : Dword) :
    ∃ o, (s.newOrigin ch kind addr).1 = provWord o kind 0 := by
  unfold State.newOrigin State.newOriginFrom
  dsimp only
  split
  · exact ⟨_, rfl⟩
  · split <;> exact ⟨_, rfl⟩

/-- With room in the log a new origin is the log's head. -/
theorem State.newOrigin_of_room {s : State} {ch : Charge} (h : (s.polRegs ch).2.1 < 8191) (kind : Nat) (addr : Dword) :
    (s.newOrigin ch kind addr).1 = provWord (s.polRegs ch).2.1 kind 0 := by
  simp only [State.newOrigin, State.newOriginFrom, if_pos h]

/-- With room in the log of a context that the island has, a new origin moves the head on. -/
theorem State.newOrigin_head {s : State} {ch : Charge} {c : Nat} {k : CtxIsland} (hc : ch.ctx = some c)
    (hk : s.ctxAt? ch.site c = some k) (h : (s.polRegs ch).2.1 < 8191) (kind : Nat) (addr : Dword) :
    ((s.newOrigin ch kind addr).2.polRegs ch).2.1 = (s.polRegs ch).2.1 + 1 := by
  simp only [State.newOrigin, State.newOriginFrom, if_pos h]
  exact State.polRegs_setPolHead hc (State.ctxAt?_polEntry hc _ _ hk) _ _

/-! ### PCHK, PCLR, PSET and PORG (R336) -/

theorem transientKind_iff (k : Nat) : transientKind k = true ↔ k ∈ [6, 7, 9] := by
  simp [transientKind, or_assoc]

/-- PSET of a lane: a poisoned one is as it was, a clean one takes a new origin of kind 8 at its value. -/
def Ex.psetLane (x : Ex) (l : Nat) (s : State) : List LV × State :=
  if (x.lv 1 l).p then ([x.lv 1 l], s)
  else
    let o := s.newOrigin (x.charge l) 8 ((x.lv 1 l).v.setWidth 64)
    ([⟨o.1, true⟩], o.2)

section
variable {x : Ex} (hfull : x.full = [])
include hfull

theorem Ex.pset_eq : x.pset = .next (x.written (eachLane x.psetLane x.set x.s).2 x.inSet
    [(upTo x.w).map fun l => laneAt (lookupD l [] (eachLane x.psetLane x.set x.s).1) 0]) :=
  Ex.check_nil hfull _

/-- PORG of entries that the log does not hold. -/
theorem Ex.porg_absent (f : BitVec 2)
    (h : ∀ l ∈ x.set, (x.s.polRegs (x.charge 0)).2.1 ≤ provOrigin (x.lv 1 l).v ∧ provOrigin (x.lv 1 l).v ≠ 8191) :
    x.porg f = .next (x.written x.s x.inSet (x.rows 2 fun _ => [⟨0, false⟩, ⟨0, false⟩])) := by
  rw [Ex.porg, Ex.check_nil hfull, Ex.lanewise_eq, eachLane_kept (V := fun _ => [⟨0, false⟩, ⟨0, false⟩]), rowsOf_pure]
  intro l hl
  obtain ⟨hhead, hlost⟩ := h l hl
  have habsent : ((x.s.polRegs (x.charge l)).2.1 ≤ provOrigin (x.lv 1 l).v && provOrigin (x.lv 1 l).v != 8191) = true := by
    simpa using ⟨hhead, hlost⟩
  simp only [habsent, if_true]
  rfl

end

section
variable {x : Ex} {l : Nat}

theorem Ex.psetLane_poisoned (h : (x.lv 1 l).p = true) (s : State) : x.psetLane l s = ([x.lv 1 l], s) := by
  rw [Ex.psetLane, if_pos h]

theorem Ex.psetLane_clean (h : (x.lv 1 l).p = false) (s : State) : x.psetLane l s =
    ([⟨(s.newOrigin (x.charge l) 8 ((x.lv 1 l).v.setWidth 64)).1, true⟩],
      (s.newOrigin (x.charge l) 8 ((x.lv 1 l).v.setWidth 64)).2) := by
  rw [Ex.psetLane, if_neg (by simp [h])]

/-- What PSET makes of a lane, whatever entries the lanes before it have made. -/
theorem Ex.psetLane_tag (s : State) :
    let v := laneAt (x.psetLane l s).1 0
    v.p = true ∧ ((x.lv 1 l).p = true → v = x.lv 1 l) ∧ ((x.lv 1 l).p = false → provKind v.v = 8 ∧ provCount v.v = 0) := by
  cases h : (x.lv 1 l).p with
  | true =>
    rw [Ex.psetLane_poisoned h]
    exact ⟨h, fun _ => rfl, nofun⟩
  | false =>
    obtain ⟨o, ho⟩ := s.newOrigin_word (x.charge l) 8 ((x.lv 1 l).v.setWidth 64)
    rw [Ex.psetLane_clean h, ho]
    exact ⟨rfl, nofun, fun _ => ⟨provKind_provWord (by decide) o 0, provCount_provWord (by decide) o 8⟩⟩

end

/-- Settles O34: PSET lane by lane, a lane's new origin by the log's head. -/
theorem poisonInstructions : Obligations.PoisonInstructions := by
  unfold Obligations.PoisonInstructions
  intro h tr one f d a s x
  dsimp only
  refine ⟨fun hr => ?pchk, fun hr => ?pclr, fun hr => ?pset, fun hr => ⟨?porg, fun habsent => ?absent⟩⟩
  case pchk =>
    show issue _ s (Ex.pchk tr one) = _
    rw [issue_of_ready hr, Ex.pchk, Ex.check_nil hr.full, Ex.result, hr.state]
    refine congrArg (fun row => (.next (x.written s x.inSet [row]) : Res)) (List.map_congr_left fun l _ => ?_)
    cases tr <;> simp [chkTrue, transientKind_iff]
  case pclr =>
    show issue _ s Ex.pclr = _
    rw [issue_of_ready hr, Ex.pclr, Ex.check_nil hr.full, hr.state]
    rfl
  case pset =>
    show ∃ t row, issue _ s Ex.pset = _ ∧ _
    rw [issue_of_ready hr, Ex.pset_eq hr.full, hr.state]
    refine ⟨_, _, rfl, fun hall => eachLane_state fun l hl => by rw [Ex.psetLane_poisoned (hall l hl)], fun l hl hw => ?_,
      fun l hset hw hclean hroom => ?_⟩
    · obtain ⟨t, ht⟩ := eachLane_mem x.psetLane x.set s l hl
      rw [laneAt_map _ _ _ hw, ht]
      exact Ex.psetLane_tag t
    · have hlane : eachLane x.psetLane x.set s = ([(l, (x.psetLane l s).1)], (x.psetLane l s).2) := by rw [hset]; rfl
      have hroom' : (s.polRegs (x.charge l)).2.1 < 8191 := hroom
      rw [laneAt_map _ _ _ hw, hlane, Ex.psetLane_clean hclean]
      refine ⟨?_, ?_⟩
      · rw [laneAt_lookupD_single, State.newOrigin_of_room hroom']
        exact provOrigin_provWord (Nat.lt_succ_of_lt hroom') 8 0
      · rintro ⟨c, y, hc, hy⟩
        exact State.newOrigin_head (ch := x.charge l) hc hy hroom 8 _
  case porg =>
    show ∃ t rows, issue _ s (Ex.porg f) = _ ∧ _
    rw [issue_of_ready hr, Ex.porg, Ex.check_nil hr.full]
    exact ⟨_, _, rfl, by simp [rowsOf, upTo]⟩
  case absent =>
    show ∃ lo hi, issue _ s (Ex.porg f) = _ ∧ _
    rw [issue_of_ready hr, Ex.porg_absent hr.full f (by rwa [hr.state]), hr.state]
    exact ⟨_, _, rfl, fun l _ hw => ⟨(laneAt_map _ _ _ hw).trans (ite_self _), (laneAt_map _ _ _ hw).trans (ite_self _)⟩⟩

end Sys2Proof.Machine

/-! ## Rounding (R63, R76 to R79) -/

namespace Sys2Proof.Machine

/-! ### Rounding to an integer (R76) -/

/-- R76's table for a number strictly between the integers lo and lo + 1, its double to the double of their middle as twice to mid:
whether a mode picks lo. -/
def PicksLower (mode : RMode) (neg : Bool) (lo twice mid : Nat) : Prop :=
  match mode with
  | .rne => twice < mid ∨ twice = mid ∧ lo % 2 = 0
  | .rz => True
  | .ru => neg = true
  | .rd => neg = false
  | .ro => lo % 2 = 1

/-- Whether it picks lo + 1. -/
def PicksUpper (mode : RMode) (neg : Bool) (lo twice mid : Nat) : Prop :=
  match mode with
  | .rne => mid < twice ∨ twice = mid ∧ lo % 2 = 1
  | .rz => False
  | .ru => neg = false
  | .rd => neg = true
  | .ro => lo % 2 = 0

theorem roundShift_of_nonpos (mode : RMode) (neg : Bool) (m : Nat) {k : Int} (hk : k ≤ 0) :
    roundShift mode neg m k = m * 2 ^ (-k).toNat := by
  rw [roundShift, if_pos hk, scale, if_pos (by omega)]

section
variable (mode : RMode) (neg : Bool) {m n : Nat} (hn : 0 < n)
include hn

theorem roundShift_of_dvd (h : 2 ^ n ∣ m) : roundShift mode neg m n = m / 2 ^ n := by
  rw [roundShift, if_neg (by omega)]
  simp [Nat.mod_eq_zero_of_dvd h]

theorem roundShift_picks (h : ¬ 2 ^ n ∣ m) :
    let lo := m / 2 ^ n
    let mid := (2 * lo + 1) * 2 ^ n
    roundShift mode neg m n = lo ∧ PicksLower mode neg lo (2 * m) mid ∨
      roundShift mode neg m n = lo + 1 ∧ PicksUpper mode neg lo (2 * m) mid := by
  have hr : m % 2 ^ n ≠ 0 := fun h0 => h (Nat.dvd_of_mod_eq_zero h0)
  have hm : 2 * m = 2 * (m / 2 ^ n * 2 ^ n) + 2 * (m % 2 ^ n) := by rw [← Nat.mul_add, Nat.div_add_mod']
  have hmid : (2 * (m / 2 ^ n) + 1) * 2 ^ n = 2 * (m / 2 ^ n * 2 ^ n) + 2 ^ n := by ring
  dsimp only
  rw [roundShift, if_neg (by omega), hm, hmid]
  simp only [Int.toNat_natCast, beq_iff_eq, if_neg hr]
  generalize m / 2 ^ n * 2 ^ n = t
  generalize m / 2 ^ n = q
  cases mode with
  | rne =>
    simp only [PicksLower, PicksUpper]
    split
    · omega
    · split <;> omega
  | rz => exact .inl ⟨rfl, trivial⟩
  | ru => cases neg with
    | false => exact .inr ⟨rfl, rfl⟩
    | true => exact .inl ⟨rfl, rfl⟩
  | rd => cases neg with
    | false => exact .inl ⟨rfl, rfl⟩
    | true => exact .inr ⟨rfl, rfl⟩
  | ro =>
    simp only [PicksLower, PicksUpper]
    omega

end

/-! ### The values of a layout, from 0 up (R63) -/

theorem two_pow_mul_zpow (n : Nat) (e : Int) : ((2 ^ n : Nat) : Rat) * 2 ^ e = 2 ^ (n + e : Int) := by
  rw [zpow_add₀ (by norm_num), zpow_natCast, Nat.cast_pow, Nat.cast_ofNat]

/-- r units of the P-th binade are a value of the layout, the first of the next binade among them. -/
theorem Layout.value_add (l : Layout) {P r : Nat} (hr : r ≤ 2 ^ (l.fb + 1)) (h : P = 0 ∨ 2 ^ l.fb ≤ r) :
    l.value (P * 2 ^ l.fb + r) = r * (2 : Rat) ^ (P + 1 - l.bias - l.fb : Int) := by
  have hpos := Nat.two_pow_pos l.fb
  rw [Nat.pow_succ] at hr
  rcases Nat.lt_or_ge r (2 ^ l.fb) with hlt | hge
  · obtain rfl : P = 0 := by omega
    rw [Layout.value, if_pos (by omega)]
    simp
  obtain ⟨t, rfl⟩ := Nat.exists_eq_add_of_le hge
  have hk : P * 2 ^ l.fb + (2 ^ l.fb + t) = t + 2 ^ l.fb * (P + 1) := by ring
  rw [Layout.value, if_neg (by omega), hk, Nat.add_mul_div_left _ _ hpos, Nat.add_mul_mod_self_left]
  rcases Nat.lt_or_ge t (2 ^ l.fb) with hlt | hge
  · rw [Nat.div_eq_of_lt hlt, Nat.mod_eq_of_lt hlt]
    simp
  · obtain rfl : t = 2 ^ l.fb := by omega
    have hz : ((1 + (P + 1) : Nat) - l.bias - l.fb : Int) = (P + 1 - l.bias - l.fb) + 1 := by push_cast; ring
    rw [Nat.div_self hpos, Nat.mod_self, hz, zpow_add_one₀ (by norm_num)]
    push_cast
    ring

/-- Two values one after the other differ by one unit of a binade. -/
theorem Layout.value_strictMono (l : Layout) : StrictMono l.value := by
  refine strictMono_nat_of_lt_succ fun k => ?_
  obtain ⟨P, r, hk, hr, h⟩ : ∃ P r, k = P * 2 ^ l.fb + r ∧ r < 2 ^ (l.fb + 1) ∧ (P = 0 ∨ 2 ^ l.fb ≤ r) := by
    have hdm := Nat.div_add_mod' k (2 ^ l.fb)
    have hmod := Nat.mod_lt k (Nat.two_pow_pos l.fb)
    rw [Nat.pow_succ]
    rcases Nat.eq_zero_or_pos (k / 2 ^ l.fb) with h0 | hpos
    · exact ⟨0, k, by omega, by rw [h0] at hdm; omega, .inl rfl⟩
    · obtain ⟨P, hP⟩ := Nat.exists_eq_add_of_le' hpos
      rw [hP, Nat.add_mul] at hdm
      exact ⟨P, 2 ^ l.fb + k % 2 ^ l.fb, by omega, by omega, .inr (by omega)⟩
  rw [hk, Nat.add_assoc, l.value_add hr.le h, l.value_add hr (by omega)]
  push_cast
  exact mul_lt_mul_of_pos_right (lt_add_one _) (by positivity)

/-! ### Rounding to a layout (R76, R77, R79) -/

/-- The binade of a value m × 2^e. -/
theorem binade_bounds {m : Nat} (hm : m ≠ 0) (e : Int) :
    (2 : Rat) ^ (m.log2 + e) ≤ m * (2 : Rat) ^ e ∧ m * (2 : Rat) ^ e < (2 : Rat) ^ (m.log2 + 1 + e : Int) := by
  have hu : (0 : Rat) < 2 ^ e := by positivity
  constructor
  · rw [← two_pow_mul_zpow]
    exact mul_le_mul_of_nonneg_right (by exact_mod_cast Nat.log2_self_le hm) hu.le
  · rw [show (m.log2 + 1 + e : Int) = (m.log2 + 1 : Nat) + e by push_cast; rfl, ← two_pow_mul_zpow]
    exact mul_lt_mul_of_pos_right (by exact_mod_cast Nat.lt_log2_self) hu

/-- The binade P that a value is rounded in: below 2^(fb + 1) of its units 2^q, and not below 2^fb of them unless it is the lowest
one. -/
theorem Layout.round_eq (l : Layout) (mode : RMode) (neg : Bool) {m : Nat} (hm : m ≠ 0) (e : Int) :
    ∃ P : Nat, ∃ q : Int, q = P + 1 - l.bias - l.fb ∧ m * (2 : Rat) ^ e < 2 ^ (l.fb + 1) * (2 : Rat) ^ q ∧
      (P = 0 ∨ 2 ^ l.fb * (2 : Rat) ^ q ≤ m * (2 : Rat) ^ e) ∧
      l.round mode neg m e = (let k := P * 2 ^ l.fb + roundShift mode neg m (q - e)
        if k ≤ l.maxMag then .code (l.signed neg k) else .over neg) := by
  obtain ⟨q, hq⟩ : ∃ q, q = max ((m.log2 : Int) + e - l.fb) (1 - (l.bias : Int) - l.fb) := ⟨_, rfl⟩
  obtain ⟨P, hP⟩ := Int.eq_ofNat_of_zero_le (show 0 ≤ q + l.bias + l.fb - 1 by omega)
  refine ⟨P, q, by omega, ?_, ?_, ?_⟩
  · calc m * (2 : Rat) ^ e < 2 ^ (m.log2 + 1 + e : Int) := (binade_bounds hm e).2
      _ ≤ 2 ^ ((l.fb + 1 : Nat) + q) := zpow_le_zpow_right₀ (by norm_num) (by push_cast; omega)
      _ = 2 ^ (l.fb + 1) * 2 ^ q := by rw [zpow_add₀ (by norm_num), zpow_natCast]
  · refine or_iff_not_imp_left.mpr fun hP0 => ?_
    calc (2 : Rat) ^ l.fb * 2 ^ q = 2 ^ (m.log2 + e) := by
          rw [← zpow_natCast, ← zpow_add₀ (by norm_num)]; congr 1; omega
      _ ≤ m * 2 ^ e := (binade_bounds hm e).1
  · have hmag : ((q + l.bias + l.fb) * 2 ^ l.fb).toNat = (P + 1) * 2 ^ l.fb := by
      rw [show q + l.bias + l.fb = ((P + 1 : Nat) : Int) by push_cast; omega]
      exact_mod_cast Int.toNat_natCast ((P + 1) * 2 ^ l.fb)
    have hsub : ∀ r, (P + 1) * 2 ^ l.fb + r - 2 ^ l.fb = P * 2 ^ l.fb + r := fun r => by rw [Nat.add_mul]; omega
    simp only [Layout.round, beq_iff_eq, hm, if_false, ← hq, hmag, hsub]

/-- A value between two adjacent ones that R76's table takes to the lower one, of magnitude k. -/
def Layout.Down (l : Layout) (mode : RMode) (neg : Bool) (v : Rat) (k : Nat) : Prop :=
  match mode with
  | .rne => |v - l.value k| < |v - l.value (k + 1)| ∨ |v - l.value k| = |v - l.value (k + 1)| ∧ k % 2 = 0
  | .rz => True
  | .ru => neg = true
  | .rd => neg = false
  | .ro => k % 2 = 1

/-- One that it takes to the higher one, of magnitude k. -/
def Layout.Up (l : Layout) (mode : RMode) (neg : Bool) (v : Rat) (k : Nat) : Prop :=
  match mode with
  | .rne => |v - l.value k| < |v - l.value (k - 1)| ∨ |v - l.value k| = |v - l.value (k - 1)| ∧ k % 2 = 0
  | .rz => False
  | .ru => neg = false
  | .rd => neg = true
  | .ro => k % 2 = 1

/-- What R76's table makes of a magnitude: a value of the layout itself, any other one of its two neighbours. -/
def Layout.RoundsTo (l : Layout) (mode : RMode) (neg : Bool) (v : Rat) (k : Nat) : Prop :=
  l.value k = v ∨ (l.value k < v ∧ v < l.value (k + 1) ∧ l.Down mode neg v k) ∨
    (0 < k ∧ l.value (k - 1) < v ∧ v < l.value k ∧ l.Up mode neg v k)

/-- A value of the layout rounds to itself. -/
theorem Layout.RoundsTo.eq_of_value {l : Layout} {mode : RMode} {neg : Bool} {j k : Nat} (h : l.RoundsTo mode neg (l.value j) k) :
    k = j := by
  have hlt : ∀ a b, l.value a < l.value b ↔ a < b := fun a b => l.value_strictMono.lt_iff_lt
  rcases h with h | ⟨h, h', -⟩ | ⟨-, h, h', -⟩
  · exact l.value_strictMono.injective h
  all_goals
    rw [hlt] at h h'
    omega

section
variable {l : Layout} {mode : RMode} {neg : Bool} {k lo m d : Nat} {u : Rat} (hu : 0 < u)
  (hlo : l.value k = (lo * d : Nat) * u) (hhi : l.value (k + 1) = (lo * d + d : Nat) * u) (hm : lo * d < m)
  (hm' : m < lo * d + d)
include hu hlo hhi hm hm'

/-- A magnitude of m units u between value k, of lo × d units, and the next one, of d units more. -/
theorem Layout.value_between : l.value k < m * u ∧ m * u < l.value (k + 1) ∧
    |m * u - l.value k| = (m - lo * d : Int) * u ∧ |m * u - l.value (k + 1)| = (lo * d + d - m : Int) * u := by
  have hv : l.value k < m * u := by rw [hlo]; exact mul_lt_mul_of_pos_right (by exact_mod_cast hm) hu
  have hv' : m * u < l.value (k + 1) := by rw [hhi]; exact mul_lt_mul_of_pos_right (by exact_mod_cast hm') hu
  refine ⟨hv, hv', ?_, ?_⟩
  · rw [abs_of_pos (sub_pos.mpr hv), hlo]; push_cast; ring
  · rw [abs_of_neg (sub_neg.mpr hv'), hhi]; push_cast; ring

theorem Layout.roundsTo_lower (hpar : k % 2 = lo % 2) (h : PicksLower mode neg lo (2 * m) ((2 * lo + 1) * d)) :
    l.RoundsTo mode neg (m * u) k := by
  obtain ⟨hv, hv', hdown, hup⟩ := Layout.value_between hu hlo hhi hm hm'
  refine .inr (.inl ⟨hv, hv', ?_⟩)
  cases mode with
  | rne =>
    have hmid : (2 * lo + 1) * d = 2 * (lo * d) + d := by ring
    simp only [PicksLower, hmid] at h
    simp only [Layout.Down, hdown, hup, mul_lt_mul_iff_left₀ hu, mul_left_inj' hu.ne', Int.cast_lt, Int.cast_inj]
    omega
  | rz | ru | rd => exact h
  | ro => exact hpar.trans h

theorem Layout.roundsTo_upper (hpar : k % 2 = lo % 2) (h : PicksUpper mode neg lo (2 * m) ((2 * lo + 1) * d)) :
    l.RoundsTo mode neg (m * u) (k + 1) := by
  obtain ⟨hv, hv', hdown, hup⟩ := Layout.value_between hu hlo hhi hm hm'
  refine .inr (.inr ⟨Nat.succ_pos k, hv, hv', ?_⟩)
  cases mode with
  | rne =>
    have hmid : (2 * lo + 1) * d = 2 * (lo * d) + d := by ring
    simp only [PicksUpper, hmid] at h
    simp only [Layout.Up, Nat.add_sub_cancel, hdown, hup, mul_lt_mul_iff_left₀ hu, mul_left_inj' hu.ne', Int.cast_lt,
      Int.cast_inj]
    omega
  | rz | ru | rd => exact h
  | ro =>
    simp only [PicksUpper] at h
    show (k + 1) % 2 = 1
    omega

end

section
variable {l : Layout} {P m : Nat} {q e : Int} (hq : q = P + 1 - l.bias - l.fb)
  (hlt : m * (2 : Rat) ^ e < 2 ^ (l.fb + 1) * (2 : Rat) ^ q) (hge : P = 0 ∨ 2 ^ l.fb * (2 : Rat) ^ q ≤ m * (2 : Rat) ^ e)
include hq hlt hge

/-- A value that is an integer of the units of its binade. -/
theorem Layout.roundsTo_of_exact (mode : RMode) (neg : Bool) {r : Nat} (hr : r * (2 : Rat) ^ q = m * 2 ^ e) :
    l.RoundsTo mode neg (m * (2 : Rat) ^ e) (P * 2 ^ l.fb + r) := by
  have hu : (0 : Rat) < 2 ^ q := by positivity
  rw [← hr] at hlt hge
  have hbelow : r < 2 ^ (l.fb + 1) := by exact_mod_cast lt_of_mul_lt_mul_right hlt hu.le
  left
  rw [l.value_add hbelow.le (hge.imp_right fun h => by exact_mod_cast le_of_mul_le_mul_right h hu), ← hq, hr]

/-- One that is not: it lies between two of them, of which the integer's rounding picks one. -/
theorem Layout.roundsTo_of_inexact (hfb : 0 < l.fb) (mode : RMode) (neg : Bool) {n : Nat} (hn : 0 < n) (hqe : q - e = n)
    (hdvd : ¬ 2 ^ n ∣ m) : l.RoundsTo mode neg (m * (2 : Rat) ^ e) (P * 2 ^ l.fb + roundShift mode neg m n) := by
  have hu : (0 : Rat) < 2 ^ e := by positivity
  have hunit : (2 : Rat) ^ q = (2 ^ n : Nat) * 2 ^ e := by
    rw [two_pow_mul_zpow, ← hqe, Int.sub_add_cancel]
  rw [hunit, ← mul_assoc, mul_lt_mul_iff_left₀ hu] at hlt
  rw [hunit, ← mul_assoc, mul_le_mul_iff_left₀ hu] at hge
  have hlo : m / 2 ^ n < 2 ^ (l.fb + 1) := Nat.div_lt_of_lt_mul (by rw [Nat.mul_comm]; exact_mod_cast hlt)
  have hvalue : ∀ r : Nat, r ≤ 2 ^ (l.fb + 1) → m / 2 ^ n ≤ r →
      l.value (P * 2 ^ l.fb + r) = (r * 2 ^ n : Nat) * (2 : Rat) ^ e := by
    intro r hr hle
    have hbinade : P = 0 ∨ 2 ^ l.fb ≤ r := hge.imp_right fun h =>
      le_trans ((Nat.le_div_iff_mul_le (Nat.two_pow_pos n)).mpr (by exact_mod_cast h)) hle
    rw [l.value_add hr hbinade, ← hq, hunit]
    push_cast
    ring
  have hnext := hvalue (m / 2 ^ n + 1) hlo (Nat.le_succ _)
  rw [Nat.succ_mul] at hnext
  have hpar : (P * 2 ^ l.fb + m / 2 ^ n) % 2 = m / 2 ^ n % 2 := by
    obtain ⟨b, hb⟩ := Nat.exists_eq_add_of_le' hfb
    rw [hb, Nat.pow_succ, ← Nat.mul_assoc, Nat.mul_comm _ 2, Nat.mul_add_mod]
  have hdm := Nat.div_add_mod' m (2 ^ n)
  have hmod := Nat.mod_lt m (Nat.two_pow_pos n)
  have hrem : m % 2 ^ n ≠ 0 := fun h0 => hdvd (Nat.dvd_of_mod_eq_zero h0)
  rcases roundShift_picks mode neg hn hdvd with ⟨hr, h⟩ | ⟨hr, h⟩
  · rw [hr]
    exact Layout.roundsTo_lower hu (hvalue _ hlo.le le_rfl) hnext (by omega) (by omega) hpar h
  · rw [hr]
    exact Layout.roundsTo_upper hu (hvalue _ hlo.le le_rfl) hnext (by omega) (by omega) hpar h

end

/-- Rounding to a layout: to a value by R76's table, its exponent unbounded, or an overflow beyond the largest finite one (R77). -/
theorem Layout.round_spec {l : Layout} (hfb : 0 < l.fb) (mode : RMode) (neg : Bool) {m : Nat} (hm : m ≠ 0) (e : Int) :
    ∃ k, l.RoundsTo mode neg (m * (2 : Rat) ^ e) k ∧
      l.round mode neg m e = if k ≤ l.maxMag then .code (l.signed neg k) else .over neg := by
  obtain ⟨P, q, hq, hlt, hge, hround⟩ := l.round_eq mode neg hm e
  refine ⟨P * 2 ^ l.fb + roundShift mode neg m (q - e), ?_, hround⟩
  rcases le_or_gt q e with hqe | hqe
  · refine Layout.roundsTo_of_exact hq hlt hge mode neg ?_
    rw [roundShift_of_nonpos _ _ _ (by omega), Nat.cast_mul, mul_assoc, two_pow_mul_zpow, Int.toNat_of_nonneg (by omega)]
    congr 2
    omega
  · obtain ⟨n, hn⟩ := Int.eq_ofNat_of_zero_le (show 0 ≤ q - e by omega)
    rw [hn]
    by_cases hdvd : 2 ^ n ∣ m
    · refine Layout.roundsTo_of_exact hq hlt hge mode neg ?_
      rw [roundShift_of_dvd mode neg (by omega) hdvd, ← Int.sub_add_cancel q e, hn, ← two_pow_mul_zpow, ← mul_assoc,
        ← Nat.cast_mul, Nat.div_mul_cancel hdvd]
    · exact Layout.roundsTo_of_inexact hq hlt hge hfb mode neg (by omega) hn hdvd

/-- An overflow keeps the value's sign. -/
theorem Layout.round_over (l : Layout) {mode : RMode} {neg n : Bool} {m : Nat} {e : Int} (h : l.round mode neg m e = .over n) :
    n = neg := by
  unfold Layout.round at h
  split at h
  · cases h
  · dsimp only at h
    split at h <;> cases h
    rfl

/-- R77's table in the formats with infinities. -/
theorem Layout.overflow_eq (l : Layout) (mode : RMode) (neg : Bool) : l.overflow mode neg =
    if mode = .rne ∨ mode = .ru ∧ neg = false ∨ mode = .rd ∧ neg = true then l.signed neg l.infMag else l.signed neg l.maxMag := by
  cases mode <;> cases neg <;> rfl

/-! ### Codes (R63, R65, R66) -/

/-- Exponent and fraction fields that stand for an infinity or a NaN. -/
def Layout.Special (l : Layout) (E F : Nat) : Prop :=
  E = 2 ^ l.eb - 1 ∧ (l.top = .ieee ∨ l.top = .e4m3 ∧ F = 2 ^ l.fb - 1)

section
variable {l : Layout} {c : Nat}

/-- The magnitude of a code, by its fields. -/
theorem Layout.mag_eq : c % 2 ^ (l.eb + l.fb) = c / 2 ^ l.fb % 2 ^ l.eb * 2 ^ l.fb + c % 2 ^ l.fb := by
  rw [Nat.add_comm l.eb, Nat.pow_add, Nat.mod_mul, Nat.mul_comm, Nat.add_comm]

/-- A code is its sign and its magnitude. -/
theorem Layout.signed_mag (hc : c < 2 ^ l.bits) : l.signed (c / 2 ^ (l.eb + l.fb) % 2 == 1) (c % 2 ^ (l.eb + l.fb)) = c := by
  rw [Layout.bits, Nat.add_assoc, Nat.pow_add, pow_one] at hc
  have hdm := Nat.div_add_mod' c (2 ^ (l.eb + l.fb))
  have hdiv : c / 2 ^ (l.eb + l.fb) < 2 := Nat.div_lt_of_lt_mul (by omega)
  rw [Layout.signed]
  interval_cases hd : c / 2 ^ (l.eb + l.fb) <;> simp <;> omega

theorem Layout.decode_special (h : l.Special (c / 2 ^ l.fb % 2 ^ l.eb) (c % 2 ^ l.fb)) : (l.decode c).toRat = none := by
  obtain ⟨hE, htop | ⟨htop, hF⟩⟩ := h
  · simp only [Layout.decode, hE, htop, beq_self_eq_true, Bool.and_self, if_true]
    split <;> rfl
  · simp [Layout.decode, hE, htop, hF, Num.toRat]

section
variable (h : ¬ l.Special (c / 2 ^ l.fb % 2 ^ l.eb) (c % 2 ^ l.fb))
include h

theorem Layout.decode_eq : l.decode c =
    let neg := c / 2 ^ (l.eb + l.fb) % 2 == 1
    let E := c / 2 ^ l.fb % 2 ^ l.eb
    let F := c % 2 ^ l.fb
    if E = 0 then .fin neg F (1 - (l.bias : Int) - l.fb) else .fin neg (2 ^ l.fb + F) ((E : Int) - l.bias - l.fb) := by
  unfold Layout.Special at h
  unfold Layout.decode
  generalize c / 2 ^ l.fb % 2 ^ l.eb = E at *
  generalize c % 2 ^ l.fb = F at *
  simp only [beq_iff_eq, Bool.and_eq_true]
  rw [if_neg fun ⟨hE, htop⟩ => h ⟨hE, .inl htop⟩, if_neg fun ⟨⟨hE, htop⟩, hF⟩ => h ⟨hE, .inr ⟨htop, hF⟩⟩]

/-- A code that is neither an infinity nor a NaN is its sign and the value of its magnitude. -/
theorem Layout.decode_finite :
    ∃ m e, l.decode c = .fin (c / 2 ^ (l.eb + l.fb) % 2 == 1) m e ∧ m * (2 : Rat) ^ e = l.value (c % 2 ^ (l.eb + l.fb)) := by
  have hF := Nat.mod_lt c (Nat.two_pow_pos l.fb)
  rw [Layout.decode_eq h, Layout.mag_eq]
  dsimp only
  generalize c / 2 ^ l.fb % 2 ^ l.eb = E
  cases E with
  | zero =>
    refine ⟨_, _, if_pos rfl, ?_⟩
    rw [l.value_add (P := 0) (by rw [Nat.pow_succ]; omega) (.inl rfl)]
    simp
  | succ P =>
    refine ⟨_, _, if_neg (Nat.succ_ne_zero P), ?_⟩
    rw [Nat.add_mul, Nat.one_mul, Nat.add_assoc, l.value_add (by rw [Nat.pow_succ]; omega) (.inr (by omega))]
    push_cast
    rfl

/-- Its magnitude is at most that of the largest finite value. -/
theorem Layout.mag_le_maxMag : c % 2 ^ (l.eb + l.fb) ≤ l.maxMag := by
  have hE := Nat.mod_lt (c / 2 ^ l.fb) (Nat.two_pow_pos l.eb)
  have hF := Nat.mod_lt c (Nat.two_pow_pos l.fb)
  have hmag := l.mag_eq (c := c)
  have hlt := Nat.mod_lt c (Nat.two_pow_pos (l.eb + l.fb))
  have hall : 2 ^ (l.eb + l.fb) = (2 ^ l.eb - 1) * 2 ^ l.fb + 2 ^ l.fb := by
    rw [Nat.pow_add, ← Nat.succ_mul, Nat.succ_eq_add_one, Nat.sub_add_cancel (Nat.two_pow_pos _)]
  unfold Layout.Special at h
  unfold Layout.maxMag
  generalize c / 2 ^ l.fb % 2 ^ l.eb = E at *
  generalize c % 2 ^ l.fb = F at *
  have hlow : E ≠ 2 ^ l.eb - 1 → E * 2 ^ l.fb + 2 ^ l.fb ≤ (2 ^ l.eb - 1) * 2 ^ l.fb := fun hne => by
    rw [← Nat.succ_mul]
    exact Nat.mul_le_mul_right _ (by omega)
  cases htop : l.top with
  | ieee =>
    have := hlow fun hi => h ⟨hi, .inl htop⟩
    dsimp only
    omega
  | e4m3 =>
    dsimp only
    by_cases hE' : E = 2 ^ l.eb - 1
    · have hF' : F ≠ 2 ^ l.fb - 1 := fun hn => h ⟨hE', .inr ⟨htop, hn⟩⟩
      rw [hE'] at hmag
      omega
    · have := hlow hE'
      omega
  | plain => exact Nat.le_sub_one_of_lt hlt

end

end

/-- A value that the layout represents rounds to its own code, in every mode. -/
theorem Layout.round_decode (l : Layout) (hfb : 0 < l.fb) {c : Nat} (hc : c < 2 ^ l.bits) (mode : RMode) {neg : Bool} {m : Nat}
    {e : Int} (h : l.decode c = .fin neg m e) : l.round mode neg m e = .code c := by
  by_cases hs : l.Special (c / 2 ^ l.fb % 2 ^ l.eb) (c % 2 ^ l.fb)
  · have := Layout.decode_special hs
    rw [h] at this
    cases this
  obtain ⟨m', e', hd, hv⟩ := Layout.decode_finite hs
  obtain ⟨rfl, rfl, rfl⟩ := Num.fin.inj (h.symm.trans hd)
  by_cases hm : m = 0
  · have h0 : c % 2 ^ (l.eb + l.fb) = 0 := l.value_strictMono.injective (by rw [← hv, hm]; simp [Layout.value])
    have hsg := Layout.signed_mag hc
    rw [h0] at hsg
    simp [Layout.round, hm, hsg]
  · obtain ⟨k, hk, hr⟩ := Layout.round_spec hfb mode (c / 2 ^ (l.eb + l.fb) % 2 == 1) hm e
    rw [hv] at hk
    rw [hr, hk.eq_of_value, if_pos (Layout.mag_le_maxMag hs), Layout.signed_mag hc]

/-! ### Exact sums and products (R79, R112) -/

theorem scale_exact (m : Nat) {e g : Int} (h : g ≤ e) : (scale m (e - g) : Rat) * 2 ^ g = m * 2 ^ e := by
  rw [scale, if_pos (by omega), Nat.cast_mul, mul_assoc, two_pow_mul_zpow, Int.toNat_of_nonneg (by omega), Int.sub_add_cancel]

/-- The sign of a zero sum (R79). -/
theorem Num.neg_of_add_zero {mode : RMode} {a b t : Bool} {m n : Nat} {e f g : Int}
    (h : Num.add mode (.fin a m e) (.fin b n f) = some (.fin t 0 g)) :
    t = if m = 0 ∧ n = 0 ∧ a = b then a else decide (mode = .rd) := by
  simp only [Num.add, Option.some.injEq, Num.fin.injEq] at h
  obtain ⟨rfl, hp, -⟩ := h
  rw [Int.natAbs_eq_zero.mp hp, if_pos (beq_self_eq_true _)]
  by_cases hmn : m = 0 ∧ n = 0
  · obtain ⟨rfl, rfl⟩ := hmn
    cases a <;> cases b <;> cases mode <;> rfl
  · have hne : (m == 0 && n == 0) = false := by simpa using hmn
    rw [hne, if_neg Bool.false_ne_true, if_neg fun ⟨hm, hn, _⟩ => hmn ⟨hm, hn⟩]
    cases mode <;> rfl

/-- An integer of units 2^g as a sign and a magnitude, zero with either sign. -/
theorem Num.toRat_signed (t g : Int) (z : Bool) :
    Num.toRat (.fin (if t == 0 then z else t < 0) t.natAbs g) = some (t * (2 : Rat) ^ g) := by
  have habs : (if (if t == 0 then z else decide (t < 0)) = true then -1 else 1) * (t.natAbs : Rat) = t := by
    rcases lt_trichotomy t 0 with h | rfl | h
    · simp [h.ne, h, Nat.cast_natAbs, abs_of_neg h]
    · simp
    · simp [h.ne', h.not_gt, Nat.cast_natAbs, abs_of_pos h]
  rw [Num.toRat, habs]

theorem Num.eq_zero_of_isZero {a : Num} {u : Rat} (ha : a.toRat = some u) (h : a.isZero = true) : u = 0 := by
  cases a <;> cases ha
  simp [show _ = 0 from beq_iff_eq.mp h]

section
variable {a b c : Num} {u v w : Rat} (mode : RMode) (ha : a.toRat = some u) (hb : b.toRat = some v)
include ha hb

/-- The sum of finite values is exact. -/
theorem Num.toRat_add : (Num.add mode a b).bind Num.toRat = some (u + v) := by
  cases a <;> cases b <;> cases ha <;> cases hb
  next s m e t n f =>
    refine (Num.toRat_signed _ _ _).trans (congrArg some ?_)
    have hm := scale_exact m (min_le_left e f)
    have hn := scale_exact n (min_le_right e f)
    push_cast
    rw [add_mul]
    cases s <;> cases t <;> simp [hm, hn]

theorem Num.toRat_mul : (Num.mul a b).bind Num.toRat = some (u * v) := by
  cases a <;> cases b <;> cases ha <;> cases hb
  next s m e t n f =>
    refine congrArg some ?_
    rw [zpow_add₀ (by norm_num)]
    cases s <;> cases t <;> simp <;> ring

/-- The sum of three finite values is exact. -/
theorem Num.toRat_add3 (hc : c.toRat = some w) : (Num.add3 mode a b c).bind Num.toRat = some (u + v + w) := by
  obtain ⟨y, hy, hyv⟩ := Option.bind_eq_some_iff.mp (Num.toRat_add mode ha hb)
  simp only [Num.add3, hy]
  split
  · next hz =>
    simp only [Bool.and_eq_true] at hz
    obtain ⟨⟨hza, hzb⟩, hzc⟩ := hz
    obtain rfl := Num.eq_zero_of_isZero ha hza
    obtain rfl := Num.eq_zero_of_isZero hb hzb
    obtain rfl := Num.eq_zero_of_isZero hc hzc
    simp [Num.toRat]
  · split
    · have hy0 := Num.eq_zero_of_isZero hyv rfl
      obtain rfl := Num.eq_zero_of_isZero hc rfl
      simp [Num.toRat, hy0]
    · exact Num.toRat_add mode hyv hc

end
/-! ### The obligation -/

theorem fb_pos_of_mem : ∀ l ∈ [lf32, lf16, lbf16, le4m3, le5m2, le2m1], 0 < l.fb := by decide

/-- R76's table on m / 2^n. -/
theorem roundShift_table (mode : RMode) (neg : Bool) (m n : Nat) (hn : 0 < n) :
    let r := roundShift mode neg m n
    let lo := m / 2 ^ n
    (2 ^ n ∣ m → r * 2 ^ n = m) ∧
    (¬ 2 ^ n ∣ m →
      (r = lo ∨ r = lo + 1) ∧
      match mode with
      | .rne => (r = lo → 2 * m ≤ (2 * lo + 1) * 2 ^ n) ∧ (r = lo + 1 → (2 * lo + 1) * 2 ^ n ≤ 2 * m) ∧
          (2 * m = (2 * lo + 1) * 2 ^ n → r % 2 = 0)
      | .rz => r = lo
      | .ru => r = if neg then lo else lo + 1
      | .rd => r = if neg then lo + 1 else lo
      | .ro => r % 2 = 1) := by
  refine ⟨fun hdvd => ?_, fun hdvd => ?_⟩
  · rw [roundShift_of_dvd mode neg hn hdvd, Nat.div_mul_cancel hdvd]
  · have h := roundShift_picks mode neg hn hdvd
    dsimp only at h ⊢
    generalize roundShift mode neg m n = r at *
    generalize (2 * (m / 2 ^ n) + 1) * 2 ^ n = mid at *
    generalize m / 2 ^ n = lo at *
    refine ⟨h.imp And.left And.left, ?_⟩
    cases mode <;> simp only [PicksLower, PicksUpper] at h ⊢
    case rne | ro => omega
    case rz | ru | rd => cases neg <;> simpa using h

/-- Settles O7: rounding to a layout by the integer's rounding in its binade, sums and products by their exact values. -/
theorem roundingAndExactness : Obligations.RoundingAndExactness := by
  unfold Obligations.RoundingAndExactness
  refine ⟨fun mode neg m n hn => ?integer, fun l hl c mode hc => ?code, fun l hl mode neg m e hm => ?neighbour,
    fun l hl mode sat neg m e => ?finish, fun mode a b m n e f => ?signs, fun mode a b => ?exact⟩
  case integer => exact roundShift_table mode neg m n hn
  case code =>
    split
    · next h => exact l.round_decode (fb_pos_of_mem l hl) hc mode h
    · trivial
  case neighbour => exact Layout.round_spec (fb_pos_of_mem l hl) mode neg hm e
  case finish =>
    refine ⟨rfl, rfl, rfl, ?_⟩
    simp only [Layout.finish]
    rcases hr : l.round mode neg m e with c | n
    · rfl
    · obtain rfl := l.round_over hr
      simp only [l.overflow_eq]
      cases sat <;> simp
  case signs =>
    refine ⟨fun t p g h hp => ?_, _, _, rfl⟩
    subst hp
    exact Num.neg_of_add_zero h
  case exact =>
    exact ⟨fun u v ha hb => ⟨Num.toRat_add mode ha hb, Num.toRat_mul ha hb, fun c w hc => Num.toRat_add3 mode ha hb hc⟩,
      fun s t => by cases s <;> cases t <;> rfl, fun s t m e => by simp only [Num.mul, beq_iff_eq], rfl,
      by cases a <;> rfl, rfl, by cases a <;> rfl⟩

end Sys2Proof.Machine

/-! ## Conversions (R81 to R83, R121, R122, R124) -/

namespace Sys2Proof.Machine

/-! ### Elements in their registers (R121, R122) -/

/-- A code in the registers of its format: a signed integer extended by its sign. -/
def extendCode (f : Fmt) (c : Nat) : Nat :=
  if fmtSigned f && fmtBits f < 32 then ((BitVec.ofNat (fmtBits f) c).signExtend 32).toNat else c

theorem codeOf_intVal {n : Nat} (hn : 0 < n) (c : Nat) :
    codeOf 32 (intVal true n c) = ((BitVec.ofNat n c).signExtend 32).toNat := by
  have hmod : intVal true n c = intVal true n (BitVec.ofNat n c).toNat := by simp only [intVal, BitVec.toNat_ofNat, Nat.mod_mod]
  rw [codeOf_eq, hmod, intVal_signed hn]
  rfl

theorem extendEl_code (f : Fmt) (y : El) : (extendEl f y).code = extendCode f y.code := by
  have hn : 0 < fmtBits f := by cases f <;> decide
  unfold extendCode
  rw [← codeOf_intVal hn]
  cases y <;> rfl

section
variable {i : Instr} {s : State} {x : Ex} (hr : Ready i s x)
include hr

/-- CVTFF, CVTFI and CVTIF where each conversion has a value, or with poison mode off. -/
theorem Ready.cvt_elementwise {fm : FpMod} {src dst : Fmt}
    (h : x.g.psn = false ∨ x.each [1] 1 fun l _ => ∃ c, convert src dst fm.mode fm.sat (x.num 1 l % 2 ^ fmtBits src) = .val c) :
    Elementwise x s (x.cvt fm src dst) dst.regs (32 * dst.regs) [1] fun l _ =>
      extendCode dst (convert src dst fm.mode fm.sat (x.num 1 l % 2 ^ fmtBits src)).code % 2 ^ (32 * dst.regs) :=
  (hr.clean_elementwise _ _ (h.imp_right fun h l hl hm k _ => by
    obtain ⟨c, hc⟩ := h l hl hm 0 Nat.one_pos
    rw [hc]
    exact ⟨_, rfl⟩)).congr fun l _ _ k => by rw [extendEl_code]

/-- FUNPK where each element has a value, or with poison mode off. -/
theorem Ready.funpk_elementwise {src : Fmt}
    (h : x.g.psn = false ∨ x.each [1] (32 / fmtBits src) fun l k =>
      ∃ c, convert src .f32 .rne false (x.elt 1 l (fmtBits src) k) = .val c) :
    Elementwise x s (x.funpk src) (32 / fmtBits src) 32 [1] fun l k =>
      (convert src .f32 .rne false (x.elt 1 l (fmtBits src) k)).code % 2 ^ 32 :=
  hr.clean_elementwise _ 32 (h.imp_right fun h l hl hm k hk => h l hl hm k (by omega))

end

/-! ### Conversions to integers (R81, R83) -/

/-- The integer formats. -/
def intFmts : List Fmt := [.s8, .n8, .s16, .n16, .s32, .n32, .s64, .n64]

theorem intRange_eq : ∀ f ∈ intFmts, intRange f = (if fmtSigned f then -2 ^ (fmtBits f - 1) else 0,
    if fmtSigned f then 2 ^ (fmtBits f - 1) - 1 else 2 ^ fmtBits f - 1) := by decide

theorem intRange_le (f : Fmt) : (intRange f).1 ≤ (intRange f).2 := by cases f <;> decide

/-- A finite value is rounded, then clamped to the range, with new poison where it was clamped without saturation. -/
theorem toInteger_fin (f : Fmt) (mode : RMode) (sat neg : Bool) (m : Nat) (e : Int) :
    let lo := (intRange f).1
    let hi := (intRange f).2
    let r : Int := (if neg then -1 else 1) * (roundShift mode neg m (-e) : Nat)
    toInteger f mode sat (.fin neg m e) =
      if lo ≤ r ∧ r ≤ hi then .val (codeOf (fmtBits f) r)
      else if sat then .val (codeOf (fmtBits f) (max lo (min hi r)))
      else .fresh 2 (codeOf (fmtBits f) (max lo (min hi r))) := by
  have hr : Num.toInt mode neg m e = (if neg then -1 else 1) * (roundShift mode neg m (-e) : Nat) := by
    cases neg <;> simp [Num.toInt]
  have hle := intRange_le f
  dsimp only
  rw [← hr]
  simp only [toInteger]
  generalize Num.toInt mode neg m e = r
  generalize (intRange f).1 = lo at *
  generalize (intRange f).2 = hi at *
  rcases lt_or_ge r lo with hlo | hlo
  · have hout : ¬ (lo ≤ r ∧ r ≤ hi) := fun h => hlo.not_ge h.1
    rw [if_pos hlo, if_neg hout, show max lo (min hi r) = lo by omega]
  rw [if_neg hlo.not_gt]
  rcases lt_or_ge hi r with hhi | hhi
  · have hout : ¬ (lo ≤ r ∧ r ≤ hi) := fun h => hhi.not_ge h.2
    rw [if_pos hhi, if_neg hout, show max lo (min hi r) = hi by omega]
  · rw [if_neg hhi.not_gt, if_pos ⟨hlo, hhi⟩]

/-! ### Conversions to floating point (R81) -/

/-- The floating-point formats but E8M0. -/
def floatFmts : List Fmt := [.f32, .f16, .bf16, .e4m3, .e5m2, .e2m1]

section
variable {f : Fmt} (hf : f ∈ floatFmts) {mode : RMode} (sat : Bool) {neg : Bool} {m : Nat} {e : Int}
include hf

theorem toFloat_of_code {c : Nat} (h : (fmtLayout f).round mode neg m e = .code c) : toFloat f mode sat (.fin neg m e) = .val c := by
  cases f with
  | f32 | f16 | bf16 | e4m3 | e5m2 | e2m1 => simp only [toFloat, h]; rfl
  | _ => exact absurd hf (by decide)

/-- An overflow: the greatest value with saturation and in E2M1, poison in E4M3, else R77's value. -/
theorem toFloat_of_over {n : Bool} (h : (fmtLayout f).round mode neg m e = .over n) : toFloat f mode sat (.fin neg m e) =
    if sat ∨ f = .e2m1 then .val ((fmtLayout f).signed n (fmtLayout f).maxMag)
    else if f = .e4m3 then .fresh 2 ((fmtLayout f).signed n 0x7F)
    else .val ((fmtLayout f).overflow mode n) := by
  cases f with
  | f32 | f16 | bf16 | e4m3 | e5m2 | e2m1 => simp [toFloat, h]
  | _ => exact absurd hf (by decide)

end

/-! ### Conversions to E8M0 (R82) -/

section
variable {m : Nat} {e c : Int} (hlo : (2 : Rat) ^ (c - 127) ≤ m * (2 : Rat) ^ e)
  (hhi : m * (2 : Rat) ^ e < 2 * (2 : Rat) ^ (c - 127))
include hlo

theorem ne_zero_of_binade : m ≠ 0 := by
  rintro rfl
  have hpos : (0 : Rat) < 2 ^ (c - 127) := by positivity
  exact hlo.not_gt (by simpa using hpos)

include hhi

/-- The exponent of a value is that of its binade. -/
theorem log2_of_binade : c = m.log2 + e + 127 := by
  have hm := ne_zero_of_binade hlo
  obtain ⟨h1, h2⟩ := binade_bounds hm e
  rw [← zpow_one_add₀ (by norm_num)] at hhi
  have hlt : ∀ {a b : Int}, (2 : Rat) ^ a < 2 ^ b → a < b := (zpow_lt_zpow_iff_right₀ (by norm_num)).mp
  have h3 := hlt (h1.trans_lt hhi)
  have h4 := hlt (hlo.trans_lt h2)
  omega

/-- A value against the lower end of its binade and the middle. -/
theorem binade_iff :
    (m * (2 : Rat) ^ e = 2 ^ (c - 127) ↔ m = 2 ^ m.log2) ∧
    (2 * (m * (2 : Rat) ^ e) < 3 * 2 ^ (c - 127) ↔ 2 * m < 3 * 2 ^ m.log2) ∧
    (3 * 2 ^ (c - 127) < 2 * (m * (2 : Rat) ^ e) ↔ 3 * 2 ^ m.log2 < 2 * m) := by
  have hu : (0 : Rat) < 2 ^ e := by positivity
  have hat : (2 : Rat) ^ (c - 127) = (2 ^ m.log2 : Nat) * 2 ^ e := by
    rw [two_pow_mul_zpow, log2_of_binade hlo hhi, Int.add_sub_cancel]
  rw [hat, ← mul_assoc, ← mul_assoc, mul_lt_mul_iff_left₀ hu, mul_lt_mul_iff_left₀ hu, mul_left_inj' hu.ne']
  norm_cast

end

/-- The power of two that R82 picks for a value x between 2^(c - 127), written lo, and its double. -/
def e8m0Pick (mode : RMode) (x lo : Rat) (c : Int) : Int :=
  match mode with
  | .rz | .rd => c
  | .ru => c + 1
  | .rne => if 2 * x < 3 * lo then c else if 3 * lo < 2 * x then c + 1 else c + c % 2
  | .ro => if c % 2 = 0 then c + 1 else c

/-- The code of the power of two 2^(r - 127), a smaller one becoming the smallest (R82). -/
def e8m0Code (sat : Bool) (r : Int) : El :=
  if r < 0 then .val 0 else if 254 < r then (if sat then .val 0xFE else .fresh 2 0xFF) else .val r.toNat

theorem toE8m0_of_binade (mode : RMode) (sat : Bool) {m : Nat} {e c : Int} (hlo : (2 : Rat) ^ (c - 127) ≤ m * (2 : Rat) ^ e)
    (hhi : m * (2 : Rat) ^ e < 2 * (2 : Rat) ^ (c - 127)) : toE8m0 mode sat (.fin false m e) =
      e8m0Code sat (if m * (2 : Rat) ^ e = 2 ^ (c - 127) then c else e8m0Pick mode (m * (2 : Rat) ^ e) (2 ^ (c - 127)) c) := by
  have hm := ne_zero_of_binade hlo
  obtain ⟨hone, hbelow, habove⟩ := binade_iff hlo hhi
  simp only [toE8m0, Bool.false_or, beq_iff_eq, hm, if_false, ← log2_of_binade hlo hhi]
  refine congrArg (e8m0Code sat) ?_
  by_cases h1 : m = 2 ^ m.log2
  · rw [if_pos (hone.mpr h1), beq_iff_eq.mpr h1]
    rfl
  rw [if_neg (mt hone.mp h1), beq_eq_false_iff_ne.mpr h1]
  cases mode with
  | rz | rd | ru => rfl
  | rne =>
    simp only [e8m0Pick, hbelow, habove]
    rcases lt_trichotomy (2 * m) (3 * 2 ^ m.log2) with h | h | h
    · rw [compare_lt_iff_lt.mpr h, if_pos h]
      rfl
    · rw [compare_eq_iff_eq.mpr h, if_neg h.not_lt, if_neg h.not_gt]
      rcases Int.emod_two_eq_zero_or_one c with hc | hc <;> simp [hc]
    · rw [compare_gt_iff_gt.mpr h, if_neg h.not_gt, if_pos h]
      rfl
  | ro => simp [e8m0Pick]

/-! ### The value converted (R63, R65, R68) -/

theorem toRat_ofInt (v : Int) : (Num.ofInt v).toRat = some (v : Rat) := by
  have h := Num.toRat_signed v 0 false
  simp only [zpow_zero, mul_one] at h
  rw [← h]
  rcases eq_or_ne v 0 with rfl | hv
  · rfl
  · simp [Num.ofInt, hv]

theorem toRat_e8m0 (c : Nat) :
    (fmtDecode .e8m0 c).toRat = if c % 256 = 255 then none else some ((2 : Rat) ^ ((c % 256 : Nat) - 127 : Int)) := by
  show (e8m0Val c).toRat = _
  unfold e8m0Val
  by_cases h : c % 256 = 255 <;> simp [h, Num.toRat]

/-- The value of a code by its fields, none for an infinity or a NaN. -/
theorem Layout.toRat_decode (l : Layout) (c : Nat) :
    let E := c / 2 ^ l.fb % 2 ^ l.eb
    let F := c % 2 ^ l.fb
    let value : Rat := (if c / 2 ^ (l.eb + l.fb) % 2 = 1 then -1 else 1) *
      (if E = 0 then (F / 2 ^ l.fb) * (2 : Rat) ^ (1 - l.bias : Int) else (1 + F / 2 ^ l.fb) * (2 : Rat) ^ (E - l.bias : Int))
    (l.decode c).toRat = if E = 2 ^ l.eb - 1 ∧ (l.top = .ieee ∨ l.top = .e4m3 ∧ F = 2 ^ l.fb - 1) then none else some value := by
  dsimp only
  split
  · next h => exact Layout.decode_special h
  · next h =>
    have hunit : ∀ q : Int, (2 : Rat) ^ (q - l.fb) = 2 ^ q / 2 ^ l.fb := fun q => by
      rw [zpow_sub₀ (by norm_num), zpow_natCast]
    rw [Layout.decode_eq h]
    dsimp only
    split
    · simp only [Num.toRat, hunit, beq_iff_eq]
      congr 1
      ring
    · simp only [Num.toRat, hunit, beq_iff_eq]
      congr 1
      push_cast
      field_simp

theorem fmtDecode_of_mem {f : Fmt} (h : f ∈ floatFmts) (c : Nat) : fmtDecode f c = (fmtLayout f).decode c := by
  cases f with
  | e8m0 => exact absurd h (by decide)
  | _ => rfl

theorem convert_eq (src dst : Fmt) (mode : RMode) (sat : Bool) (c : Nat) : convert src dst mode sat c = (if src.isFloat then
      (if dst.isFloat then toFloat dst mode sat (fmtDecode src c) else toInteger dst mode sat (fmtDecode src c))
    else toFloat dst mode sat (.ofInt (intVal (fmtSigned src) (fmtBits src) c))) := by
  unfold convert
  cases src.isFloat <;> rfl

/-! ### The obligation -/

/-- R81's table: NaNs and infinities by the destination's format. -/
theorem toFloat_special (mode : RMode) (sat neg : Bool) :
    (∀ f ∈ [Fmt.f32, .f16, .bf16, .e5m2],
       toFloat f mode sat .nan = .val (fmtLayout f).nanCode ∧
       toFloat f mode sat (.inf neg) =
         .val ((fmtLayout f).signed neg (if sat then (fmtLayout f).maxMag else (fmtLayout f).infMag))) ∧
     toFloat .e4m3 mode sat .nan = .val 0x7F ∧
     toFloat .e4m3 mode sat (.inf neg) =
       (if sat then .val (if neg then 0xFE else 0x7E) else .fresh 2 (if neg then 0xFF else 0x7F)) ∧
     toFloat .e2m1 mode sat .nan = .fresh 2 0 ∧ toFloat .e2m1 mode sat (.inf neg) = .val (if neg then 0xF else 0x7) := by
  refine ⟨fun f hf => ?_, rfl, ?_, rfl, ?_⟩
  · cases f with
    | f32 | f16 | bf16 | e5m2 => exact ⟨rfl, rfl⟩
    | _ => exact absurd hf (by decide)
  · cases sat <;> cases neg <;> rfl
  · cases neg <;> rfl

/-- Settles O11: the instructions element by element, then the conversion of a value by its destination's format. -/
theorem conversions : Obligations.Conversions := by
  unfold Obligations.Conversions
  refine ⟨fun h fm src dst d a s x => ?elements, fun f hf mode sat neg m e => ?integer, fun mode sat neg m e => ?table,
    fun src dst mode sat c => ?source⟩
  case elements =>
    exact ⟨fun hr hv => hr.elementwise rfl (hr.cvt_elementwise hv), fun hr hv => hr.elementwise rfl (hr.cvt_elementwise hv),
      fun hr hv => hr.elementwise rfl (hr.cvt_elementwise hv), fun hr hv => hr.elementwise rfl (hr.funpk_elementwise hv)⟩
  case integer =>
    have h := toInteger_fin f mode sat neg m e
    rwa [intRange_eq f hf] at h
  case table =>
    obtain ⟨hfour, h1, h2, h3, h4⟩ := toFloat_special mode sat neg
    refine ⟨hfour, h1, h2, h3, h4, rfl, ?inf, rfl, ?zero, fun f hf => ⟨rfl, ?ends⟩, fun f hf => ?finite, fun c hlo hhi => ?e8m0⟩
    case inf => cases sat <;> cases neg <;> rfl
    case zero => cases neg <;> rfl
    case ends =>
      simp only [toInteger, intRange_eq f hf]
      rfl
    case finite =>
      dsimp only
      rcases hr : (fmtLayout f).round mode neg m e with c | n
      · exact toFloat_of_code hf sat hr
      · obtain rfl := Layout.round_over _ hr
        rw [toFloat_of_over hf sat hr, Layout.overflow_eq]
        simp only [true_and]
    case e8m0 => exact toE8m0_of_binade mode sat hlo hhi
  case source =>
    refine ⟨convert_eq src dst mode sat c, toRat_ofInt, toRat_e8m0 c, fun f hf => ?_⟩
    rw [fmtDecode_of_mem hf]
    exact Layout.toRat_decode _ c

end Sys2Proof.Machine

/-! ## Integer arithmetic (R97 to R104) -/

namespace Sys2Proof.Machine

/-! ### Sums, products, minima, maxima and absolute values (R97, R98) -/

theorem natAbs_eq_ite (u : Int) : (u.natAbs : Int) = if u < 0 then -u else u := by
  split <;> omega

/-- Settles O2: each element is an exact integer, fitted to its type. -/
theorem integerElements : Obligations.IntegerElements := by
  unfold Obligations.IntegerElements
  intro h md d a b c s x
  have fitted {i : Instr} (hr : Ready i s x) (n : Nat) (js : List Nat) (f : Nat → Nat → Int) :
      Elementwise x s (x.intOp md n js f) n md.w.bits js fun l k => clip md (f l k) :=
    hr.int_elementwise md n js f f fun _ _ => rfl
  exact ⟨fun hr => hr.elementwise rfl (fitted hr ..), fun hr => hr.elementwise rfl (fitted hr ..),
    fun hr => hr.elementwise rfl (fitted hr ..), fun hr => hr.elementwise rfl (fitted hr ..),
    fun hr => hr.elementwise rfl (fitted hr ..),
    fun hr => hr.elementwise rfl (hr.int_elementwise md 1 _ _ _ fun _ _ => min_def _ _),
    fun hr => hr.elementwise rfl (hr.int_elementwise md 1 _ _ _ fun _ _ => max_def _ _),
    fun hr => hr.elementwise rfl (hr.int_elementwise md 1 _ _ _ fun _ _ => natAbs_eq_ite _),
    fun hr => hr.elementwise rfl (fitted hr ..), fun hr => hr.elementwise rfl (fitted hr ..)⟩

/-! ### Quotients and remainders (R99) -/

/-- An exact integer wrapped to a type. -/
theorem fitInt_mod (md : IntMod) (v : Int) : fitInt md.fmt false v = (v % 2 ^ md.w.bits).toNat := by
  rw [fitInt_wrap, BitVec.toNat_ofInt]
  push_cast
  rfl

theorem fitInt_lt (md : IntMod) (sat : Bool) (v : Int) : fitInt md.fmt sat v < 2 ^ md.w.bits := by
  rw [fitInt_eq]
  exact clip_lt { md with sat := sat } v

/-- A division whose elements are new poison where the divisor is 0. -/
theorem Ready.division_elementwise {i : Instr} {s : State} {x : Ex} (hr : Ready i s x) {md : IntMod} {n : Nat}
    {zero fit : Nat → Nat → Nat} (hzero : ∀ l k, zero l k < 2 ^ md.w.bits) (hfit : ∀ l k, fit l k < 2 ^ md.w.bits)
    (h : x.g.psn = false ∨ x.each [1, 2] (32 * n / md.w.bits) fun l k => x.int md 2 l k ≠ 0) :
    Elementwise x s
      (x.packed n md.w.bits [1, 2] fun l k => if x.int md 2 l k == 0 then .fresh 1 (zero l k) else .val (fit l k))
      n md.w.bits [1, 2] fun l k => if x.int md 2 l k = 0 then zero l k else fit l k := by
  refine (hr.clean_elementwise n md.w.bits (h.imp_right fun h l hl hm k hk => ?_)).congr fun l _ _ k => ?_
  · exact ⟨fit l k, by rw [if_neg (by simpa using h l hl hm k hk)]⟩
  · by_cases h0 : x.int md 2 l k = 0
    · rw [if_pos h0, if_pos (beq_iff_eq.mpr h0), El.code, Nat.mod_eq_of_lt (hzero l k)]
    · rw [if_neg h0, if_neg (by simpa using h0), El.code, Nat.mod_eq_of_lt (hfit l k)]

theorem Ex.elt_lt (x : Ex) (j l b k : Nat) : x.elt j l b k < 2 ^ b := Nat.mod_lt _ (Nat.two_pow_pos b)

/-- Settles O3: quotient and remainder, by whether the divisor is 0. -/
theorem integerDivision : Obligations.IntegerDivision := by
  unfold Obligations.IntegerDivision
  intro h md d a b s x w u v hv
  have hones : ∀ _l _k : Nat, 2 ^ md.w.bits - 1 < 2 ^ md.w.bits := fun _ _ => Nat.sub_lt (Nat.two_pow_pos _) Nat.one_pos
  refine ⟨fun hr => hr.elementwise rfl ?quotient, fun hr => hr.elementwise rfl ?remainder⟩
  case quotient =>
    exact (hr.division_elementwise hones (fun _ _ => fitInt_lt md md.sat _) hv).congr fun l _ _ k => by rw [fitInt_eq]
  case remainder =>
    exact (hr.division_elementwise (fun _ _ => x.elt_lt ..) (fun _ _ => fitInt_lt md false _) hv).congr fun l _ _ k => by
      rw [fitInt_mod, Int.tmod_def]

/-! ### Comparisons (R101) -/

/-- A comparison's element: all ones, or 1, where the condition holds. -/
theorem Ready.truth_elementwise {i : Instr} {s : State} {x : Ex} (hr : Ready i s x) {n b : Nat} {js : List Nat} (one : Bool)
    (hb : 0 < b) (f : Nat → Nat → Bool) :
    Elementwise x s (x.packed n b js fun l k => truth b one (f l k)) n b js fun l k =>
      if f l k then (if one then 1 else 2 ^ b - 1) else 0 :=
  hr.val_elementwise n b js _ _ (fun l k => by
    have hpos := Nat.two_pow_pos b
    have hone := Nat.one_lt_two_pow hb.ne'
    split
    · split <;> omega
    · exact hpos) fun _ _ => rfl

/-- The conditions on integers, `le` and `ge` as a strict order or equality. -/
theorem Cond.holds_eq (c : Cond) (u v : Int) : Cond.holds c u v = match c with
    | .eq => decide (u = v) | .ne => decide (u ≠ v) | .lt => decide (u < v) | .le => decide (u < v ∨ u = v)
    | .gt => decide (v < u) | .ge => decide (v < u ∨ u = v) := by
  cases c with
  | eq | lt | gt => rfl
  | ne => exact (decide_not (p := u = v)).symm
  | le => exact decide_eq_decide.mpr le_iff_lt_or_eq
  | ge => exact decide_eq_decide.mpr (le_iff_lt_or_eq.trans (or_congr_right eq_comm))

/-! ### Selection (R102) -/

/-- What ISEL makes of a lane: the merge over the sources that count, or the number of the selected one. -/
def Ex.iselLane (x : Ex) (n l : Nat) : List LV :=
  let j := if (x.lv 3 l).v = 0 then 2 else 1
  tagged (if (x.lv 3 l).p then [x.one 1 l, x.one 2 l, x.lv 3 l] else [x.one j l]) (wordsOf n (x.num j l % 2 ^ (32 * n)))

theorem Ex.iselLane_length (x : Ex) (n l : Nat) : (x.iselLane n l).length = n := (tagged_length _ _).trans (wordsOf_length _ _)

theorem Ex.isel_eq {x : Ex} (hfull : x.full = []) (md : IntMod) :
    x.isel md = .next (x.written x.s x.inSet (x.rows md.w.regs (x.iselLane md.w.regs))) := by
  have hlane : ∀ l, x.s.tag (x.charge l)
      (if (x.lv 3 l).p then [x.one 1 l, x.one 2 l, x.lv 3 l] else [x.one (if (x.lv 3 l).v != 0 then 1 else 2) l]) md.w.regs
      (32 * md.w.regs) [.val (x.num (if (x.lv 3 l).v != 0 then 1 else 2) l)] = (x.iselLane md.w.regs l, x.s) := fun l => by
    have hj : (if (x.lv 3 l).v != 0 then 1 else 2) = if (x.lv 3 l).v = 0 then 2 else 1 := by
      by_cases h : (x.lv 3 l).v = 0 <;> simp [h]
    rw [State.tag_clean _ _ _ _ _ _ (.inr rfl), hj]
    simp [Ex.iselLane, El.code, joinEls]
  rw [Ex.isel, Ex.check_nil hfull, Ex.lanewise_pure]
  · simp only [hlane]
  · intro l
    rw [hlane]

section
variable {x : Ex} {n l : Nat}

/-- A clean C selects a source: its merge where it is poisoned, else its number. -/
theorem Ex.iselLane_clean (h : (x.lv 3 l).p = false) :
    x.iselLane n l =
      let j := if (x.lv 3 l).v = 0 then 2 else 1
      if (x.one j l).p then List.replicate n (x.one j l)
      else (wordsOf n (x.num j l % 2 ^ (32 * n))).map fun v => ⟨v, false⟩ := by
  simp only [Ex.iselLane, h, Bool.false_eq_true, if_false, tagged, merge_one]
  generalize x.one (if (x.lv 3 l).v = 0 then 2 else 1) l = y
  obtain ⟨v, p⟩ := y
  cases p
  · rfl
  · simp [List.map_const', wordsOf_length]

/-- A poisoned C makes every register the merge of the poisoned sources. -/
theorem Ex.iselLane_poisoned (h : (x.lv 3 l).p = true) :
    ∃ w, merge [x.one 1 l, x.one 2 l, x.lv 3 l] = some w ∧ x.iselLane n l = List.replicate n ⟨w, true⟩ := by
  obtain ⟨w, hw⟩ : ∃ w, merge [x.one 1 l, x.one 2 l, x.lv 3 l] = some w := by
    cases h1 : (x.one 1 l).p <;> cases h2 : (x.one 2 l).p <;> simp [merge, h, h1, h2]
  refine ⟨w, hw, ?_⟩
  simp [Ex.iselLane, h, tagged, hw, List.map_const', wordsOf_length]

/-- The one register that a clean C selects, with its tag. -/
theorem Ex.iselLane_word (h : (x.lv 3 l).p = false) {j : Nat} (hj : j = if (x.lv 3 l).v = 0 then 2 else 1)
    (hone : x.one j l = x.lv j l) (hnum : x.num j l = (x.lv j l).v.toNat) : x.iselLane 1 l = [x.lv j l] := by
  rw [Ex.iselLane_clean h, ← hj]
  dsimp only
  rw [hone, hnum, Nat.mod_eq_of_lt (BitVec.isLt _)]
  generalize x.lv j l = y
  obtain ⟨v, p⟩ := y
  cases p <;> simp [wordsOf]

/-- The two registers that a clean C selects: the lowest poisoned one in both. -/
theorem Ex.iselLane_pair (h : (x.lv 3 l).p = false) {j : Nat} (hj : j = if (x.lv 3 l).v = 0 then 2 else 1)
    (hlen : (x.src.getD j []).length = 2) : x.iselLane 2 l =
      [if (x.lvk j 0 l).p then x.lvk j 0 l else if (x.lvk j 1 l).p then x.lvk j 1 l else x.lvk j 0 l,
       if (x.lvk j 0 l).p then x.lvk j 0 l else x.lvk j 1 l] := by
  rw [Ex.iselLane_clean h, ← hj]
  dsimp only
  rw [Ex.num, Ex.one, Ex.regs_two hlen]
  generalize x.lvk j 0 l = y
  generalize x.lvk j 1 l = z
  obtain ⟨v, p⟩ := y
  obtain ⟨u, q⟩ := z
  have hv := v.isLt
  have hu := u.isLt
  have hlo : BitVec.ofNat 32 ((v.toNat + 2 ^ 32 * u.toNat) % 2 ^ 64) = v :=
    BitVec.eq_of_toNat_eq (by rw [BitVec.toNat_ofNat]; omega)
  have hhi : BitVec.ofNat 32 ((v.toNat + 2 ^ 32 * u.toNat) % 2 ^ 64 / 2 ^ 32) = u :=
    BitVec.eq_of_toNat_eq (by rw [BitVec.toNat_ofNat]; omega)
  cases p <;> cases q <;> simp [joinSrc, joinEls, wordsOf, Nat.mod_eq_of_lt hv, Nat.mod_eq_of_lt hu]
  exact ⟨hlo, hhi⟩

end

/-- ISEL of single registers (R102). -/
theorem isel_word {h : Hdr} {sg sat : Bool} {d a b c : Opnd} {s : State} {x : Ex}
    (hr : Ready (.isel h ⟨.w32, sg, sat⟩ d a b c) s x) :
    ∃ row : Lanes, exec (.isel h ⟨.w32, sg, sat⟩ d a b c) s = .next (x.written s x.inSet [row]) ∧
      ∀ l ∈ x.set, l < x.w →
        ((x.lv 3 l).p = false → laneAt row l = if (x.lv 3 l).v = 0 then x.lv 2 l else x.lv 1 l) ∧
        ((x.lv 3 l).p = true → some (laneAt row l) = (merge [x.lv 1 l, x.lv 2 l, x.lv 3 l]).map fun w => ⟨w, true⟩) := by
  have ha := hr.op_at (j := 1) (p := (a, .src 1)) rfl
  have hb := hr.op_at (j := 2) (p := (b, .src 1)) rfl
  obtain ⟨row, hrow, hlane⟩ := Ex.rows_one x (x.iselLane 1) (x.iselLane_length 1)
  refine ⟨row, ?_, fun l hl hw => ⟨fun hc => ?_, fun hc => ?_⟩⟩
  · rw [← hrow]
    exact ((issue_of_ready hr _).trans (Ex.isel_eq hr.full _)).trans (by rw [hr.state]; rfl)
  · have hrow := hlane l hl hw
    by_cases h0 : (x.lv 3 l).v = 0
    · rw [Ex.iselLane_word hc (if_pos h0).symm (hr.one_one hb l) (hr.num_one hb l)] at hrow
      rw [if_pos h0, List.singleton_inj.mp hrow]
    · rw [Ex.iselLane_word hc (if_neg h0).symm (hr.one_one ha l) (hr.num_one ha l)] at hrow
      rw [if_neg h0, List.singleton_inj.mp hrow]
  · obtain ⟨w, hmerge, hval⟩ := Ex.iselLane_poisoned (n := 1) hc
    rw [hr.one_one ha, hr.one_one hb] at hmerge
    rw [hmerge, ← List.singleton_inj.mp (hval.symm.trans (hlane l hl hw))]
    rfl

/-- ISEL of pairs (R89, R102). -/
theorem isel_pair {h : Hdr} {sg sat : Bool} {d a b c : Opnd} {s : State} {x : Ex}
    (hr : Ready (.isel h ⟨.w64, sg, sat⟩ d a b c) s x) :
    ∃ lo hi : Lanes, exec (.isel h ⟨.w64, sg, sat⟩ d a b c) s = .next (x.written s x.inSet [lo, hi]) ∧
      ∀ l ∈ x.set, l < x.w →
        ((x.lv 3 l).p = false →
          let j := if (x.lv 3 l).v = 0 then 2 else 1
          laneAt lo l = (if (x.lvk j 0 l).p then x.lvk j 0 l else if (x.lvk j 1 l).p then x.lvk j 1 l else x.lvk j 0 l) ∧
          laneAt hi l = (if (x.lvk j 0 l).p then x.lvk j 0 l else x.lvk j 1 l)) ∧
        ((x.lv 3 l).p = true → ∃ w, merge [x.one 1 l, x.one 2 l, x.lv 3 l] = some w ∧
          laneAt lo l = ⟨w, true⟩ ∧ laneAt hi l = ⟨w, true⟩) := by
  have ha := hr.op_at (j := 1) (p := (a, .src 2)) rfl
  have hb := hr.op_at (j := 2) (p := (b, .src 2)) rfl
  obtain ⟨lo, hi, hrows, hlane⟩ := Ex.rows_two x (x.iselLane 2) (x.iselLane_length 2)
  refine ⟨lo, hi, ?_, fun l hl hw => ⟨fun hc => ?_, fun hc => ?_⟩⟩
  · rw [← hrows]
    exact ((issue_of_ready hr _).trans (Ex.isel_eq hr.full _)).trans (by rw [hr.state]; rfl)
  · have hlen : (x.src.getD (if (x.lv 3 l).v = 0 then 2 else 1) []).length = 2 := by
      split
      · exact hr.pair_length hb
      · exact hr.pair_length ha
    have hval := (hlane l hl hw).symm.trans (Ex.iselLane_pair hc rfl hlen)
    simp only [List.cons.injEq, and_true] at hval
    exact hval
  · obtain ⟨w, hmerge, hval⟩ := Ex.iselLane_poisoned (n := 2) hc
    have hval := (hlane l hl hw).symm.trans hval
    simp only [List.replicate, List.cons.injEq, and_true] at hval
    exact ⟨w, hmerge, hval⟩

/-- Settles O4: comparisons by their conditions, ISEL by the tag of C. -/
theorem integerCompareSelect : Obligations.IntegerCompareSelect := by
  unfold Obligations.IntegerCompareSelect
  refine ⟨fun h md cond one d a b s x => ?compare, fun h sg sat d a b c s x => isel_word,
    fun h sg sat d a b c s x => isel_pair⟩
  case compare =>
    have hbits : 0 < md.w.bits := by cases md.w <;> decide
    exact ⟨fun hr => hr.elementwise rfl ((hr.truth_elementwise one hbits _).congr fun _ _ _ _ =>
        congrArg (fun t : Bool => if t then (if one then 1 else 2 ^ md.w.bits - 1) else 0) (Cond.holds_eq ..)),
      fun hr => hr.elementwise rfl ((hr.truth_elementwise one (by decide) _).congr fun _ _ _ _ =>
        congrArg (fun t : Bool => if t then (if one then 1 else 2 ^ 32 - 1) else 0) (Cond.holds_eq ..))⟩

/-! ### LEA and dot products (R103, R104) -/

/-- An integer of 32 bits as a doubleword. -/
theorem ofInt_intVal_extend (sb : Bool) (v : Word) :
    BitVec.ofInt 64 (intVal sb 32 v.toNat) = if sb then v.signExtend 64 else v.setWidth 64 := by
  cases sb with
  | false => rw [intVal_natural, BitVec.ofInt_natCast, BitVec.ofNat_toNat]; rfl
  | true => rw [intVal_signed (by decide)]; rfl

theorem ofInt_mul_two_pow (n : Nat) (v : Int) (t : Nat) : BitVec.ofInt n (v * 2 ^ t) = BitVec.ofInt n v <<< t := by
  have h2 : BitVec.ofInt n (2 ^ t) = BitVec.twoPow n t := by
    have hcast := BitVec.ofInt_natCast n (2 ^ t)
    push_cast at hcast
    rw [hcast]
    exact BitVec.eq_of_toNat_eq (by rw [BitVec.toNat_ofNat, BitVec.toNat_twoPow])
  rw [BitVec.ofInt_mul, h2, BitVec.shiftLeft_eq_mul_twoPow]

section
variable {i : Instr} {s : State} {x : Ex} (hr : Ready i s x)
include hr

/-- LEA at every scale, B by zeros or by its sign (R103). -/
theorem Ready.leaScaled_elementwise {a b : Opnd} (ha : i.operand 1 = some (a, .src 2)) (hb : i.operand 2 = some (b, .src 1))
    (sh : BitVec 3) (sb : Bool) : Elementwise x s (Ex.lea sh sb x) 2 64 [1, 2] fun l _ =>
      (x.pair 1 l + ((if sb then (x.lv 2 l).v.signExtend 64 else (x.lv 2 l).v.setWidth 64) <<< sh.toNat)).toNat :=
  hr.number_elementwise (b := 64) rfl fun l _ _ => by
    dsimp only
    rw [codeOf_eq, hr.num_two (hr.op_at ha), hr.num_one (hr.op_at hb), BitVec.ofInt_add, ofInt_mul_two_pow,
      ofInt_intVal_extend, BitVec.ofInt_natCast, BitVec.ofNat_toNat, BitVec.setWidth_eq]

/-- A sum over elements added to C, in a word (R104). -/
theorem Ready.dot_elementwise {md : IntMod} {cs : Bool} {f : Int → Int → Int} {c : Opnd} (hc : i.operand 3 = some (c, .src 1)) :
    Elementwise x s (Ex.dot md cs f x) 1 32 [1, 2, 3] fun l _ =>
      clip ⟨.w32, cs, md.sat⟩ (x.int ⟨.w32, cs, md.sat⟩ 3 l 0 +
        ((List.range (32 / md.w.bits)).map fun k => f (x.int md 1 l k) (x.int md 2 l k)).sum) :=
  hr.wide_elementwise 1 [1, 2, 3] _ _ (fun _ => clip_lt ⟨.w32, cs, md.sat⟩ _) fun l => by
    have hint : x.int ⟨.w32, cs, md.sat⟩ 3 l 0 = intVal cs 32 (x.num 3 l) :=
      congrArg (intVal cs 32) ((hr.elt_word hc l).trans (hr.num_one (hr.op_at hc) l).symm)
    have hfmt : (if cs then Fmt.s32 else Fmt.n32) = IntMod.fmt ⟨.w32, cs, md.sat⟩ := by cases cs <;> rfl
    rw [hint, hfmt, fitInt_eq]
    rfl

end

/-- Settles O5: LEA on doublewords, the dot products as one sum each. -/
theorem integerSums : Obligations.IntegerSums := by
  unfold Obligations.IntegerSums
  intro h md sh sb d a b c s x
  refine ⟨fun hr => hr.elementwise rfl (hr.leaScaled_elementwise rfl rfl sh sb), fun hw hr => ?dot4, fun hw hr => ?dot2,
    fun hr => hr.elementwise rfl ?isad⟩
  case dot4 => exact hr.elementwise rfl ((hr.dot_elementwise rfl).congr fun l _ _ _ => by rw [hw]; rfl)
  case dot2 => exact hr.elementwise rfl ((hr.dot_elementwise rfl).congr fun l _ _ _ => by rw [hw]; rfl)
  case isad =>
    exact (hr.dot_elementwise rfl).congr fun l _ _ _ => by
      simp only [Int.natCast_natAbs]
      rfl

end Sys2Proof.Machine

/-! ## Bit logic, shifts and fields (R105 to R110) -/

namespace Sys2Proof.Machine

/-! ### Words by their bits -/

theorem getLsbD_oneBit (i : Nat) {j : Nat} (hj : j < 32) : (oneBit i).getLsbD j = (j == i) := by
  rw [oneBit, BitVec.getLsbD_ofNat, Nat.testBit_two_pow, decide_eq_true hj, Bool.true_and, Bool.beq_eq_decide_eq]
  exact decide_eq_decide.mpr eq_comm

/-- A bit of a word that is gathered bit by bit. -/
theorem getLsbD_foldl_oneBit (f : Nat → Bool) (js : List Nat) (a : Word) {j : Nat} (hj : j < 32) :
    (js.foldl (fun a i => if f i then a ||| oneBit i else a) a).getLsbD j = (a.getLsbD j || js.contains j && f j) := by
  induction js generalizing a with
  | nil => simp
  | cons i js ih =>
    have hstep : (if f i then a ||| oneBit i else a).getLsbD j = (a.getLsbD j || j == i && f i) := by
      cases hf : f i <;> simp [BitVec.getLsbD_or, getLsbD_oneBit i hj]
    rw [List.foldl_cons, ih, hstep, List.contains_cons]
    by_cases hji : j = i
    · subst hji
      cases f j <;> simp
    · rw [beq_eq_false_iff_ne.mpr hji, Bool.false_and, Bool.or_false, Bool.false_or]

theorem getElem_maskBy (f : Nat → Bool) {j : Nat} (hj : j < 32) : (maskBy f)[j] = f j := by
  rw [← BitVec.getLsbD_eq_getElem, maskBy, getLsbD_foldl_oneBit f _ _ hj]
  simp [upTo, hj]

theorem maskBy_reverse (a : Word) : (maskBy fun j => bitOf a (31 - j)) = a.reverse := by
  ext j hj
  rw [getElem_maskBy _ hj, BitVec.getElem_reverse, BitVec.getMsbD_eq_getLsbD, decide_eq_true hj, Bool.true_and]
  rfl

theorem lop3_eq (t : BitVec 8) (u v w : Word) :
    lop3 t u v w = BitVec.ofFnLE fun j : Fin 32 => t.getLsbD (u[j].toNat + 2 * v[j].toNat + 4 * w[j].toNat) := by
  ext j hj
  rw [lop3, getElem_maskBy _ hj, BitVec.getElem_ofFnLE _ _ hj]
  simp only [bitOf, BitVec.getLsbD_eq_getElem hj]
  rfl

theorem popCount_lt (a : Word) : popCount a < 2 ^ 32 :=
  (List.countP_le_length.trans_eq List.length_range).trans_lt (by decide)

/-- The lowest set bit, all ones where there is none (R105). -/
theorem lowBit_eq (a : Word) : (lowBit a).toNat = if a = 0 then 2 ^ 32 - 1 else a.ctz.toNat := by
  by_cases ha : a = 0
  · subst ha
    rfl
  have hlt : a.ctz.toNat < 32 := by simpa [BitVec.lt_def] using BitVec.ctz_lt_iff_ne_zero.mpr ha
  have hfind : (upTo 32).find? (bitOf a) = some a.ctz.toNat := by
    rw [upTo, List.find?_range_eq_some]
    exact ⟨BitVec.getLsbD_true_ctz_of_ne_zero ha, List.mem_range.mpr hlt, fun j hj => by
      rw [bitOf, BitVec.getLsbD_false_of_lt_ctz hj]
      rfl⟩
  rw [if_neg ha, lowBit, hfind]
  exact Nat.mod_eq_of_lt (hlt.trans (by decide))

/-! ### Shifts (R106, R110) -/

theorem rotEl_eq {n : Nat} (hn : 0 < n) (a : BitVec n) (t : Nat) : rotEl n a.toNat t = (a.rotateLeft t).toNat := by
  have hlt := Nat.mod_lt t hn
  have ha := a.isLt
  rw [rotEl, BitVec.toNat_rotateLeft, Nat.shiftLeft_eq, Nat.shiftRight_eq_div_pow]
  generalize t % n = r at *
  obtain ⟨m, rfl⟩ := Nat.exists_eq_add_of_le' hlt.le
  rw [Nat.add_sub_cancel, Nat.pow_add] at *
  have hlow : a.toNat / 2 ^ m < 2 ^ r := Nat.div_lt_of_lt_mul ha
  rw [Nat.mul_mod_mul_right, ← Nat.shiftLeft_eq, Nat.shiftLeft_add_eq_or_of_lt hlow]

section
variable {i : Instr} {s : State} {x : Ex} (hr : Ready i s x)
include hr

theorem Ready.ternary_elementwise {f : Word → Word → Word → Word} :
    Elementwise x s (x.bit3 f) 1 32 [1, 2, 3] fun l _ => (f (x.lv 1 l).v (x.lv 2 l).v (x.lv 3 l).v).toNat :=
  hr.wide_elementwise 1 [1, 2, 3] _ _ (fun _ => BitVec.isLt _) fun _ => rfl

/-- A shift whose elements are an operation on words of the element's width. -/
theorem Ready.shiftAll_elementwise (w : ShW) {g : Nat → Nat → Nat → Nat} {f : BitVec w.bits → Nat → BitVec w.bits}
    (h : ∀ a t, g w.bits a.toNat t = (f a t).toNat) :
    Elementwise x s (x.shift w g) 1 w.bits [1, 2] fun l k =>
      (f (BitVec.ofNat w.bits (x.elt 1 l w.bits k)) (x.elt 2 l w.bits k)).toNat :=
  hr.val_elementwise 1 w.bits [1, 2] _ _ (fun _ _ => BitVec.isLt _) fun l k => by
    rw [← h, BitVec.toNat_ofNat, Nat.mod_eq_of_lt (x.elt_lt 1 l w.bits k)]

/-- A shift of a pair. -/
theorem Ready.shiftPair_elementwise {a b : Opnd} (ha : i.operand 1 = some (a, .src 2)) (hb : i.operand 2 = some (b, .src 1))
    {g : Nat → Nat → Nat} {f : Dword → Nat → Dword} (h : ∀ a t, g a.toNat t = (f a t).toNat) :
    Elementwise x s (x.wide 2 [1, 2] fun l => g (x.num 1 l) (x.num 2 l)) 2 64 [1, 2] fun l _ =>
      (f (x.pair 1 l) (x.lv 2 l).v.toNat).toNat :=
  hr.wide_elementwise 2 [1, 2] _ _ (fun _ => BitVec.isLt _) fun l => by
    rw [hr.num_two (hr.op_at ha), hr.num_one (hr.op_at hb), h]

end

/-! ### Fields (R107, R108) -/

/-- A word of the low bits of a wider one. -/
theorem setWidth_eq_ofInt_toInt {n m : Nat} (a : BitVec n) (h : m ≤ n) : a.setWidth m = BitVec.ofInt m a.toInt :=
  (BitVec.signExtend_eq_setWidth_of_le a h).symm

theorem setWidth_eq_ofInt_toNat {n : Nat} (a : BitVec n) (m : Nat) : a.setWidth m = BitVec.ofInt m a.toNat := by
  rw [BitVec.ofInt_natCast, BitVec.ofNat_toNat]

/-- A word of m bits extended to 32 is its integer. -/
theorem ofInt_intVal_field (sg : Bool) {m : Nat} (field : BitVec m) :
    BitVec.ofInt 32 (if m == 0 then 0 else intVal sg m field.toNat) =
      if sg then field.signExtend 32 else field.setWidth 32 := by
  cases m with
  | zero =>
    rw [BitVec.eq_nil field]
    cases sg <;> rfl
  | succ m =>
    rw [if_neg (by simp)]
    cases sg with
    | false => rw [intVal_natural, setWidth_eq_ofInt_toNat]; rfl
    | true => rw [intVal_signed (Nat.succ_pos m)]; rfl

/-- The offset and length of a field (R107). -/
def fieldOff (v : Word) : Nat := (v.extractLsb' 0 8).toNat
def fieldLen (v : Word) : Nat := min (v.extractLsb' 8 8).toNat 32

/-- BFE's field, shifted down in a doubleword and cut to its length. -/
theorem bfe_eq (sg : Bool) (a b : Word) : bfe sg a b =
    let v : Dword := if sg then (a.signExtend 64).sshiftRight (fieldOff b) else a.setWidth 64 >>> fieldOff b
    let field := v.setWidth (fieldLen b)
    if sg then field.signExtend 32 else field.setWidth 32 := by
  have hlen : fieldLen b ≤ 64 := (Nat.min_le_right _ _).trans (by decide)
  have hfield : codeOf (fieldLen b) ((intVal sg 32 a.toNat).fdiv (2 ^ fieldOff b)) =
      ((if sg then (a.signExtend 64).sshiftRight (fieldOff b) else a.setWidth 64 >>> fieldOff b : Dword).setWidth
        (fieldLen b)).toNat := by
    rw [codeOf_eq, Int.fdiv_eq_ediv_of_nonneg _ (by positivity)]
    cases sg with
    | false =>
      have hshift : (a.setWidth 64 >>> fieldOff b).toNat = a.toNat / 2 ^ fieldOff b := by
        rw [BitVec.toNat_ushiftRight, BitVec.toNat_setWidth_of_le (by decide), Nat.shiftRight_eq_div_pow]
      rw [intVal_natural, if_neg Bool.false_ne_true, setWidth_eq_ofInt_toNat, hshift]
      push_cast
      rfl
    | true =>
      have hshift : ((a.signExtend 64).sshiftRight (fieldOff b)).toInt = a.toInt / 2 ^ fieldOff b := by
        rw [BitVec.toInt_sshiftRight, BitVec.toInt_signExtend_of_le (by decide), Int.shiftRight_eq_div_pow]
        push_cast
        rfl
      rw [intVal_signed (by decide), if_pos rfl, setWidth_eq_ofInt_toInt _ hlen, hshift]
  have h := ofInt_intVal_field sg
    ((if sg then (a.signExtend 64).sshiftRight (fieldOff b) else a.setWidth 64 >>> fieldOff b : Dword).setWidth (fieldLen b))
  rw [← hfield] at h
  exact h

theorem ofNat_mul_two_pow (n v t : Nat) : BitVec.ofNat n (v * 2 ^ t) = BitVec.ofNat n v <<< t :=
  BitVec.eq_of_toNat_eq (by
    rw [BitVec.toNat_shiftLeft, BitVec.toNat_ofNat, BitVec.toNat_ofNat, Nat.shiftLeft_eq, Nat.mod_mul_mod])

/-- BFI's field, put in place under its mask. -/
theorem bfi_eq (a b c : Word) : bfi a b c =
    let mask : Word := BitVec.ofNat 32 (2 ^ fieldLen c - 1) <<< fieldOff c
    (b &&& ~~~ mask) ||| ((a <<< fieldOff c) &&& mask) := by
  unfold bfi
  simp only [ofNat_mul_two_pow, BitVec.ofNat_toNat, BitVec.setWidth_eq]
  rfl

theorem byteOf_toNat (v : Word) (k : Nat) : (byteOf v k).toNat = v.toNat / 2 ^ (8 * k) % 2 ^ 8 := by
  rw [byteOf, BitVec.extractLsb'_toNat, Nat.shiftRight_eq_div_pow]

theorem toNat_append_byte {n : Nat} (v : BitVec n) (b : Byte) : (v ++ b).toNat = 2 ^ 8 * v.toNat + b.toNat := by
  rw [BitVec.toNat_append, ← Nat.shiftLeft_add_eq_or_of_lt b.isLt, Nat.shiftLeft_eq, Nat.mul_comm]

/-- Byte k of a word of four bytes. -/
theorem byteOf_wordOfBytes (f : Nat → Byte) {k : Nat} (hk : k < 4) : byteOf (wordOfBytes (f 0) (f 1) (f 2) (f 3)) k = f k := by
  have hword : (wordOfBytes (f 0) (f 1) (f 2) (f 3)).toNat =
      2 ^ 8 * (2 ^ 8 * (2 ^ 8 * (f 3).toNat + (f 2).toNat) + (f 1).toNat) + (f 0).toNat := by
    rw [← toNat_append_byte, ← toNat_append_byte, ← toNat_append_byte]
    rfl
  have hlt : ∀ j, (f j).toNat < 256 := fun j => (f j).isLt
  have h0 := hlt 0
  have h1 := hlt 1
  have h2 := hlt 2
  have h3 := hlt 3
  refine BitVec.eq_of_toNat_eq ?_
  rw [byteOf_toNat, hword]
  interval_cases k <;> omega

theorem elementOf_one (v : Word) (b k : Nat) : elementOf [v] b k = v.toNat / 2 ^ (b * k) % 2 ^ b := by
  rw [elementOf, List.map_singleton, joinEls, joinEls, Nat.mul_zero, Nat.add_zero, Nat.mod_eq_of_lt v.isLt]

/-- The elements of a result of one register, of a smaller width. -/
theorem Elementwise.split {x : Ex} {s : State} {r : Res} {js : List Nat} {F : Nat → Word}
    (e : Elementwise x s r 1 32 js fun l _ => (F l).toNat) (b : Nat) :
    Elementwise x s r 1 b js fun l k => (F l).toNat / 2 ^ (b * k) % 2 ^ b := by
  obtain ⟨rows, hr, hlen, hlane⟩ := e
  obtain ⟨row, rfl⟩ := List.length_eq_one_iff.mp hlen
  refine ⟨[row], hr, hlen, fun l hl hw => ?_⟩
  have hlane := hlane l hl hw
  cases hm : merge (x.srcsOf js l) <;> simp only [hm] at hlane ⊢
  · obtain ⟨hclean, hval⟩ := hlane
    have h0 := hval 0 Nat.one_pos
    rw [List.map_singleton, elementOf_one, Nat.mul_zero, Nat.pow_zero, Nat.div_one, Nat.mod_eq_of_lt (BitVec.isLt _)] at h0
    exact ⟨hclean, fun k _ => by rw [List.map_singleton, elementOf_one, h0]⟩
  · exact hlane

/-- Settles O6: operations on words bit by bit, shifts on words of the element's width, fields on doublewords. -/
theorem bitOperations : Obligations.BitOperations := by
  unfold Obligations.BitOperations
  refine ⟨fun h t d a b c s x => ?logic, fun h w sg d a b s x => ?shifts, fun h sg top sel d a b c s x => ?fields⟩
  case logic =>
    refine ⟨fun hr => hr.elementwise rfl hr.unary_elementwise, fun hr => hr.elementwise rfl ?movd,
      fun hr => hr.elementwise rfl hr.bitwise_elementwise, fun hr => hr.elementwise rfl hr.bitwise_elementwise,
      fun hr => hr.elementwise rfl hr.bitwise_elementwise, fun hr => hr.elementwise rfl hr.bitwise_elementwise,
      fun hr => hr.elementwise rfl hr.unary_elementwise,
      fun hr => hr.elementwise rfl (hr.unary_elementwise.congr fun _ _ _ _ => Nat.mod_eq_of_lt (popCount_lt _)),
      fun hr => hr.elementwise rfl (hr.unary_elementwise.congr fun _ _ _ _ => congrArg BitVec.toNat (leading_eq _)),
      fun hr => hr.elementwise rfl (hr.unary_elementwise.congr fun _ _ _ _ => lowBit_eq _),
      fun hr => hr.elementwise rfl (hr.unary_elementwise.congr fun _ _ _ _ => congrArg BitVec.toNat (maskBy_reverse _)),
      fun hr => hr.elementwise rfl (hr.ternary_elementwise.congr fun _ _ _ _ => congrArg BitVec.toNat (lop3_eq t _ _ _))⟩
    case movd => exact hr.wide_elementwise 2 [1] _ _ (fun _ => BitVec.isLt _) fun l => hr.num_two (hr.op_at rfl) l
  case shifts =>
    have hn : 0 < w.bits := by cases w <;> decide
    refine ⟨fun hr => hr.elementwise rfl (hr.shiftAll_elementwise w shlEl_eq),
      fun hr => hr.elementwise rfl (hr.shiftAll_elementwise w shrEl_eq),
      fun hr => hr.elementwise rfl (hr.shiftAll_elementwise w (shaEl_eq hn)),
      fun hr => hr.elementwise rfl (hr.shiftAll_elementwise w (rotEl_eq hn)),
      fun hr => hr.elementwise rfl (hr.shiftPair_elementwise rfl rfl shlEl_eq), fun hr => hr.elementwise rfl ?dshr⟩
    case dshr =>
      cases sg with
      | false => exact hr.shiftPair_elementwise rfl rfl shrEl_eq
      | true => exact hr.shiftPair_elementwise rfl rfl (shaEl_eq (by decide))
  case fields =>
    refine ⟨fun hr => hr.elementwise rfl (hr.bitwise_elementwise.congr fun _ _ _ _ => congrArg BitVec.toNat (bfe_eq sg _ _)),
      fun hr => hr.elementwise rfl (hr.ternary_elementwise.congr fun _ _ _ _ => congrArg BitVec.toNat (bfi_eq _ _ _)),
      fun hr => hr.elementwise rfl ((hr.bitwise_elementwise.split 8).congr_on fun l _ _ _ k hk => ?permb)⟩
    case permb =>
      rw [← byteOf_toNat]
      exact congrArg BitVec.toNat (byteOf_wordOfBytes (fun k =>
        byteOf (if top.getLsbD k then (x.lv 2 l).v else (x.lv 1 l).v) (sel.extractLsb' (2 * k) 2).toNat) hk)

end Sys2Proof.Machine

/-! ## Floating-point arithmetic (R111 to R115) -/

namespace Sys2Proof.Machine

/-! ### Sums and products (R112, R113) -/

theorem Num.neg_neg (v : Num) : v.neg.neg = v := by
  cases v <;> simp [Num.neg]

/-- A difference adds the other sign of B. -/
theorem negIf_not (n : Bool) (v : Num) : negIf (!n) v = (negIf n v).neg := by
  cases n
  · rfl
  · exact v.neg_neg.symm

theorem Ex.fsub_eq (fm : FpMod) (ty : FTy) (na nb : Bool) (x : Ex) : Ex.fsub fm ty na nb x =
    x.fpOp fm ty [1, 2] fun l k => Num.add fm.mode (negIf na (x.fp ty 1 l k)) (negIf nb (x.fp ty 2 l k)).neg := by
  simp only [Ex.fsub, Ex.fadd, negIf_not]

/-! ### Minima, maxima and comparisons (R114, R115) -/

theorem Num.pick_eq (lo : Bool) (u v : Num) : Num.pick lo u v =
    if u.isNan then v else if v.isNan then u
    else if decide (Num.cmp u v < 0 ∨ Num.cmp u v = 0 ∧ u.isNeg = true ∧ v.isNeg = false) = lo then u else v := by
  have hless : (decide (Num.cmp u v < 0) || (Num.cmp u v == 0 && u.isNeg && !v.isNeg)) =
      decide (Num.cmp u v < 0 ∨ Num.cmp u v = 0 ∧ u.isNeg = true ∧ v.isNeg = false) := by
    rw [Bool.decide_or, Bool.decide_and, Bool.decide_and, Bool.and_assoc]
    cases u.isNeg <;> cases v.isNeg <;> rfl
  simp only [Num.pick, hless, beq_iff_eq]

theorem FCond.holds_eq (c : FCond) (u v : Num) : FCond.holds c u v =
    if u.isNan || v.isNan then c == .ne || c == .unord
    else match c with
      | .eq => decide (Num.cmp u v = 0) | .ne => decide (Num.cmp u v ≠ 0)
      | .lt => decide (Num.cmp u v < 0) | .le => decide (Num.cmp u v ≤ 0)
      | .gt => decide (0 < Num.cmp u v) | .ge => decide (0 ≤ Num.cmp u v)
      | .ord => true | .unord => false := by
  cases c with
  | ne =>
    have hne : (Num.cmp u v != 0) = decide (Num.cmp u v ≠ 0) := (decide_not (p := Num.cmp u v = 0)).symm
    simp only [FCond.holds, hne]
  | _ => rfl

section
variable {i : Instr} {s : State} {x : Ex} (hr : Ready i s x)
include hr

/-- An FPA or FPS instruction whose operation is never invalid. -/
theorem Ready.fpValid_elementwise {fm : FpMod} {ty : FTy} {js : List Nat} {V : Nat → Nat → Num} :
    Elementwise x s (x.fpOp fm ty js fun l k => some (V l k)) 1 ty.bits js fun l k => (ftyLayout ty).answer fm (some (V l k)) :=
  hr.fp_elementwise (.inr fun _ _ _ _ _ => Option.some_ne_none _)

end

/-- Settles O8: sums and products as exact values, the others by the order of their sources. -/
theorem floatArithmetic : Obligations.FloatArithmetic := by
  unfold Obligations.FloatArithmetic
  refine ⟨fun h fm ty na nb nc d a b c s x => ?sums, fun h fm ty cond d a b s x => ?order⟩
  case sums =>
    refine ⟨fun hr hV => hr.elementwise rfl (hr.fp_elementwise hV), fun hr hV => hr.elementwise rfl ?sub,
      fun hr hV => hr.elementwise rfl (hr.fp_elementwise hV), fun hr hV => hr.elementwise rfl (hr.fp_elementwise hV)⟩
    case sub =>
      rw [Ex.fsub_eq]
      exact hr.fp_elementwise hV
  case order =>
    have hbits : 0 < ty.bits := by cases ty <;> decide
    exact ⟨fun hr => hr.elementwise rfl (hr.fpValid_elementwise.congr fun _ _ _ _ => by rw [Num.pick_eq]),
      fun hr => hr.elementwise rfl (hr.fpValid_elementwise.congr fun _ _ _ _ => by rw [Num.pick_eq]),
      fun hr => hr.elementwise rfl ((hr.truth_elementwise false hbits _).congr fun _ _ _ _ =>
        congrArg (fun t : Bool => if t then 2 ^ ty.bits - 1 else 0) (FCond.holds_eq ..))⟩

end Sys2Proof.Machine

/-! ## Parts of floats and packing (R113, R116 to R118, R123) -/

namespace Sys2Proof.Machine

/-! ### Sums of three terms (R116) -/

/-- The exact sum of FDOT2 in a lane. -/
def Ex.fdot2Sum (x : Ex) (mode : RMode) (ty : FTy) (l : Nat) : Option Num :=
  (Num.mul (x.fp ty 1 l 0) (x.fp ty 2 l 0)).bind fun u =>
    (Num.mul (x.fp ty 1 l 1) (x.fp ty 2 l 1)).bind fun v => Num.add3 mode u v (lf32.decode (x.num 3 l))

/-- What FDOT2 makes of a lane, invalid or not. -/
theorem Ex.fdot2_eq (fm : FpMod) (ty : FTy) (x : Ex) : ∃ nanIn : Nat → Bool, Ex.fdot2 fm ty x =
    x.packed 1 32 [1, 2, 3] fun l _ => lf32.el fm.mode fm.sat (nanIn l) (x.fdot2Sum fm.mode ty l) := ⟨_, rfl⟩

theorem lf32_answer_lt (fm : FpMod) (v : Option Num) : lf32.answer fm v < 2 ^ 32 := ftyLayout_answer_lt fm .f32 v

/-! ### Fractions (R117) -/

/-- A fraction's code, one that rounds to 1 taking the code below. -/
def Layout.below1 (l : Layout) (c : Nat) : Nat := if c = l.bias * 2 ^ l.fb then c - 1 else c

/-- What FFRACT makes of an element: its fraction's, kept below 1. -/
def fractEl (fm : FpMod) (ty : FTy) (a : Num) : El :=
  match (ftyLayout ty).el fm.mode fm.sat a.isNan a.fract with
  | .val c => .val (if c == (ftyLayout ty).belowOne + 1 then (ftyLayout ty).belowOne else c)
  | e => e

theorem belowOne_eq (ty : FTy) : (ftyLayout ty).belowOne + 1 = (ftyLayout ty).bias * 2 ^ (ftyLayout ty).fb := by
  cases ty <;> decide

theorem fractEl_of_some (fm : FpMod) (ty : FTy) {a v : Num} (h : a.fract = some v) :
    fractEl fm ty a = .val ((ftyLayout ty).below1 ((ftyLayout ty).answer fm a.fract)) := by
  have hone := belowOne_eq ty
  rw [fractEl, h, Layout.el_some]
  simp only [Layout.below1, beq_iff_eq, ← hone]
  congr 1
  split <;> omega

theorem Layout.below1_nanCode (ty : FTy) : (ftyLayout ty).below1 (ftyLayout ty).nanCode = (ftyLayout ty).nanCode := by
  have hne : (ftyLayout ty).nanCode ≠ (ftyLayout ty).bias * 2 ^ (ftyLayout ty).fb := by cases ty <;> decide
  exact if_neg hne

theorem fractEl_code (fm : FpMod) (ty : FTy) (a : Num) :
    (fractEl fm ty a).code = (ftyLayout ty).below1 ((ftyLayout ty).answer fm a.fract) := by
  cases a with
  | nan => rw [fractEl_of_some fm ty (v := .nan) rfl]; rfl
  | inf neg => exact (Layout.below1_nanCode ty).symm
  | fin neg m e =>
    obtain ⟨v, hv⟩ : ∃ v, Num.fract (.fin neg m e) = some v := by
      unfold Num.fract
      dsimp only
      split <;> exact ⟨_, rfl⟩
    rw [fractEl_of_some fm ty hv]
    rfl

theorem Layout.below1_le (l : Layout) (c : Nat) : l.below1 c ≤ c := by
  unfold Layout.below1
  split <;> omega

/-! ### Classes (R118) -/

/-- The class of a code by its fields. -/
def Layout.codeClass (l : Layout) (u : Nat) : Nat :=
  let f := u % 2 ^ l.fb
  let e := u / 2 ^ l.fb % 2 ^ l.eb
  let neg := u / 2 ^ (l.eb + l.fb) % 2 = 1
  if e = 2 ^ l.eb - 1 then (if f ≠ 0 then 8 else if neg then 0 else 7)
  else if e = 0 then (if f = 0 then (if neg then 3 else 4) else if neg then 2 else 5)
  else if neg then 1 else 6

theorem Layout.classBit_decode {l : Layout} (htop : l.top = .ieee) (u : Nat) : l.classBit (l.decode u) = l.codeClass u := by
  have hf := Nat.mod_lt u (Nat.two_pow_pos l.fb)
  unfold Layout.codeClass Layout.decode
  generalize u % 2 ^ l.fb = f at *
  generalize u / 2 ^ l.fb % 2 ^ l.eb = e
  simp only [htop, beq_self_eq_true, Bool.and_true, beq_iff_eq]
  by_cases he : e = 2 ^ l.eb - 1
  · rw [if_pos he, if_pos he]
    by_cases h0 : f = 0 <;> simp [h0, Layout.classBit]
  rw [if_neg he, if_neg he, if_neg (by simp)]
  by_cases he0 : e = 0
  · rw [if_pos he0, if_pos he0]
    simp [Layout.classBit, hf]
  · have hpos := Nat.two_pow_pos l.fb
    rw [if_neg he0, if_neg he0]
    simp [Layout.classBit]

theorem Layout.codeClass_le (l : Layout) (u : Nat) : l.codeClass u ≤ 8 := by
  unfold Layout.codeClass
  dsimp only
  repeat' split
  all_goals decide

section
variable {i : Instr} {s : State} {x : Ex} (hr : Ready i s x)
include hr

/-- FDOT2 where the sum is valid, or with poison mode off. -/
theorem Ready.fdot2_elementwise {fm : FpMod} {ty : FTy}
    (h : x.g.psn = false ∨ x.each [1, 2, 3] 1 fun l _ => x.fdot2Sum fm.mode ty l ≠ none) :
    Elementwise x s (Ex.fdot2 fm ty x) 1 32 [1, 2, 3] fun l _ => lf32.answer fm (x.fdot2Sum fm.mode ty l) := by
  obtain ⟨nanIn, heq⟩ := Ex.fdot2_eq fm ty x
  rw [heq]
  refine (hr.clean_elementwise 1 32 (h.imp_right fun h l hl hm k _ => ?_)).congr fun l _ _ _ => ?_
  · obtain ⟨v, hv⟩ := Option.ne_none_iff_exists'.mp (h l hl hm 0 Nat.one_pos)
    rw [hv]
    exact ⟨_, Layout.el_some _ fm _ v⟩
  · rw [Layout.code_el, Nat.mod_eq_of_lt (lf32_answer_lt fm _)]

theorem Ready.fscale_elementwise {fm : FpMod} {ty : FTy} :
    Elementwise x s (Ex.fscale fm ty x) 1 ty.bits [1, 2] fun l k => (ftyLayout ty).answer fm
      (some ((x.fp ty 1 l k).scaleBy (intVal true ty.bits (x.elt 2 l ty.bits k)))) :=
  (hr.clean_elementwise 1 ty.bits (.inr fun _ _ _ _ _ => ⟨_, Layout.el_some _ fm _ _⟩)).congr fun l _ _ k => by
    rw [Layout.code_el, Nat.mod_eq_of_lt (ftyLayout_answer_lt fm ty _)]

/-- FFRACT of values that have a fraction, or with poison mode off. -/
theorem Ready.ffract_elementwise {fm : FpMod} {ty : FTy}
    (h : x.g.psn = false ∨ x.each [1] (32 / ty.bits) fun l k => (x.fp ty 1 l k).fract ≠ none) :
    Elementwise x s (Ex.ffract fm ty x) 1 ty.bits [1] fun l k =>
      (ftyLayout ty).below1 ((ftyLayout ty).answer fm (x.fp ty 1 l k).fract) := by
  refine (hr.clean_elementwise 1 ty.bits (f := fun l k => fractEl fm ty (x.fp ty 1 l k))
    (h.imp_right fun h l hl hm k hk => ?_)).congr fun l _ _ k => ?_
  · obtain ⟨v, hv⟩ := Option.ne_none_iff_exists'.mp (h l hl hm k hk)
    exact ⟨_, fractEl_of_some fm ty hv⟩
  · rw [fractEl_code, Nat.mod_eq_of_lt ((Layout.below1_le _ _).trans_lt (ftyLayout_answer_lt fm ty _))]

theorem Ready.fclass_elementwise {ty : FTy} :
    Elementwise x s (x.packed 1 ty.bits [1] fun l k => .val (2 ^ (ftyLayout ty).classBit (x.fp ty 1 l k))) 1 ty.bits [1]
      fun l k => 2 ^ (ftyLayout ty).codeClass (x.elt 1 l ty.bits k) :=
  have htop : (ftyLayout ty).top = .ieee := by cases ty <;> rfl
  have hbits : 8 < ty.bits := by cases ty <;> decide
  hr.val_elementwise 1 ty.bits [1] _ _
    (fun _ _ => Nat.pow_lt_pow_right (by decide) ((Layout.codeClass_le _ _).trans_lt hbits))
    fun l k => by rw [Ex.fp, Layout.classBit_decode htop]

end

/-! ### Packing (R123) -/

/-- What FPACK makes of a lane: the registers of A and of B, each converted. -/
def Ex.fpackLane (fm : FpMod) (dst : Fmt) (x : Ex) (l : Nat) (s : State) : List LV × State :=
  s.tag (x.charge l) (x.regs 1 l ++ x.regs 2 l) 1 (fmtBits dst)
    ((x.regs 1 l ++ x.regs 2 l).map fun r => convert .f32 dst fm.mode fm.sat r.v.toNat)

theorem firstFresh_map_val {α : Type} {f : α → El} {l : List α} (h : ∀ a ∈ l, ∃ c, f a = .val c) :
    firstFresh (l.map f) = none := by
  induction l with
  | nil => rfl
  | cons a l ih =>
    obtain ⟨⟨c, hc⟩, hl⟩ := List.forall_mem_cons.mp h
    rw [List.map_cons, hc]
    exact ih hl

/-- An element of a word of elements joined. -/
theorem elementOf_joinEls {b : Nat} (els : List Nat) {k : Nat} (hk : k < 32 / b) :
    elementOf [BitVec.ofNat 32 (joinEls b els)] b k = els.getD k 0 % 2 ^ b := by
  have hb : 0 < b := Nat.pos_of_ne_zero fun h => by simp [h] at hk
  have hle : b * k + b ≤ 32 := by
    have := (Nat.le_div_iff_mul_le hb).mp hk
    rwa [Nat.succ_mul, Nat.mul_comm] at this
  obtain ⟨r, hr⟩ := Nat.exists_eq_add_of_le hle
  rw [elementOf_one, BitVec.toNat_ofNat, hr, Nat.add_assoc, Nat.pow_add, Nat.mod_mul_right_div_self,
    Nat.mod_mod_of_dvd _ (pow_dvd_pow 2 (Nat.le_add_right b r)), joinEls_get]

section
variable {x : Ex} {fm : FpMod} {dst : Fmt} {l : Nat} {s : State}

theorem Ex.fpackLane_poisoned {w : Word} (h : merge (x.regs 1 l ++ x.regs 2 l) = some w) :
    (x.fpackLane fm dst l s).1 = [⟨w, true⟩] := State.tag_merged h _ _ _

theorem Ex.fpackLane_clean (h : merge (x.regs 1 l ++ x.regs 2 l) = none)
    (hval : x.g.psn = false ∨ ∀ r ∈ x.regs 1 l ++ x.regs 2 l, ∃ c, convert .f32 dst fm.mode fm.sat r.v.toNat = .val c) :
    (x.fpackLane fm dst l s).1 = [⟨BitVec.ofNat 32 (joinEls (fmtBits dst)
      ((x.regs 1 l ++ x.regs 2 l).map fun r => (convert .f32 dst fm.mode fm.sat r.v.toNat).code)), false⟩] := by
  rw [Ex.fpackLane, State.tag_clean _ _ _ _ _ _ (hval.imp_right firstFresh_map_val), tagged, h, List.map_map]
  rfl

end

/-- FPACK of registers that are clean and whose conversions have values, or with poison mode off. -/
theorem fpack_lanes {h : Hdr} {fm : FpMod} {src dst : Fmt} {d a b : Opnd} {s : State} {x : Ex}
    (hr : Ready (.fpack h fm src dst d a b) s x) :
    ∃ (t : State) (row : Lanes), exec (.fpack h fm src dst d a b) s = .next (x.written t x.inSet [row]) ∧
      (x.g.psn = false → t = s) ∧ ∀ l ∈ x.set, l < x.w → ∃ u, [laneAt row l] = (x.fpackLane fm dst l u).1 := by
  have hlen : ∀ l u, (x.fpackLane fm dst l u).1.length = 1 := fun l u => by
    cases hm : merge (x.regs 1 l ++ x.regs 2 l) with
    | some w => rw [Ex.fpackLane_poisoned hm]; rfl
    | none =>
      unfold Ex.fpackLane State.tag State.tagAt
      rw [hm]
      dsimp only
      split
      · rfl
      · rw [List.length_map, wordsOf_length]
  refine ⟨(eachLane (x.fpackLane fm dst) x.set s).2,
    (upTo x.w).map fun l => laneAt (lookupD l [] (eachLane (x.fpackLane fm dst) x.set s).1) 0, ?_, fun hpsn => ?_,
    fun l hl hw => ?_⟩
  · refine (issue_of_ready hr _).trans ((Ex.check_nil hr.full _).trans ?_)
    rw [Ex.lanewise_eq, hr.state]
    rfl
  · exact eachLane_state fun l _ => State.tag_state (ch := x.charge l) hpsn _ _ _ _
  · obtain ⟨u, hu⟩ := eachLane_mem (x.fpackLane fm dst) x.set s l hl
    obtain ⟨v, hv⟩ := List.length_eq_one_iff.mp (hlen l u)
    refine ⟨u, ?_⟩
    rw [laneAt_map _ _ _ hw, hu, hv]
    rfl

/-- Settles O9: each element by its own equation, FPACK's by the registers that it converts. -/
theorem floatParts : Obligations.FloatParts := by
  unfold Obligations.FloatParts
  refine ⟨fun h fm ty d a b c s x => ?parts, fun h fm src dst d a b s x => ?pack⟩
  case parts =>
    exact ⟨fun hr hV => hr.elementwise rfl (hr.fdot2_elementwise hV), fun hr => hr.elementwise rfl hr.fscale_elementwise,
      fun hr => hr.elementwise rfl hr.fpValid_elementwise, fun hr hV => hr.elementwise rfl (hr.ffract_elementwise hV),
      fun hr => hr.elementwise rfl hr.fclass_elementwise⟩
  case pack =>
    intro regs element hr
    obtain ⟨t, row, hexec, ht, hlane⟩ := fpack_lanes hr
    refine ⟨t, row, hexec, ht, fun l hl hw => ?_⟩
    obtain ⟨u, hu⟩ := hlane l hl hw
    cases hm : merge (regs l) with
    | some w => exact List.singleton_inj.mp (hu.trans (Ex.fpackLane_poisoned hm))
    | none =>
      intro hval
      rw [List.singleton_inj.mp (hu.trans (Ex.fpackLane_clean hm hval))]
      refine ⟨rfl, fun k r hk hlt => ?_⟩
      rw [elementOf_joinEls _ hlt, List.getD_eq_getElem?_getD, List.getElem?_map]
      show ((regs l)[k]?.map _).getD 0 % _ = _
      rw [hk]
      rfl

end Sys2Proof.Machine

/-! ## MX blocks in registers (R90, R92, R125 to R128) -/

namespace Sys2Proof.Machine

/-! ### Quarters of a gang (R125) -/

/-- Results of a quarter's lanes, two clean words each. -/
def quarterLanes (q : Nat) (V : Nat → Word × Word) : List (Nat × List LV) :=
  (upTo 8).map fun j => (8 * q + j, [⟨(V j).1, false⟩, ⟨(V j).2, false⟩])

theorem lookupD_append_of_mem {α : Type} {d : α} {f : Nat → Nat × α} {js : List Nat} {rest : List (Nat × α)} {k j : Nat}
    (hj : j ∈ js) (hk : ∀ i ∈ js, (f i).1 = k ↔ i = j) : lookupD k d (js.map f ++ rest) = (f j).2 := by
  induction js with
  | nil => cases hj
  | cons i js ih =>
    obtain ⟨hi, his⟩ := List.forall_mem_cons.mp hk
    rw [List.map_cons, List.cons_append, lookupD]
    by_cases hij : i = j
    · rw [if_pos (beq_iff_eq.mpr (hi.mpr hij)), hij]
    · rw [if_neg (by simpa using mt hi.mp hij), ih ((List.mem_cons.mp hj).resolve_left (Ne.symm hij)) his]

theorem lookupD_append_of_not_mem {α : Type} {d : α} {f : Nat → Nat × α} {js : List Nat} {rest : List (Nat × α)} {k : Nat}
    (hk : ∀ i ∈ js, (f i).1 ≠ k) : lookupD k d (js.map f ++ rest) = lookupD k d rest := by
  induction js with
  | nil => rfl
  | cons i js ih =>
    obtain ⟨hi, his⟩ := List.forall_mem_cons.mp hk
    rw [List.map_cons, List.cons_append, lookupD, if_neg (by simpa using hi), ih his]

/-- A lane finds its words in its own quarter. -/
theorem lookupD_quarterLanes (l : Nat) (V : Nat → Word × Word) (rest : List (Nat × List LV)) :
    lookupD l [] (quarterLanes (l / 8) V ++ rest) = [⟨(V (l % 8)).1, false⟩, ⟨(V (l % 8)).2, false⟩] :=
  lookupD_append_of_mem (j := l % 8) (List.mem_range.mpr (Nat.mod_lt l (by decide))) fun i hi => by
    have hi := List.mem_range.mp hi
    dsimp only
    omega

theorem lookupD_quarterLanes_of_ne {l q : Nat} (h : l / 8 ≠ q) (V : Nat → Word × Word) (rest : List (Nat × List LV)) :
    lookupD l [] (quarterLanes q V ++ rest) = lookupD l [] rest :=
  lookupD_append_of_not_mem fun i hi => by
    have hi := List.mem_range.mp hi
    dsimp only
    omega

/-- A lane of one of the quarters has the words that its quarter gives in some state. -/
theorem eachQuarter_lane {f : Nat → State → List (Nat × List LV) × State} {P : Nat → (Nat → Word × Word) → Prop}
    (hf : ∀ q s, ∃ V, (f q s).1 = quarterLanes q V ∧ P q V) {qs : List Nat} {l : Nat} (hl : l / 8 ∈ qs) (s : State) :
    ∃ V, P (l / 8) V ∧ lookupD l [] (eachQuarter f qs s).1 = [⟨(V (l % 8)).1, false⟩, ⟨(V (l % 8)).2, false⟩] := by
  induction qs generalizing s with
  | nil => cases hl
  | cons q qs ih =>
    obtain ⟨V, hV, hP⟩ := hf q s
    rw [eachQuarter]
    dsimp only
    rw [hV]
    by_cases hq : l / 8 = q
    · subst hq
      exact ⟨V, hP, lookupD_quarterLanes l V _⟩
    · obtain ⟨U, hU, hlook⟩ := ih ((List.mem_cons.mp hl).resolve_left hq) (f q s).2
      exact ⟨U, hU, (lookupD_quarterLanes_of_ne hq V _).trans hlook⟩

theorem eachQuarter_state {f : Nat → State → List (Nat × List LV) × State} (h : ∀ q s, (f q s).2 = s) (qs : List Nat)
    (s : State) : (eachQuarter f qs s).2 = s := by
  induction qs generalizing s with
  | nil => rfl
  | cons q qs ih => exact (ih _).trans (h q s)

/-! ### Encoding a block (R126, R127) -/

theorem provOrigin_lt (w : Word) : provOrigin w < 8192 := (w.extractLsb' 8 13).isLt

theorem blockMark_eq {o : Nat} (ho : o < 8192) (k : Nat) : blockMark o k = kcodeOf k * 2 ^ 13 + o :=
  congrArg (kcodeOf k * 8192 + ·) (Nat.mod_eq_of_lt ho)

/-- The values of a block. -/
def Ex.mxValues (x : Ex) (q : Nat) : List Num := (x.block q).map fun r => lf32.decode r.v.toNat

/-- The words of a marked block: the marker in its first lane, scale 255 (R90). -/
def markedWords (mark j : Nat) : Word × Word := (BitVec.ofNat 32 (if j == 0 then mark else 0), 0xFF)

/-- The words of an encoded block: four elements, the scale (R126). -/
def Ex.mxWords (x : Ex) (dst : Fmt) (mode : RMode) (q j : Nat) : Word × Word :=
  (BitVec.ofNat 32 (joinEls (fmtBits dst) ((upTo 4).map fun k =>
    mxElement dst mode (mxScale dst (x.mxValues q)) ((x.mxValues q).getD (4 * j + k) .nan))),
   BitVec.ofNat 32 (mxScale dst (x.mxValues q) + 127).toNat)

section
variable {x : Ex} {dst : Fmt} {mode : RMode} {q : Nat} {s : State}

theorem Ex.mxencQuarter_poisoned {w : Word} (h : merge (x.block q) = some w) :
    x.mxencQuarter dst mode q s = (quarterLanes q (markedWords (blockMark (provOrigin w) (provKind w))), s) := by
  rw [Ex.mxencQuarter, h]
  rfl

theorem Ex.mxencQuarter_finite (h : merge (x.block q) = none) (hfin : ∀ v ∈ x.mxValues q, v.toRat ≠ none) :
    x.mxencQuarter dst mode q s = (quarterLanes q (x.mxWords dst mode q), s) := by
  rw [Ex.mxencQuarter, h]
  dsimp only
  rw [if_neg]
  · rfl
  · rw [List.any_eq_true]
    rintro ⟨v, hv, hspecial⟩
    cases v with
    | fin => cases hspecial
    | _ => exact hfin _ hv rfl

/-- A clean block with an infinity or a NaN: kind 2 and a new origin, or with poison mode off KCODE 0 and ORIGIN 0x1FFF. -/
theorem Ex.mxencQuarter_special (h : merge (x.block q) = none) (hspec : ∃ v ∈ x.mxValues q, v.toRat = none) :
    ∃ mark t, x.mxencQuarter dst mode q s = (quarterLanes q (markedWords mark), t) ∧ (x.g.psn = false → t = s) ∧
      if x.g.psn then ∃ o < 8192, mark = 8192 + o else mark = 0x1FFF := by
  rw [Ex.mxencQuarter, h]
  dsimp only
  rw [if_pos]
  · cases hpsn : x.g.psn with
    | false => exact ⟨_, _, rfl, fun _ => rfl, rfl⟩
    | true => exact ⟨_, _, rfl, nofun, _, provOrigin_lt _, blockMark_eq (provOrigin_lt _) 2⟩
  · obtain ⟨v, hv, hnone⟩ := hspec
    rw [List.any_eq_true]
    refine ⟨v, hv, ?_⟩
    cases v with
    | fin => cases hnone
    | _ => rfl

end

/-- What MXENC makes of a lane of a quarter's block, by the block's poison and its values (R90, R126, R127). -/
def Ex.MxEncoded (x : Ex) (dst : Fmt) (mode : RMode) (q j : Nat) (lo hi : Word) : Prop :=
  match merge (x.block q) with
  | some w => hi = 0xFF ∧ lo = BitVec.ofNat 32 (if j = 0 then kcodeOf (provKind w) * 2 ^ 13 + provOrigin w else 0)
  | none =>
    ((∀ v ∈ x.mxValues q, v.toRat ≠ none) → hi = (x.mxWords dst mode q j).2 ∧ lo = (x.mxWords dst mode q j).1) ∧
    ((∃ v ∈ x.mxValues q, v.toRat = none) → hi = 0xFF ∧ (j ≠ 0 → lo = 0) ∧
      (j = 0 → if x.g.psn then ∃ o < 8192, lo = BitVec.ofNat 32 (8192 + o) else lo = 0x1FFF))

/-- Each quarter is encoded, with poison mode off in the state as it is. -/
theorem Ex.mxencQuarter_encoded (x : Ex) (dst : Fmt) (mode : RMode) (q : Nat) (s : State) :
    ∃ V t, x.mxencQuarter dst mode q s = (quarterLanes q V, t) ∧ (x.g.psn = false → t = s) ∧
      ∀ j, x.MxEncoded dst mode q j (V j).1 (V j).2 := by
  unfold Ex.MxEncoded
  cases hm : merge (x.block q) with
  | some w =>
    refine ⟨_, s, Ex.mxencQuarter_poisoned hm, fun _ => rfl, fun j => ⟨rfl, ?_⟩⟩
    rw [← blockMark_eq (provOrigin_lt w)]
    simp only [markedWords, beq_iff_eq]
  | none =>
    by_cases hfin : ∀ v ∈ x.mxValues q, v.toRat ≠ none
    · refine ⟨_, s, Ex.mxencQuarter_finite hm hfin, fun _ => rfl, fun j => ⟨fun _ => ⟨rfl, rfl⟩, fun ⟨v, hv, hnone⟩ => ?_⟩⟩
      exact absurd hnone (hfin v hv)
    · have hspec : ∃ v ∈ x.mxValues q, v.toRat = none := by simpa using hfin
      obtain ⟨mark, t, hq, ht, hmark⟩ := Ex.mxencQuarter_special (dst := dst) (mode := mode) (s := s) hm hspec
      refine ⟨_, t, hq, ht, fun j => ⟨fun h => absurd h hfin, fun _ => ⟨rfl, fun hj => ?_, fun hj => ?_⟩⟩⟩
      · simp [markedWords, hj]
      · have hlo : (markedWords mark j).1 = BitVec.ofNat 32 mark := by simp [markedWords, hj]
        rw [hlo]
        split
        · next hpsn =>
          rw [if_pos hpsn] at hmark
          obtain ⟨o, ho, rfl⟩ := hmark
          exact ⟨o, ho, rfl⟩
        · next hpsn =>
          rw [if_neg hpsn] at hmark
          rw [hmark]
          rfl

/-- A gang that is not parted passes the check for a whole gang. -/
theorem Ex.whole_of_joined {x : Ex} (h : x.b.parted = false) (ord : Nat) : x.whole ord = [] := by
  rw [Ex.whole, h]
  rfl

/-- MXENC of a joined gang of whole quarters. -/
theorem mxenc_lanes {h : Hdr} {fm : FpMod} {src dst : Fmt} {d a : Opnd} {s : State} {x : Ex}
    (hr : Ready (.mxenc h fm src dst d a) s x) (hj : x.b.parted = false) (hw8 : x.w % 8 = 0) :
    ∃ (t : State) (lo hi : Lanes), exec (.mxenc h fm src dst d a) s = .next (x.written t x.inSet [lo, hi]) ∧
      (x.g.psn = false → t = s) ∧ ∀ l ∈ x.set, l < x.w → (laneAt lo l).p = false ∧ (laneAt hi l).p = false ∧
        x.MxEncoded dst fm.mode (l / 8) (l % 8) (laneAt lo l).v (laneAt hi l).v := by
  obtain ⟨qs, hqs⟩ : ∃ qs, qs = (upTo (x.w / 8)).filter fun q => x.set.any fun i => i / 8 == q := ⟨_, rfl⟩
  obtain ⟨r, hr'⟩ : ∃ r, r = eachQuarter (x.mxencQuarter dst fm.mode) qs s := ⟨_, rfl⟩
  refine ⟨r.2, (upTo x.w).map fun i => laneAt (lookupD i [] r.1) 0, (upTo x.w).map fun i => laneAt (lookupD i [] r.1) 1,
    ?_, fun hpsn => ?_, fun l hl hw => ?_⟩
  · refine (issue_of_ready hr _).trans ?_
    rw [Ex.mxenc, Ex.whole_of_joined hj, Ex.check_nil hr.full, hr.state, ← hqs, ← hr']
    rfl
  · rw [hr']
    refine eachQuarter_state (fun q u => ?_) qs s
    obtain ⟨V, t, hq, ht, -⟩ := x.mxencQuarter_encoded dst fm.mode q u
    rw [hq]
    exact ht hpsn
  · have hmem : l / 8 ∈ qs := by
      rw [hqs, List.mem_filter, List.any_eq_true]
      exact ⟨List.mem_range.mpr (by omega), l, hl, beq_self_eq_true _⟩
    obtain ⟨V, hV, hlook⟩ := eachQuarter_lane (f := x.mxencQuarter dst fm.mode)
      (P := fun q V => ∀ j, x.MxEncoded dst fm.mode q j (V j).1 (V j).2)
      (fun q u => by
        obtain ⟨V, t, hq, -, hP⟩ := x.mxencQuarter_encoded dst fm.mode q u
        exact ⟨V, by rw [hq], hP⟩) hmem s
    rw [laneAt_map _ _ _ hw, laneAt_map _ _ _ hw, hr', hlook]
    exact ⟨rfl, rfl, hV _⟩

/-! ### Decoding a block (R92, R128) -/

/-- What MXDEC makes of a lane: its four elements scaled, or the block's provenance word in all four registers. -/
def Ex.mxdecLane (x : Ex) (fm : FpMod) (src : Fmt) (l : Nat) : List LV :=
  let e := (x.lv 2 l).v.toNat % 256
  match blockPoison ((List.range 8).map fun j => x.lv 1 (8 * (l / 8) + j)) (x.lv 2 l) e with
  | some w => [⟨w, true⟩, ⟨w, true⟩, ⟨w, true⟩, ⟨w, true⟩]
  | none => (List.range 4).map fun k =>
      ⟨BitVec.ofNat 32 (lf32.answer fm (some ((fmtDecode src (x.elt 1 l (fmtBits src) k)).scaleBy ((e : Int) - 127)))), false⟩

theorem alignDown_eight (l : Nat) : alignDown l 8 = 8 * (l / 8) := by
  rw [alignDown]
  omega

theorem Ex.mxdec_eq {x : Ex} (hfull : x.full = []) (hj : x.b.parted = false) (fm : FpMod) (src : Fmt) :
    x.mxdec fm src = .next (x.written x.s x.inSet (x.rows 4 (x.mxdecLane fm src))) := by
  rw [Ex.mxdec, Ex.whole_of_joined hj, Ex.check_nil hfull, Ex.lanewise_pure]
  · unfold Ex.mxdecLane
    simp only [alignDown_eight, upTo]
    congr 4
    funext l
    cases blockPoison ((List.range 8).map fun j => x.lv 1 (8 * (l / 8) + j)) (x.lv 2 l) ((x.lv 2 l).v.toNat % 256) <;> rfl
  · intro l
    dsimp only
    split <;> rfl

/-- Settles O12: MXENC quarter by quarter, MXDEC lane by lane. -/
theorem mxFormats : Obligations.MxFormats := by
  unfold Obligations.MxFormats
  refine ⟨fun h fm src dst d a s x hr hj hw8 => mxenc_lanes hr hj hw8, fun h fm src dst d a b s x hr hj => ?_⟩
  exact ((issue_of_ready hr _).trans (Ex.mxdec_eq hr.full hj fm src)).trans (by rw [hr.state]; rfl)

end Sys2Proof.Machine

/-! ## The FPS functions (R119, R120) -/

namespace Sys2Proof.Machine

/-! ### Numbers that stand for exact ones (R119)

A quotient or a root is kept as an integer of units with a sticky lowest bit. It is not the exact number, but no number of few
bits lies between the two. -/

/-- A number y stands to every number of at most B bits as an exact one does, of which it is known what lies below it and what it
is. -/
def StandsAs (B : Nat) (y : Rat) (below hit : Rat → Prop) : Prop :=
  ∀ (p : Nat) (j : Int), p < 2 ^ B → (p * (2 : Rat) ^ j < y ↔ below (p * (2 : Rat) ^ j)) ∧
    (p * (2 : Rat) ^ j = y ↔ hit (p * (2 : Rat) ^ j))

/-- A number of at most B bits is an integer or below 2^B. -/
theorem natCast_or_lt_of_bits {B p : Nat} (hp : p < 2 ^ B) (j : Int) :
    (∃ N : Nat, p * (2 : Rat) ^ j = N) ∨ p * (2 : Rat) ^ j < 2 ^ B := by
  rcases le_or_gt 0 j with hj | hj
  · refine .inl ⟨p * 2 ^ j.toNat, ?_⟩
    obtain ⟨n, rfl⟩ := Int.eq_ofNat_of_zero_le hj
    push_cast
    rfl
  · refine .inr (lt_of_le_of_lt (mul_le_of_le_one_right (Nat.cast_nonneg p) ?_) (by exact_mod_cast hp))
    exact zpow_le_one_of_nonpos₀ (by norm_num) hj.le

/-- An integer S in halves stands for an exact number from 2^B on that it is right about at every integer. -/
theorem StandsAs.of_integers {B S : Nat} {below hit : Rat → Prop} (hS : 2 * 2 ^ B ≤ S)
    (hsmall : ∀ t : Rat, 0 ≤ t → t < 2 ^ B → below t ∧ ¬ hit t)
    (hnat : ∀ N : Nat, (2 * N < S ↔ below N) ∧ (2 * N = S ↔ hit N)) : StandsAs B (S / 2) below hit := by
  intro p j hp
  have hnonneg : (0 : Rat) ≤ p * 2 ^ j := by positivity
  rcases natCast_or_lt_of_bits hp j with ⟨N, hN⟩ | hlt
  · obtain ⟨hbelow, hhit⟩ := hnat N
    rw [hN, ← hbelow, ← hhit, lt_div_iff₀ (by norm_num), eq_div_iff (by norm_num), mul_comm]
    norm_cast
  · obtain ⟨hbelow, hhit⟩ := hsmall _ hnonneg hlt
    have hy : (2 : Rat) ^ B ≤ S / 2 := by
      rw [le_div_iff₀ (by norm_num), mul_comm]
      exact_mod_cast hS
    exact ⟨iff_of_true (hlt.trans_le hy) hbelow, iff_of_false (hlt.trans_le hy).ne hhit⟩

section
variable {B : Nat} {y : Rat} {below hit : Rat → Prop} (h : StandsAs B y below hit)
include h

theorem StandsAs.congr {below' hit' : Rat → Prop} (hbelow : ∀ t, below t ↔ below' t) (hhit : ∀ t, hit t ↔ hit' t) :
    StandsAs B y below' hit' := fun p j hp => by
  obtain ⟨h1, h2⟩ := h p j hp
  exact ⟨h1.trans (hbelow _), h2.trans (hhit _)⟩

theorem StandsAs.scale (f : Int) :
    StandsAs B (y * 2 ^ f) (fun t => below (t / 2 ^ f)) fun t => hit (t / 2 ^ f) := fun p j hp => by
  have hf : (0 : Rat) < 2 ^ f := by positivity
  have hunit : p * (2 : Rat) ^ j / 2 ^ f = p * 2 ^ (j - f) := by rw [zpow_sub₀ (by norm_num), mul_div_assoc]
  dsimp only
  rw [← div_lt_iff₀ hf, ← div_eq_iff hf.ne', hunit]
  exact h p (j - f) hp

end

/-- A root of a number that stands for another one is a root of that one. -/
theorem StandsAs.root {A B C : Nat} {y z : Rat} {below hit : Rat → Prop} (hz : StandsAs C z below hit)
    (hy : StandsAs B y (· ^ 2 < z) (· ^ 2 = z)) (hB : A ≤ B) (hC : A * 2 ≤ C) :
    StandsAs A y (fun t => below (t ^ 2)) fun t => hit (t ^ 2) := fun p j hp => by
  have hsq : ((p : Rat) * 2 ^ j) ^ 2 = (p ^ 2 : Nat) * 2 ^ (j * 2) := by
    rw [mul_pow, ← zpow_natCast ((2 : Rat) ^ j), ← zpow_mul]
    push_cast
    rfl
  have hp2 : p ^ 2 < 2 ^ C :=
    (Nat.pow_lt_pow_left hp (by decide)).trans_le (by rw [← Nat.pow_mul]; exact Nat.pow_le_pow_right (by decide) hC)
  obtain ⟨hlt, heq⟩ := hy p j (hp.trans_le (Nat.pow_le_pow_right (by decide) hB))
  obtain ⟨hlt', heq'⟩ := hz (p ^ 2) (j * 2) hp2
  dsimp only at hlt heq ⊢
  rw [hsq] at hlt heq ⊢
  exact ⟨hlt.trans hlt', heq.trans heq'⟩

/-! ### Quotients (R120) -/

/-- The integer part of a / n in halves, with a sticky lowest bit. -/
def stickyQuot (a n : Nat) : Nat := 2 * (a / n) + (if a % n == 0 then 0 else 1)

/-- An integer N against a / n. -/
theorem stickyQuot_nat {n : Nat} (hn : 0 < n) (a N : Nat) :
    (2 * N < stickyQuot a n ↔ (N : Rat) < a / n) ∧ (2 * N = stickyQuot a n ↔ (N : Rat) = a / n) := by
  have hn' : (0 : Rat) < n := by exact_mod_cast hn
  have hdm := Nat.div_add_mod a n
  have hmod := Nat.mod_lt a hn
  rw [lt_div_iff₀ hn', eq_div_iff hn'.ne']
  norm_cast
  rw [Nat.mul_comm N, stickyQuot]
  simp only [beq_iff_eq]
  generalize a % n = r at *
  generalize a / n = q at *
  rcases lt_trichotomy N q with h | rfl | h
  · have hle : n * (N + 1) ≤ n * q := Nat.mul_le_mul_left n h
    rw [Nat.mul_add, Nat.mul_one] at hle
    split <;> omega
  · split <;> omega
  · have hle : n * (q + 1) ≤ n * N := Nat.mul_le_mul_left n h
    rw [Nat.mul_add, Nat.mul_one] at hle
    split <;> omega

/-- m / n in units of 2^-k, k so great that the quotient has 64 bits or more. -/
theorem stickyQuot_stands {m n k : Nat} (hm : m ≠ 0) (hn : 0 < n) (hk : 64 + n.log2 ≤ k) :
    StandsAs 63 (stickyQuot (m * 2 ^ k) n / 2) (· < (m * 2 ^ k : Nat) / (n : Rat)) (· = (m * 2 ^ k : Nat) / (n : Rat)) := by
  have hbig : 2 ^ 63 * n ≤ m * 2 ^ k :=
    calc 2 ^ 63 * n ≤ 2 ^ 63 * 2 ^ (n.log2 + 1) := Nat.mul_le_mul_left _ Nat.lt_log2_self.le
      _ = 2 ^ (64 + n.log2) := by rw [← Nat.pow_add]; congr 1; omega
      _ ≤ 1 * 2 ^ k := by rw [Nat.one_mul]; exact Nat.pow_le_pow_right (by decide) hk
      _ ≤ m * 2 ^ k := Nat.mul_le_mul_right _ (Nat.pos_of_ne_zero hm)
  have hquot : (2 : Rat) ^ 63 ≤ (m * 2 ^ k : Nat) / (n : Rat) := by
    rw [le_div_iff₀ (by exact_mod_cast hn)]
    exact_mod_cast hbig
  refine StandsAs.of_integers ?_ (fun t _ ht => ⟨ht.trans_le hquot, (ht.trans_le hquot).ne⟩) (stickyQuot_nat hn _)
  have := (Nat.le_div_iff_mul_le hn).mpr hbig
  rw [stickyQuot]
  omega

/-- m / n × 2^e with a sticky lowest bit. -/
theorem stickyQuot_stands_scaled {m n k : Nat} (hm : m ≠ 0) (hn : n ≠ 0) (hk : 64 + n.log2 ≤ k) (e : Int) :
    StandsAs 63 (stickyQuot (m * 2 ^ k) n * 2 ^ (e - k - 1)) (· < m / n * (2 : Rat) ^ e) (· = m / n * (2 : Rat) ^ e) := by
  have hn' : (n : Rat) ≠ 0 := by exact_mod_cast hn
  have hhalf : (stickyQuot (m * 2 ^ k) n : Rat) * 2 ^ (e - k - 1) = stickyQuot (m * 2 ^ k) n / 2 * 2 ^ (e - k) := by
    rw [zpow_sub_one₀ (by norm_num)]
    ring
  have hexact : (m : Rat) / n * 2 ^ e = (m * 2 ^ k : Nat) / n * 2 ^ (e - k) := by
    rw [zpow_sub₀ (by norm_num), zpow_natCast]
    push_cast
    field_simp
  have hunit : (0 : Rat) < 2 ^ (e - k) := by positivity
  rw [hhalf, hexact]
  exact ((stickyQuot_stands hm (Nat.pos_of_ne_zero hn) hk).scale (e - k)).congr (fun t => div_lt_iff₀ hunit) fun t =>
    div_eq_iff hunit.ne'

/-- The sign of a value. -/
def sgn (neg : Bool) : Rat := if neg then -1 else 1

theorem Num.toRat_fin (neg : Bool) (m : Nat) (e : Int) : Num.toRat (.fin neg m e) = some (sgn neg * (m * (2 : Rat) ^ e)) := by
  rw [Num.toRat, mul_assoc, sgn]

theorem Num.fin_of_toRat {a : Num} {u : Rat} (h : a.toRat = some u) :
    ∃ neg m e, a = .fin neg m e ∧ u = sgn neg * (m * (2 : Rat) ^ e) := by
  cases a with
  | fin neg m e => exact ⟨neg, m, e, rfl, (Option.some.inj ((Num.toRat_fin neg m e).symm.trans h)).symm⟩
  | _ => cases h

theorem sgn_mul_pos_iff (neg : Bool) {v : Rat} (hv : 0 ≤ v) : 0 < sgn neg * v ↔ neg = false ∧ 0 < v := by
  cases neg <;> simp [sgn, hv]

theorem abs_sgn_mul (neg : Bool) {v : Rat} (hv : 0 ≤ v) : |sgn neg * v| = v := by
  cases neg <;> simp [sgn, abs_of_nonneg hv]

theorem sgn_mul_div (s t : Bool) (v w : Rat) : sgn s * v / (sgn t * w) = sgn (s != t) * (v / w) := by
  cases s <;> cases t <;> simp [sgn, neg_div, div_neg]

/-- A quotient's value stands for the exact quotient. -/
theorem quotNum_stands (neg : Bool) (m : Nat) {n : Nat} (hn : n ≠ 0) (e : Int) :
    ∃ y, 0 ≤ y ∧ (quotNum neg m n e).toRat = some (sgn neg * y) ∧
      StandsAs 63 y (· < m / n * (2 : Rat) ^ e) (· = m / n * (2 : Rat) ^ e) := by
  obtain ⟨k, hk⟩ : ∃ k, k = 64 + n.log2 := ⟨_, rfl⟩
  refine ⟨stickyQuot (m * 2 ^ k) n * 2 ^ (e - k - 1), by positivity, ?_, ?_⟩
  · rw [quotNum, ← hk]
    exact Num.toRat_fin _ _ _
  · rcases Nat.eq_zero_or_pos m with rfl | hm
    · intro p j _
      simp [stickyQuot]
    · exact stickyQuot_stands_scaled hm.ne' hn hk.ge e

/-- A finite quotient by its sign and by the numbers of few bits (R120). -/
theorem Num.div_stands {a b : Num} {u w : Rat} (ha : a.toRat = some u) (hb : b.toRat = some w) (hw : w ≠ 0) :
    ∃ v y, Num.div a b = some v ∧ v.toRat = some y ∧ (0 < y ↔ 0 < u / w) ∧ StandsAs 63 |y| (· < |u / w|) (· = |u / w|) := by
  obtain ⟨s, m, e, rfl, rfl⟩ := Num.fin_of_toRat ha
  obtain ⟨t, n, f, rfl, rfl⟩ := Num.fin_of_toRat hb
  have hn : n ≠ 0 := by
    rintro rfl
    simp at hw
  have hquot : sgn s * (m * (2 : Rat) ^ e) / (sgn t * (n * 2 ^ f)) = sgn (s != t) * (m / n * 2 ^ (e - f)) := by
    rw [sgn_mul_div, zpow_sub₀ (by norm_num), mul_div_mul_comm]
  obtain ⟨y, hy, hval, hstands⟩ := quotNum_stands (s != t) m hn (e - f)
  have hexact : (0 : Rat) ≤ m / n * 2 ^ (e - f) := by positivity
  refine ⟨_, _, by simp [Num.div, hn], hval, ?_, ?_⟩
  · have hpos := (hstands 0 0 (by decide)).1
    simp only [Nat.cast_zero, zero_mul] at hpos
    rw [hquot, sgn_mul_pos_iff _ hy, sgn_mul_pos_iff _ hexact, hpos]
  · rw [hquot, abs_sgn_mul _ hy, abs_sgn_mul _ hexact]
    exact hstands

theorem Num.rcp_stands {a : Num} {u : Rat} (ha : a.toRat = some u) (hu : u ≠ 0) :
    ∃ v y, Num.rcp a = some v ∧ v.toRat = some y ∧ (0 < y ↔ 0 < u) ∧ StandsAs 63 |y| (· * |u| < 1) (· * |u| = 1) := by
  have hone : Num.toRat (.fin false 1 0) = some 1 := by simp [Num.toRat]
  have habs : 0 < |u| := abs_pos.mpr hu
  obtain ⟨v, y, hv, hy, hpos, h⟩ := Num.div_stands hone ha hu
  rw [abs_div, abs_one] at h
  exact ⟨v, y, hv, hy, hpos.trans one_div_pos, h.congr (fun t => lt_div_iff₀ habs) fun t => eq_div_iff habs.ne'⟩

/-! ### Square roots (R120) -/

/-- The integer square root, from a root r known up to the b low bits. -/
theorem isqrt_spec {n : Nat} (b : Nat) {r : Nat} (hle : r * r ≤ n) (hlt : n < (r + 2 ^ b) * (r + 2 ^ b)) :
    isqrt n b r * isqrt n b r ≤ n ∧ n < (isqrt n b r + 1) * (isqrt n b r + 1) := by
  induction b generalizing r with
  | zero => exact ⟨hle, hlt⟩
  | succ b ih =>
    rw [isqrt]
    split
    · next h => exact ih h (by rwa [Nat.pow_succ, Nat.mul_two, ← Nat.add_assoc] at hlt)
    · next h => exact ih hle (Nat.lt_of_not_le h)

theorem isqrt_of_zero (n : Nat) : let r := isqrt n ((n.log2 + 2) / 2) 0; r * r ≤ n ∧ n < (r + 1) * (r + 1) := by
  refine isqrt_spec _ (Nat.zero_le n) ?_
  rw [Nat.zero_add, ← Nat.pow_add]
  exact Nat.lt_log2_self.trans_le (Nat.pow_le_pow_right (by decide) (by omega))

/-- The integer root of n in halves, with a sticky lowest bit. -/
def stickyRoot (n : Nat) : Nat :=
  let r := isqrt n ((n.log2 + 2) / 2) 0
  2 * r + (if r * r == n then 0 else 1)

/-- An integer N against the root of n. -/
theorem stickyRoot_nat (n N : Nat) : (2 * N < stickyRoot n ↔ N * N < n) ∧ (2 * N = stickyRoot n ↔ N * N = n) := by
  obtain ⟨hle, hlt⟩ := isqrt_of_zero n
  unfold stickyRoot
  generalize isqrt n ((n.log2 + 2) / 2) 0 = r at *
  simp only [beq_iff_eq]
  rcases lt_trichotomy N r with h | rfl | h
  · have := Nat.mul_self_lt_mul_self h
    split <;> omega
  · split <;> omega
  · have := Nat.mul_self_le_mul_self (show r + 1 ≤ N from h)
    split <;> omega

theorem stickyRoot_stands {n : Nat} (hn : 2 ^ 128 ≤ n) :
    StandsAs 64 (stickyRoot n / 2) (· ^ 2 < (n : Rat)) (· ^ 2 = (n : Rat)) := by
  have hroot : 2 * 2 ^ 64 ≤ stickyRoot n := by
    obtain ⟨-, hlt⟩ := isqrt_of_zero n
    have : 2 ^ 64 < isqrt n ((n.log2 + 2) / 2) 0 + 1 := Nat.mul_self_lt_mul_self_iff.mp (lt_of_le_of_lt hn hlt)
    unfold stickyRoot
    dsimp only
    omega
  have hn' : ((2 : Rat) ^ 64) ^ 2 ≤ n := by
    rw [← pow_mul]
    exact_mod_cast hn
  refine StandsAs.of_integers hroot (fun t h0 ht => ?_) fun N => ?_
  · have hsq : t ^ 2 < n := (pow_lt_pow_left₀ ht h0 (by decide)).trans_le hn'
    exact ⟨hsq, hsq.ne⟩
  · obtain ⟨hlt, heq⟩ := stickyRoot_nat n N
    rw [hlt, heq, sq]
    norm_cast

/-- A root's value stands for the exact root. -/
theorem sqrtNum_stands {m : Nat} (hm : m ≠ 0) (e : Int) :
    ∃ y, 0 < y ∧ (sqrtNum m e).toRat = some y ∧ StandsAs 64 y (· ^ 2 < m * (2 : Rat) ^ e) (· ^ 2 = m * (2 : Rat) ^ e) := by
  obtain ⟨n, hn⟩ : ∃ n, n = (if e % 2 != 0 then 2 * m else m) * 2 ^ 128 := ⟨_, rfl⟩
  obtain ⟨f, hf⟩ : ∃ f, f = (if e % 2 != 0 then e - 1 else e) / 2 := ⟨_, rfl⟩
  have hbig : 2 ^ 128 ≤ n := by
    rw [hn]
    exact Nat.le_mul_of_pos_left _ (by split <;> omega)
  have hexact : (m : Rat) * 2 ^ e = n * ((2 : Rat) ^ (f - 64)) ^ 2 := by
    rw [← zpow_natCast, ← zpow_mul, hn]
    rcases Int.emod_two_eq_zero_or_one e with he | he
    · have hexp : (f - 64) * (2 : Nat) = e - 128 := by simp [he] at hf; omega
      rw [hexp, zpow_sub₀ (by norm_num), if_neg (by simp [he])]
      push_cast
      ring
    · have hexp : (f - 64) * (2 : Nat) = e - 1 - 128 := by simp [he] at hf; omega
      rw [hexp, zpow_sub₀ (by norm_num), zpow_sub_one₀ (by norm_num), if_pos (by simp [he])]
      push_cast
      norm_num
      ring
  have hstands := (stickyRoot_stands hbig).scale (f - 64)
  have hval : (stickyRoot n : Rat) / 2 * 2 ^ (f - 64) = stickyRoot n * 2 ^ (f - 64 - 1) := by
    rw [zpow_sub_one₀ (by norm_num)]
    ring
  have hunit : (0 : Rat) < (2 ^ (f - 64)) ^ 2 := by positivity
  have hpos : 0 < stickyRoot n := by
    have := (stickyRoot_nat n 0).1.mpr (lt_of_lt_of_le (by decide) hbig)
    omega
  have hpos' : (0 : Rat) < stickyRoot n := by exact_mod_cast hpos
  refine ⟨stickyRoot n * 2 ^ (f - 64 - 1), by positivity, ?_, ?_⟩
  · rw [sqrtNum, ← hn, ← hf]
    exact (Num.toRat_fin _ _ _).trans (by rw [sgn, if_neg Bool.false_ne_true, one_mul]; rfl)
  · rw [← hval, hexact]
    exact hstands.congr (fun t => by rw [div_pow, div_lt_iff₀ hunit]) fun t => by rw [div_pow, div_eq_iff hunit.ne']

theorem Num.fin_of_pos {a : Num} {u : Rat} (ha : a.toRat = some u) (hu : 0 < u) :
    ∃ m e, m ≠ 0 ∧ a = .fin false m e ∧ u = m * (2 : Rat) ^ e := by
  obtain ⟨neg, m, e, rfl, rfl⟩ := Num.fin_of_toRat ha
  obtain ⟨rfl, hpos⟩ := (sgn_mul_pos_iff neg (by positivity)).mp hu
  refine ⟨m, e, ?_, rfl, one_mul _⟩
  rintro rfl
  simp at hpos

theorem Num.sqrt_stands {a : Num} {u : Rat} (ha : a.toRat = some u) (hu : 0 < u) :
    ∃ v y, Num.sqrt a = some v ∧ v.toRat = some y ∧ 0 < y ∧ StandsAs 64 y (· ^ 2 < u) (· ^ 2 = u) := by
  obtain ⟨m, e, hm, rfl, rfl⟩ := Num.fin_of_pos ha hu
  obtain ⟨y, hy, hval, hstands⟩ := sqrtNum_stands hm e
  exact ⟨_, y, by simp [Num.sqrt, hm], hval, hy, hstands⟩

/-- An inverse root is the root of a quotient, which has bits enough for squares of numbers of 26 bits. -/
theorem Num.rsq_stands {a : Num} {u : Rat} (ha : a.toRat = some u) (hu : 0 < u) :
    ∃ v y, Num.rsq a = some v ∧ v.toRat = some y ∧ 0 < y ∧ StandsAs 26 y (· ^ 2 * u < 1) (· ^ 2 * u = 1) := by
  obtain ⟨m, e, hm, rfl, rfl⟩ := Num.fin_of_pos ha hu
  obtain ⟨k, hk⟩ : ∃ k, k = 256 + m.log2 := ⟨_, rfl⟩
  have hinv : (1 : Nat) / (m : Rat) * 2 ^ (-e) = 1 / (m * 2 ^ e) := by
    rw [zpow_neg, Nat.cast_one, ← div_eq_mul_inv, div_div]
  have hquot := stickyQuot_stands_scaled (k := k) Nat.one_ne_zero hm (by omega) (-e)
  rw [hinv] at hquot
  have hM : stickyQuot (1 * 2 ^ k) m ≠ 0 := by
    have h0 := (hquot 0 0 (by decide)).1
    intro hzero
    rw [hzero] at h0
    simp only [Nat.cast_zero, zero_mul, lt_irrefl, false_iff] at h0
    exact h0 (one_div_pos.mpr hu)
  obtain ⟨y, hy, hval, hroot⟩ := sqrtNum_stands hM (-e - k - 1)
  refine ⟨_, y, ?_, hval, hy, (hquot.root hroot (by decide) (by decide)).congr (fun t => lt_div_iff₀ hu) fun t =>
    eq_div_iff hu.ne'⟩
  simp only [Num.rsq, beq_iff_eq, hm, if_false, Bool.false_eq_true, ← hk, stickyQuot, Nat.one_mul]

/-! ### Fixed point at special operands (R120) -/

theorem scale_zero (k : Int) : scale 0 k = 0 := by
  simp [scale]

theorem scale_fixBits (n : Nat) : scale n (0 + fixBits) = n * fixOne := by
  rw [Int.zero_add, scale, if_pos (Int.natCast_nonneg _), Int.toNat_natCast, fixOne]

/-- A quarter turn in fixed point. -/
def quarterTurn : Nat := 2 ^ (fixBits - 2)

theorem fixOne_eq : fixOne = 4 * quarterTurn := by
  have hbits : 2 ≤ fixBits := by decide
  rw [fixOne, quarterTurn, ← pow_mul_pow_sub 2 hbits, show 2 ^ 2 = 4 from rfl]

theorem scale_quarters (n : Nat) : scale n (-2 + fixBits) = n * quarterTurn := by
  have hbits : (-2 + (fixBits : Int)) = (fixBits - 2 : Nat) := rfl
  rw [hbits, scale, if_pos (Int.natCast_nonneg _), Int.toNat_natCast, quarterTurn]

/-- The angle, in fixed point, that FSIN and FCOS take the sine of. -/
def turnAngle (c : Nat) (s : Bool) (m : Nat) (e : Int) : Nat :=
  let f := scale m (e + fixBits) % fixOne
  ((if s then (fixOne - f) % fixOne else f) + c * (fixOne / 4)) % fixOne

/-- Its sine. -/
def sineAt (c : Nat) (s : Bool) (r : Nat) : Num :=
  if r == 0 || r == fixOne / 2 then .fin (c == 0 && s) 0 0
  else if r == fixOne / 4 then .fin false 1 0
  else if r == 3 * (fixOne / 4) then .fin true 1 0
  else
    let v := sinUnit r
    .fin v.1 (2 * v.2 + 1) (-(fixBits : Int) - 1)

theorem turnNum_eq (c : Nat) (s : Bool) (m : Nat) (e : Int) : turnNum c s m e = sineAt c s (turnAngle c s m e) := rfl

theorem turnAngle_zero (s : Bool) (e : Int) : turnAngle 0 s 0 e = 0 := by
  cases s <;> simp [turnAngle, scale_zero]

/-- The angle of n quarter turns. -/
theorem turnAngle_quarters (c : Nat) (s : Bool) (n : Nat) :
    turnAngle c s n (-2) = ((if s then 4 - n % 4 else n % 4) + c) % 4 * quarterTurn := by
  rw [turnAngle, fixOne_eq, scale_quarters, Nat.mul_div_cancel_left _ (by decide), Nat.mul_mod_mul_right, ← Nat.sub_mul,
    Nat.mul_mod_mul_right]
  cases s <;> simp only [if_true, Bool.false_eq_true, if_false, ← Nat.add_mul, Nat.mul_mod_mul_right, Nat.mod_add_mod]

/-- Its sine is 0 after whole and half turns, 1 after a quarter, -1 after three. -/
theorem sineAt_quarters (c : Nat) (s : Bool) {k : Nat} (hk : k < 4) :
    sineAt c s (k * quarterTurn) = if k % 2 = 0 then .fin (c == 0 && s) 0 0 else .fin (k == 3) 1 0 := by
  have hpos : 0 < quarterTurn := Nat.two_pow_pos _
  rw [sineAt, fixOne_eq, Nat.mul_div_cancel_left _ (by decide), show 4 * quarterTurn / 2 = 2 * quarterTurn by omega]
  have hcancel : ∀ j, (k * quarterTurn == j * quarterTurn) = (k == j) := fun j => by
    rw [Bool.beq_eq_decide_eq, Bool.beq_eq_decide_eq]
    exact decide_eq_decide.mpr (Nat.mul_left_inj hpos.ne')
  have h0 := hcancel 0
  have h1 := hcancel 1
  rw [Nat.zero_mul] at h0
  rw [Nat.one_mul] at h1
  rw [h0, h1, hcancel 2, hcancel 3]
  interval_cases k <;> rfl

theorem turnNum_quarters (c : Nat) (s : Bool) (n : Nat) : turnNum c s n (-2) =
    let k := ((if s then 4 - n % 4 else n % 4) + c) % 4
    if k % 2 = 0 then .fin (c == 0 && s) 0 0 else .fin (k == 3) 1 0 := by
  rw [turnNum_eq, turnAngle_quarters, sineAt_quarters _ _ (Nat.mod_lt _ (by decide))]

theorem Num.sin_quarters (t : Bool) (n : Nat) :
    Num.turn 0 (.fin t n (-2)) = some (if n % 2 = 0 then .fin t 0 0 else .fin ((n % 4 == 3) != t) 1 0) := by
  have hr := Nat.mod_lt n (show 0 < 4 by decide)
  rw [Num.turn, turnNum_quarters, ← Nat.mod_mod_of_dvd n (show 2 ∣ 4 by decide)]
  generalize n % 4 = r at *
  interval_cases r <;> cases t <;> rfl

theorem Num.cos_quarters (t : Bool) (n : Nat) :
    Num.turn 1 (.fin t n (-2)) = some (if n % 2 = 0 then .fin (n % 4 == 2) 1 0 else .fin false 0 0) := by
  have hr := Nat.mod_lt n (show 0 < 4 by decide)
  rw [Num.turn, turnNum_quarters, ← Nat.mod_mod_of_dvd n (show 2 ∣ 4 by decide)]
  generalize n % 4 = r at *
  interval_cases r <;> cases t <;> rfl

/-- 2 to an integer. -/
theorem Num.exp2_integer (t : Bool) {n : Nat} (hn : n < 512) :
    Num.exp2 (.fin t n 0) = some (.fin false 1 (if t then -n else n)) := by
  by_cases h0 : n = 0
  · subst h0
    cases t <;> rfl
  have hlog : n.log2 < 9 := (Nat.log2_lt h0).mpr hn
  have hone : (fixOne : Int) ≠ 0 := by exact_mod_cast (Nat.two_pow_pos fixBits).ne'
  have hx : (if t then -1 else 1) * ((n * fixOne : Nat) : Int) = (if t then -(n : Int) else n) * fixOne := by
    cases t <;> simp
  simp only [Num.exp2, beq_iff_eq, h0, if_false, scale_fixBits]
  rw [if_neg (by omega), hx, Int.mul_fmod_left, Int.mul_fdiv_cancel _ hone]
  rfl

/-- The logarithm of a power of two. -/
theorem Num.log2f_two_pow (k : Nat) (e : Int) :
    Num.log2f (.fin false (2 ^ k) e) = some (.fin (decide (k + e < 0)) (k + e).natAbs 0) := by
  simp [Num.log2f, Nat.log2_two_pow]

/-- R120's table of special operands. -/
theorem special_operands (t u : Bool) {m : Nat} (e f : Int) (hm : m ≠ 0) :
    Num.rcp (.fin t 0 e) = some (.inf t) ∧ (Num.rcp (.inf t)).map Num.isZero = some true ∧
    Num.div (.fin t 0 e) (.fin u 0 f) = none ∧ Num.div (.inf t) (.inf u) = none ∧
    Num.div (.fin t m e) (.fin u 0 f) = some (.inf (t != u)) ∧
    Num.sqrt (.fin true m e) = none ∧ Num.sqrt (.inf true) = none ∧ Num.sqrt (.fin t 0 e) = some (.fin t 0 0) ∧
    Num.rsq (.fin true m e) = none ∧ Num.rsq (.fin t 0 e) = some (.inf t) ∧ Num.rsq (.inf false) = some (.fin false 0 0) ∧
    Num.log2f (.fin true m e) = none ∧ Num.log2f (.fin t 0 e) = some (.inf true) ∧ Num.log2f (.inf true) = none ∧
    Num.exp2 (.inf true) = some (.fin false 0 0) ∧ Num.exp2 (.inf false) = some (.inf false) ∧
    Num.turn 0 (.inf t) = none ∧ Num.turn 1 (.inf t) = none ∧ Num.turn 0 (.fin t 0 e) = some (.fin t 0 0) ∧
    Num.tanh (.inf t) = some (.fin t 1 0) ∧ Num.tanh (.fin t 0 e) = some (.fin t 0 0) := by
  have hm0 : (m == 0) = false := beq_eq_false_iff_ne.mpr hm
  refine ⟨?rcp, rfl, rfl, rfl, ?div, ?sqrt, rfl, rfl, ?rsq, rfl, rfl, ?log, rfl, rfl, rfl, rfl, rfl, rfl, ?turn, rfl, rfl⟩
  case rcp => cases t <;> rfl
  case turn => rw [Num.turn, turnNum_eq, turnAngle_zero]; rfl
  all_goals simp [Num.div, Num.sqrt, Num.rsq, Num.log2f, hm0]

/-! ### The obligation -/

/-- Settles O10: the instructions as exact values, quotients and roots by the numbers that they stand to. -/
theorem floatFunctions : Obligations.FloatFunctions := by
  unfold Obligations.FloatFunctions
  refine ⟨fun h fm ty d a b s x => ?elements, fun t u m e f hm => special_operands t u e f hm, fun a b u w p j ha hb hp => ?exact,
    fun t n k e => ⟨Num.exp2_integer t, Num.log2f_two_pow k e, Num.sin_quarters t n, Num.cos_quarters t n⟩⟩
  case elements =>
    exact ⟨fun hr hV => hr.elementwise rfl (hr.fp_elementwise hV), fun hr hV => hr.elementwise rfl (hr.fp_elementwise hV),
      fun hr hV => hr.elementwise rfl (hr.fp_elementwise hV), fun hr hV => hr.elementwise rfl (hr.fp_elementwise hV),
      fun hr hV => hr.elementwise rfl (hr.fp_elementwise hV), fun hr hV => hr.elementwise rfl (hr.fp_elementwise hV),
      fun hr hV => hr.elementwise rfl (hr.fp_elementwise hV), fun hr hV => hr.elementwise rfl (hr.fp_elementwise hV),
      fun hr hV => hr.elementwise rfl (hr.fp_elementwise hV)⟩
  case exact =>
    have bits {B : Nat} (hB : 26 ≤ B) : p < 2 ^ B := hp.trans_le (Nat.pow_le_pow_right (by decide) hB)
    refine ⟨fun hw => ?div, fun hu => ?rcp, fun hu => ?sqrt, fun hu => ?rsq⟩
    case div =>
      obtain ⟨v, y, hv, hy, hpos, h⟩ := Num.div_stands ha hb hw
      exact ⟨v, y, hv, hy, hpos, h p j (bits (by decide))⟩
    case rcp =>
      obtain ⟨v, y, hv, hy, hpos, h⟩ := Num.rcp_stands ha hu
      exact ⟨v, y, hv, hy, hpos, h p j (bits (by decide))⟩
    case sqrt =>
      obtain ⟨v, y, hv, hy, hpos, h⟩ := Num.sqrt_stands ha hu
      exact ⟨v, y, hv, hy, hpos, h p j (bits (by decide))⟩
    case rsq =>
      obtain ⟨v, y, hv, hy, hpos, h⟩ := Num.rsq_stands ha hu
      exact ⟨v, y, hv, hy, hpos, h p j (bits (by decide))⟩

end Sys2Proof.Machine

/-! ## IF below the floor of the mask stack (R133) -/

namespace Sys2Proof.Machine

/-- The first gang of reeve 0 as at reset, but that its frame's floor is 1 and its mask stack empty. -/
def sunkGang : Gang :=
  { Gang.firmware 0 0 8 0 0 4 256 0 with body := { Body.start 8 4 0 with frames := [{ Frame.launch 4 with msb := 1 }] } }

def sunk : State := State.reset.modGang (.reeve 0) 0 fun _ => sunkGang

/-- IF of a condition that holds in every lane. -/
def sunkInstr : Instr := .ifI plainHdr true .z 4

/-- That IF in execution there. -/
def sunkIf : Ex where
  s := sunk
  ag := ⟨.reeve 0, 0, 0⟩
  g := sunkGang
  b := sunkGang.body
  fi := 0
  fl := .start 8 0
  i := sunkInstr
  n := .gang plainHdr true [(.z, .src 1)]
  set := upTo 8
  src := [[zeroLanes 8]]
  pops := []
  full := []

theorem sunkIf_ready : Ready sunkInstr sunk sunkIf where
  wf := rfl
  agent := ⟨_, rfl⟩
  info := rfl
  state := rfl
  ag := rfl
  instr := rfl
  body := rfl
  flow := rfl
  decode := rfl
  awake := by decide
  joined := by decide
  storage := rfl
  guardThere := rfl
  guardClean := by decide
  slot := rfl
  sources := rfl
  room := rfl
  set := by decide
  src := rfl
  pops := rfl
  full := rfl
  quiet := nofun

/-- Whether the first gang of reeve 0 is in a handler after an outcome. -/
def inHandlerAfter : Res → Option Bool
  | .next t => (t.gang? (.reeve 0) 0).map fun g => g.hand.isSome
  | _ => none

/-- The mask stack ends below the floor: UNMATCHED_CONTROL. -/
theorem sunkIf_traps : inHandlerAfter (exec sunkInstr sunk) = some true := by decide +kernel

/-- Had the IF completed, the gang would be in no handler. -/
theorem sunkIf_flown (pc : Dword) : inHandlerAfter (.next (sunkIf.flown sunk pc fun f =>
    { f with xm := 0xFF, stack := sunkIf.fl.xm :: f.stack })) = some false := by
  rfl

/-- Refutes O18: its clause on IF asks only for room above the mask stack, not that the stack reaches the floor. Where the frame's
floor stands above the stack, the model's IF traps with UNMATCHED_CONTROL, though it reaches no entry of the stack (R133). -/
theorem not_maskedControl : ¬ Obligations.MaskedControl := by
  rintro ⟨hmask, -⟩
  obtain ⟨hif, -⟩ := hmask plainHdr true .z 4 sunk sunkIf 0xFF
  have hexec := hif sunkIf_ready (by decide) (by decide) (by decide)
  have hhand := sunkIf_traps.symm.trans ((congrArg inHandlerAfter hexec).trans (sunkIf_flown _))
  exact absurd hhand (by decide)

end Sys2Proof.Machine

/-! ## A trailing MMQ of an interrupted gang (R356) -/

namespace Sys2Proof.Machine

/-- An MMQ at PC 0 that no other instruction of its gang follows. -/
def trailingMmq : Trail := ⟨0, 1, 0, []⟩

/-- The first gang of reeve 0 interrupted behind that MMQ, in its handler. -/
def interrupted : State :=
  (State.reset.modGang (.reeve 0) 0 fun g => { g with body := { g.body with trail := [trailingMmq] } }).takeTrap
    (.reeve 0) 0 0 .softwareTrap 0 8 0

/-- The trailing MMQs of what that gang interrupted. -/
def bodyTrail (s : State) : Option (List Trail) := (s.gang? (.reeve 0) 0).map fun g => g.body.trail

theorem interrupted_settled : bodyTrail (interrupted.modGang (.reeve 0) 0 Gang.settleTrail) = some [] := by decide +kernel

/-- The handler's own trail is another one. -/
theorem interrupted_settled_handler :
    bodyTrail (interrupted.modGang (.reeve 0) 0 fun g => g.modAct fun b => { b with trail := [] }) = some [trailingMmq] := by
  decide +kernel

/-- Refutes O36: it says that TRAP and BRK clear the trail of the body that issues only. In a handler they clear that of the
interrupted gang too. -/
theorem not_systemInstructions : ¬ Obligations.SystemInstructions := by
  rintro ⟨hsys, -⟩
  obtain ⟨-, -, hsettled, -⟩ := hsys plainHdr 0 interrupted rowlessMov
  have htrail := interrupted_settled.symm.trans ((congrArg bodyTrail hsettled).trans interrupted_settled_handler)
  exact absurd htrail (by decide)

end Sys2Proof.Machine

/-! ## Register queues (R146 to R149) -/

namespace Sys2Proof.Machine

/-! ### The class of an instruction (R41) -/

/-- The class of a long form is its field of word 0 (R32). -/
theorem Instr.cls_of_encode {i : Instr} {h : Hdr} {cls : BitVec 4} {idx : BitVec 6} {m : BitVec 4} {y : BitVec 5}
    {d a b c : BitVec 8} {kp : Bool} (he : encode i.core = encLong h cls idx m y d a b c kp) : i.cls = cls.toNat := by
  unfold Instr.cls
  rw [he]
  exact congrArg (fun r : Raw => r.cls.toNat) (Raw.ofWords_words ⟨cls, idx, m, y, kp, h.nw, h.gn, d, a, b, c, h.g.code, h.lit⟩)

section
variable {i : Instr} {s : State} {x : Ex} (hr : Ready i s x)
include hr

/-- An instruction that nothing stands in the way of, of no class that meets errors in registers alone, meets no error in a
stored value (R349). -/
theorem Ready.no_storedUe (hi : 6 ≤ i.cls) : ∀ p ∈ s.phys, ∀ l, p ≠ .storedUe l := by
  rintro p hp l rfl
  have := hr.quiet _ hp
  simp only [Ex.meets, hr.instr, Bool.not_eq_false', decide_eq_true_eq] at this
  omega

/-- A row that such an instruction reads by number is read as it stands. -/
theorem Ready.storedRead (hi : 6 ≤ i.cls) (row : Lanes) : x.storedRead row = (row, s) := by
  unfold Ex.storedRead
  rw [hr.state]
  exact State.poolRead_of_quiet (hr.no_storedUe hi) _ _ _

/-- An instruction without a guard and without a source of one register pops no queue. -/
theorem Ready.pops_nil (hg : x.n.h.g = .z) (hs : ∀ p ∈ x.n.sources i, p.2.span ≠ 1) : x.pops = [] := by
  have hnone : ((x.n.h.g, 1) :: (x.n.sources i).map fun p => (p.1, p.2.span)).filterMap (fun p => queueOf x.b p.1 p.2) = [] := by
    rw [List.filterMap_eq_nil_iff]
    intro p hp
    rcases List.mem_cons.mp hp with rfl | hp
    · rw [hg]
      rfl
    · obtain ⟨q, hq, rfl⟩ := List.mem_map.mp hp
      have := hs q hq
      unfold queueOf
      split
      · simp [this]
      · rfl
  rw [hr.pops, popsOf, hnone]
  rfl

/-- An instruction that takes no guard has none (R36). -/
theorem Ready.guard_z (h : x.n.guard = false) : x.n.h.g = .z := by
  have hw := hr.wf
  rw [Instr.wf, hr.info] at hw
  simp only [Info.hdrOk, h, Bool.false_or, Bool.and_eq_true, beq_iff_eq] at hw
  exact hw.1.1.1.1.1

end

/-! ### Rows of a sound body after writes -/

section
variable {b : Body} {w : Nat}

theorem Body.Sound.row_length (hs : b.Sound w) {q : Nat} (hq : q < 8 * b.frame.ngr) : (b.row q).length = w := by
  have hg := hs.there (q / 8) (by omega)
  obtain ⟨h8, hrow⟩ := hs.shape _ (List.getElem_mem hg)
  simp only [Body.row, Body.rowIn, Body.gran, List.getD_eq_getElem?_getD, List.getElem?_eq_getElem hg, Option.getD_some]
  rw [List.getElem?_eq_getElem (by omega)]
  exact hrow _ (List.getElem_mem _)

theorem Body.Sound.setRow (hs : b.Sound w) (r : Nat) {row : Lanes} (h : row.length = w) : (b.setRow r row).Sound w where
  framed := hs.framed
  there g hg := by
    rw [Body.setRow, modNth_length]
    exact hs.there g hg
  apart := hs.apart
  shape g hg := by
    obtain ⟨n, hn⟩ := List.mem_iff_getElem?.mp hg
    simp only [Body.setRow, modNth_getElem?] at hn
    split at hn
    · obtain ⟨g', hg', rfl⟩ := Option.map_eq_some_iff.mp hn
      obtain ⟨h8, hrow⟩ := hs.shape _ (List.mem_of_getElem? hg')
      refine ⟨by simp [setNth_eq_set, h8], fun y hy => ?_⟩
      rw [setNth_eq_set] at hy
      rcases List.mem_or_eq_of_mem_set hy with hy | rfl
      · exact hrow y hy
      · exact h
    · exact hs.shape _ (List.mem_of_getElem? hn)

end

/-! ### Pops (R147) -/

/-- The entries of a queue have registers of their own. -/
theorem QDef.entryReg_inj {d : QDef} {j e k : Nat} (hj : j < d.count) (h : d.entryReg j e = d.entryReg j k) : e = k := by
  unfold QDef.entryReg at h
  by_cases he : e = 0 <;> by_cases hk : k = 0 <;> simp [he, hk] at h <;> omega

/-- The registers of a queue after its entries from e to e + n have moved down one place and the last is cleared. -/
theorem Body.Sound.row_shiftQueue {w : Nat} {d : QDef} {j : Nat} (hj : j < d.count) (n : Nat) :
    ∀ {e : Nat} {b : Body}, b.Sound w → e + n < d.depth → d.base + d.count * d.depth ≤ 8 * b.frame.ngr →
    let c := shiftQueue d j n e b
    (∀ k, e ≤ k → k < e + n → c.row (d.entryReg j k) = b.row (d.entryReg j (k + 1))) ∧
    c.row (d.entryReg j (e + n)) = List.replicate w ⟨0, false⟩ ∧
    ∀ q < 8 * b.frame.ngr, (∀ k, e ≤ k → k ≤ e + n → q ≠ d.entryReg j k) → c.row q = b.row q := by
  have inside {k : Nat} {b : Body} (hk : k < d.depth) (hfit : d.base + d.count * d.depth ≤ 8 * b.frame.ngr) :
      d.entryReg j k < 8 * b.frame.ngr := lt_of_lt_of_le (QDef.entryReg_lt hj hk) hfit
  induction n with
  | zero =>
    intro e b hs hd hfit
    have he := inside (k := e) (by omega) hfit
    have hclear := fun {q : Nat} (hq : q < 8 * b.frame.ngr) => hs.row_setRow he hq ((b.row (d.entryReg j e)).map fun _ => ⟨0, false⟩)
    refine ⟨fun k h1 h2 => by omega, ?_, fun q hq hne => ?_⟩
    · refine (hclear he).trans ?_
      rw [if_pos rfl, List.map_const', hs.row_length he]
    · exact (hclear hq).trans (if_neg (hne e le_rfl le_rfl))
  | succ n ih =>
    intro e b hs hd hfit
    have he := inside (k := e) (by omega) hfit
    have hmove := fun {q : Nat} (hq : q < 8 * b.frame.ngr) => hs.row_setRow he hq (b.row (d.entryReg j (e + 1)))
    obtain ⟨hdown, hlast, hrest⟩ := ih (e := e + 1) (hs.setRow (d.entryReg j e) (hs.row_length (inside (k := e + 1) (by omega) hfit))) (by omega) hfit
    rw [show e + 1 + n = e + (n + 1) by omega] at hlast
    refine ⟨fun k h1 h2 => ?_, hlast, fun q hq hne => ?_⟩
    · by_cases hk : k = e
      · subst hk
        refine (hrest _ he fun m h3 h4 heq => ?_).trans ((hmove he).trans (if_pos rfl))
        have := QDef.entryReg_inj hj heq
        omega
      · refine (hdown k (by omega) (by omega)).trans ((hmove (inside (by omega) hfit)).trans (if_neg fun heq => ?_))
        have := QDef.entryReg_inj hj heq
        omega
    · exact (hrest q hq fun k h1 h2 => hne k (by omega) (by omega)).trans ((hmove hq).trans (if_neg (hne e le_rfl (by omega))))

theorem Body.pop_eq {b : Body} {second : Bool} {d : QDef} (h : b.frame.qdef second = some d) (j : Nat) : b.pop second j =
    (shiftQueue d j (d.occOf j - 1) 0 b).modFrame
      fun f => f.setQdef second (some { d with occ := d.occ.set j (d.occOf j - 1) }) := by
  simp only [Body.pop, h, setNth_eq_set]

theorem shiftQueue_parted (d : QDef) (j n e : Nat) (b : Body) : (shiftQueue d j n e b).parted = b.parted := by
  induction n generalizing e b with
  | zero => rfl
  | succ n ih => exact ih _ _

/-- A pop of a queue that has an entry (R147). -/
theorem Body.Sound.pop {b : Body} {w : Nat} {second : Bool} {j : Nat} {d : QDef} (hs : b.Sound w) (hq : b.frame.qdef second = some d)
    (hj : j < d.count) (h0 : 0 < d.occOf j) (hocc : d.occOf j ≤ d.depth)
    (hfit : d.base + d.count * d.depth ≤ 8 * b.frame.ngr) :
    let c := b.pop second j
    c.frames.drop 1 = b.frames.drop 1 ∧ c.flows = b.flows ∧ c.parted = b.parted ∧
    c.frame = b.frame.setQdef second (some { d with occ := d.occ.set j (d.occOf j - 1) }) ∧
    (∀ e, e + 1 < d.occOf j → c.row (d.entryReg j e) = b.row (d.entryReg j (e + 1))) ∧
    c.row (d.entryReg j (d.occOf j - 1)) = List.replicate w ⟨0, false⟩ ∧
    ∀ q < 8 * b.frame.ngr, (∀ e < d.occOf j, q ≠ d.entryReg j e) → c.row q = b.row q := by
  intro c
  obtain ⟨f, rest, hf⟩ : ∃ f rest, b.frames = f :: rest := List.exists_cons_of_ne_nil hs.framed
  have hc : c = _ := Body.pop_eq hq j
  have hframes : c.frames = f.setQdef second (some { d with occ := d.occ.set j (d.occOf j - 1) }) :: rest := by
    rw [hc, Body.modFrame, shiftQueue_frames, hf]
    rfl
  obtain ⟨hdown, hlast, hrest⟩ := hs.row_shiftQueue hj (d.occOf j - 1) (e := 0) (by omega) hfit
  rw [Nat.zero_add] at hlast
  have hrow (q : Nat) : c.row q = (shiftQueue d j (d.occOf j - 1) 0 b).row q := by
    rw [hc]
    exact Body.row_setQdef _ _ _ _
  refine ⟨by rw [hframes, hf]; rfl, b.pop_flows second j, by rw [hc]; exact shiftQueue_parted .., ?_, fun e he => ?_, ?_,
    fun q hq hne => ?_⟩
  · rw [Body.frame, Body.frame, hframes, hf]
    rfl
  · rw [hrow]
    exact hdown e (by omega) (by omega)
  · rw [hrow]
    exact hlast
  · rw [hrow]
    exact hrest q hq fun k _ hk => hne k (by omega)

/-! ### Definitions made and removed (R146, R149) -/

section
variable {h : Hdr} {s : State} {x : Ex} {r : Fin 240}

theorem Ready.qdef_defines {dm1 km1 : BitVec 3} (hr : Ready (.qdef h dm1 km1 (.v r)) s x) (hj : x.b.parted = false)
    (hfree : x.b.frame.qd0 = none ∨ x.b.frame.qd1 = none)
    (hmeet : x.b.frame.meetsQueue r.val (r.val + (km1.toNat + 1) * (dm1.toNat + 1)) = false)
    (hfit : r.val + (km1.toNat + 1) * (dm1.toNat + 1) ≤ 8 * x.b.frame.ngr) :
    exec (.qdef h dm1 km1 (.v r)) s = .next (s.modGang x.ag.core x.ag.slot fun g => (g.finish x x.next).modAct fun b =>
      (b.zeroRows x.w r.val ((km1.toNat + 1) * (dm1.toNat + 1))).modFrame fun f => f.setQdef f.qd0.isSome
        (some ⟨r.val, dm1.toNat + 1, km1.toNat + 1, List.replicate (km1.toNat + 1) 0⟩)) := by
  have hfree : (x.b.frame.qd0.isSome && x.b.frame.qd1.isSome) = false := by
    rcases hfree with h | h <;> simp [h]
  have hfit : ¬ 8 * x.b.frame.ngr < r.val + (km1.toNat + 1) * (dm1.toNat + 1) := by omega
  refine (issue_of_ready hr (Ex.qdef dm1 km1 (.v r))).trans ?_
  simp only [Ex.qdef, Ex.whole_of_joined hj, hfree, hmeet, hfit, decide_false, Bool.or_false, Bool.false_eq_true, if_false, firstOf,
    List.isEmpty_nil, if_true]
  rw [Ex.check_nil hr.full, hr.state]

theorem Ready.qclr_removes {second : Bool} {q : QDef} (hr : Ready (.qclr h (.v r)) s x) (hj : x.b.parted = false)
    (hq : x.b.frame.qdef second = some q) (hbase : q.base = r.val)
    (hother : second = true → ∀ q0, x.b.frame.qd0 = some q0 → q0.base ≠ r.val) :
    exec (.qclr h (.v r)) s = .next (s.modGang x.ag.core x.ag.slot fun g => (g.finish x x.next).modAct fun b =>
      (b.zeroRows x.w r.val (q.count * q.depth)).modFrame fun f => f.setQdef second none) := by
  refine (issue_of_ready hr (Ex.qclr (.v r))).trans ?_
  have hb : (q.base == r.val) = true := by simp [hbase]
  have hrest : Ex.qclr (.v r) x = x.check [] (.next (x.s.modGang x.ag.core x.ag.slot fun g => (g.finish x x.next).modAct fun b =>
      (b.zeroRows x.w r.val (q.count * q.depth)).modFrame fun f => f.setQdef second none)) := by
    unfold Ex.qclr
    generalize hn : r.val = n at hb hother ⊢
    generalize x.b.frame = f at hq hother ⊢
    dsimp only
    rw [hn]
    obtain ⟨rpc, hpc, ord, mid, mv, mmsd, msb, abase, ngr, qd0, qd1⟩ := f
    cases second with
    | false =>
      obtain rfl : qd0 = some q := hq
      simp only [hb, Bool.not_true, Frame.qdef, Bool.false_eq_true, if_false, if_true, Ex.whole_of_joined hj, firstOf,
        List.isEmpty_nil]
    | true =>
      obtain rfl : qd1 = some q := hq
      cases qd0 with
      | none =>
        simp only [hb, Bool.not_false, Frame.qdef, if_true, Ex.whole_of_joined hj, firstOf, List.isEmpty_nil]
      | some q0 =>
        have hb0 : (q0.base == n) = false := by simpa using hother rfl q0 rfl
        simp only [hb, hb0, Bool.not_false, Frame.qdef, if_true, Ex.whole_of_joined hj, firstOf, List.isEmpty_nil]
  rw [hrest, Ex.check_nil hr.full, hr.state]

end

/-! ### Queues read and written (R148, R149) -/

theorem Ex.named_eq {x : Ex} {a : Opnd} {second : Bool} {j : Nat} {q : QDef} (hn : queueOf x.popped a 1 = some (second, j))
    (hq : x.popped.frame.qdef second = some q) : x.named a = some (second, q, j, q.occOf j) := by
  simp only [Ex.named, hn, hq]

section
variable {h : Hdr} {s : State} {x : Ex} {e : BitVec 3} {d a : Opnd} {second : Bool} {j : Nat} {q : QDef}
  (hn : queueOf x.popped a 1 = some (second, j)) (hq : x.popped.frame.qdef second = some q)
include hn hq

theorem Ex.queueRaised_there (he : e.toNat < q.occOf j) : x.queueRaised a (some e.toNat) = [] := by
  simp [Ex.queueRaised, Ex.named_eq hn hq, he]

theorem Ex.entryReg_named : x.entryReg a e.toNat = q.entryReg j e.toNat := by
  simp only [Ex.entryReg, Ex.named_eq hn hq]

theorem Ready.qocc_counts (hr : Ready (.qocc h d a) s x) : exec (.qocc h d a) s =
    .next (x.written s x.inSet [List.replicate x.w ⟨BitVec.ofNat 32 (q.occOf j), false⟩]) := by
  refine (issue_of_ready hr (Ex.qocc a)).trans ?_
  simp only [Ex.qocc, Ex.queueRaised, Ex.named_eq hn hq]
  rw [Ex.check_nil hr.full, hr.state]
  rfl

theorem Ready.qrd_reads (hr : Ready (.qrd h e d a) s x) (he : e.toNat < q.occOf j) : exec (.qrd h e d a) s =
    .next (x.written s x.inSet [x.popped.row (q.entryReg j e.toNat)]) := by
  refine (issue_of_ready hr (Ex.qrd e a)).trans ?_
  simp only [Ex.qrd, Ex.queueRaised_there hn hq he, Ex.entryReg_named hn hq,
    hr.storedRead (Instr.cls_of_encode (i := .qrd h e d a) rfl).ge]
  exact Ex.check_nil hr.full _

theorem Ready.qwr_writes (hr : Ready (.qwr h e d a) s x) (he : e.toNat < q.occOf j) : exec (.qwr h e d a) s =
    .next (s.modGang x.ag.core x.ag.slot fun g => (g.finish x x.next).modAct fun b =>
      b.setRow (q.entryReg j e.toNat) ((b.row (q.entryReg j e.toNat)).mapIdx fun l y => if x.inSet l then x.lv 0 l else y)) := by
  refine (issue_of_ready hr (Ex.qwr e a)).trans ?_
  simp only [Ex.qwr, Ex.queueRaised_there hn hq he, Ex.entryReg_named hn hq]
  rw [Ex.check_nil hr.full, hr.state]

end

/-- Settles O22: the pop by the moves of its entries, the instructions by their checks. -/
theorem queues : Obligations.Queues :=
  ⟨fun _ _ _ _ _ hs hq hj _ h0 hocc hfit => hs.pop hq hj h0 hocc hfit,
    fun _ _ _ _ _ _ _ _ _ => ⟨Ready.qdef_defines, fun _ _ => Ready.qclr_removes, fun _ _ _ hn hq =>
      ⟨Ready.qocc_counts hn hq, Ready.qrd_reads hn hq, Ready.qwr_writes hn hq⟩⟩⟩

end Sys2Proof.Machine

/-! ## Traps taken (R159, R323 to R327) -/

namespace Sys2Proof.Machine

/-! ### A core and its gangs after an update -/

/-- A fold keeps what each of its steps keeps. -/
theorem foldl_keeps {α β γ : Type} (p : α → γ) (f : α → β → α) (h : ∀ a b, p (f a b) = p a) (l : List β) (a : α) :
    p (l.foldl f a) = p a := by
  induction l generalizing a with
  | nil => rfl
  | cons b l ih => exact (ih _).trans (h a b)

/-- A fold whose steps change nothing changes nothing. -/
theorem foldl_fixed {α β : Type} (f : α → β → α) (l : List β) (a : α) (h : ∀ b ∈ l, f a b = a) : l.foldl f a = a := by
  induction l with
  | nil => rfl
  | cons b l ih =>
    rw [List.foldl_cons, h b (by simp)]
    exact ih fun b' hb => h b' (by simp [hb])

section
variable {s : State} {r : CoreRef} {c : Core} {slot : Nat} {g : Gang}

theorem State.core?_modCore_same {f : Core → Core} (h : s.core? r = some c) (hf : ∀ c, (f c).ref = c.ref) :
    (s.modCore r f).core? r = some (f c) := by
  rw [State.core?_modCore s r r f hf (by simp [h]), h]
  simp

theorem State.core_of_core? (h : s.core? r = some c) : s.core r = c := by simp [State.core, h]

theorem State.core?_of_gang? (h : s.gang? r slot = some g) : s.core? r = some (s.core r) := by
  unfold State.gang? at h
  cases hc : s.core? r with
  | none => simp [hc] at h
  | some c => rw [State.core_of_core? hc]

theorem State.core?_modGang_same (h : s.gang? r slot = some g) (f : Gang → Gang) :
    (s.modGang r slot f).core? r = some ((s.core r).modGang slot f) :=
  State.core?_modCore_same (State.core?_of_gang? h) fun _ => rfl

theorem State.gang?_modGang_same {f : Gang → Gang} (h : s.gang? r slot = some g) (hf : ∀ g, (f g).slot = g.slot) :
    (s.modGang r slot f).gang? r slot = some (f g) := by
  rw [State.gang?_modGang s r r slot slot f hf (by simp [State.core?_of_gang? h]), h]
  simp

/-- Without a gang there is none after an update that brings none. -/
theorem State.gang?_modCore_none {f : Core → Core} {q : CoreRef} (h : s.gang? r slot = none)
    (hf : ∀ c, (f c).ref = c.ref) (hg : ∀ c : Core, c.gang? slot = none → (f c).gang? slot = none) :
    (s.modCore q f).gang? r slot = none := by
  cases hq : s.core? q with
  | some c =>
    unfold State.gang? at h ⊢
    rw [State.core?_modCore s q r f hf (by simp [hq])]
    cases hr : s.core? r with
    | none => rfl
    | some d =>
      rw [hr] at h
      simp only [Option.map_some, Option.bind_some]
      split
      · exact hg d h
      · exact h
  | none =>
    have hany : (s.cores.any fun c => c.ref == q) = false := by
      rw [List.any_eq_false]
      exact fun c hc => List.find?_eq_none.mp hq c hc
    unfold State.gang? State.core? State.modCore at *
    simp only [hany, Bool.false_eq_true, if_false, List.find?_append]
    cases hr : s.cores.find? fun c => c.ref == r with
    | some d => simpa [hr] using h
    | none =>
      by_cases hqr : (f (.idle q)).ref = r
      · simpa [hqr] using hg (.idle q) rfl
      · simp [hqr]

end

/-! ### The end of a gang (R163) -/

section
variable {s : State} {r : CoreRef} {slot : Nat}

theorem State.leaveTakers_cores (s : State) (r : CoreRef) (slot : Nat) : (s.leaveTakers r slot).cores = s.cores := by
  unfold State.leaveTakers
  cases r.site <;> rfl

theorem State.gang?_of_cores {s t : State} (h : t.cores = s.cores) (r : CoreRef) (k : Nat) : t.gang? r k = s.gang? r k := by
  simp only [State.gang?, State.core?, h]

theorem State.core_of_cores {s t : State} (h : t.cores = s.cores) (r : CoreRef) : t.core r = s.core r := by
  simp only [State.core, State.core?, h]

/-- A freed slot has no gang. -/
theorem State.gang?_freeSlot (s : State) (r : CoreRef) (slot : Nat) : (s.freeSlot r slot).gang? r slot = none := by
  have hnone (l : List Gang) : (l.filter fun g => g.slot != slot).find? (fun g => g.slot == slot) = none := by
    simp [List.find?_eq_none]
  rw [State.freeSlot, State.gang?_of_cores (State.leaveTakers_cores _ _ _)]
  cases hc : s.core? r with
  | some c =>
    unfold State.gang?
    rw [State.core?_modCore_same hc]
    · exact hnone c.gangs
    · exact fun _ => rfl
  | none =>
    refine State.gang?_modCore_none (by simp [State.gang?, hc]) (fun _ => rfl) fun c _ => hnone c.gangs

theorem State.gang?_modWg_none {id : Nat} {f : Wg → Wg} (h : s.gang? r slot = none) : (s.modWg r id f).gang? r slot = none :=
  State.gang?_modCore_none h (fun _ => rfl) fun _ hc => hc

theorem State.gang?_settleWg_none {id : Nat} (h : s.gang? r slot = none) : (s.settleWg r id).gang? r slot = none := by
  have hdrop : ∀ f : Core → Core, (∀ c, (f c).ref = c.ref) → (∀ c, (f c).gangs = c.gangs) → (s.modCore r f).gang? r slot = none :=
    fun f hf hg => State.gang?_modCore_none h hf fun c hc => by rwa [Core.gang?, hg]
  unfold State.settleWg
  split
  · exact h
  split
  · split
    · exact (State.gang?_of_cores (State.modIsland_cores _ _ _) _ _).trans (hdrop _ (fun _ => rfl) fun _ => rfl)
    · exact hdrop _ (fun _ => rfl) fun _ => rfl
  split
  · split
    · exact (State.gang?_of_cores (State.modIsland_cores _ _ _) _ _).trans (hdrop _ (fun _ => rfl) fun _ => rfl)
    · exact hdrop _ (fun _ => rfl) fun _ => rfl
  · exact h

/-- A gang that has ended has left its slot. -/
theorem State.gang?_endGang (s : State) (r : CoreRef) (slot : Nat) (killed : Bool) : (s.endGang r slot killed).gang? r slot = none := by
  unfold State.endGang State.endGangN
  split
  · assumption
  · exact State.gang?_settleWg_none (State.gang?_modWg_none (State.gang?_freeSlot _ _ _))

end

/-! ### MWAITs that a trap ends (R203) -/

section

/-- The end of an MWAIT leaves the gang in its slot. -/
theorem Gang.mwaitDone_slot (g : Gang) (fi : Nat) (h : Hdr) (d a : Opnd) (status : Word) :
    (g.mwaitDone fi h d a status).slot = g.slot := by
  unfold Gang.mwaitDone
  extract_lets f put g0 g1 pc win up g2
  have h0 : g0.slot = g.slot := by
    unfold g0
    split
    · exact Gang.modAct_slot _ _
    · rfl
  have h1 : g1.slot = g.slot := by
    unfold g1
    split
    · split
      · exact h0
      split
      · exact (Gang.modAct_slot _ _).trans h0
      · exact (Gang.modAct_slot _ _).trans h0
    · exact h0
  have h2 : g2.slot = g.slot := (Gang.modAct_slot g1 _).trans h1
  split
  · exact (Gang.addPending_slot _ _ _).trans h2
  · exact h2

theorem Gang.endMwaits_slot (g : Gang) : g.endMwaits.slot = g.slot := by
  unfold Gang.endMwaits
  split
  · rfl
  · refine foldl_keeps (fun g : Gang => g.slot) _ (fun g' fi => ?_) _ g
    split
    · exact Gang.mwaitDone_slot _ _ _ _ _ _
    · rfl

variable {g : Gang} (hm : ∀ f ∈ g.act.flows, f.inMwait = none)
include hm

/-- A gang in no MWAIT has none to end. -/
theorem Gang.endMwaits_none : g.endMwaits = g := by
  have hnone (fi : Nat) (hfi : fi ∈ upTo g.act.flows.length) : (g.act.flow fi).inMwait = none := by
    have hlt : fi < g.act.flows.length := by simpa [upTo] using hfi
    simpa [Body.flow, List.getElem?_eq_getElem hlt] using hm _ (List.getElem_mem hlt)
  unfold Gang.endMwaits
  split
  · rfl
  · exact foldl_fixed _ _ g fun fi hfi => by simp only [hnone fi hfi]

theorem Gang.mwaitHeld_none : g.mwaitHeld = false := by
  have : (g.act.flows.any fun f => f.inMwait.isSome) = false := by
    rw [List.any_eq_false]
    intro f hf
    simp [hm f hf]
  simp [Gang.mwaitHeld, this]

end

/-! ### The handler frame asked for and granted (R159, R323) -/

section
variable {s : State} {r : CoreRef} {slot : Nat} {g : Gang} {q : TrapReq}

theorem State.requestHandler_gang (h : s.gang? r slot = some g) (hn : g.trapReq = none) :
    (s.requestHandler r slot q).gang? r slot = some { g with trapReq := some q } := by
  unfold State.requestHandler
  refine (State.gang?_modCore _ _ _ _ _ (by exact fun _ => rfl) (by exact fun _ => rfl) ?_).trans ?_
  · simp [State.core?_modGang_same h]
  · refine (State.gang?_modGang_same h (by exact fun _ => rfl)).trans ?_
    rw [hn]

theorem State.requestHandler_core (h : s.gang? r slot = some g) :
    ((s.requestHandler r slot q).core r).handReqs =
      (if (s.core r).handReqs.contains slot then (s.core r).handReqs else (s.core r).handReqs ++ [slot]) ∧
    ((s.requestHandler r slot q).core r).mtvec = (s.core r).mtvec ∧ ((s.requestHandler r slot q).core r).tvec = (s.core r).tvec := by
  unfold State.requestHandler
  dsimp only
  rw [State.core_modCore _ _ (State.core?_modGang_same h _)]
  · exact ⟨rfl, rfl, rfl⟩
  · exact fun _ => rfl

@[simp] theorem State.requestHandler_islands (s : State) (r : CoreRef) (slot : Nat) (q : TrapReq) :
    (s.requestHandler r slot q).islands = s.islands := by simp [State.requestHandler]

/-- The vector is the same where the core's registers, the islands and the gang's context are. -/
theorem State.vector_congr {t : State} {g' : Gang} (hm : (t.core r).mtvec = (s.core r).mtvec) (ht : (t.core r).tvec = (s.core r).tvec)
    (hi : t.islands = s.islands) (hc : g'.ctx = g.ctx) (k : HandlerKind) : t.vector r g' k = s.vector r g k := by
  simp only [State.vector, hm, ht, hc, State.ctxAt?, State.island?, hi]

theorem State.enterTrap_gang (h : s.gang? r slot = some g) (hq : g.trapReq = some q) :
    (s.enterTrap r slot).gang? r slot = some (g.enter q (s.vector r g q.kind)) := by
  unfold State.enterTrap
  simp only [h, hq]
  refine (State.gang?_of_cores (State.leaveTakers_cores _ _ _) _ _).trans
    ((State.gang?_modCore _ _ _ _ _ (by exact fun _ => rfl) (by exact fun _ => rfl) ?_).trans
      (State.gang?_modGang_same h (by exact fun _ => rfl)))
  simp [State.core?_modGang_same h]

theorem State.enterTrap_handReqs (h : s.gang? r slot = some g) (hq : g.trapReq = some q) :
    ((s.enterTrap r slot).core r).handReqs = remove slot (s.core r).handReqs := by
  unfold State.enterTrap
  simp only [h, hq]
  rw [State.core_of_cores (State.leaveTakers_cores _ _ _), State.core_modCore _ _ (State.core?_modGang_same h _)]
  · rfl
  · exact fun _ => rfl

end

/-! ### The handler's body (R323, R326) -/

section
variable (g : Gang) (q : TrapReq) (vec : Dword)

theorem Gang.enter_act : (g.enter q vec).act = ((Body.start g.width 2 vec).setMonitor
    ({ g.body with flows := g.body.flows.map Flow.setAside } : Body).monitor).orderedAfter g.body.behind := rfl

/-- The flow that a handler starts with. -/
def Gang.handlerFlow : Flow :=
  { Flow.start g.width vec with
    mon := if g.body.parted then none else (g.body.flow 0).mon.map Monitor.mark
    behind := g.body.behind.eraseDups }

theorem Flow.setAside_mon (f : Flow) : f.setAside.mon = f.mon.map Monitor.mark := by
  unfold Flow.setAside
  dsimp only
  split <;> rfl

theorem Body.monitor_setAside (b : Body) : ({ b with flows := b.flows.map Flow.setAside } : Body).monitor =
    if b.parted then none else (b.flow 0).mon.map Monitor.mark := by
  unfold Body.monitor
  split
  · rfl
  · cases hb : b.flows with
    | nil => simp [Body.flow, hb, Flow.start]
    | cons f l => simp [Body.flow, hb, Flow.setAside_mon]

theorem Gang.enter_flows : (g.enter q vec).act.flows = [g.handlerFlow vec] := by
  rw [Gang.enter_act, Body.monitor_setAside]
  rfl

theorem Gang.enter_frame : (g.enter q vec).act.frame.ngr = 2 ∧
    (g.enter q vec).act.grans = List.replicate 2 ⟨List.replicate 8 (List.replicate g.width ⟨0, false⟩), true⟩ := ⟨rfl, rfl⟩

theorem Gang.enter_body : (g.enter q vec).body.frames = g.body.frames ∧ (g.enter q vec).body.grans = g.body.grans := by
  simp only [Gang.enter, Body.setMonitor]
  split <;> exact ⟨rfl, rfl⟩

end

/-! ### Taking a trap -/

section
variable {s : State} {r : CoreRef} {slot fi lane : Nat} {cause : Cause} {epc tval : Dword} {g : Gang} {pended : Bool}
  (hg : s.gang? r slot = some g)
include hg

/-- A trap at S level ends the gang (R326). -/
theorem State.trapOr_kill (kill : State → State) (hpl : g.pl = .s) : s.trapOr kill r slot fi cause lane epc tval pended =
    (kill s).report g.ctx (.gangKilled cause epc) := by
  simp only [State.trapOr, hg, hpl, beq_self_eq_true, if_true]

/-- A trap in an M-level handler halts the core (R326). -/
theorem State.trapOr_halt (kill : State → State) (hpl : g.pl = .m) (hh : g.hand ≠ none) :
    s.trapOr kill r slot fi cause lane epc tval pended = s.modCore r fun c => { c with halted := true } := by
  have hs : (Level.m == .s) = false := rfl
  simp only [State.trapOr, hg, hpl, hs, Option.isSome_iff_ne_none.mpr hh, beq_self_eq_true, Bool.and_self, Bool.false_eq_true, if_false,
    if_true]

section
variable (kill : State → State) (hs : g.pl ≠ .s)
include hs

/-- A breakpoint or a single step of a debugged context holds the gang (R354). -/
theorem State.trapOr_hold (hh : g.pl = .m → g.hand = none)
    (hheld : ((cause == .breakpoint || cause == .singleStep) && s.debugged g) = true) :
    s.trapOr kill r slot fi cause lane epc tval pended =
      (s.modGang r slot fun g => g.hold fi cause lane epc tval).report g.ctx (.held cause epc) := by
  have h1 : (g.pl == .s) = false := by simpa using hs
  have h2 : (g.pl == .m && g.hand.isSome) = false := by
    cases hm : g.pl == .m
    · rfl
    · simp [hh (by simpa using hm)]
  simp only [State.trapOr, hg, h1, h2, hheld, Bool.false_eq_true, if_false, if_true]

/-- Any other trap asks for a handler frame, and enters the handler where there is room (R159, R323). -/
theorem State.trapOr_ask (hh : g.pl = .m → g.hand = none)
    (hheld : ((cause == .breakpoint || cause == .singleStep) && s.debugged g) = false) :
    s.trapOr kill r slot fi cause lane epc tval pended =
      (let s2 := (s.modGang r slot Gang.endMwaits).requestHandler r slot ⟨g.pl.handler, cause, lane, epc, tval, fi, pended⟩
       if (s.core r).handReqs.isEmpty && (s.core r).fits g 2 && g.settled && !g.mwaitHeld then s2.enterTrap r slot else s2) := by
  have h1 : (g.pl == .s) = false := by simpa using hs
  have h2 : (g.pl == .m && g.hand.isSome) = false := by
    cases hm : g.pl == .m
    · rfl
    · simp [hh (by simpa using hm)]
  simp only [State.trapOr, hg, h1, h2, hheld, Bool.false_eq_true, if_false]

end

theorem State.takeTrap_kill (hpl : g.pl = .s) : (s.takeTrap r slot fi cause lane epc tval pended).gang? r slot = none := by
  rw [State.takeTrap, State.trapOr_kill hg _ hpl, State.gang?_of_cores (State.report_cores _ _ _)]
  exact State.gang?_endGang s r slot true

theorem State.takeTrap_hold (hu : g.pl = .u) (hheld : ((cause == .breakpoint || cause == .singleStep) && s.debugged g) = true) :
    ∃ g', (s.takeTrap r slot fi cause lane epc tval pended).gang? r slot = some g' ∧ g'.dbgHeld = some fi ∧ g'.epc = epc ∧
      g'.pl = .u := by
  refine ⟨g.hold fi cause lane epc tval, ?_, rfl, rfl, ?_⟩
  · rw [State.takeTrap, State.trapOr_hold hg _ (by simp [hu]) (by simp [hu]) hheld, State.gang?_of_cores (State.report_cores _ _ _)]
    exact State.gang?_modGang_same hg fun g => Gang.modAct_slot g _
  · exact (Gang.modAct_pl g _).trans hu

section
variable (hs : g.pl ≠ .s) (hh : g.pl = .m → g.hand = none)
  (hheld : ((cause == .breakpoint || cause == .singleStep) && s.debugged g) = false)
  (hm : ∀ f ∈ g.act.flows, f.inMwait = none) (hn : g.trapReq = none)
include hs hh hheld hm hn

/-- Without room the gang asks for its handler frame and waits (R159). -/
theorem State.takeTrap_waits (hroom : ((s.core r).handReqs.isEmpty && (s.core r).fits g 2 && g.settled) = false) :
    let t := s.takeTrap r slot fi cause lane epc tval pended
    t.gang? r slot = some { g with trapReq := some ⟨g.pl.handler, cause, lane, epc, tval, fi, pended⟩ } ∧
    slot ∈ (t.core r).handReqs := by
  have h1 : (s.modGang r slot Gang.endMwaits).gang? r slot = some g :=
    (State.gang?_modGang_same hg Gang.endMwaits_slot).trans (congrArg some (Gang.endMwaits_none hm))
  simp only [State.takeTrap, State.trapOr_ask hg _ hs hh hheld, hroom, Bool.false_and, Bool.false_eq_true, if_false]
  refine ⟨State.requestHandler_gang h1 hn, ?_⟩
  rw [(State.requestHandler_core h1).1]
  split
  · next h => simpa using h
  · simp

/-- With room the gang enters its handler (R323). -/
theorem State.takeTrap_enters (hr : (s.core r).handReqs = []) (hroom : ((s.core r).fits g 2 && g.settled) = true) :
    let t := s.takeTrap r slot fi cause lane epc tval pended
    let q : TrapReq := ⟨g.pl.handler, cause, lane, epc, tval, fi, pended⟩
    t.gang? r slot = some (({ g with trapReq := some q } : Gang).enter q (s.vector r g q.kind)) ∧ (t.core r).handReqs = [] := by
  have h1 : (s.modGang r slot Gang.endMwaits).gang? r slot = some g :=
    (State.gang?_modGang_same hg Gang.endMwaits_slot).trans (congrArg some (Gang.endMwaits_none hm))
  have hc : (s.modGang r slot Gang.endMwaits).core r = (s.core r).modGang slot Gang.endMwaits :=
    State.core_of_core? (State.core?_modGang_same hg _)
  simp only [State.takeTrap, State.trapOr_ask hg _ hs hh hheld, hr, List.isEmpty_nil, Bool.true_and, hroom, Gang.mwaitHeld_none hm, Bool.not_false,
    if_true]
  generalize hq : (⟨g.pl.handler, cause, lane, epc, tval, fi, pended⟩ : TrapReq) = q
  obtain ⟨hreqs, hmtvec, htvec⟩ := State.requestHandler_core (q := q) h1
  have h2 := State.requestHandler_gang (q := q) h1 hn
  constructor
  · rw [State.enterTrap_gang h2 rfl]
    congr 2
    · subst hq
      refine State.vector_congr (hmtvec.trans ?_) (htvec.trans ?_) (by simp) rfl _ <;> rw [hc] <;> rfl
  · rw [State.enterTrap_handReqs h2 rfl, hreqs, hc]
    simp [Core.modGang, hr, remove]

end

end

/-- Settles O37: a trap ends the gang, halts the core, holds the gang for the debugger, asks for a handler frame or enters the
handler, by the gang's level. -/
theorem trapEntry : Obligations.TrapEntry := by
  unfold Obligations.TrapEntry
  intro s r slot fi cause lane epc tval g t held room plain hg
  have hbool : ((cause == .breakpoint || cause == .singleStep) && s.debugged g) = true ↔ held := by simp [held]
  refine ⟨State.takeTrap_kill hg, fun hpl hh => State.trapOr_halt hg _ hpl hh, fun hs hh hheld hplain hn => ?_,
    fun hheld hu => State.takeTrap_hold hg hu (hbool.mpr hheld)⟩
  have hheld : ((cause == .breakpoint || cause == .singleStep) && s.debugged g) = false := by
    rw [← Bool.not_eq_true, hbool]
    exact hheld
  have hm : ∀ f ∈ g.act.flows, f.inMwait = none := by
    intro f hf
    unfold Flow.inMwait
    split
    · next d i h => exact absurd h (hplain f hf i d)
    · rfl
  constructor
  · rintro ⟨hr, hfits, hset⟩
    obtain ⟨hgang, hreqs⟩ := State.takeTrap_enters (fi := fi) (lane := lane) (epc := epc) (tval := tval) (pended := false)
      hg hs hh hheld hm hn hr (by simp [hfits, hset])
    refine ⟨_, g.handlerFlow _, hgang, hreqs, ?_, ?_, rfl, rfl, rfl, rfl, (Gang.enter_body _ _ _).1, (Gang.enter_body _ _ _).2, rfl,
      Gang.enter_flows _ _ _, fun _ => rfl, rfl, rfl, rfl, ?_, (Gang.enter_frame _ _ _).1, (Gang.enter_frame _ _ _).2⟩
    all_goals
      cases hpl : g.pl with
      | s => exact absurd hpl hs
      | u => simp [Gang.enter, Level.handler, Gang.handlerFlow, Flow.start, State.vector]
      | m => simp [Gang.enter, Level.handler, Gang.handlerFlow, Flow.start, State.vector]
  · intro hroom
    have hroom : ((s.core r).handReqs.isEmpty && (s.core r).fits g 2 && g.settled) = false := by
      rw [← Bool.not_eq_true]
      simpa [room, and_assoc] using hroom
    obtain ⟨hgang, hreqs⟩ := State.takeTrap_waits (fi := fi) (lane := lane) (epc := epc) (tval := tval) (pended := false)
      hg hs hh hheld hm hn hroom
    exact ⟨_, hgang, rfl, rfl, hreqs, rfl⟩

end Sys2Proof.Machine

/-! ## Frames called, left and marked (R136 to R141) -/

namespace Sys2Proof.Machine

/-! ### Calls (R137, R138) -/

/-- A branch target is the PC plus four times the offset. -/
theorem Ex.target_eq (x : Ex) (off : BitVec 16) : x.target off = x.fl.pc + 4 * off.signExtend 64 := by
  unfold Ex.target
  congr 1
  generalize off.signExtend 64 = v
  bv_omega

/-- An address that is a multiple of four has its low bits clear. -/
theorem low_bits_of_aligned {v : Dword} (h : v.toNat % 4 = 0) : v.extractLsb' 0 2 = 0 := by
  apply BitVec.eq_of_toNat_eq
  simp [BitVec.extractLsb'_toNat, h]

theorem target_aligned {pc : Dword} (off : BitVec 16) (h : pc.toNat % 4 = 0) : (pc + 4 * off.signExtend 64).toNat % 4 = 0 := by
  generalize off.signExtend 64 = v
  bv_omega

/-- The record of the frame that a CALL makes (R136, R137). -/
def Ex.callRecord (x : Ex) (n ab : Nat) : Frame :=
  { rpc := x.next, hpc := 0, ord := x.b.grans.length, mid := 0, mv := false, mmsd := 0, msb := x.fl.stack.length, abase := ab,
    ngr := n, qd0 := none, qd1 := none }

/-- The state after a CALL (R137, R138). -/
def Ex.called (x : Ex) (s : State) (n ab sh : Nat) (target : Dword) : State :=
  (s.modGang x.ag.core x.ag.slot fun g =>
    ((g.finish x target).modAct fun b => b.call x.w (x.callRecord n ab) (n - sh)).freeLatches).modCore x.ag.core fun c =>
      { c with waiters := c.waiters.filter fun p => p.1 != x.ag.slot }

/-- The granule that an argument base names, 31 for none, and the granules shared from there (R137). -/
structure ArgBase (x : Ex) (n : Nat) (d : Opnd) (ab sh : Nat) : Prop where
  names : d = .z ∧ ab = 31 ∧ sh = 0 ∨ ∃ r : Fin 240, d = .v r ∧ r.val = 8 * ab ∧ sh = min n (x.b.frame.ngr - ab)
  apart : 0 < sh → x.b.frame.meetsQueue (8 * ab) (8 * (ab + sh)) = false

/-- Granules that a call may take now (R137, R138). -/
structure CallRoom (x : Ex) (need : Nat) : Prop where
  depth : x.b.frames.length < 255
  held : x.g.held + need ≤ x.g.framemax
  free : need = 0 ∨ x.core.fits x.g need = true ∧ x.core.handReqs = [] ∧ x.core.waiters = []

theorem CallRoom.granted {x : Ex} {need : Nat} (h : CallRoom x need) :
    (need == 0 || x.core.grantable x.g x.ag.slice need) = true := by
  rcases h.free with h | ⟨h1, h2, h3⟩
  · simp [h]
  · simp [Core.grantable, h1, h2, h3]

theorem Ex.call_goes {x : Ex} {n ab sh : Nat} {d : Opnd} {target : Dword} (hfull : x.full = []) (hj : x.b.parted = false)
    (hd : ArgBase x n d ab sh) (hroom : CallRoom x (n - sh)) (ht : target.toNat % 4 = 0) :
    x.call n d [] target = .next (x.called x.s n ab sh target) := by
  have hdepth : ¬ 255 ≤ x.b.frames.length := by have := hroom.depth; omega
  have hheld : ¬ x.g.framemax < x.g.held + (n - sh) := by have := hroom.held; omega
  have hmeet : (decide (0 < sh) && x.b.frame.meetsQueue (8 * ab) (8 * (ab + sh))) = false := by
    by_cases h : 0 < sh
    · simp [hd.apart h]
    · simp [h]
  have hgo : x.check (firstOf [[], []]) (.next (x.called x.s n ab sh target)) = .next (x.called x.s n ab sh target) :=
    Ex.check_nil hfull _
  refine Eq.trans ?_ hgo
  rcases hd.names with ⟨rfl, rfl, rfl⟩ | ⟨r, rfl, hr, rfl⟩
  · simp only [Ex.call, Ex.whole_of_joined hj, Option.isSome_none, Option.map_none, Option.getD_none, Bool.false_eq_true, if_false,
      hdepth, hheld, hroom.granted, low_bits_of_aligned ht, lt_irrefl, decide_false, Bool.false_and, bne_self_eq_false, if_true,
      List.append_nil]
    rfl
  · have hab : r.val / 8 = ab := by omega
    have hal : (r.val % 8 != 0) = false := by simp [hr]
    simp only [Ex.call, Ex.whole_of_joined hj, Option.isSome_some, Option.map_some, Option.getD_some, Bool.false_eq_true, if_false,
      hdepth, hab, hal, hmeet, hheld, hroom.granted, low_bits_of_aligned ht, bne_self_eq_false, if_true, List.append_nil]
    rfl

theorem Ready.call_goes {h : Hdr} {n : BitVec 5} {d : Opnd} {off : BitVec 16} {s : State} {x : Ex} {ab sh : Nat}
    (hr : Ready (.call h n d off) s x) (hj : x.b.parted = false) (hd : ArgBase x n.toNat d ab sh)
    (hroom : CallRoom x (n.toNat - sh)) (hpc : x.fl.pc.toNat % 4 = 0) :
    exec (.call h n d off) s = .next (x.called s n.toNat ab sh (x.fl.pc + 4 * off.signExtend 64)) := by
  refine (issue_of_ready hr fun x => x.call n.toNat d [] (x.target off)).trans ?_
  rw [Ex.target_eq, Ex.call_goes hr.full hj hd hroom (target_aligned off hpc), hr.state]

/-- Lanes of CALLI that agree on a clean target raise nothing, and the target is theirs (R137). -/
theorem Ready.calli_target {h : Hdr} {n : BitVec 5} {d a : Opnd} {s : State} {x : Ex} {target : Dword}
    (hr : Ready (.calli h n d a) s x) (hsome : ∃ l < x.w, x.fl.xm.getLsbD l = true)
    (hall : ∀ l < 32, x.fl.xm.getLsbD l = true → l < x.w ∧ x.pair 1 l = target ∧ (x.lvk 1 0 l).p = false ∧ (x.lvk 1 1 l).p = false) :
    x.calliTarget = target ∧ x.calliRaised = [] := by
  have hbit {l : Nat} (hl : bitOf x.fl.xm l = true) : l < 32 := BitVec.lt_of_getLsbD hl
  have htarget : x.calliTarget = target := by
    obtain ⟨l, -, hl⟩ := hsome
    have hfound : (x.lowXm).isSome = true := by
      simp only [Ex.lowXm, List.find?_isSome]
      exact ⟨l, by simpa [upTo] using hbit hl, hl⟩
    obtain ⟨m, hm⟩ := Option.isSome_iff_exists.mp hfound
    have hmx : bitOf x.fl.xm m = true := by simpa using List.find?_some hm
    rw [Ex.calliTarget, hm]
    exact (hall m (hbit hmx) hmx).2.1
  refine ⟨htarget, ?_⟩
  have hpair : (x.src.getD 1 []).length = 2 := hr.pair_length (o := a) (by rw [hr.info_eq rfl]; rfl)
  have hclean {i : Nat} (hi : bitOf x.fl.xm i = true) : (x.one 1 i).p = false := by
    obtain ⟨-, -, h0, h1⟩ := hall i (hbit hi) hi
    simp [Ex.one, Ex.regs_two hpair, joinSrc, h0, h1]
  have hpoison : ((upTo x.w).filter (bitOf x.fl.xm)).flatMap (fun i => poisons 0 .poisonBranch i [x.one 1 i]) = [] := by
    rw [List.flatMap_eq_nil_iff]
    intro i hi
    exact poisons_of_clean _ _ _ fun v hv => by rw [List.mem_singleton.mp hv, hclean (List.mem_filter.mp hi).2]
  have hagree : (((upTo x.w).filter (bitOf x.fl.xm)).all fun i => x.pair 1 i == x.calliTarget) = true := by
    rw [List.all_eq_true]
    intro i hi
    have hx := (List.mem_filter.mp hi).2
    simp [htarget, (hall i (hbit hx) hx).2.1]
  simp only [Ex.calliRaised, hpoison, hagree, if_true, firstOf, List.isEmpty_nil]

theorem Ready.calli_goes {h : Hdr} {n : BitVec 5} {d a : Opnd} {s : State} {x : Ex} {ab sh : Nat} {target : Dword}
    (hr : Ready (.calli h n d a) s x) (hj : x.b.parted = false) (hd : ArgBase x n.toNat d ab sh)
    (hroom : CallRoom x (n.toNat - sh)) (ht : target.toNat % 4 = 0) (hsome : ∃ l < x.w, x.fl.xm.getLsbD l = true)
    (hall : ∀ l < 32, x.fl.xm.getLsbD l = true → l < x.w ∧ x.pair 1 l = target ∧ (x.lvk 1 0 l).p = false ∧ (x.lvk 1 1 l).p = false) :
    exec (.calli h n d a) s = .next (x.called s n.toNat ab sh target) := by
  refine (issue_of_ready hr fun x => x.call n.toNat d x.calliRaised x.calliTarget).trans ?_
  obtain ⟨h1, h2⟩ := hr.calli_target hsome hall
  rw [h1, h2, Ex.call_goes hr.full hj hd hroom ht, hr.state]

/-! ### Frames taken away (R139, R141) -/

theorem Body.forgetQueues_frames (b : Body) (ctr : Nat) : (b.forgetQueues ctr).1.frames = b.frames := by
  unfold Body.forgetQueues
  exact foldl_keeps (fun p : Body × Nat => p.1.frames) _ (by exact fun _ _ => rfl) _ _

theorem Body.forgetQueues_none {b : Body} (h0 : b.frame.qd0 = none) (h1 : b.frame.qd1 = none) (ctr : Nat) :
    b.forgetQueues ctr = (b, ctr) := by
  simp [Body.forgetQueues, h0, h1]

theorem Body.popFrame_frames (b : Body) (ctr : Nat) : (b.popFrame ctr).1.frames = b.frames.drop 1 := by
  simp [Body.popFrame, Body.forgetQueues_frames]

theorem Body.popFrames_frames (n : Nat) (b : Body) (ctr : Nat) : (b.popFrames n ctr).1.frames = b.frames.drop n := by
  induction n generalizing b ctr with
  | zero => rfl
  | succ n ih =>
    refine (ih _ _).trans ?_
    rw [Body.popFrame_frames, List.drop_drop, Nat.add_comm]

/-- Frames without queues go without a change to the registers of those that stay (R139). -/
theorem Body.popFrames_plain (n : Nat) (b : Body) (ctr : Nat) (hn : n ≤ b.frames.length)
    (h : ∀ f ∈ b.frames.take n, f.qd0 = none ∧ f.qd1 = none) :
    (b.popFrames n ctr).2 = ctr ∧ ∀ o, (∀ f ∈ b.frames.take n, o < f.ord) → (b.popFrames n ctr).1.grans[o]? = b.grans[o]? := by
  induction n generalizing b ctr with
  | zero => exact ⟨rfl, fun _ _ => rfl⟩
  | succ n ih =>
    cases hb : b.frames with
    | nil => simp [hb] at hn
    | cons f rest =>
      have hframe : b.frame = f := by simp [Body.frame, hb]
      rw [hb, List.take_succ_cons] at h
      obtain ⟨h0, h1⟩ := h f (by simp)
      have hpop : b.popFrame ctr = ({ b with frames := rest, grans := b.grans.take f.ord }, ctr) := by
        rw [Body.popFrame, Body.forgetQueues_none (by rw [hframe]; exact h0) (by rw [hframe]; exact h1)]
        simp [hb, hframe]
      obtain ⟨hctr, hgrans⟩ := ih { b with frames := rest, grans := b.grans.take f.ord } ctr (by simpa [hb] using hn)
        fun f' hf' => h f' (List.mem_cons_of_mem _ hf')
      simp only [Body.popFrames, hpop]
      refine ⟨hctr, fun o ho => ?_⟩
      rw [List.take_succ_cons] at ho
      refine (hgrans o fun f' hf' => ho f' (List.mem_cons_of_mem _ hf')).trans ?_
      exact List.getElem?_take_of_lt (ho f (by simp))

/-! ### The refill of the frame that is left (R140) -/

theorem Gang.modAct_congr {g : Gang} {f f' : Body → Body} (h : f g.act = f' g.act) : g.modAct f = g.modAct f' := by
  unfold Gang.modAct Gang.act at *
  cases hg : g.hand <;> simp only [hg] at h ⊢ <;> rw [h]

theorem Gang.modAct_same {g : Gang} {f : Body → Body} (h : f g.act = g.act) : g.modAct f = g := by
  unfold Gang.modAct Gang.act at *
  obtain ⟨⟩ := g
  split at h <;> simp_all

/-- What a flow update keeps in one flow, it keeps in every flow. -/
theorem Body.flow_modFlow_keeps {α : Type} (p : Flow → α) {f : Flow → Flow} (h : ∀ y, p (f y) = p y) (b : Body) (n k : Nat) :
    p ((b.modFlow n f).flow k) = p (b.flow k) := by
  simp only [Body.flow, Body.modFlow, List.getD_eq_getElem?_getD, modNth_getElem?]
  split
  · cases b.flows[k]? with
    | none => rfl
    | some y => exact h y
  · rfl

/-- A frame wait changes nothing of a gang but what its flow waits for. -/
theorem State.gang?_frameWait {s : State} {ag : AgentRef} {g : Gang} (h : s.gang? ag.core ag.slot = some g) (need : Nat)
    (call : Option Instr) : (s.frameWait ag need call).gang? ag.core ag.slot = some (g.modAct fun b =>
      b.modFlow (b.fi ag.slice) fun f => { f with run := .frameWait need call, readyFor := 0, aged := false }) := by
  refine (State.gang?_modCore _ _ _ _ _ (by exact fun _ => rfl) (by exact fun _ => rfl) ?_).trans
    (State.gang?_modGang_same h (by exact fun g => Gang.modAct_slot g _))
  simp [State.modFlow, State.core?_modGang_same h]

theorem State.only_frameWait {s : State} {ag : AgentRef} {g : Gang} (h : s.gang? ag.core ag.slot = some g) (need : Nat)
    (call : Option Instr) : OnlyCore ag.core s (s.frameWait ag need call) := by
  refine (State.only_modCore _ (by exact fun _ => rfl) ?_).trans (State.only_modCore _ (by exact fun _ => rfl) ?_)
  · simp [State.core?_of_gang? h]
  · rw [State.core?_modCore_same (State.core?_of_gang? h)]
    · rfl
    · exact fun _ => rfl

/-- The wait for a refill, where there is one, changes nothing else (R140). -/
theorem State.gang?_needRefill {s : State} {ag : AgentRef} {g : Gang} (h : s.gang? ag.core ag.slot = some g) :
    ∃ n f, (∀ y : Flow, ((f y).pc, (f y).xm, (f y).stack, (f y).win) = (y.pc, y.xm, y.stack, y.win)) ∧
      (s.needRefill ag).gang? ag.core ag.slot = some (g.modAct fun b => b.modFlow n f) ∧
      OnlyCore ag.core s (s.needRefill ag) ∧ (s.needRefill ag).freeCtr = s.freeCtr := by
  have hid : (g.modAct fun b => b.modFlow 0 id) = g := by
    refine Gang.modAct_same ?_
    have (l : List Flow) : modNth id l 0 = l := by cases l <;> rfl
    simp only [Body.modFlow, this]
  unfold State.needRefill
  simp only [h]
  split
  · exact ⟨0, id, fun _ => rfl, h.trans (congrArg some hid.symm), OnlyCore.refl _ _, rfl⟩
  · refine ⟨g.act.fi ag.slice, fun f => { f with run := .frameWait g.act.missing.length none, readyFor := 0, aged := false },
      fun _ => rfl, (State.gang?_frameWait h _ _).trans (congrArg some (Gang.modAct_congr rfl)), State.only_frameWait h _ _, ?_⟩
    · simp [State.frameWait, State.modFlow, State.modGang]

/-! ### RET and UNWIND (R139, R141) -/

section
variable {i : Instr} {s : State} {x : Ex} (hr : Ready i s x)
include hr

/-- The flow of a ready instruction after its completion. -/
theorem Ready.finish_flow (pc : Dword) : (x.g.finish x pc).act.flow x.fi =
    { x.fl.completed pc with win := if x.resetsNow then resetWin x.fl.win else x.fl.win } := by
  rw [Gang.finish_act, ← hr.body]
  change ((({ x.b.pops x.pops with trail := _ } : Body)).modFlow x.fi _).flow x.fi = _
  rw [Body.flow_modFlow _ _ _ _ (by simpa using hr.flow_lt), if_pos rfl]
  have hflow (tr : List Trail) : ({ x.b.pops x.pops with trail := tr } : Body).flow x.fi = x.fl := by
    rw [hr.flow, Body.flow, Body.flow, ← Body.pops_flows x.b x.pops]
  exact congrArg (fun y : Flow => { y.completed pc with win := if x.resetsNow then resetWin y.win else y.win }) (hflow _)

theorem Ready.finish_flows_length (pc : Dword) : (x.g.finish x pc).act.flows.length = x.b.flows.length := by
  rw [Gang.finish_act, ← hr.body]
  change (modNth _ (x.b.pops x.pops).flows x.fi).length = _
  simp

omit hr in
theorem Ex.after_of_gang {t : State} {g : Gang} (h : t.gang? x.ag.core x.ag.slot = some g) : x.after t = g := by
  rw [Ex.after, h]
  rfl

/-- The state after n frames are left at a PC, before the wait for a refill. -/
def Ex.framesLeft (x : Ex) (s : State) (n : Nat) (pc : Dword) (f : Flow → Flow) : State :=
  ({ s with freeCtr := (x.b.popFrames n s.freeCtr).2 } : State).modGang x.ag.core x.ag.slot fun g =>
    (((g.finish x pc).modAct fun b => { b with
      frames := (x.b.popFrames n s.freeCtr).1.frames, grans := (x.b.popFrames n s.freeCtr).1.grans }).modAct fun b =>
        b.modFlow x.fi f).freeLatches

/-- What is left of a gang that leaves n frames, its flow then updated (R139, R141). -/
theorem Ready.leaveFrames (n : Nat) (pc : Dword) (f : Flow → Flow) (hn : n ≤ x.b.frames.length) : ∃ t, x.leaveFrames n pc f = .next t ∧
    (x.after t).act.frames = x.b.frames.drop n ∧
    ((x.flowAfter t).pc, (x.flowAfter t).xm, (x.flowAfter t).stack, (x.flowAfter t).win) =
      (let y := f { x.fl.completed pc with win := if x.resetsNow then resetWin x.fl.win else x.fl.win }
       (y.pc, y.xm, y.stack, y.win)) ∧
    (x.after t).latches = [] ∧ OnlyCore x.ag.core s t ∧
    ((∀ f ∈ x.b.frames.take n, f.qd0 = none ∧ f.qd1 = none) → t.freeCtr = s.freeCtr ∧
      ∀ o, (∀ f ∈ x.b.frames.take n, o < f.ord) → (x.after t).act.grans[o]? = x.b.grans[o]?) := by
  have hgang : ({ s with freeCtr := (x.b.popFrames n s.freeCtr).2 } : State).gang? x.ag.core x.ag.slot = some x.g := hr.gang_eq
  have hleft : (x.framesLeft s n pc f).gang? x.ag.core x.ag.slot = _ :=
    State.gang?_modGang_same hgang (by exact fun g => by simp)
  obtain ⟨k, y, hy, hafter, honly, hctr⟩ := State.gang?_needRefill hleft
  have hact := Ex.after_of_gang hafter
  refine ⟨(x.framesLeft s n pc f).needRefill x.ag, by rw [← hr.state]; rfl, ?_, ?_, ?_, ?_, fun hplain => ?_⟩
  · rw [hact]
    simp [Body.popFrames_frames]
  · rw [Ex.flowAfter, hact, Gang.act_modAct]
    refine (Body.flow_modFlow_keeps (fun z => (z.pc, z.xm, z.stack, z.win)) hy _ _ _).trans ?_
    simp only [Gang.freeLatches_act, Gang.act_modAct]
    rw [Body.flow_modFlow _ _ _ _ (by simpa [hr.finish_flows_length] using hr.flow_lt), if_pos rfl]
    exact congrArg (fun z => ((f z).pc, (f z).xm, (f z).stack, (f z).win)) (hr.finish_flow pc)
  · rw [hact]
    simp
  · refine OnlyCore.trans (t := { s with freeCtr := (x.b.popFrames n s.freeCtr).2 }) ⟨fun _ _ => rfl, rfl⟩ ((State.only_modCore _ (by exact fun _ => rfl) ?_).trans honly)
    exact hr.core_some
  · obtain ⟨hc, hg⟩ := Body.popFrames_plain n x.b s.freeCtr hn hplain
    refine ⟨?_, fun o ho => ?_⟩
    · rw [hctr, Ex.framesLeft, State.modGang_freeCtr]
      exact hc
    · rw [hact]
      simpa using hg o ho

end

section
variable {h : Hdr} {s : State} {x : Ex}

theorem Ready.ret_leaves (hr : Ready (.ret h) s x) (hj : x.b.parted = false) (hmsd : x.fl.stack.length = x.b.frame.msb)
    (hlen : 2 ≤ x.b.frames.length) : exec (.ret h) s = x.leaveFrames 1 x.b.frame.rpc id := by
  refine (issue_of_ready hr Ex.ret).trans ?_
  have hfloor : (x.fl.msd != x.floor) = false := by simp [Ex.floor, hj, Flow.msd, hmsd]
  have hlen : ¬ x.b.frames.length ≤ 1 := by omega
  simp only [Ex.ret, Ex.whole_of_joined hj, hfloor, hlen, Bool.false_eq_true, if_false, List.append_nil]
  exact Ex.check_nil hr.full _

/-- RET empties the window, in a dormant gang too (R130, R139). -/
theorem Ready.ret_resets (hr : Ready (.ret h) s x) : x.resetsNow = true := by
  rw [Ex.resetsNow, hr.instr]
  have : (Instr.ret h).resets = true := by
    have hcls : (Instr.ret h).cls = 5 := Instr.cls_of_encode (i := .ret h) rfl
    simp [Instr.resets, hcls]
  simp [this, Instr.isRet]

theorem Ready.unwind_leaves {id : BitVec 8} (hr : Ready (.unwind h id) s x) (hj : x.b.parted = false) (hlive : x.fl.xm = x.fl.live)
    {k : Nat} {fr : Frame} (hk : x.b.frames[k]? = some fr) (hmv : fr.mv = true) (hmid : fr.mid = id)
    (hbefore : ∀ j, j < k → ∀ f, x.b.frames[j]? = some f → f.mv = true → f.mid ≠ id) (hmsd : fr.mmsd ≤ x.fl.stack.length) :
    exec (.unwind h id) s = x.leaveFrames k fr.hpc fun f => { f with stack := f.stack.drop (f.stack.length - fr.mmsd) } := by
  refine (issue_of_ready hr (Ex.unwind id)).trans ?_
  obtain ⟨hlt, hget⟩ := List.getElem?_eq_some_iff.mp hk
  have hfind : (x.b.frames.findIdx fun f => f.mv && f.mid == id) = k := by
    rw [List.findIdx_eq hlt, hget]
    refine ⟨by simp [hmv, hmid], fun j hj => ?_⟩
    have := hbefore j hj _ (List.getElem?_eq_getElem (by omega))
    cases hm : (x.b.frames[j]'(by omega)).mv
    · rfl
    · simpa using this hm
  have hfr : x.b.frames.getD k (.launch 1) = fr := by simp [List.getD_eq_getElem?_getD, hk]
  have hmsd : ¬ x.fl.msd < fr.mmsd := Nat.not_lt.mpr hmsd
  have hdiv : (x.fl.xm != x.fl.live) = false := by simp [← hlive]
  simp only [Ex.unwind, hfind, hfr, hlt, hmsd, hdiv, decide_true, decide_false, Bool.and_false, Bool.false_eq_true, if_false, if_true,
    Ex.whole_of_joined hj, List.append_nil]
  exact Ex.check_nil hr.full _

/-! ### MARK (R141) -/

/-- The current frame as MARK leaves it. -/
def Ex.marked (x : Ex) (clr : Bool) (id : BitVec 8) (off : BitVec 16) (f : Frame) : Frame :=
  if clr then { f with mv := false, hpc := 0 } else { f with mv := true, mid := id, mmsd := x.fl.msd, hpc := x.target off }

theorem Ready.mark_marks {clr : Bool} {id : BitVec 8} {off : BitVec 16} (hr : Ready (.mark h clr id off) s x)
    (hj : x.b.parted = false) : exec (.mark h clr id off) s = .next (s.modGang x.ag.core x.ag.slot fun g =>
      (g.finish x x.next).modAct fun b => b.modFrame (x.marked clr id off)) := by
  refine (issue_of_ready hr (Ex.mark clr id off)).trans ?_
  rw [Ex.mark, Ex.whole_of_joined hj, hr.state]
  exact Ex.check_nil hr.full _

theorem Ready.mark_pops {clr : Bool} {id : BitVec 8} {off : BitVec 16} (hr : Ready (.mark h clr id off) s x) : x.pops = [] := by
  have hn := hr.info_eq (n := .gang h (!clr || (id == 0 && off == 0xF0F0)) []) rfl
  refine hr.pops_nil (hr.guard_z (by rw [hn]; rfl)) ?_
  rw [hn]
  exact fun p hp => absurd hp (by simp [Info.sources, Info.gang])

/-- Settles O19: each instruction's checks raise nothing, and frames are taken away one by one. -/
theorem callAndReturn : Obligations.CallAndReturn := by
  unfold Obligations.CallAndReturn
  refine ⟨fun h n d a off s x base => ?_, fun h mid s x => ⟨fun hr hj hmsd hlen => ?_, fun hr hj hlive k fr hk hmv hmid hbefore hmsd => ?_⟩,
    fun h clr id off s x hr hj => ?_⟩
  · intro ngr share need record called fits
    have harg (hf : fits) : ArgBase x n.toNat d record.abase share := by
      obtain ⟨-, hd, -, hmeet, -, -⟩ := hf
      cases base with
      | none => exact ⟨.inl ⟨hd, rfl, rfl⟩, fun h0 => absurd h0 (lt_irrefl 0)⟩
      | some k => exact ⟨.inr ⟨_, hd, rfl, rfl⟩, fun h0 => hmeet h0 k rfl⟩
    have hroom (hf : fits) : CallRoom x (n.toNat - share) := by
      obtain ⟨-, -, hlen, -, hheld, hfree⟩ := hf
      exact ⟨hlen, hheld, hfree⟩
    exact ⟨fun hr hf hpc => hr.call_goes hf.1 (harg hf) (hroom hf) hpc, fun hr hf target ht hsome hall =>
      hr.calli_goes hf.1 (harg hf) (hroom hf) ht hsome hall⟩
  · obtain ⟨t, ht, hframes, hflow, hlatches, honly, hplain⟩ := hr.leaveFrames 1 x.b.frame.rpc id (by omega)
    simp only [hr.ret_resets, if_true, Prod.mk.injEq] at hflow
    obtain ⟨hpc, hxm, hstack, hwin⟩ := hflow
    exact ⟨t, (hr.ret_leaves hj hmsd hlen).trans ht, ⟨hframes, hpc, hxm, hlatches, honly, hplain⟩, hstack, hwin⟩
  · have hlt := (List.getElem?_eq_some_iff.mp hk).1
    obtain ⟨t, ht, hframes, hflow, hlatches, honly, hplain⟩ := hr.leaveFrames k fr.hpc
      (fun f => { f with stack := f.stack.drop (f.stack.length - fr.mmsd) }) (by omega)
    simp only [Prod.mk.injEq] at hflow
    obtain ⟨hpc, hxm, hstack, -⟩ := hflow
    exact ⟨t, (hr.unwind_leaves hj hlive hk hmv hmid hbefore hmsd).trans ht, ⟨hframes, hpc, hxm, hlatches, honly, hplain⟩, hstack⟩
  · have hact : x.after (s.modGang x.ag.core x.ag.slot fun g =>
        (g.finish x x.next).modAct fun b => b.modFrame (x.marked clr id off)) = _ := hr.after_modGang _ fun g => by simp
    have hfin : (x.g.finish x x.next).act.frames = x.b.frames ∧ (x.g.finish x x.next).act.grans = x.b.grans := by
      rw [Gang.finish_act, hr.mark_pops, ← hr.body]
      exact ⟨rfl, rfl⟩
    have hframe : x.b.frames ≠ [] → ((x.g.finish x x.next).act.modFrame (x.marked clr id off)).frame = x.marked clr id off x.b.frame := by
      intro hne
      obtain ⟨f, l, hl⟩ := List.exists_cons_of_ne_nil hne
      simp [Body.frame, Body.modFrame, hfin.1, hl, modNth]
    refine ⟨_, hr.mark_marks hj, hr.only_modGang _, ?_, ?_, ?_, ?_, fun hc hne => ?_⟩
    · rw [hact, Gang.act_modAct, Body.modFrame, hfin.1]
      cases x.b.frames <;> rfl
    · rw [hact, Gang.act_modAct]
      exact hfin.2
    · rw [Ex.flowAfter, hact, Gang.act_modAct]
      change ((x.g.finish x x.next).act.flow x.fi).pc = _
      rw [hr.finish_flow]
      rfl
    · by_cases hne : x.b.frames = []
      · exact .inr hne
      · rw [hact, Gang.act_modAct, hframe hne]
        cases clr <;> exact .inl rfl
    · subst hc
      rw [hact, Gang.act_modAct, hframe hne]
      exact ⟨rfl, rfl, Ex.target_eq x off⟩

end

end Sys2Proof.Machine

/-! ## Windows, masks and frames read and written (R145, R150 to R153, R360) -/

namespace Sys2Proof.Machine

/-! ### A gang after a completion -/

section
variable {g : Gang}

theorem Gang.act_of_no_hand (h : g.hand = none) : g.act = g.body := by rw [Gang.act, h]

@[simp] theorem Gang.modAct_hand_isSome (f : Body → Body) : (g.modAct f).hand.isSome = g.hand.isSome := by
  rw [Gang.modAct_hand, Option.isSome_map]

/-- In a handler an update of the body that issues leaves the interrupted one. -/
theorem Gang.modAct_body (h : g.hand.isSome = true) (f : Body → Body) : (g.modAct f).body = g.body := by
  obtain ⟨k, hk⟩ := Option.isSome_iff_exists.mp h
  simp only [Gang.modAct, hk]

theorem Gang.settleTrail_body (h : g.hand.isSome = true) : g.settleTrail.body = { g.body with trail := [] } := by
  rw [Gang.settleTrail]
  simp only [Gang.modAct_body h]

@[simp] theorem Gang.settleTrail_hand_isSome : g.settleTrail.hand.isSome = g.hand.isSome := by
  rw [Gang.settleTrail]
  exact Gang.modAct_hand_isSome _

theorem Gang.addPending_hand (c : Cause) (v : Dword) : (g.addPending c v).hand = g.hand := by
  unfold Gang.addPending; split <;> rfl
theorem Gang.addPending_body (c : Cause) (v : Dword) : (g.addPending c v).body = g.body := by
  unfold Gang.addPending; split <;> rfl

@[simp] theorem Ex.trailed_hand_isSome (x : Ex) : (x.trailed g).hand.isSome = g.hand.isSome := by
  unfold Ex.trailed
  split <;> simp

theorem Ex.trailed_body (x : Ex) (h : g.hand.isSome = true) :
    ((x.trailed g).body.flows, (x.trailed g).body.parted) = (g.body.flows, g.body.parted) := by
  unfold Ex.trailed
  split
  · rw [Gang.modAct_body h]
  · rw [Gang.settleTrail_body h]

@[simp] theorem Gang.finish_hand_isSome (x : Ex) (pc : Dword) : (g.finish x pc).hand.isSome = g.hand.isSome := by
  unfold Gang.finish
  dsimp only
  split
  · rw [Gang.addPending_hand]; simp
  · simp

theorem Gang.finish_hand_none (h : g.hand = none) (x : Ex) (pc : Dword) : (g.finish x pc).hand = none := by
  rw [← Option.isSome_eq_false_iff.trans Option.isNone_iff_eq_none, Gang.finish_hand_isSome, h]
  rfl

/-- In a handler a completion leaves the interrupted flows. -/
theorem Gang.finish_body (h : g.hand.isSome = true) (x : Ex) (pc : Dword) :
    ((g.finish x pc).body.flows, (g.finish x pc).body.parted) = (g.body.flows, g.body.parted) := by
  have hkeep : ∀ f f' : Body → Body, let b := ((x.trailed (g.modAct f)).modAct f').body;
      (b.flows, b.parted) = (g.body.flows, g.body.parted) := by
    intro f f'
    dsimp only
    rw [Gang.modAct_body (by simpa using h), Ex.trailed_body x (by simpa using h), Gang.modAct_body h]
  unfold Gang.finish
  dsimp only
  split
  · rw [Gang.addPending_body]
    exact hkeep _ _
  · exact hkeep _ _

end

/-! ### The flow that an access to windows and masks means (R145, R151) -/

/-- The number of that flow in the gang's own body. -/
def Ex.targetIx (x : Ex) (l : Nat) : Nat :=
  match x.g.hand with
  | some _ => x.g.body.fi (l / 4)
  | none => x.fi

/-- Two lanes mean the same flow. -/
theorem Ex.same_target (x : Ex) (i j : Nat) :
    (x.g.hand.isNone || !x.g.body.parted || i / 4 == j / 4) = decide (x.targetIx i = x.targetIx j) := by
  unfold Ex.targetIx Body.fi
  cases x.g.hand <;> cases x.g.body.parted <;> simp; rfl

theorem Gang.modTarget_eq {x : Ex} {g : Gang} (hh : g.hand.isSome = x.g.hand.isSome)
    (hp : x.g.hand.isSome = true → g.body.parted = x.g.body.parted) (l : Nat) (f : Flow → Flow) :
    g.modTarget x.fi l f = { g with body := g.body.modFlow (x.targetIx l) f } := by
  unfold Gang.modTarget Ex.targetIx Body.fi
  cases hg : g.hand <;> cases hx : x.g.hand <;> simp_all

/-- Updates of the flows that some lanes mean. -/
def Body.modTargets (F : Nat → Nat) (put : Nat → Flow → Flow) (leads : List Nat) (b : Body) : Body :=
  leads.foldl (fun b i => b.modFlow (F i) (put i)) b

theorem Gang.foldl_modTarget {x : Ex} (put : Nat → Flow → Flow) (leads : List Nat) {g : Gang} (hh : g.hand.isSome = x.g.hand.isSome)
    (hp : x.g.hand.isSome = true → g.body.parted = x.g.body.parted) :
    leads.foldl (fun g i => g.modTarget x.fi i (put i)) g = { g with body := g.body.modTargets x.targetIx put leads } := by
  induction leads generalizing g with
  | nil => rfl
  | cons i l ih =>
    rw [List.foldl_cons, Gang.modTarget_eq hh hp]
    exact ih (g := { g with body := g.body.modFlow (x.targetIx i) (put i) }) hh hp

section
variable {F : Nat → Nat} {put : Nat → Flow → Flow}

theorem Body.flow_modTargets_keeps {α : Type} (p : Flow → α) (h : ∀ i y, p (put i y) = p y) (leads : List Nat) (b : Body) (k : Nat) :
    p ((b.modTargets F put leads).flow k) = p (b.flow k) :=
  foldl_keeps (fun b : Body => p (b.flow k)) _ (fun b i => Body.flow_modFlow_keeps p (h i) b (F i) k) leads b

theorem Body.flow_modFlow_other {n k : Nat} (h : n ≠ k) (b : Body) (f : Flow → Flow) : (b.modFlow n f).flow k = b.flow k := by
  simp only [Body.flow, Body.modFlow, List.getD_eq_getElem?_getD, modNth_getElem?, if_neg h.symm]

theorem Body.flow_modTargets_other {leads : List Nat} {k : Nat} (h : ∀ i ∈ leads, F i ≠ k) (b : Body) :
    (b.modTargets F put leads).flow k = b.flow k := by
  induction leads generalizing b with
  | nil => rfl
  | cons i l ih =>
    refine (ih (fun j hj => h j (by simp [hj])) _).trans ?_
    exact Body.flow_modFlow_other (h i (by simp)) _ _

/-- A flow that one of the lanes means. -/
theorem Body.flow_modTargets {leads : List Nat} (hn : (leads.map F).Nodup) {i : Nat} (hi : i ∈ leads) {b : Body}
    (hlt : F i < b.flows.length) : (b.modTargets F put leads).flow (F i) = put i (b.flow (F i)) := by
  induction leads generalizing b with
  | nil => simp at hi
  | cons j l ih =>
    simp only [List.map_cons, List.nodup_cons, List.mem_map, not_exists, not_and] at hn
    obtain ⟨hj, hn⟩ := hn
    rcases List.mem_cons.mp hi with rfl | hi
    · refine (Body.flow_modTargets_other hj _).trans ?_
      rw [Body.flow_modFlow _ _ _ _ hlt, if_pos rfl]
    · refine (ih hn hi (b := b.modFlow (F j) (put j)) (by simpa using hlt)).trans ?_
      rw [Body.flow_modFlow_other fun he => hj i hi he.symm]

end

/-! ### The first lane of each flow -/

/-- The lanes of a list that no earlier one shares its flow with. -/
def firstsOf (F : Nat → Nat) (l : List Nat) : List Nat := l.filter fun i => l.find? (fun j => decide (F i = F j)) == some i

theorem firstsOf_nodup (F : Nat → Nat) {l : List Nat} (hn : l.Nodup) : ((firstsOf F l).map F).Nodup := by
  refine List.Nodup.map_on (fun i hi j hj he => ?_) (hn.filter _)
  have hi := (List.mem_filter.mp hi).2
  have hj := (List.mem_filter.mp hj).2
  rw [he] at hi
  exact Option.some.inj ((eq_of_beq hi).symm.trans (eq_of_beq hj))

/-- Each lane shares its flow with one of the first lanes. -/
theorem firstsOf_covers (F : Nat → Nat) {l : List Nat} {k : Nat} (hk : k ∈ l) :
    ∃ i ∈ firstsOf F l, F i = F k ∧ l.find? (fun j => decide (F j = F k)) = some i := by
  obtain ⟨i, hi⟩ := Option.isSome_iff_exists.mp (List.find?_isSome.mpr ⟨k, hk, by simp⟩ : (l.find? fun j => decide (F j = F k)).isSome)
  have he : F i = F k := by simpa using List.find?_some hi
  refine ⟨i, List.mem_filter.mpr ⟨List.mem_of_find?_eq_some hi, ?_⟩, he, hi⟩
  rw [he]
  have : (fun j => decide (F k = F j)) = fun j => decide (F j = F k) := by
    funext j
    simp [eq_comm]
  rw [this, hi]
  exact beq_self_eq_true _

/-! ### The accesses -/

section
variable {i : Instr} {s : State} {x : Ex} (hr : Ready i s x)
include hr

theorem Ex.target'_eq (l : Nat) : x.target' l = x.g.body.flow (x.targetIx l) := by
  unfold Ex.target' Ex.targetIx
  cases hh : x.g.hand with
  | some k => rfl
  | none =>
    change x.fl = x.g.body.flow x.fi
    rw [hr.flow, hr.body, Gang.act_of_no_hand hh]

theorem Ready.set_nodup : x.set.Nodup := by
  rw [hr.set]
  refine List.Nodup.filter _ ?_
  unfold Ex.lanes Body.lanes
  split
  · simp
  · exact List.nodup_range

/-- The flow that a lane means exists where it does in the interrupted gang. -/
theorem Ready.targetIx_lt {l : Nat} (h : x.g.hand = none ∨ x.g.body.fi (l / 4) < x.g.body.flows.length) (pc : Dword) :
    x.targetIx l < (x.g.finish x pc).body.flows.length := by
  cases hh : x.g.hand with
  | some k =>
    have hb := Gang.finish_body (g := x.g) (by simp [hh]) x pc
    rw [Prod.mk.injEq] at hb
    rw [hb.1, Ex.targetIx, hh]
    exact h.resolve_left (by simp [hh])
  | none =>
    have hf := Gang.finish_hand_none hh x pc
    rw [← Gang.act_of_no_hand hf, hr.finish_flows_length, Ex.targetIx, hh]
    exact hr.flow_lt

/-- A completion that leaves the window keeps what an access to windows and masks sees. -/
theorem Ready.finish_target (hi : i.resets = false) (l : Nat) (pc : Dword) :
    let y := (x.g.finish x pc).body.flow (x.targetIx l)
    (y.xm, y.stack, y.win) = ((x.target' l).xm, (x.target' l).stack, (x.target' l).win) := by
  cases hh : x.g.hand with
  | some k =>
    have hb := Gang.finish_body (g := x.g) (by simp [hh]) x pc
    rw [Prod.mk.injEq] at hb
    rw [Ex.target'_eq hr, Body.flow, Body.flow, hb.1]
  | none =>
    have hf := Gang.finish_hand_none hh x pc
    rw [← Gang.act_of_no_hand hf, Ex.targetIx, Ex.target', hh]
    dsimp only
    rw [hr.finish_flow, Ex.resetsNow_of_not_resets (hr.instr ▸ hi)]
    rfl

/-- What becomes of the gang when an access updates the flows that some lanes mean. -/
theorem Ready.after_targets {t : State} {put : Nat → Flow → Flow} {leads : List Nat} {pc : Dword} (hpc : ∀ i y, (put i y).pc = y.pc)
    (ht : x.after t = { x.g.finish x pc with body := (x.g.finish x pc).body.modTargets x.targetIx put leads }) :
    (x.flowAfter t).pc = pc ∧ ∀ l, (if x.g.hand = none then x.flowAfter t else (x.after t).body.flow (x.g.body.fi (l / 4))) =
      ((x.g.finish x pc).body.modTargets x.targetIx put leads).flow (x.targetIx l) := by
  have hfin : ((x.g.finish x pc).act.flow x.fi).pc = pc := by rw [hr.finish_flow]; rfl
  have hsome := Gang.finish_hand_isSome (g := x.g) x pc
  cases hh : x.g.hand with
  | none =>
    have hf := Gang.finish_hand_none hh x pc
    have hflow : x.flowAfter t = ((x.g.finish x pc).body.modTargets x.targetIx put leads).flow x.fi := by
      rw [Ex.flowAfter, ht, Gang.act, hf]
    refine ⟨?_, fun l => ?_⟩
    · rw [hflow, Body.flow_modTargets_keeps (·.pc) hpc, ← Gang.act_of_no_hand hf]
      exact hfin
    · rw [if_pos rfl, hflow, Ex.targetIx, hh]
  | some k =>
    refine ⟨?_, fun l => ?_⟩
    · obtain ⟨k', hk'⟩ := Option.isSome_iff_exists.mp (hsome.trans (by simp [hh]))
      rw [Gang.act, hk'] at hfin
      rw [Ex.flowAfter, ht, Gang.act, hk']
      exact hfin
    · rw [if_neg (by simp), ht, Ex.targetIx, hh]

end

/-! ### WINRD and WINWR (R150, R360) -/

/-- An instruction of another class than CTL that is none of the waits leaves the window (R144). -/
theorem cls_six {i : Instr} {h : Hdr} {idx : BitVec 6} {m : BitVec 4} {y : BitVec 5} {d a b c : BitVec 8} {kp : Bool}
    (he : encode i.core = encLong h 6 idx m y d a b c kp) : i.cls = 6 := Instr.cls_of_encode he

section
variable {h : Hdr} {k : Fin 9} {d : Opnd} {s : State} {x : Ex}

theorem winwr_resets (h : Hdr) (k : Fin 9) (d : Opnd) : (Instr.winwr h k d).resets = false := by
  simp [Instr.resets, cls_six (i := .winwr h k d) rfl]

/-- What WINWR does to the flow that a lane means (R150). -/
def Ex.winPut (x : Ex) (k lead : Nat) (f : Flow) : Flow :=
  if k = 0 then { f with win := setMap f.win (x.lv 0 lead).v }
  else { f with win := modNth (fun z => ⟨true, z.lanes.mapIdx fun i y =>
    if x.inSet i && decide (x.targetIx lead = x.targetIx i) then x.lv 0 i else y⟩) f.win (k - 1) }

/-- The lanes that name the flows WINWR acts on (R150). -/
def Ex.winLeads (x : Ex) (k : Nat) : List Nat :=
  if k != 0 && x.set.isEmpty && !(x.g.hand.isSome && x.g.body.parted) then [0] else firstsOf x.targetIx x.set

theorem Ready.winwr_writes (hr : Ready (.winwr h k d) s x) : exec (.winwr h k d) s = .next (s.modGang x.ag.core x.ag.slot fun g =>
    (x.winLeads k.val).foldl (fun g i => g.modTarget x.fi i (x.winPut k.val i)) (g.finish x x.next)) := by
  refine (issue_of_ready hr (Ex.winwr k.val)).trans ?_
  unfold Ex.winwr
  simp only [Ex.same_target, beq_iff_eq]
  rw [Ex.check_nil hr.full, hr.state]
  rfl

theorem Ex.winPut_keeps (x : Ex) (k i : Nat) (y : Flow) : (x.winPut k i y).pc = y.pc := by
  unfold Ex.winPut; split <;> rfl

theorem Ready.winwr_after (hr : Ready (.winwr h k d) s x) : ∃ t, exec (.winwr h k d) s = .next t ∧ OnlyCore x.ag.core s t ∧
    x.after t = { x.g.finish x x.next with
      body := (x.g.finish x x.next).body.modTargets x.targetIx (x.winPut k.val) (x.winLeads k.val) } := by
  refine ⟨_, hr.winwr_writes, hr.only_modGang _, ?_⟩
  refine (hr.after_modGang _ fun g => ?_).trans ?_
  · refine (foldl_keeps (fun g : Gang => g.slot) _ (fun g i => ?_) _ _).trans (Gang.finish_slot g x _)
    unfold Gang.modTarget
    split <;> rfl
  · refine Gang.foldl_modTarget _ _ (Gang.finish_hand_isSome x _) fun hh => ?_
    have hb := Gang.finish_body hh x x.next
    rw [Prod.mk.injEq] at hb
    exact hb.2

/-- The slots that WINWR leaves (R150). -/
theorem Ex.winPut_slot {x : Ex} {k i n : Nat} {y : Flow} {z : Slot} (hz : y.win[n]? = some z) : (x.winPut k i y).win[n]? = some (
    if k = 0 then { z with full := (x.lv 0 i).v.getLsbD n }
    else if n + 1 = k then ⟨true, z.lanes.mapIdx fun l y => if x.inSet l && decide (x.targetIx i = x.targetIx l) then x.lv 0 l else y⟩
    else z) := by
  unfold Ex.winPut
  by_cases hk : k = 0
  · simp [hk, setMap, hz, bitOf]
  · simp only [hk, if_false, modNth_getElem?, hz, Option.map_some]
    have : (n = k - 1) = (n + 1 = k) := by
      rw [eq_iff_iff]
      omega
    simp only [this]
    split <;> rfl

/-- A slot of the flow that a lane means, after WINWR. -/
theorem Ready.winwr_slot (hr : Ready (.winwr h k d) s x) {t : State} {lead l n : Nat} {z : Slot}
    (hafter : x.after t = { x.g.finish x x.next with
      body := (x.g.finish x x.next).body.modTargets x.targetIx (x.winPut k.val) (x.winLeads k.val) })
    (hn : ((x.winLeads k.val).map x.targetIx).Nodup) (hlead : lead ∈ x.winLeads k.val) (he : x.targetIx lead = x.targetIx l)
    (hthere : x.g.hand = none ∨ x.g.body.fi (l / 4) < x.g.body.flows.length) (hz : (x.target' l).win[n]? = some z) :
    (if x.g.hand = none then x.flowAfter t else (x.after t).body.flow (x.g.body.fi (l / 4))).win[n]? = some (
      if k.val = 0 then { z with full := (x.lv 0 lead).v.getLsbD n }
      else if n + 1 = k.val then
        ⟨true, z.lanes.mapIdx fun i y => if x.inSet i && decide (x.targetIx l = x.targetIx i) then x.lv 0 i else y⟩
      else z) := by
  have hput := Body.flow_modTargets (put := x.winPut k.val) hn hlead (by rw [he]; exact hr.targetIx_lt hthere x.next)
  have hwin := hr.finish_target (winwr_resets h k d) l x.next
  simp only [Prod.mk.injEq] at hwin
  rw [(hr.after_targets (fun i y => x.winPut_keeps k.val i y) hafter).2 l, ← he, hput, he, Ex.winPut_slot (hwin.2.2 ▸ hz)]
  simp only [he]

/-! ### MSKRD and MSKWR (R151) -/

theorem Ready.mskrd_reads {tgt : Bool} {e : BitVec 5} (hr : Ready (.mskrd h tgt e d) s x) {l : Nat} (hl : x.set.head? = some l)
    (he : tgt = true ∨ e.toNat < (x.target' l).msd) :
    exec (.mskrd h tgt e d) s = .next (x.written s x.inSet [List.replicate x.w
      ⟨if tgt then (x.target' l).xm else (x.target' l).entry e.toNat, false⟩]) := by
  refine (issue_of_ready hr (Ex.mskrd tgt e)).trans ?_
  have hset : x.set.isEmpty = false := by
    cases hs : x.set with
    | nil => simp [hs] at hl
    | cons => rfl
  have hin : (!tgt && decide ((x.target' l).msd ≤ e.toNat)) = false := by
    rcases he with rfl | he
    · rfl
    · simp [he]
  simp only [Ex.mskrd, Ex.lowest, hl, Option.getD_some, hset, Bool.false_and, Bool.not_false, Bool.true_and, hin, Bool.false_eq_true,
    if_false]
  rw [Ex.check_nil hr.full, hr.state]
  rfl

variable {op : MskOp} {e : BitVec 5}

theorem mskwr_resets (h : Hdr) (op : MskOp) (e : BitVec 5) (d : Opnd) : (Instr.mskwr h op e d).resets = false := by
  simp [Instr.resets, cls_six (i := .mskwr h op e d) rfl]

theorem Ready.mskwr_none (hr : Ready (.mskwr h op e d) s x) (hs : x.set = []) :
    exec (.mskwr h op e d) s = .next (x.ended s x.next) := by
  refine (issue_of_ready hr (Ex.mskwr op e)).trans ?_
  simp only [Ex.mskwr, Ex.lowest, hs, List.head?_nil]
  rw [Ex.check_nil hr.full, hr.state]
  rfl

/-- What MSKWR does to the flow that lane l means (R151). -/
def Ex.maskPut (x : Ex) (op : MskOp) (e : BitVec 5) (l : Nat) : Flow → Flow := mskWrite op e.toNat (x.lv 0 l).v (x.targetLanes l)

theorem Ex.maskPut_keeps (x : Ex) (op : MskOp) (e : BitVec 5) (l : Nat) (f : Flow) :
    (x.maskPut op e l f).pc = f.pc ∧ (x.maskPut op e l f).run = f.run := by
  unfold Ex.maskPut
  cases op <;> exact ⟨rfl, rfl⟩

theorem Ex.maskPut_congr {x : Ex} {op : MskOp} {e : BitVec 5} {l : Nat} {y z : Flow}
    (h : (y.xm, y.stack, y.win) = (z.xm, z.stack, z.win)) :
    ((x.maskPut op e l y).xm, (x.maskPut op e l y).stack) = ((x.maskPut op e l z).xm, (x.maskPut op e l z).stack) := by
  simp only [Prod.mk.injEq] at h
  obtain ⟨hxm, hstack, -⟩ := h
  unfold Ex.maskPut
  cases op <;> simp [mskWrite, hxm, hstack]

/-- The gang that MSKWR leaves, before an agent without a live lane ends. -/
def Ex.masked (x : Ex) (op : MskOp) (e : BitVec 5) (l : Nat) (g : Gang) : Gang :=
  (g.finish x x.next).modTarget x.fi l (x.maskPut op e l)

theorem Ready.mskwr_writes (hr : Ready (.mskwr h op e d) s x) {l : Nat} (hl : x.set.head? = some l)
    (hok : mskRaised op e.toNat (x.target' l).msd x.targetFloor = []) : exec (.mskwr h op e d) s =
      .next (let t := s.modGang x.ag.core x.ag.slot (x.masked op e l)
        if x.g.hand.isSome then t else t.settleGang x.ag.core x.ag.slot) := by
  refine (issue_of_ready hr (Ex.mskwr op e)).trans ?_
  simp only [Ex.mskwr, Ex.lowest, hl, hok]
  rw [Ex.check_nil hr.full, hr.state]
  rfl

theorem Ready.masked_gang (hr : Ready (.mskwr h op e d) s x) (l : Nat) :
    (s.modGang x.ag.core x.ag.slot (x.masked op e l)).gang? x.ag.core x.ag.slot = some { x.g.finish x x.next with
      body := (x.g.finish x x.next).body.modTargets x.targetIx (fun _ => x.maskPut op e l) [l] } := by
  refine (hr.gang_after _ fun g => ?_).trans (congrArg some ?_)
  · rw [Ex.masked, Gang.modTarget]
    split <;> exact Gang.finish_slot g x _
  · refine Gang.modTarget_eq (Gang.finish_hand_isSome x _) (fun hh => ?_) _ _
    have hb := Gang.finish_body hh x x.next
    rw [Prod.mk.injEq] at hb
    exact hb.2

/-- An agent with a live lane goes on: nothing of it ends or joins (R129, R172). -/
theorem State.settleGang_live {s : State} {r : CoreRef} {slot fi : Nat} {g : Gang} (hg : s.gang? r slot = some g)
    (hfi : fi < g.act.flows.length) (hrun : (g.act.flow fi).run = .ready) (hlive : (g.act.flow fi).live ≠ 0) :
    ∃ g', (s.settleGang r slot).gang? r slot = some g' ∧ g'.act.flow fi = g.act.flow fi ∧
      g'.hand.isSome = g.hand.isSome ∧ OnlyCore r s (s.settleGang r slot) := by
  have hflow : g.act.flows[fi]? = some (g.act.flow fi) := by simp [Body.flow, hfi]
  have hmem : g.act.flow fi ∈ g.act.flows := List.mem_of_getElem? hflow
  have hdead : g.act.dead = false := by
    rw [Body.dead, List.all_eq_false]
    exact ⟨_, hmem, by simpa [hrun] using hlive⟩
  have hend : g.act.endDead.flow fi = g.act.flow fi := by
    simp [Body.endDead, Body.flow, hfi]
    intro h0
    exact absurd (by simpa [Body.flow, hfi] using h0) hlive
  have hjoins : g.act.endDead.joins = false := by
    have hmem' : g.act.flow fi ∈ g.act.endDead.flows := by
      rw [← hend]
      exact List.mem_of_getElem? (by simp [Body.flow, Body.endDead, hfi] : g.act.endDead.flows[fi]? = some (g.act.endDead.flow fi))
    have : (g.act.endDead.flows.all Flow.atJoin) = false := by
      rw [List.all_eq_false]
      exact ⟨_, hmem', by simp [Flow.atJoin, hrun]⟩
    simp [Body.joins, this]
  have hjoin : g.act.endDead.join g.width = g.act.endDead := by
    unfold Body.join
    dsimp only
    split
    · rfl
    · simp [hjoins]
  have heq : s.settleGang r slot = s.modGang r slot fun k => k.modAct fun b => b.endDead.join k.width := by
    simp only [State.settleGang, hg, hdead, hjoins, Bool.false_eq_true, if_false, Bool.false_and]
  refine ⟨_, by rw [heq]; exact State.gang?_modGang_same hg (by exact fun k => Gang.modAct_slot k _), ?_, Gang.modAct_hand_isSome _, ?_⟩
  · rw [Gang.act_modAct, hjoin, hend]
  · rw [heq]
    exact State.only_modCore _ (fun _ => rfl) (by simp [State.core?_of_gang? hg])

/-- The flow that lane l means, after MSKWR. -/
theorem Ready.masked_flow (hr : Ready (.mskwr h op e d) s x) {l : Nat}
    (hthere : x.g.hand = none ∨ x.g.body.fi (l / 4) < x.g.body.flows.length) :
    let y := ((x.g.finish x x.next).body.modTargets x.targetIx (fun _ => x.maskPut op e l) [l]).flow (x.targetIx l)
    y = x.maskPut op e l ((x.g.finish x x.next).body.flow (x.targetIx l)) ∧
    (y.xm, y.stack) = ((x.maskPut op e l (x.target' l)).xm, (x.maskPut op e l (x.target' l)).stack) := by
  have hput := Body.flow_modTargets (F := x.targetIx) (put := fun _ => x.maskPut op e l) (leads := [l]) (by simp)
    (List.mem_singleton_self l) (hr.targetIx_lt hthere x.next)
  refine ⟨hput, ?_⟩
  rw [hput]
  exact Ex.maskPut_congr (hr.finish_target (mskwr_resets h op e d) l x.next)

/-- Outside a handler the agent goes on where a lane stays live. -/
theorem Ready.mskwr_own (hr : Ready (.mskwr h op e d) s x) {l : Nat} (hh : x.g.hand = none)
    (hlive : (x.maskPut op e l (x.target' l)).live ≠ 0) :
    let t := (s.modGang x.ag.core x.ag.slot (x.masked op e l)).settleGang x.ag.core x.ag.slot
    OnlyCore x.ag.core s t ∧ (x.flowAfter t).pc = x.next ∧
      ((x.flowAfter t).xm, (x.flowAfter t).stack) = ((x.maskPut op e l (x.target' l)).xm, (x.maskPut op e l (x.target' l)).stack) := by
  have hgang := hr.masked_gang l
  have hnone := Gang.finish_hand_none hh x x.next
  have hix : x.targetIx l = x.fi := by rw [Ex.targetIx, hh]
  obtain ⟨hflow, hsame⟩ := hr.masked_flow (l := l) (.inl hh)
  have hlen := hr.targetIx_lt (l := l) (.inl hh) x.next
  rw [hix] at hflow hsame hlen
  have hready : ((x.g.finish x x.next).body.flow x.fi).run = .ready ∧ ((x.g.finish x x.next).body.flow x.fi).pc = x.next := by
    rw [← Gang.act_of_no_hand hnone, hr.finish_flow]
    exact ⟨rfl, rfl⟩
  obtain ⟨G, hG⟩ : ∃ G : Gang, G = { x.g.finish x x.next with
    body := (x.g.finish x x.next).body.modTargets x.targetIx (fun _ => x.maskPut op e l) [l] } := ⟨_, rfl⟩
  rw [← hG] at hgang
  have hact : G.act = (x.g.finish x x.next).body.modTargets x.targetIx (fun _ => x.maskPut op e l) [l] := by
    rw [hG, Gang.act, hnone]
  rw [← hact] at hflow hsame
  have hrun : (G.act.flow x.fi).run = .ready := by rw [hflow, (x.maskPut_keeps _ _ _ _).2, hready.1]
  have hlive' : (G.act.flow x.fi).live ≠ 0 := by
    rw [Prod.mk.injEq] at hsame
    rw [Flow.live, hsame.1, hsame.2]
    exact hlive
  obtain ⟨g', hg', hact', -, honly⟩ := State.settleGang_live hgang (by rw [hact]; simpa [Body.modTargets] using hlen) hrun hlive'
  have hafter : x.flowAfter ((s.modGang x.ag.core x.ag.slot (x.masked op e l)).settleGang x.ag.core x.ag.slot) = G.act.flow x.fi := by
    rw [Ex.flowAfter, Ex.after_of_gang hg', hact']
  refine ⟨(hr.only_modGang _).trans honly, ?_, ?_⟩
  · rw [hafter, hflow, (x.maskPut_keeps _ _ _ _).1, hready.2]
  · rw [hafter]
    exact hsame

theorem Ready.mskwr_after (hr : Ready (.mskwr h op e d) s x) {l : Nat} (hl : x.set.head? = some l)
    (hthere : x.g.hand = none ∨ x.g.body.fi (l / 4) < x.g.body.flows.length)
    (hok : mskRaised op e.toNat (x.target' l).msd x.targetFloor = [])
    (hlive : x.g.hand ≠ none ∨ (x.maskPut op e l (x.target' l)).live ≠ 0) :
    ∃ t, exec (.mskwr h op e d) s = .next t ∧ OnlyCore x.ag.core s t ∧ (x.flowAfter t).pc = x.next ∧
      let y := if x.g.hand = none then x.flowAfter t else (x.after t).body.flow (x.g.body.fi (l / 4))
      (y.xm, y.stack) = ((x.maskPut op e l (x.target' l)).xm, (x.maskPut op e l (x.target' l)).stack) := by
  have hexec := hr.mskwr_writes hl hok
  cases hh : x.g.hand with
  | some k =>
    rw [hh, Option.isSome_some, if_pos rfl] at hexec
    obtain ⟨hpc, hplace⟩ := hr.after_targets (fun _ y => (x.maskPut_keeps op e l y).1) (Ex.after_of_gang (hr.masked_gang l))
    refine ⟨_, hexec, hr.only_modGang _, hpc, ?_⟩
    have := hplace l
    rw [hh] at this
    rw [this]
    exact (hr.masked_flow hthere).2
  | none =>
    rw [hh, Option.isSome_none, if_neg (by simp)] at hexec
    obtain ⟨honly, hpc, hflow⟩ := hr.mskwr_own hh (hlive.resolve_left (by simp [hh]))
    exact ⟨_, hexec, honly, hpc, by simpa using hflow⟩

/-- The row that WINRD reads (R150). -/
def Ex.winRow (x : Ex) (k : Nat) : Lanes := (upTo x.w).map fun l =>
  if k = 0 then ⟨fullMap (x.target' l).win, false⟩
  else if ((x.target' l).win.getD (k - 1) ⟨false, []⟩).full then laneAt ((x.target' l).win.getD (k - 1) ⟨false, []⟩).lanes l
  else ⟨0, false⟩

theorem Ready.winrd_reads (hr : Ready (.winrd h k d) s x) : exec (.winrd h k d) s =
    .next (s.modGang x.ag.core x.ag.slot fun g => (g.finish x x.next).writeD h.nw d x.inSet [x.winRow k.val]) := by
  refine (issue_of_ready hr (Ex.winrd k.val)).trans ?_
  have hn := hr.info_eq (n := .res h true [(d, .dst 1)]) rfl
  have hq : (if k.val = 0 then (x.winRow k.val, x.s) else x.storedRead (x.winRow k.val)) = (x.winRow k.val, s) := by
    split
    · rw [hr.state]
    · exact hr.storedRead (cls_six (i := .winrd h k d) rfl).ge _
  have hgo : Ex.winrd k.val x = x.check [] (.next ((x.winRow k.val, s).2.modGang x.ag.core x.ag.slot fun g =>
      (g.finish x x.next).writeD x.n.h.nw x.n.dest x.inSet [(x.winRow k.val, s).1])) := by
    rw [← hq]
    simp only [Ex.winrd, beq_iff_eq]
    rfl
  rw [hgo, hn]
  exact Ex.check_nil hr.full _

end

/-! ### FRMQ and FRMRD (R136, R152, R153) -/

section
variable {h : Hdr} {dw : Fin 5} {d a b : Opnd} {s : State} {x : Ex}

theorem pushWin_zeros (win : List Slot) (w : Nat) : pushWin win (fun _ => false) (zeroLanes w) = ⟨true, zeroLanes w⟩ :: win.take 7 := by
  have : (zeroLanes w).mapIdx (fun i y => if (fun _ : Nat => false) i then y else (⟨0, false⟩ : LV)) = zeroLanes w := by
    apply List.ext_getElem
    · simp
    · intro n h1 h2
      simp [zeroLanes]
  rw [pushWin, this]

/-- What an instruction that does nothing leaves: zeros pushed on the window, no frame and no register changed but by its pops. -/
theorem Ready.nothing_after {i : Instr} (hr : Ready i s x) (hi : i.resets = false) (n : Nat) :
    ∃ t, x.nothing n = .next t ∧ OnlyCore x.ag.core s t ∧ (x.flowAfter t).pc = x.next ∧ (x.after t).act.frames = x.popped.frames ∧
      (x.after t).act.grans = x.popped.grans ∧
      (x.flowAfter t).win = (List.replicate n (zeroLanes x.w)).foldl (fun w r => pushWin w (fun _ => false) r) x.fl.win := by
  have hafter := hr.after_modGang (fun g => (g.finish x x.next).pushes x (fun _ => false) (List.replicate n (zeroLanes x.w)))
    fun g => (Gang.modAct_slot _ _).trans (Gang.finish_slot g x _)
  have hflow := hr.finish_flow x.next
  rw [Ex.resetsNow_of_not_resets (hr.instr ▸ hi)] at hflow
  have hact := hr.finish_act hi x.next
  have hpushed : x.flowAfter (s.modGang x.ag.core x.ag.slot fun g =>
      (g.finish x x.next).pushes x (fun _ => false) (List.replicate n (zeroLanes x.w))) =
        { x.fl.completed x.next with win :=
          if x.i.resets then resetWin ((List.replicate n (zeroLanes x.w)).foldl (fun w r => pushWin w (fun _ => false) r) x.fl.win)
          else (List.replicate n (zeroLanes x.w)).foldl (fun w r => pushWin w (fun _ => false) r) x.fl.win } := by
    rw [Ex.flowAfter, hafter, Gang.pushes, Gang.act_modAct,
      Body.flow_modFlow _ _ _ _ (by rw [hr.finish_flows_length]; exact hr.flow_lt), if_pos rfl, hflow]
    rfl
  refine ⟨_, by rw [Ex.nothing, hr.state], hr.only_modGang _, ?_, ?_, ?_, ?_⟩
  · rw [hpushed]
    rfl
  · rw [hafter, Gang.pushes, Gang.act_modAct, Body.modFlow_frames, hact]
    rfl
  · rw [hafter, Gang.pushes, Gang.act_modAct, Body.modFlow_grans, hact]
    rfl
  · rw [hpushed, hr.instr, hi]
    rfl

theorem laneAt_zeroLanes {w l : Nat} (h : l < w) : laneAt (zeroLanes w) l = ⟨0, false⟩ := by
  simp [laneAt, zeroLanes, h]

theorem frmq_resets (h : Hdr) (dw : Fin 5) (d a : Opnd) : (Instr.frmq h dw d a).resets = false := by
  simp [Instr.resets, cls_six (i := .frmq h dw d a) rfl]

theorem frmrd_resets (h : Hdr) (d a b : Opnd) : (Instr.frmrd h d a b).resets = false := by
  simp [Instr.resets, cls_six (i := .frmrd h d a b) rfl]

theorem Ready.frmq_nothing (hr : Ready (.frmq h dw d a) s x) (hs : x.set = []) : exec (.frmq h dw d a) s = x.nothing 2 := by
  refine (issue_of_ready hr (Ex.frmq dw.val)).trans ?_
  simp only [Ex.frmq, hs, List.isEmpty_nil, if_true]

theorem Ready.frmrd_nothing (hr : Ready (.frmrd h d a b) s x) (hs : x.set = []) : exec (.frmrd h d a b) s = x.nothing 1 := by
  refine (issue_of_ready hr Ex.frmrd).trans ?_
  simp only [Ex.frmrd, hs, List.isEmpty_nil, if_true]

theorem Ex.framesSeen_eq (x : Ex) : x.framesSeen = if x.g.hand = none then x.popped else x.g.body := by
  unfold Ex.framesSeen
  cases x.g.hand <;> simp

section
variable {l : Nat} {f : Frame} {rest : List Frame} (hl : x.set.head? = some l) (hlt : (x.lv 1 l).v.toNat < x.framesSeen.frames.length)
  (hf : x.framesSeen.framesFrom (x.lv 1 l).v.toNat = f :: rest)
include hl

theorem Ex.set_of_head : x.set.isEmpty = false := by
  cases hs : x.set with
  | nil => simp [hs] at hl
  | cons => rfl

theorem Ex.frameIx_of_head : x.frameIx = (x.lv 1 l).v.toNat := by
  simp [Ex.frameIx, Ex.lowest, hl]

include hlt hf

theorem Ex.frameRaised_nil {row : Nat} (hrow : row < 8 * f.ngr) : x.frameRaised row = [] := by
  simp only [Ex.frameRaised, Ex.frameIx_of_head hl, hf, List.headD_cons]
  rw [if_neg]
  simp
  omega

theorem Ready.frmq_reads (hr : Ready (.frmq h dw d a) s x) (hngr : 0 < f.ngr) : exec (.frmq h dw d a) s =
    .next (x.written s x.inSet (pairRows x.w (x.framesSeen.record (f :: rest) dw.val))) := by
  refine (issue_of_ready hr (Ex.frmq dw.val)).trans ?_
  simp only [Ex.frmq, Ex.set_of_head hl, Bool.false_eq_true, if_false, Ex.frameRaised_nil hl hlt hf (by omega : 0 < 8 * f.ngr),
    Ex.frameIx_of_head hl, hf]
  rw [Ex.check_nil hr.full, hr.state]
  rfl

theorem Ready.frmrd_reads (hr : Ready (.frmrd h d a b) s x) (hrow : (x.lv 2 l).v.toNat < 8 * f.ngr)
    (hres : (x.framesSeen.gran (granOrd (f :: rest) ((x.lv 2 l).v.toNat / 8))).resident = true) : exec (.frmrd h d a b) s =
      .next (x.written s x.inSet [x.framesSeen.rowIn (f :: rest) (x.lv 2 l).v.toNat]) := by
  refine (issue_of_ready hr Ex.frmrd).trans ?_
  simp only [Ex.frmrd, Ex.set_of_head hl, Bool.false_eq_true, if_false, Ex.lowest, hl, Option.map_some, Option.getD_some,
    Ex.frameRaised_nil hl hlt hf hrow, Ex.frameIx_of_head hl, hf, hres, if_true,
    hr.storedRead (cls_six (i := .frmrd h d a b) rfl).ge]
  rw [Ex.check_nil hr.full]
  rfl

end

end

theorem mskRaised_nil {op : MskOp} {e msd floor : Nat} (hwrite : op = .write → floor ≤ e ∧ e < msd)
    (hpop : op = .pop → floor ≤ e ∧ e ≤ msd) (hpush : op = .push → msd < 32) : mskRaised op e msd floor = [] := by
  cases op with
  | write => simp only [mskRaised, if_neg (not_le.mpr (hwrite rfl).2), if_neg (not_lt.mpr (hwrite rfl).1)]
  | pop => simp only [mskRaised, if_neg (not_lt.mpr (hpop rfl).2), if_neg (not_lt.mpr (hpop rfl).1)]
  | push => simp only [mskRaised, if_neg (not_le.mpr (hpush rfl))]
  | target => rfl

/-- The zeros that an instruction without a lane pushes. -/
theorem pushed_zeros (win : List Slot) (w : Nat) {n : Nat} (hn : n = 1 ∨ n = 2) :
    let r := (List.replicate n (zeroLanes w)).foldl (fun w r => pushWin w (fun _ => false) r) win
    r.drop n = win.take (8 - n) ∧ ∀ k < n, r[k]? = some ⟨true, zeroLanes w⟩ := by
  rcases hn with rfl | rfl
  · refine ⟨?_, fun k hk => ?_⟩
    · simp [pushWin_zeros]
    · obtain rfl : k = 0 := by omega
      simp [pushWin_zeros]
  · refine ⟨?_, fun k hk => ?_⟩
    · simp [pushWin_zeros, List.take_take]
    · rcases (by omega : k = 0 ∨ k = 1) with rfl | rfl <;> simp [pushWin_zeros]

/-- Settles O23: windows and masks go by the flow that a lane means, frames by the stack that is seen. -/
theorem windowMaskFrame : Obligations.WindowMaskFrame := by
  unfold Obligations.WindowMaskFrame
  refine ⟨fun h k tgt op e d s x => ?_, fun h dw d a b s x => ?_⟩
  · intro same place full there
    have hsame (i j : Nat) : decide (same i j) = decide (x.targetIx i = x.targetIx j) := by
      rw [← Ex.same_target]
      exact Bool.eq_iff_iff.mpr (by simp [same, or_assoc])
    refine ⟨fun hr => ⟨x.winRow k.val, hr.winrd_reads, fun l hl => laneAt_map _ _ _ hl⟩, fun hr hthere => ?_,
      fun hr hset hk hone => ?_, fun hr l hl he => hr.mskrd_reads hl he, fun hr hset => hr.mskwr_none hset, fun hr hthere l hl => ?_⟩
    · obtain ⟨t, ht, honly, hafter⟩ := hr.winwr_after
      refine ⟨t, ht, honly, (hr.after_targets (fun i y => x.winPut_keeps k.val i y) hafter).1, fun l hl n z hz => ?_⟩
      have hne : x.set.isEmpty = false := by simpa using List.ne_nil_of_mem hl
      have hleads : x.winLeads k.val = firstsOf x.targetIx x.set := by simp [Ex.winLeads, hne]
      obtain ⟨i, hi, hil, hfind⟩ := firstsOf_covers x.targetIx hl
      simp only [hsame, hfind, Option.map_some, Option.getD_some]
      exact hr.winwr_slot hafter (hleads ▸ firstsOf_nodup x.targetIx hr.set_nodup) (hleads ▸ hi) hil
        (hthere.imp_right fun h => h l hl) hz
    · obtain ⟨t, ht, honly, hafter⟩ := hr.winwr_after
      refine ⟨t, ht, honly, (hr.after_targets (fun i y => x.winPut_keeps k.val i y) hafter).1, fun n z hz => ?_⟩
      have hk0 : k.val ≠ 0 := by omega
      have hleads : x.winLeads k.val = [0] := by
        rcases hone with hh | ⟨hp, -⟩
        · simp [Ex.winLeads, hset, hk0, hh]
        · simp [Ex.winLeads, hset, hk0, hp]
      have hthere : x.g.hand = none ∨ x.g.body.fi (0 / 4) < x.g.body.flows.length := hone.imp_right fun h => by
        rw [Body.fi, h.1, h.2]
        exact Nat.one_pos
      have hkeep : (z.lanes.mapIdx fun _ y => y) = z.lanes := by
        apply List.ext_getElem <;> simp
      refine (hr.winwr_slot hafter (by simp [hleads]) (hleads ▸ List.mem_singleton_self 0) rfl hthere hz).trans ?_
      rw [if_neg hk0]
      simp [Ex.inSet, hset, hkeep]
    · intro f v lanes xm stack hok hlive
      have hput : ((x.maskPut op e l f).xm, (x.maskPut op e l f).stack) = (xm, stack) := by
        unfold Ex.maskPut
        cases op <;> simp [mskWrite, xm, stack, setNth_eq_set, f, v, lanes, Flow.msd, Ex.targetLanes, maskOf]
      rw [Prod.mk.injEq] at hput
      have hraised : mskRaised op e.toNat f.msd x.targetFloor = [] :=
        mskRaised_nil (by rintro rfl; exact hok) (by rintro rfl; exact hok) (by rintro rfl; exact hok)
      obtain ⟨t, ht, honly, hpc, hflow⟩ := hr.mskwr_after hl (hthere.imp_right fun h => h l (List.mem_of_mem_head? hl)) hraised
        (hlive.imp_right fun h => by rw [Flow.live, hput.1, hput.2]; exact h)
      rw [Prod.mk.injEq] at hflow
      exact ⟨t, ht, honly, hflow.1.trans hput.1, hflow.2.trans hput.2, hpc⟩
  · intro seen frames zeros
    have hseen : x.framesSeen = seen := x.framesSeen_eq
    have hzeros {i : Instr} (hr : Ready i s x) (hi : i.resets = false) {n : Nat} (hn : n = 1 ∨ n = 2) : zeros (x.nothing n) n := by
      obtain ⟨t, ht, honly, hpc, hframes, hgrans, hwin⟩ := hr.nothing_after hi n
      obtain ⟨hdrop, hnew⟩ := pushed_zeros x.fl.win x.w hn
      refine ⟨t, ht, honly, hpc, hframes, hgrans, by rw [hwin, hdrop], fun k hk => ⟨_, by rw [hwin, hnew k hk], rfl, fun l hl => ?_⟩⟩
      exact laneAt_zeroLanes hl
    have hfrom (n : Nat) : x.framesSeen.framesFrom n = frames n := by rw [hseen]; rfl
    refine ⟨fun hr hset => by rw [hr.frmq_nothing hset]; exact hzeros hr (frmq_resets _ _ _ _) (.inr rfl),
      fun hr hset => by rw [hr.frmrd_nothing hset]; exact hzeros hr (frmrd_resets _ _ _ _) (.inl rfl),
      fun l f rest hl hlt hf => ⟨fun hr hngr => ?_, fun hr hrow hres => ?_⟩⟩
    · rw [hr.frmq_reads hl (hseen ▸ hlt) ((hfrom _).trans hf) hngr, hseen]
      fin_cases dw <;> rfl
    · rw [hr.frmrd_reads hl (hseen ▸ hlt) ((hfrom _).trans hf) hrow (hseen ▸ hres), hseen]

end Sys2Proof.Machine

/-! ## A reeve core without a reeve (R18, R157) -/

namespace Sys2Proof.Machine

/-- A gang of a reeve core, one granule in the pool whose registers hold 1, that waits for 256 granules. -/
def unhoused : Gang :=
  { Gang.firmware 0 0 8 0 0 1 256 0 with
    body := ⟨[], [⟨List.replicate 8 (List.replicate 8 ⟨1, false⟩), true⟩],
      [{ Flow.start 8 0 with run := .frameWait 256 (some (.call plainHdr 0 .z 0)) }], false, 0, []⟩ }

/-- The core of that gang. -/
def unhousedCore : Core := { Core.idle (.reeve 0) with gangs := [unhoused], waiters := [(0, 0, 0)] }

/-- That core in a panel whose list of reeves is empty: what it writes at I stands nowhere. -/
def unhousedState : State := { State.reset with cores := [unhousedCore], reeves := [] }

/-- The waiter that the Cellar acts for. -/
def unhousedNeed : Needy := ⟨0, 256, false⟩

theorem unhoused_picks : unhousedCore.spills unhoused 256 (unhousedCore.victims unhousedNeed) = [(0, 0)] := by decide +kernel

theorem unhoused_words : unhousedState.imageWords (.reeve 0) .write (0, 0) = (List.range 64).map some := by decide +kernel

theorem unhoused_written : (unhousedState.cellarAct (.reeve 0)).map (fun t => t.wordI (.reeve 0) 0) = some ⟨0, false⟩ := by
  decide +kernel

theorem unhoused_cells : (unhoused.imageCells 0).head? = some ⟨1, false⟩ := by decide +kernel

theorem unhoused_canonical : unhousedState.canonical := by
  have hnone : unhousedState.memories = [] := rfl
  rw [State.canonical, hnone]
  exact fun m hm => absurd hm List.not_mem_nil

theorem unhoused_calm : unhousedState.calm (.reeve 0) := by
  have hlines : (unhousedState.core (.reeve 0)).l1 = [] := rfl
  refine ⟨?_, nofun⟩
  rw [hlines]
  exact fun c hc => absurd hc List.not_mem_nil

/-- Refutes O46: its clause on spills asks nothing of the memory that a reeve core writes at I, and holds of every state. On a reeve
core whose reeve the state does not list, the Cellar spills a granule, but the word at I that its image begins with reads 0, not the
register. -/
theorem not_handlerAndFrameSteps : ¬ Obligations.HandlerAndFrameSteps := by
  unfold Obligations.HandlerAndFrameSteps
  intro h
  obtain ⟨-, -, -, -, -, hspill⟩ := h unhousedState ⟨.reeve 0, 0, 0⟩ unhoused rfl
  obtain ⟨-, -, -, hspill⟩ := hspill (by decide) (by decide) unhousedNeed rfl
  have hspill := hspill unhoused rfl
  have hcore : unhousedState.core (.reeve 0) = unhousedCore := rfl
  have hneed : unhousedNeed.need = 256 := rfl
  dsimp only at hspill
  rw [hcore, hneed, unhoused_picks] at hspill
  rw [List.flatMap_singleton, unhoused_words] at hspill
  obtain ⟨t, ht, -, himage⟩ := hspill (by simp) (by simp) (List.nodup_range.map (Option.some_injective _)) rfl
    unhoused_canonical unhoused_calm (fun _ _ _ _ => rfl)
  have hzero : t.wordI (.reeve 0) 0 = ⟨0, false⟩ := by
    have := unhoused_written
    rw [ht] at this
    exact Option.some.inj this
  have hcells := congrArg List.head? (himage (0, 0) (by simp) unhoused rfl)
  rw [unhoused_words, unhoused_cells] at hcells
  have hone : t.wordI (.reeve 0) 0 = ⟨1, false⟩ := Option.some.inj hcells
  exact absurd (hzero.symm.trans hone) (by decide)

end Sys2Proof.Machine

/-! ## Agents under the writes of others (R201, R252, R253) -/

namespace Sys2Proof.Machine

/-! ### A gang but for the triggers of its monitors -/

/-- A flow whose monitor has not been triggered. -/
def Flow.unseen (f : Flow) : Flow := { f with mon := f.mon.map fun m => { m with trigger := false } }

/-- A body none of whose monitors has been triggered. -/
def Body.unseen (b : Body) : Body := { b with flows := b.flows.map Flow.unseen }

theorem Gang.unseen_eq (g : Gang) : g.unseen =
    { g with body := g.body.unseen, hand := g.hand.map fun h => { h with body := h.body.unseen } } := rfl

theorem Gang.unseen_act (g : Gang) : g.unseen.act = g.act.unseen := by
  rw [Gang.unseen_eq]
  unfold Gang.act
  cases g.hand <;> rfl

theorem Flow.unseen_trigger (sp : Space) (line : Nat) (f : Flow) : (f.trigger sp line).unseen = f.unseen := by
  unfold Flow.trigger
  split
  · next m hm =>
    split
    · simp [Flow.unseen, hm]
    · rfl
  · rfl

theorem Body.unseen_trigger (sp : Space) (line : Nat) (b : Body) :
    ({ b with flows := b.flows.map (Flow.trigger sp line) } : Body).unseen = b.unseen := by
  simp only [Body.unseen, List.map_map, Function.comp_def, Flow.unseen_trigger]

theorem Gang.unseen_trigger (sp : Space) (line : Nat) (g : Gang) : (g.trigger sp line).unseen = g.unseen := by
  simp only [Gang.unseen_eq, Gang.trigger, Option.map_map, Function.comp_def, Body.unseen_trigger]

/-- Two gangs that differ in the triggers of their monitors alone. -/
structure Gang.Alike (g g' : Gang) : Prop where
  unseen : g'.unseen = g.unseen

section
variable {g g' : Gang} (h : g.Alike g')
include h

/-- Their bodies differ in their flows' monitors alone. -/
theorem Gang.Alike.act : g'.act = { g.act with flows := g'.act.flows } ∧
    g'.act.flows.map Flow.unseen = g.act.flows.map Flow.unseen := by
  have hact := congrArg Gang.act h.unseen
  rw [Gang.unseen_act, Gang.unseen_act] at hact
  exact ⟨(congrArg (fun b : Body => { b with flows := g'.act.flows }) hact :), (congrArg Body.flows hact :)⟩

theorem Gang.Alike.width : g'.width = g.width := (congrArg Gang.width h.unseen :)

theorem Gang.Alike.getElem? (k : Nat) : (g'.act.flows[k]?).map Flow.unseen = (g.act.flows[k]?).map Flow.unseen := by
  simpa using congrArg (fun l : List Flow => l[k]?) h.act.2

end

/-! ### The agents of every core -/

/-- What a core's agents are made of, but for the triggers of their monitors: its gangs and the copies in its channels. -/
def Core.staff (c : Core) : CoreRef × List Gang × List (Nat × List Copy) := (c.ref, c.gangs.map Gang.unseen, c.chans)

/-- The agents of every core are the same in two states, but for the triggers of their monitors. -/
def SameAgents (s t : State) : Prop := t.cores.map Core.staff = s.cores.map Core.staff

theorem SameAgents.of_cores {s t : State} (h : t.cores = s.cores) : SameAgents s t := congrArg (List.map Core.staff) h

theorem SameAgents.refl (s : State) : SameAgents s s := .of_cores rfl

theorem SameAgents.trans {s t u : State} (h : SameAgents s t) (k : SameAgents t u) : SameAgents s u := Eq.trans k h

theorem SameAgents.core? {s t : State} (h : SameAgents s t) (r : CoreRef) :
    (t.core? r).map Core.staff = (s.core? r).map Core.staff := by
  have hfind (u : State) : (u.core? r).map Core.staff = (u.cores.map Core.staff).find? fun p => p.1 == r := by
    rw [List.find?_map]
    rfl
  rw [hfind, hfind, h]

theorem SameAgents.core_isSome {s t : State} (h : SameAgents s t) (r : CoreRef) : (t.core? r).isSome = (s.core? r).isSome := by
  simpa using congrArg Option.isSome (h.core? r)

/-- A gang of one state is, but for the triggers of its monitors, a gang of the other. -/
theorem SameAgents.gang? {s t : State} (h : SameAgents s t) {r : CoreRef} {slot : Nat} {g : Gang} (hg : s.gang? r slot = some g) :
    ∃ g', t.gang? r slot = some g' ∧ g.Alike g' := by
  have hfind (c : Core) : (c.gang? slot).map Gang.unseen = c.staff.2.1.find? fun g => g.slot == slot := by
    rw [Core.staff, List.find?_map]
    rfl
  have hbind (u : State) : (u.gang? r slot).map Gang.unseen =
      ((u.core? r).map Core.staff).bind fun p => p.2.1.find? fun g => g.slot == slot := by
    unfold State.gang?
    cases u.core? r with
    | none => rfl
    | some c => exact hfind c
  have hsame := hbind t
  rw [h.core? r, ← hbind s, hg] at hsame
  obtain ⟨g', hg', heq⟩ := Option.map_eq_some_iff.mp hsame
  exact ⟨g', hg', ⟨heq⟩⟩

/-- An update of a core that exists and keeps its agents. -/
theorem State.sameAgents_modCore {s : State} {r : CoreRef} {f : Core → Core} (hf : ∀ c, (f c).staff = c.staff)
    (h : (s.core? r).isSome) : SameAgents s (s.modCore r f) := by
  have hany : (s.cores.any fun c => c.ref == r) = true := by
    obtain ⟨c, hc⟩ := Option.isSome_iff_exists.mp h
    exact List.any_eq_true.mpr ⟨c, List.mem_of_find?_eq_some hc, by simpa using List.find?_some hc⟩
  simp only [SameAgents, State.modCore, hany, if_true, modify, List.map_map, List.map_inj_left, Function.comp_apply]
  intro c _
  split
  · exact hf c
  · rfl

/-! ### Writes that reach the levels D and I (R201, R252) -/

theorem State.sameAgents_trigger (s : State) (onCore : CoreRef → Bool) (onGang : Gang → Bool) (sp : Space) (word : Nat) :
    SameAgents s (s.trigger onCore onGang sp word) := by
  have hgangs (l : List Gang) : (modify onGang (Gang.trigger sp (word / 32)) l).map Gang.unseen = l.map Gang.unseen := by
    simp only [modify, List.map_map, List.map_inj_left, Function.comp_apply]
    intro g _
    split
    · exact g.unseen_trigger _ _
    · rfl
  simp only [SameAgents, State.trigger, modify, List.map_map, List.map_inj_left, Function.comp_apply]
  intro c _
  split
  · exact congrArg (fun l => (c.ref, l, c.chans)) (hgangs c.gangs)
  · rfl

theorem State.sameAgents_performI (s : State) (site : Nat) (d : DWrite) : SameAgents s (s.performI site d) :=
  SameAgents.trans (.of_cores rfl) (State.sameAgents_trigger _ _ _ _ _)

theorem State.sameAgents_drainDie (s : State) (site die n : Nat) : SameAgents s (s.drainDie site die n) := by
  induction n generalizing s with
  | zero => exact .refl s
  | succ n ih =>
    unfold State.drainDie
    split
    · exact .refl s
    · next d _ => exact ((s.sameAgents_performI site d).trans (.of_cores rfl)).trans (ih _)

theorem State.sameAgents_pushD (s : State) (site die : Nat) (ws : List DWrite) : SameAgents s (s.pushD site die ws) := by
  refine SameAgents.trans ?_ (.of_cores (State.modIsland_cores _ _ _))
  unfold State.roomD
  split
  · exact .refl s
  · exact s.sameAgents_drainDie _ _ _

section
variable {s : State} {r : CoreRef} (h : (s.core? r).isSome)
include h

theorem State.sameAgents_flushL1 (p : Sector → Bool) : SameAgents s (s.flushL1 r p) := by
  unfold State.flushL1
  split
  · exact .refl s
  · next site _ =>
    dsimp only
    have hpush : SameAgents s (if (((s.core r).l1.filter p).flatMap Sector.dirtyWrites).isEmpty then s
        else s.pushD site r.die (((s.core r).l1.filter p).flatMap Sector.dirtyWrites)) := by
      split
      · exact .refl s
      · exact s.sameAgents_pushD _ _ _
    exact hpush.trans (State.sameAgents_modCore (fun _ => rfl) (by rwa [hpush.core_isSome]))

/-- A release changes no agent (R253). -/
theorem State.sameAgents_release (l : Lvl) : SameAgents s (s.release r l) := by
  have hflush := State.sameAgents_flushL1 h fun _ => true
  unfold State.release
  split
  · exact .refl s
  cases l with
  | c => exact .refl s
  | d => exact hflush
  | i =>
    dsimp only
    split
    · exact hflush
    · exact hflush.trans (State.sameAgents_drainDie _ _ _ _)

/-- An acquire changes no agent (R253). -/
theorem State.sameAgents_acquire (l : Lvl) : SameAgents s (s.acquire r l) := by
  have hflush := State.sameAgents_flushL1 h fun _ => true
  unfold State.acquire
  split
  · exact .refl s
  · exact hflush.trans (State.sameAgents_modCore (fun _ => rfl) (by rwa [hflush.core_isSome]))

/-- What orders PART and REGANG after every earlier access changes no agent (R173). -/
theorem State.sameAgents_orderAll : SameAgents s (s.orderAll r) :=
  (State.sameAgents_release h .i).trans (State.sameAgents_acquire (by rwa [(State.sameAgents_release h .i).core_isSome]) .i)

end

end Sys2Proof.Machine

/-! ## Slices, regions and the end of a gang (R142, R143, R169 to R173) -/

namespace Sys2Proof.Machine

/-! ### Masks -/

/-- Masks are all empty where their union is. -/
theorem foldl_or_eq_zero {l : List Word} {a : Word} : l.foldl (· ||| ·) a = 0 ↔ a = 0 ∧ ∀ e ∈ l, e = 0 := by
  induction l generalizing a with
  | nil => simp
  | cons e l ih =>
    rw [List.foldl_cons, ih]
    simp [BitVec.or_eq_zero_iff, and_assoc]

/-- A flow with no live lane has no lane in any of its masks (R129). -/
theorem Flow.masks_of_dead {f : Flow} (h : f.live = 0) : f.xm = 0 ∧ ∀ e, f.stack.getD e 0 = 0 := by
  obtain ⟨hxm, hstack⟩ := foldl_or_eq_zero.mp h
  refine ⟨hxm, fun e => ?_⟩
  rw [List.getD_eq_getElem?_getD]
  cases he : f.stack[e]? with
  | none => rfl
  | some v => exact hstack v (List.mem_of_getElem? he)

/-- The union of some masks is that of those which are not empty. -/
theorem orWords_filter {α : Type} {p : α → Bool} {v : α → Word} {l : List α} (h : ∀ y ∈ l, p y = false → v y = 0) :
    orWords ((l.filter p).map v) = orWords (l.map v) := by
  unfold orWords
  generalize (0 : Word) = a
  induction l generalizing a with
  | nil => rfl
  | cons y l ih =>
    have ih := ih fun z hz => h z (List.mem_cons_of_mem _ hz)
    cases hp : p y with
    | true =>
      rw [List.filter_cons_of_pos hp]
      exact ih _
    | false =>
      rw [List.filter_cons_of_neg (by simp [hp]), ih, List.map_cons, List.foldl_cons, h y (by simp) hp]
      simp

/-! ### What a gang settles to (R142, R171, R172) -/

@[simp] theorem Body.endDead_frames (b : Body) : b.endDead.frames = b.frames := rfl
@[simp] theorem Body.endDead_grans (b : Body) : b.endDead.grans = b.grans := rfl

/-- A flow, which has ended where it has no live lane. -/
def Flow.settled (f : Flow) : Flow := { f with run := if f.live = 0 then .ended else f.run }

theorem Body.endDead_eq (b : Body) : b.endDead = { b with flows := b.flows.map Flow.settled } := by
  have hflow (f : Flow) : (if f.live == 0 then { f with run := .ended } else f) = f.settled := by
    by_cases h : f.live = 0
    · rw [if_pos (by simpa using h), Flow.settled, if_pos h]
    · rw [if_neg (by simpa using h), Flow.settled, if_neg h]
  simp only [Body.endDead, hflow]

@[simp] theorem Body.join_frames (b : Body) (w : Nat) : (b.join w).frames = b.frames := by
  unfold Body.join
  dsimp only
  split
  · rfl
  · split <;> rfl

@[simp] theorem Body.join_grans (b : Body) (w : Nat) : (b.join w).grans = b.grans := by
  unfold Body.join
  dsimp only
  split
  · rfl
  · split <;> rfl

/-- The flow of a gang whose slices join: the masks of the live ones together, the PC after the REGANG of the lowest (R172). -/
def Body.joined (b : Body) (w : Nat) (pc : Dword) : Flow :=
  let live := b.flows.filter fun f => f.run != .ended
  ⟨pc, orWords (live.map fun f => f.xm), (upTo b.pmsd).map fun e => orWords (live.map fun f => f.stack.getD e 0), emptyWin w, none,
    .ready, none, 0, false, false, b.behind, []⟩

/-- Slices that join, the lowest live one waiting at an instruction. -/
theorem Body.join_of_joins {b : Body} {f0 : Flow} {v : Wait} {i : Instr} (hj : b.joins = true)
    (h0 : (b.flows.find? fun f => f.run != .ended) = some f0) (hrun : f0.run = .wait v i) (w : Nat) :
    b.join w = { b with flows := [b.joined w (f0.pc + BitVec.ofNat 64 i.len)], parted := false, trail := [] } := by
  have hhead : (b.flows.filter fun f => f.run != .ended).head? = some f0 := by rw [List.head?_filter, h0]
  obtain ⟨rest, hlive⟩ := List.head?_eq_some_iff.mp hhead
  unfold Body.join Body.joined
  simp only [hlive, hj, hrun, Bool.not_true, Bool.false_eq_true, if_false]

theorem Body.not_dead {b : Body} {f : Flow} (hf : f ∈ b.flows) (hrun : f.run ≠ .ended) (hlive : f.live ≠ 0) : b.dead = false := by
  rw [Body.dead, List.all_eq_false]
  exact ⟨f, hf, by simpa using ⟨hrun, hlive⟩⟩

theorem Body.flow_mem {b : Body} {fi : Nat} (hfi : fi < b.flows.length) : b.flow fi ∈ b.flows := by
  rw [Body.flow, List.getD_eq_getElem?_getD, List.getElem?_eq_getElem hfi]
  exact List.getElem_mem hfi

/-- A gang of one flow has ended where that one has no live lane. -/
theorem Body.dead_of_modFlow {b : Body} {fi : Nat} {f : Flow → Flow} (hone : b.flows.length = 1) (hfi : fi < b.flows.length)
    (hlive : (f (b.flow fi)).live = 0) : (b.modFlow fi f).dead = true := by
  rw [Body.dead, List.all_eq_true]
  intro y hy
  obtain ⟨k, hk⟩ := List.mem_iff_getElem?.mp hy
  have hlt := (List.getElem?_eq_some_iff.mp hk).1
  rw [Body.modFlow_flows, modNth_length] at hlt
  obtain rfl : k = fi := by omega
  have hflow : (b.modFlow k f).flow k = y := by rw [Body.flow, List.getD_eq_getElem?_getD, hk]; rfl
  rw [Body.flow_modFlow _ _ _ _ hfi, if_pos rfl] at hflow
  simp [← hflow, hlive]

/-- A gang that has not ended settles: its dead slices end, and slices that all wait join. -/
theorem State.settleGang_lives {s : State} {r : CoreRef} {slot : Nat} {g : Gang} (hg : s.gang? r slot = some g)
    (hdead : g.act.dead = false) : ∃ g0 g', g.Alike g0 ∧ (s.settleGang r slot).gang? r slot = some g' ∧
      g'.act = g0.act.endDead.join g0.width ∧
      OnlyCore r (if g.act.endDead.joins then s.orderAll r else s) (s.settleGang r slot) := by
  have hcore : (s.core? r).isSome := by simp [State.core?_of_gang? hg]
  obtain ⟨g0, hg0, halike⟩ : ∃ g0, (if g.act.endDead.joins then s.orderAll r else s).gang? r slot = some g0 ∧ g.Alike g0 := by
    split
    · exact (State.sameAgents_orderAll hcore).gang? hg
    · exact ⟨g, hg, ⟨rfl⟩⟩
  simp only [State.settleGang, hg, hdead, Bool.false_eq_true, if_false]
  refine ⟨g0, _, halike, State.gang?_modGang_same hg0 fun k => ?_, ?_, State.only_modCore _ (fun _ => rfl) ?_⟩
  · split <;> simp
  · split <;> simp
  · simp [State.core?_of_gang? hg0]

/-- A gang that has ended leaves its core (R142). -/
theorem State.settleGang_ends {s : State} {r : CoreRef} {slot : Nat} {g : Gang} (hg : s.gang? r slot = some g)
    (hdead : g.act.dead = true) : s.settleGang r slot = s.endGang r slot false := by
  simp only [State.settleGang, hg, hdead, if_true]

/-! ### Instructions that pop nothing -/

/-- Without a queue to pop, an instruction keeps its gang's frames and registers. -/
theorem Gang.finish_registers {x : Ex} (hp : x.pops = []) (g : Gang) (pc : Dword) :
    (g.finish x pc).act.frames = g.act.frames ∧ (g.finish x pc).act.grans = g.act.grans := by
  rw [Gang.finish_act, hp]
  exact ⟨rfl, rfl⟩

/-- An instruction without operands and guard pops nothing. -/
theorem Ready.bare_pops {i : Instr} {s : State} {x : Ex} (hr : Ready i s x) {h : Hdr} (hi : i.info = some (.gang h true [])) :
    x.pops = [] := by
  have hn := hr.info_eq hi
  refine hr.pops_nil (hr.guard_z (by rw [hn]; rfl)) ?_
  rw [hn]
  exact fun p hp => absurd hp (by simp [Info.sources, Info.gang])

section
variable {i : Instr} {s : State} {x : Ex} (hr : Ready i s x)
include hr

/-- The flow that a ready instruction's agent means by its slice. -/
theorem Ready.fi_eq : x.fi = x.b.fi x.ag.slice := by
  obtain ⟨c, hc⟩ := hr.agent
  obtain ⟨-, -, hfi, -, -⟩ := State.agent?_some hc
  rw [hfi, hr.body, hr.ag]

theorem Ready.flow_getElem? : x.b.flows[x.fi]? = some x.fl := by
  rw [hr.flow, Body.flow, List.getD_eq_getElem?_getD, List.getElem?_eq_getElem hr.flow_lt]
  rfl

/-- An agent that is not dormant: its instruction is none of those that a dormant one runs (R130). -/
theorem Ready.not_dormant (hi : i.runsDormant x.b.parted = false) : x.fl.dormant = false := by
  cases hd : x.fl.dormant with
  | false => rfl
  | true => exact absurd (hr.awake hd) (by simp [hi])

end

/-- No MMQ of the gang has B still to read: an ordering waits for none. -/
theorem Ex.afterReads_read {x : Ex} (hread : ∀ e ∈ x.core.tops, e.gang = x.g.uid → e.unread = false) (k : Res) :
    x.afterReads k = k := by
  have : x.unreads = false := by
    simp only [Ex.unreads, List.any_eq_false, Bool.and_eq_true, beq_iff_eq, not_and, Bool.not_eq_true]
    exact hread
  simp [Ex.afterReads, this]

/-! ### PART (R169, R173) -/

/-- The gang that PART leaves. -/
def Ex.cutGang (x : Ex) (g : Gang) : Gang :=
  ((g.finish x x.next).modAct fun b =>
    ({ b with flows := x.fl.slices x.w x.next, parted := true, pmsd := x.fl.msd } : Body).endDead).freeLatches

section
variable {h : Hdr} {s : State} {x : Ex}

theorem Ready.part_cuts (hr : Ready (.part h) s x) (hj : x.b.parted = false) (haside : x.g.hand = none ∨ x.g.body.parted = false)
    (hread : ∀ e ∈ x.core.tops, e.gang = x.g.uid → e.unread = false) :
    exec (.part h) s = .next ((s.orderAll x.ag.core).modGang x.ag.core x.ag.slot x.cutGang) := by
  refine (issue_of_ready hr Ex.part).trans ?_
  have haside : (x.g.hand.isSome && x.g.body.parted) = false := by
    rcases haside with h | h <;> simp [h]
  simp only [Ex.part, Ex.whole_of_joined hj, haside, Bool.false_eq_true, if_false, List.append_nil, Ex.check_nil hr.full,
    Ex.afterReads_read hread, hr.state]
  rfl

theorem Ready.cutGang_region (hr : Ready (.part h) s x) (g : Gang) : (x.cutGang g).region = none := by
  have hd := hr.not_dormant rfl
  have hc : (Instr.part h).commits = true := rfl
  simp only [Ex.cutGang, Gang.freeLatches_region, Gang.modAct_region, Gang.finish, hr.instr, hd, hc]
  split <;> simp

/-- A slice of four lanes, which has ended where none of them is live. -/
theorem Ex.cutGang_flow {g : Gang} {k : Nat} {f : Flow} (hf : (x.cutGang g).act.flows[k]? = some f) :
    let lanes : Word := 15 <<< (4 * k)
    f.pc = x.next ∧ f.xm = x.fl.xm &&& lanes ∧ f.stack = x.fl.stack.map (· &&& lanes) ∧ f.win = emptyWin x.w ∧ f.mon = none ∧
      f.run = if (x.fl.stack.map (· &&& lanes)).foldl (· ||| ·) (x.fl.xm &&& lanes) = 0 then .ended else .ready := by
  intro lanes
  rw [Ex.cutGang, Gang.freeLatches_act, Gang.act_modAct, Body.endDead_eq, List.getElem?_map, Flow.slices, List.getElem?_map] at hf
  obtain ⟨y, hy, rfl⟩ := Option.map_eq_some_iff.mp hf
  obtain ⟨j, hj, rfl⟩ := Option.map_eq_some_iff.mp hy
  obtain rfl : k = j := by
    rw [upTo, List.getElem?_range] at hj
    · exact Option.some.inj hj
    · exact (by simpa [upTo] using (List.getElem?_eq_some_iff.mp hj).1)
  exact ⟨rfl, rfl, rfl, rfl, rfl, rfl⟩

end

section
variable {h : Hdr} {s : State} {x : Ex}

/-- PART of a joined gang (R169, R173). -/
theorem Ready.part_gang (hr : Ready (.part h) s x) (hj : x.b.parted = false) (haside : x.g.hand = none ∨ x.g.body.parted = false)
    (hread : ∀ e ∈ x.core.tops, e.gang = x.g.uid → e.unread = false) :
    ∃ t g0, exec (.part h) s = .next t ∧ OnlyCore x.ag.core (s.orderAll x.ag.core) t ∧ x.g.Alike g0 ∧ x.after t = x.cutGang g0 := by
  have hcore : (s.core? x.ag.core).isSome := hr.core_some
  have hsame := State.sameAgents_orderAll hcore
  obtain ⟨g0, hg0, halike⟩ := hsame.gang? hr.gang_eq
  refine ⟨_, g0, hr.part_cuts hj haside hread, ?_, halike, ?_⟩
  · exact State.only_modCore _ (fun _ => rfl) (by rw [hsame.core_isSome]; exact hcore)
  · exact Ex.after_of_gang (State.gang?_modGang_same hg0 fun g => by simp [Ex.cutGang])

theorem Ready.cutGang_body (hr : Ready (.part h) s x) {g0 : Gang} (halike : x.g.Alike g0) :
    (x.cutGang g0).act.parted = true ∧ (x.cutGang g0).act.pmsd = x.fl.stack.length ∧
      (x.cutGang g0).act.frames = x.b.frames ∧ (x.cutGang g0).act.grans = x.b.grans ∧
      (x.cutGang g0).act.flows.length = x.w / 4 := by
  obtain ⟨hframes, hgrans⟩ := Gang.finish_registers (hr.bare_pops rfl) g0 x.next
  obtain ⟨hact, -⟩ := halike.act
  rw [hact, ← hr.body] at hframes hgrans
  rw [Ex.cutGang, Gang.freeLatches_act, Gang.act_modAct, Body.endDead_eq]
  exact ⟨rfl, rfl, hframes, hgrans, by simp [Flow.slices, upTo]⟩

end

/-! ### REGANG (R172, R173) -/

theorem Ready.regang_joined {h : Hdr} {id : BitVec 8} {s : State} {x : Ex} (hr : Ready (.regang h id) s x) (hj : x.b.parted = false) :
    exec (.regang h id) s = .next (x.ended s x.next) := by
  refine (issue_of_ready hr (Ex.regang id)).trans ?_
  rw [Ex.regang, hj, hr.state]
  rfl

/-- What of a flow its gang's join goes by. -/
def Flow.place (f : Flow) : Dword × Word × List Word × Run := (f.pc, f.xm, f.stack, f.run)

/-- The state in which a slice waits at REGANG. -/
def Ex.atRegang (x : Ex) (s : State) (id : BitVec 8) : State :=
  s.modFlow x.ag fun f => { f with run := .wait (.regang id) x.i, readyFor := 0, aged := false }

/-- The gang in that state. -/
def Ex.gathering (x : Ex) (id : BitVec 8) : Gang :=
  x.g.modAct fun b => b.modFlow (b.fi x.ag.slice) fun f => { f with run := .wait (.regang id) x.i, readyFor := 0, aged := false }

/-- Every other slice waits at a REGANG of the id, or has ended. -/
def Ex.othersWait (x : Ex) (id : BitVec 8) : Prop := ∀ k, k ≠ x.fi → ∀ f, x.b.flows[k]? = some f →
  f.live ≠ 0 ∧ (∃ j, f.run = .wait (.regang id) j) ∨ f.live = 0 ∧ f.run = .ended

section
variable {h : Hdr} {id : BitVec 8} {s : State} {x : Ex} (hr : Ready (.regang h id) s x)
include hr

theorem Ready.gang_atRegang : (x.atRegang s id).gang? x.ag.core x.ag.slot = some (x.gathering id) :=
  hr.gang_after _ fun g => Gang.modAct_slot g _

/-- Where every other slice waits for the join, the last one comes to wait too, and the gang settles. -/
theorem Ready.regang_waits (hp : x.b.parted = true) (hmsd : x.fl.stack.length = x.b.pmsd) (hothers : x.othersWait id) :
    exec (.regang h id) s = .next ((x.atRegang s id).settleGang x.ag.core x.ag.slot) := by
  refine (issue_of_ready hr (Ex.regang id)).trans ?_
  have hmsd : (x.fl.msd != x.b.pmsd) = false := by simpa [Flow.msd] using hmsd
  simp only [Ex.regang, hp, hmsd, Bool.not_true, Bool.false_eq_true, if_false, hr.state]
  split
  next j hj =>
    obtain ⟨f, hf, hfj⟩ := List.exists_of_findSome?_eq_some hj
    obtain ⟨k, hk⟩ := List.mem_iff_getElem?.mp hf
    by_cases hfi : k = x.fi
    · subst hfi
      obtain rfl : x.fl = f := Option.some.inj (hr.flow_getElem?.symm.trans hk)
      rw [hr.run_eq] at hfj
      cases hfj
    · obtain ⟨-, i, hrun⟩ | ⟨-, hrun⟩ := hothers k hfi f hk
      · simp [hrun] at hfj
      · rw [hrun] at hfj
        cases hfj
  next => rw [List.append_nil, Ex.check_nil hr.full]; rfl

/-- The flows of a gang like the one that waits, once its dead slices have ended. -/
theorem Ready.gathered {g0 : Gang} (h0 : (x.gathering id).Alike g0) (k : Nat) :
    (g0.act.endDead.flows[k]?).map Flow.place = (x.b.flows[k]?).map fun f =>
      (f.pc, f.xm, f.stack, if f.live = 0 then .ended else if k = x.fi then .wait (.regang id) x.i else f.run) := by
  have hplace (f f' : Flow) (he : f'.unseen = f.unseen) : f'.settled.place = f.settled.place :=
    (congrArg (fun y : Flow => y.settled.place) he :)
  have hmap : ((x.gathering id).act.flows[k]?).map (fun f => f.settled.place) = (x.b.flows[k]?).map fun f =>
      (f.pc, f.xm, f.stack, if f.live = 0 then .ended else if k = x.fi then .wait (.regang id) x.i else f.run) := by
    rw [Ex.gathering, Gang.act_modAct, Body.modFlow_flows, modNth_getElem?, ← hr.body, ← hr.fi_eq]
    cases x.b.flows[k]? with
    | none => split <;> rfl
    | some f =>
      split
      · rfl
      · rfl
  rw [Body.endDead_eq, List.getElem?_map, Option.map_map, ← hmap]
  have hget := h0.getElem? k
  cases h1 : g0.act.flows[k]? <;> cases h2 : (x.gathering id).act.flows[k]? <;> rw [h1, h2] at hget
  · rfl
  · cases hget
  · cases hget
  · exact congrArg some (hplace _ _ (Option.some.inj hget))

/-- The flow at a place of the gathering is that of the gang, with what it then does (R172). -/
theorem Ready.gathered_flow {g0 : Gang} (h0 : (x.gathering id).Alike g0) {k : Nat} {y : Flow}
    (hy : g0.act.endDead.flows[k]? = some y) :
    ∃ f, x.b.flows[k]? = some f ∧ y.pc = f.pc ∧ y.xm = f.xm ∧ y.stack = f.stack ∧
      y.run = if f.live = 0 then .ended else if k = x.fi then .wait (.regang id) x.i else f.run := by
  have hk := hr.gathered h0 k
  rw [hy] at hk
  obtain ⟨f, hf, he⟩ := Option.map_eq_some_iff.mp hk.symm
  simp only [Flow.place, Prod.mk.injEq] at he
  obtain ⟨hpc, hxm, hstack, hrun⟩ := he
  exact ⟨f, hf, hpc.symm, hxm.symm, hstack.symm, hrun.symm⟩

/-- A place of the gathering whose flow has not ended: a live slice, which waits at a REGANG. -/
theorem Ready.gathered_waits {g0 : Gang} (h0 : (x.gathering id).Alike g0) (hothers : x.othersWait id) {k : Nat} {y : Flow}
    (hy : g0.act.endDead.flows[k]? = some y) (hrun : y.run ≠ .ended) : ∃ f j, x.b.flows[k]? = some f ∧ f.live ≠ 0 ∧ y.pc = f.pc ∧
      y.run = .wait (.regang id) j ∧ (k = x.fi → j = x.i) ∧ (k ≠ x.fi → f.run = .wait (.regang id) j) := by
  obtain ⟨f, hf, hpc, -, -, hy⟩ := hr.gathered_flow h0 hy
  by_cases hl : f.live = 0
  · exact absurd (by rw [hy, if_pos hl]) hrun
  · rw [if_neg hl] at hy
    by_cases hfi : k = x.fi
    · exact ⟨f, x.i, hf, hl, hpc, by rw [hy, if_pos hfi], fun _ => rfl, fun h => absurd hfi h⟩
    · rw [if_neg hfi] at hy
      obtain ⟨-, j, hj⟩ | ⟨h, -⟩ := hothers k hfi f hf
      · exact ⟨f, j, hf, hl, hpc, hy.trans hj, fun h => absurd h hfi, fun _ => hj⟩
      · exact absurd h hl

/-- A place of the gathering whose flow has ended: a slice with no live lane. -/
theorem Ready.gathered_ended {g0 : Gang} (h0 : (x.gathering id).Alike g0) (hothers : x.othersWait id) {k : Nat} {y f : Flow}
    (hy : g0.act.endDead.flows[k]? = some y) (hrun : y.run = .ended) (hf : x.b.flows[k]? = some f) : f.live = 0 := by
  obtain ⟨f', hf', -, -, -, he⟩ := hr.gathered_flow h0 hy
  obtain rfl : f = f' := Option.some.inj (hf.symm.trans hf')
  by_contra hl
  rw [if_neg hl, hrun] at he
  by_cases hfi : k = x.fi
  · rw [if_pos hfi] at he
    cases he
  · rw [if_neg hfi] at he
    obtain ⟨-, j, hj⟩ | ⟨h, -⟩ := hothers k hfi f hf
    · rw [hj] at he
      cases he
    · exact hl h

theorem Ready.gathering_body {g0 : Gang} (h0 : (x.gathering id).Alike g0) : g0.act.parted = x.b.parted ∧ g0.act.pmsd = x.b.pmsd := by
  obtain ⟨hact, -⟩ := h0.act
  rw [hact, Ex.gathering, Gang.act_modAct, hr.body]
  exact ⟨rfl, rfl⟩

/-- The place of the slice that comes to wait last. -/
theorem Ready.gathered_last {g0 : Gang} (h0 : (x.gathering id).Alike g0) (hlive : x.fl.live ≠ 0) :
    ∃ y, g0.act.endDead.flows[x.fi]? = some y ∧ y.run ≠ .ended := by
  have hk := hr.gathered h0 x.fi
  rw [hr.flow_getElem?] at hk
  obtain ⟨y, hy, he⟩ := Option.map_eq_some_iff.mp hk
  refine ⟨y, hy, ?_⟩
  simp only [Flow.place, Prod.mk.injEq, if_neg hlive, if_true] at he
  rw [he.2.2.2]
  exact Run.noConfusion

/-- The gathering joins. -/
theorem Ready.gathered_joins {g0 : Gang} (h0 : (x.gathering id).Alike g0) (hothers : x.othersWait id) (hp : x.b.parted = true)
    (hlive : x.fl.live ≠ 0) : g0.act.endDead.joins = true := by
  rw [Body.joins, Bool.and_eq_true, Bool.and_eq_true, List.all_eq_true, List.any_eq_true]
  refine ⟨⟨(hr.gathering_body h0).1.trans hp, fun y hy => ?_⟩, ?_⟩
  · obtain ⟨k, hk⟩ := List.mem_iff_getElem?.mp hy
    by_cases hend : y.run = .ended
    · simp [Flow.atJoin, hend]
    · obtain ⟨-, j, -, -, -, hrun, -⟩ := hr.gathered_waits h0 hothers hk hend
      simp [Flow.atJoin, hrun]
  · obtain ⟨y, hy, hrun⟩ := hr.gathered_last h0 hlive
    exact ⟨y, List.mem_of_getElem? hy, by simpa using hrun⟩

/-- The masks of the slices together are those of the live ones (R172). -/
theorem Ready.gathered_masks {g0 : Gang} (h0 : (x.gathering id).Alike g0) (hothers : x.othersWait id) {v : Flow → Word}
    {u : Word → List Word → Word} (hv : ∀ f, v f = u f.xm f.stack) (hz : ∀ f : Flow, f.live = 0 → v f = 0) :
    orWords ((g0.act.endDead.flows.filter fun f => f.run != .ended).map v) = orWords (x.b.flows.map v) := by
  rw [orWords_filter]
  · congr 1
    refine List.ext_getElem? fun k => ?_
    have hk := congrArg (Option.map fun y : Dword × Word × List Word × Run => u y.2.1 y.2.2.1) (hr.gathered h0 k)
    simp only [Option.map_map, Function.comp_def, Flow.place, ← hv] at hk
    rw [List.getElem?_map, List.getElem?_map]
    exact hk
  · intro y hy hend
    obtain ⟨k, hk⟩ := List.mem_iff_getElem?.mp hy
    obtain ⟨f, hf, -, hxm, hstack, -⟩ := hr.gathered_flow h0 hk
    rw [hv, hxm, hstack, ← hv]
    exact hz f (hr.gathered_ended h0 hothers hk (by simpa using hend) hf)

/-- The last live slice to come joins the gang: its masks are all the slices', its PC follows the REGANG of the lowest live one. -/
theorem Ready.regang_joins (hp : x.b.parted = true) (hmsd : x.fl.stack.length = x.b.pmsd) (hlive : x.fl.live ≠ 0)
    (hothers : x.othersWait id) : ∃ t f, exec (.regang h id) s = .next t ∧ (x.after t).act.parted = false ∧
      OnlyCore x.ag.core ((x.atRegang s id).orderAll x.ag.core) t ∧ (x.after t).act.flows = [f] ∧ f.run = .ready ∧
      f.win = emptyWin x.w ∧
      (∀ k f0, x.b.flows[k]? = some f0 → f0.live ≠ 0 → (∀ j < k, ∀ f', x.b.flows[j]? = some f' → f'.live = 0) →
        (k = x.fi → f.pc = x.next) ∧ (k ≠ x.fi → ∀ j, f0.run = .wait (.regang id) j → f.pc = f0.pc + BitVec.ofNat 64 j.len)) ∧
      f.xm = orWords (x.b.flows.map fun f => f.xm) ∧
      f.stack = (List.range x.b.pmsd).map fun e => orWords (x.b.flows.map fun f => f.stack.getD e 0) := by
  have hgang := hr.gang_atRegang
  have hself : (x.gathering id).Alike (x.gathering id) := ⟨rfl⟩
  have hdead : (x.gathering id).act.dead = false := by
    obtain ⟨y, hy, hrun⟩ := hr.gathered_last hself hlive
    rw [Body.endDead_eq, List.getElem?_map] at hy
    obtain ⟨f, hf, rfl⟩ := Option.map_eq_some_iff.mp hy
    have hl : f.live ≠ 0 := fun hl => hrun (if_pos hl)
    exact Body.not_dead (List.mem_of_getElem? hf) (fun h => hrun ((if_neg hl).trans h)) hl
  obtain ⟨g0, g', halike, hg', hact, honly⟩ := State.settleGang_lives hgang hdead
  rw [if_pos (hr.gathered_joins hself hothers hp hlive)] at honly
  have hjoins := hr.gathered_joins halike hothers hp hlive
  obtain ⟨y, hy⟩ : ∃ y, (g0.act.endDead.flows.find? fun f => f.run != .ended) = some y := by
    refine Option.isSome_iff_exists.mp (List.find?_isSome.mpr ?_)
    obtain ⟨y, hy, hrun⟩ := hr.gathered_last halike hlive
    exact ⟨y, List.mem_of_getElem? hy, by simpa using hrun⟩
  obtain ⟨hlives, m, hm, hym, hfirst⟩ := List.find?_eq_some_iff_getElem.mp hy
  have hm' : g0.act.endDead.flows[m]? = some y := by rw [List.getElem?_eq_getElem hm, hym]
  obtain ⟨fm, i, hfm, hfml, hpc, hrun, hi, hj⟩ := hr.gathered_waits halike hothers hm' (by simpa using hlives)
  have hafter : x.after ((x.atRegang s id).settleGang x.ag.core x.ag.slot) = g' := Ex.after_of_gang hg'
  rw [Body.join_of_joins hjoins hy hrun] at hact
  refine ⟨_, g0.act.endDead.joined g0.width (y.pc + BitVec.ofNat 64 i.len), hr.regang_waits hp hmsd hothers, ?_, honly, ?_, rfl, ?_,
    ?_, ?_, ?_⟩
  · rw [hafter, hact]
  · rw [hafter, hact]
  · exact congrArg emptyWin (halike.width.trans (Gang.modAct_width _ _))
  · intro k f0 hk hl hbefore
    have hkm : k = m := by
      obtain hlt | heq | hgt := Nat.lt_trichotomy k m
      · have hlt' := hfirst k hlt
        exact absurd (hr.gathered_ended halike hothers (List.getElem?_eq_getElem (hlt.trans hm)) (by simpa using hlt') hk) hl
      · exact heq
      · exact absurd (hbefore m hgt fm hfm) hfml
    subst hkm
    obtain rfl : f0 = fm := Option.some.inj (hk.symm.trans hfm)
    refine ⟨fun hfi => ?_, fun hfi j hj0 => ?_⟩
    · subst hfi
      obtain rfl : x.fl = f0 := Option.some.inj (hr.flow_getElem?.symm.trans hk)
      rw [Body.joined, hi rfl, hpc]
      rfl
    · rw [hj hfi, Run.wait.injEq] at hj0
      rw [Body.joined, hpc, hj0.2]
  · exact hr.gathered_masks halike hothers (u := fun xm _ => xm) (fun _ => rfl) fun f hf => (Flow.masks_of_dead hf).1
  · rw [← (hr.gathering_body halike).2]
    refine List.map_congr_left fun e _ => ?_
    exact hr.gathered_masks halike hothers (u := fun _ stack => stack.getD e 0) (fun _ => rfl) fun f hf =>
      (Flow.masks_of_dead hf).2 e

end

/-! ### RGN and EXIT -/

section
variable {h : Hdr} {s : State} {x : Ex}

/-- The region that RGN opens (R142). -/
def Ex.opens (x : Ex) (s : State) : Region :=
  { id := s.fresh.1, entry := x.next, depth := x.b.frames.length, xm := x.fl.xm, stack := x.fl.stack, qd0 := x.b.frame.qd0,
    qd1 := x.b.frame.qd1, rows := x.b.queueRows, replays := 0 }

/-- The gang in which it opens. -/
def Ex.inRegion (x : Ex) (s : State) (g : Gang) : Gang := { g.finish x x.next with region := some (x.opens s), regionPc := x.next }

theorem Ready.rgn_opens (hr : Ready (.rgn h) s x) (hj : x.b.parted = false) :
    ∃ t r, exec (.rgn h) s = .next t ∧ OnlyCore x.ag.core s t ∧ (x.after t).region = some r ∧
      (x.after t).regionPc = x.next ∧ (x.after t).act.frames = x.b.frames ∧ (x.after t).act.grans = x.b.grans ∧
      r.entry = x.next ∧ r.depth = x.b.frames.length ∧ r.xm = x.fl.xm ∧ r.stack = x.fl.stack ∧
      r.qd0 = x.b.frame.qd0 ∧ r.qd1 = x.b.frame.qd1 ∧ r.replays = 0 := by
  obtain ⟨hframes, hgrans⟩ := Gang.finish_registers (hr.bare_pops rfl) x.g x.next
  have hgang : s.fresh.2.gang? x.ag.core x.ag.slot = some x.g := hr.gang_eq
  have hexec : exec (.rgn h) s = .next (s.fresh.2.modGang x.ag.core x.ag.slot (x.inRegion s)) := by
    refine (issue_of_ready hr Ex.rgn).trans ?_
    rw [Ex.rgn, Ex.whole_of_joined hj, Ex.check_nil hr.full, hr.state]
    rfl
  refine ⟨_, x.opens s, hexec, ?_, ?_⟩
  · exact OnlyCore.trans ⟨fun _ _ => rfl, rfl⟩ (State.only_modCore _ (fun _ => rfl) hr.core_some)
  · rw [Ex.after_of_gang (State.gang?_modGang_same (f := x.inRegion s) hgang fun g => Gang.finish_slot g x x.next)]
    exact ⟨rfl, rfl, hframes.trans (by rw [hr.body]), hgrans.trans (by rw [hr.body]), rfl, rfl, rfl, rfl, rfl, rfl, rfl⟩

/-- Takes the active lanes out of a flow (R142). -/
def Ex.exits (x : Ex) (f : Flow) : Flow := { f with xm := 0, stack := f.stack.map fun e => e &&& ~~~x.fl.xm }

/-- EXIT of a gang that a handler of supervisor code runs for: the gang is killed (R142). -/
theorem Ready.exit_supervisor (hr : Ready (.exit h) s x) (hpl : x.g.pl = .s) :
    ∃ m, exec (.exit h) s = .next ((s.endGang x.ag.core x.ag.slot true).report x.g.ctx m) := by
  refine ⟨.gangKilled ((x.g.hand.map fun h => h.cause).getD .softwareTrap) x.g.epc, (issue_of_ready hr Ex.exit).trans ?_⟩
  rw [Ex.exit, hpl, hr.state]
  rfl

section
variable (hr : Ready (.exit h) s x)
include hr

/-- The flow of an EXIT that ends no gang yet. -/
theorem Ready.exit_flow : ((x.g.finish x x.next).modAct fun b => b.modFlow x.fi x.exits).act.flow x.fi =
    x.exits ((x.g.finish x x.next).act.flow x.fi) := by
  rw [Gang.act_modAct, Body.flow_modFlow _ _ _ _ (by simpa [hr.finish_flows_length] using hr.flow_lt), if_pos rfl]

theorem Ready.exit_gang : (x.moved s x.next x.exits).gang? x.ag.core x.ag.slot =
    some ((x.g.finish x x.next).modAct fun b => b.modFlow x.fi x.exits) :=
  hr.gang_after _ fun g => by simp

/-- EXIT by a gang of its own program, its lanes taken out: the gang settles. -/
theorem Ready.exit_settles (hpl : x.g.pl ≠ .s) : exec (.exit h) s =
    let done : Res := .next ((x.moved s x.next x.exits).settleGang x.ag.core x.ag.slot)
    if (x.b.modFlow x.fi x.exits).dead then x.afterReads done else done := by
  refine (issue_of_ready hr Ex.exit).trans ?_
  rw [Ex.exit, if_neg (by simpa using hpl), hr.state]
  rfl

/-- Lanes that are not active stay live: they go on at the next instruction. -/
theorem Ready.exit_goes_on (hpl : x.g.pl ≠ .s) (hrest : (x.fl.stack.map fun e => e &&& ~~~x.fl.xm).foldl (· ||| ·) 0 ≠ (0 : Word)) :
    ∃ t, exec (.exit h) s = .next t ∧ OnlyCore x.ag.core s t ∧ (x.flowAfter t).xm = 0 ∧
      (x.flowAfter t).stack = (x.fl.stack.map fun e => e &&& ~~~x.fl.xm) ∧ (x.flowAfter t).pc = x.next ∧ (x.flowAfter t).run = .ready ∧
      (x.after t).act.frames = x.b.frames ∧ (x.after t).act.grans = x.b.grans := by
  have hlive : ((x.b.modFlow x.fi x.exits).flow x.fi).live ≠ 0 := by
    rw [Body.flow_modFlow _ _ _ _ hr.flow_lt, if_pos rfl, ← hr.flow]
    exact hrest
  have hdead : (x.b.modFlow x.fi x.exits).dead = false := by
    refine Body.not_dead (Body.flow_mem (by simpa using hr.flow_lt)) ?_ hlive
    rw [Body.flow_modFlow _ _ _ _ hr.flow_lt, if_pos rfl, ← hr.flow]
    exact fun h => Run.noConfusion (hr.run_eq.symm.trans h)
  have hexec : exec (.exit h) s = .next ((x.moved s x.next x.exits).settleGang x.ag.core x.ag.slot) := by
    rw [hr.exit_settles hpl, if_neg (by simp [hdead])]
  have hgang := hr.exit_gang
  have hflow := hr.exit_flow
  rw [hr.finish_flow] at hflow
  have hlive' : (((x.g.finish x x.next).modAct fun b => b.modFlow x.fi x.exits).act.flow x.fi).live ≠ 0 := by
    rw [hflow]
    exact hrest
  have hrun : (((x.g.finish x x.next).modAct fun b => b.modFlow x.fi x.exits).act.flow x.fi).run = .ready := by
    rw [hflow]
    rfl
  have hfi : x.fi < ((x.g.finish x x.next).modAct fun b => b.modFlow x.fi x.exits).act.flows.length := by
    simpa [hr.finish_flows_length] using hr.flow_lt
  have hmem := Body.flow_mem hfi
  obtain ⟨g', hg', hsame, -, honly⟩ := State.settleGang_live hgang hfi hrun hlive'
  obtain ⟨g0, g1, halike, hg1, hact, -⟩ :=
    State.settleGang_lives hgang (Body.not_dead hmem (fun h => Run.noConfusion (hrun.symm.trans h)) hlive')
  obtain rfl : g' = g1 := Option.some.inj (hg'.symm.trans hg1)
  obtain ⟨hframes, hgrans⟩ := Gang.finish_registers (hr.bare_pops rfl) x.g x.next
  obtain ⟨hact0, -⟩ := halike.act
  refine ⟨_, hexec, OnlyCore.trans (hr.only_modGang _) honly, ?_⟩
  rw [Ex.flowAfter, Ex.after_of_gang hg', hsame, hflow, hact, Body.join_frames, Body.join_grans, Body.endDead_frames,
    Body.endDead_grans, hact0, Gang.act_modAct]
  exact ⟨rfl, rfl, rfl, rfl, hframes.trans (by rw [hr.body]), hgrans.trans (by rw [hr.body])⟩

/-- No lane stays live: the gang ends. -/
theorem Ready.exit_ends (hpl : x.g.pl ≠ .s) (hone : x.b.flows.length = 1)
    (hrest : (x.fl.stack.map fun e => e &&& ~~~x.fl.xm).foldl (· ||| ·) 0 = (0 : Word))
    (hread : ∀ e ∈ x.core.tops, e.gang = x.g.uid → e.unread = false) :
    exec (.exit h) s = .next ((x.moved s x.next x.exits).endGang x.ag.core x.ag.slot false) := by
  have hdead : (x.b.modFlow x.fi x.exits).dead = true := Body.dead_of_modFlow hone hr.flow_lt (by rw [← hr.flow]; exact hrest)
  rw [hr.exit_settles hpl, if_pos hdead, Ex.afterReads_read hread]
  refine congrArg Host.Outcome.next (State.settleGang_ends hr.exit_gang ?_)
  rw [Gang.act_modAct]
  refine Body.dead_of_modFlow (hr.finish_flows_length _ ▸ hone) (hr.finish_flows_length _ ▸ hr.flow_lt) ?_
  rw [hr.finish_flow]
  exact hrest

end

end

/-! ### The statement -/

/-- Settles O20: PART, REGANG and EXIT through what the gang then settles to. -/
theorem gangControl : Obligations.GangControl := by
  refine ⟨?_, ?_, ?_⟩
  · intro h s x hr hj haside hread
    obtain ⟨t, g0, hexec, honly, halike, hafter⟩ := hr.part_gang hj haside hread
    obtain ⟨hparted, hpmsd, hframes, hgrans, hlen⟩ := hr.cutGang_body halike
    refine ⟨t, hexec, honly, ?_⟩
    rw [hafter]
    exact ⟨Gang.freeLatches_latches _, hparted, hpmsd, hr.cutGang_region g0, hframes, hgrans, hlen, fun k _ f hf => Ex.cutGang_flow hf⟩
  · intro h id s x hr
    refine ⟨hr.regang_joined, fun hp hmsd hlive hothers => ?_⟩
    have hwait : x.atRegang s id = s.modFlow x.ag fun f =>
        { f with run := .wait (.regang id) (.regang h id), readyFor := 0, aged := false } := by rw [Ex.atRegang, hr.instr]
    rw [← hwait]
    exact hr.regang_joins hp hmsd hlive hothers
  · intro h s x
    refine ⟨fun hr => ?_, fun hr => ?_, fun hr hj => hr.rgn_opens hj, fun hr _ hone hpl =>
      ⟨hr.exit_goes_on hpl, hr.exit_ends hpl hone⟩, fun hr hpl => hr.exit_supervisor hpl⟩
    · refine (issue_of_ready hr _).trans ?_
      rw [hr.state]
      rfl
    · refine (issue_of_ready hr _).trans ?_
      rw [hr.state]
      rfl

end Sys2Proof.Machine

/-! ## Waits (R177) -/

namespace Sys2Proof.Machine

/-! ### A woken agent -/

/-- The state in which a waiting agent's instruction is executed again (R177). -/
def State.again (s : State) (ag : AgentRef) : State :=
  { (s.modGang ag.core ag.slot fun g => { g with trapReq := none }).modFlow ag fun f => { f with run := .ready } with cur := ag }

/-- A step lets an agent go on to what another state has of it, and returns the turn. -/
def GoesOn (s t : State) (ag : AgentRef) (r : Res) : Prop :=
  ∃ u, r = .next u ∧ u.cur = s.cur ∧ u.islands = t.islands ∧ u.rops = t.rops ∧ u.gang? ag.core ag.slot = t.gang? ag.core ag.slot

/-- An update that changes no gang, also where its core is not there. -/
theorem State.gang?_modGang_id {t : State} {r : CoreRef} {slot : Nat} {f : Gang → Gang} (hf : ∀ g, f g = g) :
    (t.modGang r slot f).gang? r slot = t.gang? r slot := by
  cases hr : t.core? r with
  | none => rw [State.gang?_modGang_absent hr, State.gang?, hr]; rfl
  | some c =>
    rw [State.gang?_modGang t r r slot slot f (fun g => congrArg Gang.slot (hf g)) (by simp [hr])]
    cases t.gang? r slot with
    | none => rfl
    | some g => simp [hf]

/-- A gang on a flow of which an instruction waits: no trap has been requested, and its frames are in the pool. -/
structure Waiting (s : State) (ag : AgentRef) (g : Gang) (fl : Flow) (w : Wait) (i : Instr) : Prop where
  gang : s.gang? ag.core ag.slot = some g
  flow : s.flow? ag = some fl
  calm : g.trapReq = none
  there : g.act.missing = []
  run : fl.run = .wait w i

section
variable {s t : State} {ag : AgentRef} {g : Gang} {fl : Flow} {w : Wait} {i : Instr} (hw : Waiting s ag g fl w i)
include hw

theorem Waiting.wake_next {f : Wait → Instr → Option (State → Res)} {m : State → Res} (hm : f w i = some m)
    (ht : m (s.again ag) = .next t) (hon : (t.flow? ag).map (fun f => f.run) ≠ some (.wait w i)) (name : String) :
    s.wake name ag f = .next { t.modGang ag.core ag.slot id with cur := s.cur } := by
  have hon : (((t.flow? ag).map fun x => x.run) == some (.wait w i)) = false := by simpa using hon
  rw [State.again] at ht
  simp only [State.wake, hw.gang, hw.flow, hw.run, hm, hw.calm, hw.there, ht, hon]
  rfl

/-- An agent goes on when its instruction, executed again, waits no longer (R177). -/
theorem Waiting.wake {f : Wait → Instr → Option (State → Res)} {m : State → Res} (hm : f w i = some m)
    (ht : m (s.again ag) = .next t) (hon : (t.flow? ag).map (fun f => f.run) ≠ some (.wait w i)) (name : String) :
    GoesOn s t ag (s.wake name ag f) := by
  refine ⟨_, hw.wake_next hm ht hon name, rfl, ?_, ?_, State.gang?_modGang_id (f := id) fun _ => rfl⟩
  · exact State.modCore_islands _ _ _
  · exact State.modCore_rops _ _ _

end

/-- A step wakes an agent whose instruction, executed again, waits no longer. -/
def Wakes (s : State) (ag : AgentRef) (w : Wait) (i e : Instr) : Prop :=
  ∀ t, exec i (s.again ag) = .next t → (t.flow? ag).map (fun f => f.run) ≠ some (.wait w i) → GoesOn s t ag (exec e s)

section
variable {s : State} {ag : AgentRef} {g : Gang} {fl : Flow}

theorem Waiting.bwait {h : Hdr} {a : Opnd} (hw : Waiting s ag g fl .bwait (.bwait h a)) :
    Wakes s ag .bwait (.bwait h a) (.bwaitWake ag) := fun _ ht hon => hw.wake rfl ht hon _

theorem Waiting.cpwait {h : Hdr} {a b : Opnd} (hw : Waiting s ag g fl .cpwait (.cpwait h a b)) :
    Wakes s ag .cpwait (.cpwait h a b) (.cpwaitWake ag) := fun _ ht hon => hw.wake rfl ht hon _

theorem Waiting.nwait {h : Hdr} {a b : Opnd} (hw : Waiting s ag g fl .nwait (.nwait h a b)) :
    Wakes s ag .nwait (.nwait h a b) (.nwaitWake ag) := fun _ ht hon => hw.wake rfl ht hon _

theorem Waiting.wltake {h : Hdr} {d a : Opnd} (hw : Waiting s ag g fl .wltake (.wltake h d a)) :
    Wakes s ag .wltake (.wltake h d a) (.wltakeWake ag) := fun _ ht hon => hw.wake rfl ht hon _

theorem Waiting.mxwait {h : Hdr} (hw : Waiting s ag g fl .mxwait (.mxwait h)) :
    Wakes s ag .mxwait (.mxwait h) (.mxwaitWake ag) := fun _ ht hon => hw.wake rfl ht hon _

theorem Waiting.accrd {h : Hdr} {m : AccMode} {d a : Opnd} (hw : Waiting s ag g fl .accrd (.accrd h m d a)) :
    Wakes s ag .accrd (.accrd h m d a) (.accrdWake ag) := fun _ ht hon => hw.wake rfl ht hon _

theorem Waiting.rquiet {h : Hdr} {nt : Bool} {d : Opnd} (hw : Waiting s ag g fl .rquiet (.rquiet h nt d)) :
    Wakes s ag .rquiet (.rquiet h nt d) (.rquietWake ag) := fun _ ht hon => hw.wake rfl ht hon _

/-- An agent whose turn at its barrier it is (R197, R318). -/
theorem Waiting.in_order {w : Wait} {i : Instr} (hw : Waiting s ag g fl w i) (hdue : fl.due = none)
    (hfirst : (s.core ag.core).barBefore ag = false) :
    ¬ (((s.flow? ag).bind fun f => f.due).isSome || (s.core ag.core).barBefore ag) = true := by
  simp [hw.flow, hdue, hfirst]

theorem Waiting.barw {h : Hdr} {mx : Bool} {a b : Opnd} {n : Nat} {p : Word} (hw : Waiting s ag g fl (.barw n p) (.barw h mx a b))
    (hdue : fl.due = none) (hfirst : (s.core ag.core).barBefore ag = false) :
    Wakes s ag (.barw n p) (.barw h mx a b) (.barrierWaitEnd ag) := by
  intro t ht hon
  rw [show exec (.barrierWaitEnd ag) s = _ from if_neg (hw.in_order hdue hfirst)]
  exact hw.wake rfl ht hon _

/-- The first request for entries of a channel (R290). -/
theorem Waiting.copyEntry {i : Instr} (hw : Waiting s ag g fl .copyEntry i) {ch : Nat}
    (hfirst : ((s.core ag.core).copyWaits.find? fun p => p.1 == ch) = some (ch, ag)) (hi : copyAgain i = some (exec i)) :
    Wakes s ag .copyEntry i (.copyEntryGrant ag.core ch) := by
  intro t ht hon
  change GoesOn s t ag (execCopyEntryGrant ag.core ch s)
  simp only [execCopyEntryGrant, hfirst]
  exact hw.wake hi ht hon _

/-- The first request for room among the remote operations of a core (R379). -/
theorem Waiting.remoteSlot {i : Instr} (hw : Waiting s ag g fl .remoteSlot i)
    (hfirst : (s.core ag.core).remoteWaits.head? = some ag) (hi : slotAgain i = some (exec i)) :
    Wakes s ag .remoteSlot i (.remoteSlotGrant ag.core) := by
  intro t ht hon
  obtain ⟨rest, hwaits⟩ := List.head?_eq_some_iff.mp hfirst
  change GoesOn s t ag (execRemoteSlotGrant ag.core s)
  simp only [execRemoteSlotGrant, hwaits, List.findSome?_cons]
  generalize hres : s.wake _ ag _ = r
  obtain ⟨u, rfl, hgoes⟩ : GoesOn s t ag r := hres ▸ hw.wake hi ht hon _
  exact ⟨u, rfl, hgoes⟩

end

/-! ### Where the flows of a gang stand -/

/-- What of a body tells where its flows stand. -/
def Body.course (b : Body) : Bool × List (Run × Dword) := (b.parted, b.flows.map fun f => (f.run, f.pc))

/-- What of a state tells where the flows of an agent's gang stand. -/
def State.course (s : State) (ag : AgentRef) : Option (Bool × List (Run × Dword)) :=
  (s.gang? ag.core ag.slot).map fun g => g.act.course

theorem Body.course_of_flows {b c : Body} (hp : c.parted = b.parted) (hf : c.flows = b.flows) : c.course = b.course := by
  rw [Body.course, Body.course, hp, hf]

theorem Gang.Alike.course {g g' : Gang} (h : g.Alike g') : g'.act.course = g.act.course := by
  obtain ⟨hact, hflows⟩ := h.act
  have hstand (l : List Flow) : l.map (fun f => (f.run, f.pc)) = (l.map Flow.unseen).map fun f => (f.run, f.pc) := by
    rw [List.map_map]
    rfl
  rw [Body.course, Body.course, hstand, hflows, ← hstand, hact]

theorem State.flow?_of_course {s : State} {ag : AgentRef} {b : Body} (h : s.course ag = some b.course) :
    (s.flow? ag).map (fun f => (f.run, f.pc)) = (b.flows[b.fi ag.slice]?).map fun f => (f.run, f.pc) := by
  obtain ⟨g, hg, hc⟩ := Option.map_eq_some_iff.mp h
  rw [Body.course, Body.course, Prod.mk.injEq] at hc
  obtain ⟨hp, hf⟩ := hc
  rw [State.flow?, hg, Option.bind_some, ← List.getElem?_map, ← List.getElem?_map, hf, Body.fi, Body.fi, hp]

section
variable {s t : State} {ag : AgentRef}

theorem SameAgents.course (h : SameAgents s t) {c : Bool × List (Run × Dword)} (hc : s.course ag = some c) : t.course ag = some c := by
  obtain ⟨g, hg, rfl⟩ := Option.map_eq_some_iff.mp hc
  obtain ⟨g', hg', halike⟩ := h.gang? hg
  rw [State.course, hg']
  exact congrArg some halike.course

theorem State.course_of_cores (h : t.cores = s.cores) : t.course ag = s.course ag := by
  rw [State.course, State.course, State.gang?_of_cores h]

theorem State.core_isSome_of_course {c : Bool × List (Run × Dword)} (hc : s.course ag = some c) : (s.core? ag.core).isSome := by
  obtain ⟨g, hg, -⟩ := Option.map_eq_some_iff.mp hc
  simp [State.core?_of_gang? hg]

theorem State.course_modCore {c : Bool × List (Run × Dword)} (hc : s.course ag = some c) {r : CoreRef} (hr : (s.core? r).isSome)
    {f : Core → Core} (href : ∀ k, (f k).ref = k.ref) (hgangs : ∀ k, (f k).gangs = k.gangs) :
    (s.modCore r f).course ag = some c := by
  rw [State.course, State.gang?_modCore s r ag.core ag.slot f href hgangs hr]
  exact hc

theorem State.course_modGang {b : Body} (hc : s.course ag = some b.course) {f : Gang → Gang} (hslot : ∀ g, (f g).slot = g.slot)
    {b' : Body} (hact : ∀ g : Gang, g.act.course = b.course → (f g).act.course = b'.course) :
    (s.modGang ag.core ag.slot f).course ag = some b'.course := by
  obtain ⟨g, hg, hgc⟩ := Option.map_eq_some_iff.mp hc
  rw [State.course, State.gang?_modGang_same hg hslot]
  exact congrArg some (hact g hgc)

end

/-! ### The course of an instruction that completes or waits -/

@[simp] theorem Body.pop_parted (b : Body) (second : Bool) (j : Nat) : (b.pop second j).parted = b.parted := by
  unfold Body.pop
  split
  · rfl
  · exact shiftQueue_parted ..

@[simp] theorem Body.pops_parted (b : Body) (qs : List (Bool × Nat)) : (b.pops qs).parted = b.parted := by
  induction qs generalizing b with
  | nil => rfl
  | cons q r ih => exact (ih _).trans (b.pop_parted q.1 q.2)

theorem modNth_map {α β : Type} {f : α → α} {u : β → β} {v : α → β} (h : ∀ a, v (f a) = u (v a)) (l : List α) (n : Nat) :
    (modNth f l n).map v = modNth u (l.map v) n := by
  refine List.ext_getElem? fun k => ?_
  rw [List.getElem?_map, modNth_getElem?, modNth_getElem?, List.getElem?_map]
  split
  · simp [Function.comp_def, h]
  · rfl

theorem modNth_id {α : Type} (l : List α) (n : Nat) : modNth id l n = l := by
  refine List.ext_getElem? fun k => ?_
  rw [modNth_getElem?]
  split <;> simp

theorem Body.modFlow_course (b : Body) {F : Flow → Flow} {u : Run × Dword → Run × Dword}
    (hF : ∀ f, ((F f).run, (F f).pc) = u (f.run, f.pc)) (fi : Nat) :
    (b.modFlow fi F).course = (b.course.1, modNth u b.course.2 fi) := by
  rw [Body.course, Body.modFlow_flows, modNth_map hF]
  rfl

/-- An update of a flow that keeps where it stands. -/
theorem Body.course_kept (b : Body) {F : Flow → Flow} (hF : ∀ f, ((F f).run, (F f).pc) = (f.run, f.pc)) (fi : Nat) :
    (b.modFlow fi F).course = b.course := by
  rw [Body.modFlow_course (u := id) b hF, modNth_id]

/-- An update of a flow that goes by where the flow stands does so for the course. -/
theorem Body.course_modFlow {b c : Body} (hc : c.course = b.course) {F F' : Flow → Flow} {u : Run × Dword → Run × Dword}
    (hF : ∀ f, ((F f).run, (F f).pc) = u (f.run, f.pc)) (hF' : ∀ f, ((F' f).run, (F' f).pc) = u (f.run, f.pc)) (fi : Nat) :
    (c.modFlow fi F).course = (b.modFlow fi F').course := by
  rw [Body.modFlow_course c hF, Body.modFlow_course b hF', hc]

/-- A flow that goes on at a PC. -/
def Flow.goesTo (pc : Dword) (f : Flow) : Flow := { f with run := .ready, pc := pc }

/-- A flow that waits. -/
def Flow.waits (w : Wait) (i : Instr) (f : Flow) : Flow := { f with run := .wait w i }

section
variable {x : Ex} {g : Gang} (hg : g.act.course = x.b.course)
include hg

theorem Ex.finish_course (pc : Dword) : (g.finish x pc).act.course = (x.b.modFlow x.fi (Flow.goesTo pc)).course := by
  rw [Gang.finish_act]
  refine Body.course_modFlow (u := fun _ => (.ready, pc)) ?_ (fun _ => rfl) (fun _ => rfl) _
  exact (Body.course_of_flows (Body.pops_parted g.act x.pops) (Body.pops_flows g.act x.pops)).trans hg

end

theorem Body.setRows_kept (f : Nat → Body → Lanes) (r : Nat) (l : List Nat) (b : Body) :
    (l.foldl (fun b k => b.setRow (r + k) (f k b)) b).flows = b.flows ∧
      (l.foldl (fun b k => b.setRow (r + k) (f k b)) b).parted = b.parted := by
  induction l generalizing b with
  | nil => exact ⟨rfl, rfl⟩
  | cons k l ih => exact ih _

theorem Body.push_parted (b : Body) (second : Bool) (j : Nat) (inSet : Nat → Bool) (row : Lanes) :
    (b.push second j inSet row).parted = b.parted := by
  unfold Body.push
  split <;> rfl

theorem Gang.writeD_course (g : Gang) (nw : Bool) (d : Opnd) (inSet : Nat → Bool) (rows : List Lanes) :
    (g.writeD nw d inSet rows).act.course = g.act.course := by
  unfold Gang.writeD
  split
  · split
    · rfl
    · split
      · rw [Gang.act_modAct]
        exact Body.course_of_flows (Body.push_parted _ _ _ _ _) (Body.push_flows ..)
      · change (g.modAct _).act.course = _
        rw [Gang.act_modAct]
        exact Body.course_of_flows (Body.setRows_kept _ _ _ _).2 (Body.setRows_kept _ _ _ _).1
  · rfl

theorem Gang.pushes_course (g : Gang) (x : Ex) (inSet : Nat → Bool) (rows : List Lanes) :
    (g.pushes x inSet rows).act.course = g.act.course := by
  rw [Gang.pushes, Gang.act_modAct]
  rw [Body.course_kept]
  exact fun _ => rfl

section
variable {x : Ex} {t : State} (hc : t.course x.ag = some x.b.course)
include hc

theorem Ex.ended_course (pc : Dword) : (x.ended t pc).course x.ag = some (x.b.modFlow x.fi (Flow.goesTo pc)).course :=
  State.course_modGang hc (fun g => Gang.finish_slot g x pc) fun _ hg => Ex.finish_course hg pc

theorem Ex.written_course (inSet : Nat → Bool) (rows : List Lanes) :
    (x.written t inSet rows).course x.ag = some (x.b.modFlow x.fi (Flow.goesTo x.next)).course := by
  refine State.course_modGang hc (fun g => ?_) fun g hg => ?_
  · rw [Ex.write, Gang.pushes, Gang.modAct_slot, Gang.writeD_slot, Gang.finish_slot]
  · rw [Ex.write, Gang.pushes_course, Gang.writeD_course]
    exact Ex.finish_course hg _

end

section
variable {i : Instr} {s t : State} {x : Ex} (hr : Ready i s x)
include hr

theorem Ready.course : s.course x.ag = some x.b.course := by
  rw [State.course, hr.gang_eq, hr.body]
  rfl

theorem Ready.stands {F : Flow → Flow} (ht : t.course x.ag = some (x.b.modFlow x.fi F).course) :
    (t.flow? x.ag).map (fun f => (f.run, f.pc)) = some ((F x.fl).run, (F x.fl).pc) := by
  have hfi : (x.b.modFlow x.fi F).fi x.ag.slice = x.fi := hr.fi_eq.symm
  rw [State.flow?_of_course ht, hfi, Body.modFlow_flows, modNth_getElem?, if_pos rfl, hr.flow_getElem?]
  rfl

/-- A wait by the slice of the agent. -/
theorem Ready.waits_course {w : Wait} (hc : t.course x.ag = some x.b.course) {u : State} (hu : x.wait t w = .next u) :
    u.course x.ag = some (x.b.modFlow x.fi (Flow.waits w i)).course := by
  cases hu
  refine State.course_modGang hc (fun g => Gang.modAct_slot g _) fun g hg => ?_
  have hfi : g.act.fi x.ag.slice = x.fi := by
    have hp : g.act.parted = x.b.parted := congrArg Prod.fst hg
    rw [hr.fi_eq, Body.fi, Body.fi, hp]
  rw [Gang.act_modAct, hfi]
  exact Body.course_modFlow (u := fun p => (.wait w i, p.2)) hg (fun f => by rw [hr.instr]) (fun _ => rfl) _

end

/-- What a step makes of the flow of an agent: it does something at a PC, the turn returned. -/
def Leaves (s : State) (ag : AgentRef) (r : Res) (run : Run) (pc : Dword) : Prop :=
  ∃ u, r = .next u ∧ u.cur = s.cur ∧ (u.flow? ag).map (fun f => (f.run, f.pc)) = some (run, pc)

theorem GoesOn.leaves {s t : State} {ag : AgentRef} {r : Res} (h : GoesOn s t ag r) {run : Run} {pc : Dword}
    (hflow : (t.flow? ag).map (fun f => (f.run, f.pc)) = some (run, pc)) : Leaves s ag r run pc := by
  obtain ⟨u, hu, hcur, -, -, hgang⟩ := h
  refine ⟨u, hu, hcur, ?_⟩
  rw [← hflow, State.flow?, hgang]
  rfl

/-- A flow that does something else does not wait. -/
theorem State.runs_of_stands {t : State} {ag : AgentRef} {w : Wait} {i : Instr} {run : Run} {pc : Dword}
    (hflow : (t.flow? ag).map (fun f => (f.run, f.pc)) = some (run, pc)) (hrun : run ≠ .wait w i) :
    (t.flow? ag).map (fun f => f.run) ≠ some (.wait w i) := by
  obtain ⟨f, hf, he⟩ := Option.map_eq_some_iff.mp hflow
  rw [Prod.mk.injEq] at he
  rw [hf]
  exact fun h => hrun (he.1.symm.trans (Option.some.inj h))

/-- A waiting agent whose instruction, executed again, leaves it with another thing to do. -/
theorem Wakes.leaves {s t : State} {ag : AgentRef} {w : Wait} {i e : Instr} (hw : Wakes s ag w i e) {run : Run} {pc : Dword}
    (ht : exec i (s.again ag) = .next t) (hflow : (t.flow? ag).map (fun f => (f.run, f.pc)) = some (run, pc))
    (hrun : run ≠ .wait w i) : Leaves s ag (exec e s) run pc :=
  (hw t ht (State.runs_of_stands hflow hrun)).leaves hflow

section
variable {s t : State} {ag : AgentRef} {w : Wait} {i e : Instr} {x : Ex} (hw : Wakes s ag w i e) (hr : Ready i (s.again ag) x)
include hw hr

/-- A waiting agent whose instruction completes. -/
theorem Wakes.completes (ht : exec i (s.again ag) = .next t)
    (hc : t.course x.ag = some (x.b.modFlow x.fi (Flow.goesTo x.next)).course) : Leaves s ag (exec e s) .ready x.next := by
  have hag : x.ag = ag := hr.ag
  exact hw.leaves ht (hag ▸ hr.stands hc) Run.noConfusion

theorem Wakes.ended {u : State} (hu : u.course x.ag = some x.b.course) (ht : exec i (s.again ag) = x.done u) :
    Leaves s ag (exec e s) .ready x.next :=
  hw.completes hr ht (Ex.ended_course hu _)

theorem Wakes.written {u : State} (hu : u.course x.ag = some x.b.course) {inSet : Nat → Bool} {rows : List Lanes}
    (ht : exec i (s.again ag) = .next (x.written u inSet rows)) : Leaves s ag (exec e s) .ready x.next :=
  hw.completes hr ht (Ex.written_course hu _ _)

end

end Sys2Proof.Machine

/-! ## Waits that end at once (R177, R192, R280, R294, R296, R300, R385, R388) -/

namespace Sys2Proof.Machine

/-- Causes of which none is raised. -/
theorem firstOf_nil {α : Type} {l : List (List α)} (h : ∀ e ∈ l, e = []) : firstOf l = [] := by
  induction l with
  | nil => rfl
  | cons e r ih =>
    obtain ⟨rfl, hr⟩ := List.forall_mem_cons.mp h
    exact ih hr

section
variable {s : State} {ag : AgentRef} {g : Gang} {fl : Flow}

/-- Orders keep the agents of the core that gives them. -/
theorem Ready.acquire_course {i : Instr} {s : State} {x : Ex} (hr : Ready i s x) (l : Lvl) :
    (s.acquire x.ag.core l).course x.ag = some x.b.course :=
  (State.sameAgents_acquire hr.core_some l).course hr.course

/-- The gang of a BWAIT that has ended: the batches that it covers have retired (R296). -/
def Gang.retire (cov : List (BitVec 16)) (g : Gang) : Gang :=
  { g with openBatches := g.openBatches.filter fun b => !cov.contains b }

theorem Waiting.bwait_wakes {h : Hdr} {a : Opnd} (hw : Waiting s ag g fl .bwait (.bwait h a)) {x : Ex}
    (hr : Ready (.bwait h a) (s.again ag) x) (hj : x.b.parted = false) (hclean : (x.lv 0 x.fl.lowXm).p = false)
    (hnext : (x.lv 0 x.fl.lowXm).v.setWidth 16 ≠ x.g.nextBatch)
    (hdone : ∀ e ∈ x.g.openBatches, (x.g.nextBatch - (x.lv 0 x.fl.lowXm).v.setWidth 16).toNat ≤ (x.g.nextBatch - e).toNat →
      x.s.batchBusy x.ag.core x.g.uid e = false) (hfail : x.g.failure = none) :
    Leaves s ag (exec (.bwaitWake ag) s) .ready x.next := by
  rw [hr.state] at hdone
  have hbusy : ((x.g.covered ((x.lv 0 x.fl.lowXm).v.setWidth 16)).any ((s.again ag).batchBusy x.ag.core x.g.uid)) = false := by
    rw [List.any_eq_false]
    intro e he
    obtain ⟨hopen, hcov⟩ := List.mem_filter.mp he
    simp [hdone e hopen (of_decide_eq_true hcov)]
  have hraised : firstOf [poisons 0 .poisonBranch x.fl.lowXm [x.lv 0 x.fl.lowXm], x.whole 4,
      if (x.lv 0 x.fl.lowXm).v.setWidth 16 == x.g.nextBatch then
        [.lane' 5 .batchLimit x.fl.lowXm (((x.lv 0 x.fl.lowXm).v.setWidth 16).setWidth 64)] else []] = [] := by
    rw [poisons_of_clean _ _ _ (by simpa using hclean), Ex.whole_of_joined hj, if_neg (by simpa using hnext)]
    rfl
  refine hw.bwait.ended hr (State.course_modGang (f := Gang.retire (x.g.covered ((x.lv 0 x.fl.lowXm).v.setWidth 16)))
    (hr.acquire_course .d) (fun _ => rfl) fun _ hg => hg) ((issue_of_ready hr Ex.bwait).trans ?_)
  simp only [Ex.bwait, hraised, Ex.check_nil hr.full, hbusy, Ex.bwaitEnd, hfail, hr.state]
  rfl

/-- A difference of pointers below 2^31 is one that is not negative (R294). -/
theorem toNat_lt_of_msb_false {v : Word} (h : v.msb = false) : v.toNat < 2 ^ 31 := by
  have := BitVec.msb_eq_false_iff_two_mul_lt.mp h
  omega

theorem Waiting.cpwait_wakes {h : Hdr} {a b : Opnd} (hw : Waiting s ag g fl .cpwait (.cpwait h a b)) {x : Ex}
    (hr : Ready (.cpwait h a b) (s.again ag) x) (hclean0 : (x.lv 0 x.fl.lowXm).p = false)
    (hclean1 : (x.lv 1 x.fl.lowXm).p = false) (hchan : (x.lv 0 x.fl.lowXm).v.toNat < 8)
    (hreached : (x.wg.chanW.getD (x.lv 0 x.fl.lowXm).v.toNat 0 - (x.lv 1 x.fl.lowXm).v).msb = false) :
    Leaves s ag (exec (.cpwaitWake ag) s) .ready x.next := by
  have hraised : firstOf [poisons 0 .poisonBranch x.fl.lowXm [x.lv 0 x.fl.lowXm, x.lv 1 x.fl.lowXm],
      channelRaised 1 x.fl.lowXm (x.lv 0 x.fl.lowXm).v 8] = [] := by
    rw [poisons_of_clean _ _ _ (by simpa using ⟨hclean0, hclean1⟩), channelRaised, if_neg (by omega)]
    rfl
  refine hw.cpwait.ended hr (hr.acquire_course .d) ((issue_of_ready hr Ex.cpwait).trans ?_)
  simp only [Ex.cpwait, hraised, Ex.check_nil hr.full, if_pos (toNat_lt_of_msb_false hreached), hr.state]

theorem Waiting.nwait_wakes {h : Hdr} {a b : Opnd} (hw : Waiting s ag g fl .nwait (.nwait h a b)) {x : Ex} {l : Nat}
    (hr : Ready (.nwait h a b) (s.again ag) x) (hl : x.set.head? = some l) (hclean : (x.lv 0 l).p = false)
    (hcounter : (x.lv 0 l).v.toNat < 4096) (hone : (x.one 1 l).p = false)
    (hreached : (x.pair 1 l).toNat ≤ (x.ctxIsland.counter (x.lv 0 l).v.toNat).toNat) :
    Leaves s ag (exec (.nwaitWake ag) s) .ready x.next := by
  have hraised : firstOf [counterRaised l (x.lv 0 l), poisons 2 .poisonBranch l [x.one 1 l]] = [] := by
    rw [counterRaised, poisons_of_clean _ _ _ (by simpa using hclean), if_neg (by omega),
      poisons_of_clean _ _ _ (by simpa using hone)]
    rfl
  refine hw.nwait.ended hr (hr.acquire_course .i) ((issue_of_ready hr Ex.nwait).trans ?_)
  simp only [Ex.nwait, Ex.lowest, hl, hraised, Ex.check_nil hr.full, if_pos hreached, hr.state]

theorem Waiting.mxwait_wakes {h : Hdr} (hw : Waiting s ag g fl .mxwait (.mxwait h)) {x : Ex}
    (hr : Ready (.mxwait h) (s.again ag) x) (hidle : ∀ o ∈ x.core.tops, o.gang ≠ x.g.uid) :
    Leaves s ag (exec (.mxwaitWake ag) s) .ready x.next := by
  have hbusy : (x.core.tops.any fun t => t.gang == x.g.uid) = false := by simpa using hidle
  refine hw.mxwait.ended hr hr.course ((issue_of_ready hr Ex.mxwait).trans ?_)
  simp only [Ex.mxwait, hbusy, Ex.check_nil hr.full, hr.state]
  rfl

/-- The gang of an agent whose instruction is executed again. -/
theorem Waiting.gang_again {w : Wait} {i : Instr} (hw : Waiting s ag g fl w i) : (s.again ag).gang? ag.core ag.slot =
    some ({ g with trapReq := none }.modAct fun b => b.modFlow (b.fi ag.slice) fun f => { f with run := .ready }) :=
  State.gang?_modGang_same (f := fun g => g.modAct fun b => b.modFlow (b.fi ag.slice) fun f => { f with run := .ready })
    (State.gang?_modGang_same (f := fun g => { g with trapReq := none }) hw.gang fun _ => rfl) fun g => Gang.modAct_slot g _

/-- Its flow there is the one that waited. -/
theorem Waiting.flow_again {w : Wait} {i : Instr} (hw : Waiting s ag g fl w i) {x : Ex} (hr : Ready i (s.again ag) x) :
    x.fl = { fl with run := .ready } := by
  have hag : x.ag = ag := hr.ag
  have hg := hr.gang_eq
  rw [hag, hw.gang_again, Option.some.injEq] at hg
  have hbody : x.b = g.act.modFlow (g.act.fi ag.slice) fun f => { f with run := .ready } := by
    rw [hr.body, ← hg, Gang.act_modAct]
    rfl
  have hfl : g.act.flows[g.act.fi ag.slice]? = some fl := by
    have := hw.flow
    rwa [State.flow?, hw.gang] at this
  have hfi : x.fi = g.act.fi ag.slice := by
    rw [hr.fi_eq, hag, hbody]
    rfl
  have hlt : g.act.fi ag.slice < g.act.flows.length := (List.getElem?_eq_some_iff.mp hfl).1
  rw [hr.flow, hbody, hfi, Body.flow_modFlow _ _ _ _ hlt, if_pos rfl, Body.flow, List.getD_eq_getElem?_getD, hfl]
  rfl

/-- A barrier wait that has ended: its barrier has gone on unbroken, the Sluice does not delay the agent (R192, R318). -/
theorem Ready.barEnd_done {i : Instr} {s : State} {x : Ex} (hr : Ready i s x) {mx : Bool} {n : Nat} {p : Word}
    (hwhole : (x.wg.barrier n).bkn = false) (hphase : (x.wg.barrier n).phase ≠ p)
    (hread : mx = true → ∀ o ∈ x.core.tops, o.gang = x.g.uid → o.unread = false) (hdue : x.fl.due = none) (lane : Nat) (w : Wait) :
    x.barEnd x.s mx n p lane w = x.done x.s := by
  have hz : ((x.s.core x.ag.core).wg x.g.wg).barrier n = x.wg.barrier n := rfl
  have hdelay : ((x.s.gang? x.ag.core x.ag.slot).bind fun g => (g.act.flow x.fi).due) = none := by
    rw [hr.state, hr.gang_eq, Option.bind_some, ← hr.body, ← hr.flow, hdue]
  have hunread : (mx && x.unreads) = false := by
    cases mx with
    | false => rfl
    | true =>
      simp only [Bool.true_and, Ex.unreads, List.any_eq_false, Bool.and_eq_true, beq_iff_eq, not_and, Bool.not_eq_true]
      exact hread rfl
  have hphase : ((x.wg.barrier n).phase != p) = true := by simpa using hphase
  simp only [Ex.barEnd, hz, hwhole, hphase, hdelay, hunread]
  rfl

theorem Waiting.barw_wakes {h : Hdr} {mx : Bool} {a b : Opnd} {x : Ex} {p : Word} {z : Barrier}
    (hw : Waiting s ag g fl (.barw (x.lv 0 x.fl.lowXm).v.toNat p) (.barw h mx a b))
    (hr : Ready (.barw h mx a b) (s.again ag) x) (hj : x.b.parted = false)
    (hz : x.wg.barriers[(x.lv 0 x.fl.lowXm).v.toNat]? = some z) (hclean0 : (x.lv 0 x.fl.lowXm).p = false)
    (hclean1 : (x.lv 1 x.fl.lowXm).p = false) (hwhole : z.bkn = false) (hphase : (x.lv 1 x.fl.lowXm).v ≠ z.phase)
    (hread : mx = true → ∀ o ∈ x.core.tops, o.gang = x.g.uid → o.unread = false) (hdue : fl.due = none)
    (hfirst : (s.core ag.core).barBefore ag = false) : Leaves s ag (exec (.barrierWaitEnd ag) s) .ready x.next := by
  have hbar : x.wg.barrier (x.lv 0 x.fl.lowXm).v.toNat = z := by
    rw [Wg.barrier, List.getD_eq_getElem?_getD, hz]
    rfl
  have hraised : x.barRaised (x.lv 0 x.fl.lowXm) x.fl.lowXm (poisons 1 .poisonBranch x.fl.lowXm [x.lv 1 x.fl.lowXm]) [] = [] := by
    rw [Ex.barRaised, poisons_of_clean _ _ _ (by simpa using hclean0), poisons_of_clean _ _ _ (by simpa using hclean1),
      Ex.whole_of_joined hj, if_neg (Nat.not_le.mpr (List.getElem?_eq_some_iff.mp hz).1)]
    rfl
  refine (hw.barw hdue hfirst).ended hr hr.course ((issue_of_ready hr (Ex.barw mx)).trans ?_)
  rw [Ex.barw, hraised, Ex.check_nil hr.full, hr.barEnd_done (hbar ▸ hwhole) (hbar ▸ hphase.symm) hread
    (by rw [hw.flow_again hr, hdue]), hr.state]

theorem Waiting.bar_wakes {h : Hdr} {mx : Bool} {a : Opnd} {x : Ex} {n : Nat} {p : Word}
    (hw : Waiting s ag g fl (.bar n p mx) (.bar h mx a))
    (hr : Ready (.bar h mx a) (s.again ag) x) (hwhole : (x.wg.barrier n).bkn = false) (hphase : (x.wg.barrier n).phase ≠ p)
    (hread : mx = true → ∀ o ∈ x.core.tops, o.gang = x.g.uid → o.unread = false) (hdue : fl.due = none)
    (hfirst : (s.core ag.core).barBefore ag = false) : Leaves s ag (exec (.barrierWaitEnd ag) s) .ready x.next := by
  have hag : x.ag = ag := hr.ag
  have hstands := hr.stands (Ex.ended_course hr.course x.next)
  rw [hag] at hstands
  rw [show exec (.barrierWaitEnd ag) s = _ from if_neg (hw.in_order hdue hfirst)]
  refine (hw.wake (m := fun s => issue (.bar h mx a) s fun x => x.check [] (x.barEnd x.s mx n p x.fl.lowXm (.bar n p mx))) rfl ?_
    (State.runs_of_stands hstands Run.noConfusion) _).leaves hstands
  refine (issue_of_ready hr _).trans ?_
  rw [Ex.check_nil hr.full, hr.barEnd_done hwhole hphase hread (by rw [hw.flow_again hr, hdue]), hr.state]
  rfl

theorem Waiting.rquiet_wakes {h : Hdr} {nt : Bool} {d : Opnd} {x : Ex} (hw : Waiting s ag g fl .rquiet (.rquiet h nt d))
    (hr : Ready (.rquiet h nt d) (s.again ag) x) (hquiet : x.s.quiet x.ag.core x.g.uid = true)
    (hok : nt = true ∨ x.g.failure = none ∨ x.g.pl = .s) : Leaves s ag (exec (.rquietWake ag) s) .ready x.next := by
  have hexec : exec (.rquiet h nt d) (s.again ag) = x.rquiet nt := issue_of_ready hr (Ex.rquiet nt)
  rw [hr.state] at hquiet
  cases nt with
  | true =>
    refine hw.rquiet.written hr (inSet := bitOf x.fl.xm) (rows := pairRows x.w (x.g.failMask.setWidth 64))
      (State.course_modGang (f := fun g => { g with failure := none, failMask := 0 }) (hr.acquire_course .d) (fun _ => rfl)
        fun _ hg => hg) (hexec.trans ?_)
    simp only [Ex.rquiet, hr.state, hquiet, Ex.check_nil hr.full]
    rfl
  | false =>
    refine hw.rquiet.ended hr (hr.acquire_course .d) (hexec.trans ?_)
    have hnone : x.g.failure = none ∨ (x.g.pl == .s) = true := by simpa using hok
    simp only [Ex.rquiet, hr.state, hquiet, Ex.check_nil hr.full]
    obtain hnone | hnone := hnone
    · rw [hnone]
      rfl
    · rw [hnone]
      cases x.g.failure <;> rfl

/-- The context's state on an island after a WLTAKE (R300). -/
def Ex.taken (x : Ex) (n : Nat) (k : CtxIsland) : CtxIsland :=
  let items := x.ctxIsland.items n
  let cnt := min items.length x.set.length
  { ({ k with takers := k.takers.filter fun p => !(p.2 == x.ag) } : CtxIsland).setItems n (items.drop cnt) with out := k.out + cnt }

theorem State.course_modCtx {s : State} {x : Ex} (f : CtxIsland → CtxIsland) (ag : AgentRef) :
    (x.modCtx s f).course ag = s.course ag := by
  refine State.course_of_cores ?_
  unfold Ex.modCtx
  split <;> rfl

theorem Waiting.wltake_wakes {h : Hdr} {d a : Opnd} {x : Ex} {l : Nat} (hw : Waiting s ag g fl .wltake (.wltake h d a))
    (hr : Ready (.wltake h d a) (s.again ag) x) (hl : x.set.head? = some l) (hclean : (x.lv 1 l).p = false)
    (hlist : (x.lv 1 l).v.toNat < 64) (hsome : x.ctxIsland.qt = true ∨ x.ctxIsland.items (x.lv 1 l).v.toNat ≠ [])
    (hturn : ∀ p, x.ctxIsland.takers.find? (fun p => p.1 == (x.lv 1 l).v.toNat) = some p → p.2 = x.ag)
    (hout : x.ctxIsland.out + x.set.length < 2 ^ 32) : Leaves s ag (exec (.wltakeWake ag) s) .ready x.next := by
  have hraised : listRaised l (x.lv 1 l) = [] := by
    rw [listRaised, poisons_of_clean _ _ _ (by simpa using hclean), channelRaised, if_neg (by omega)]
    rfl
  have hfull : ¬ 2 ^ 32 ≤ x.ctxIsland.out + min (x.ctxIsland.items (x.lv 1 l).v.toNat).length x.set.length := by omega
  have hsome : (x.ctxIsland.qt || !(x.ctxIsland.items (x.lv 1 l).v.toNat).isEmpty) = true := by simpa using hsome
  have hcourse : (x.modCtx (s.again ag) (x.taken (x.lv 1 l).v.toNat)).course x.ag = some x.b.course :=
    (State.course_modCtx _ _).trans hr.course
  refine hw.wltake.written hr (inSet := x.inSet) (rows := x.takeRows (x.ctxIsland.items (x.lv 1 l).v.toNat))
    ((State.sameAgents_acquire (State.core_isSome_of_course hcourse) .i).course hcourse) ((issue_of_ready hr Ex.wltake).trans ?_)
  cases hfind : x.ctxIsland.takers.find? fun p => p.1 == (x.lv 1 l).v.toNat with
  | none =>
    simp only [Ex.wltake, Ex.lowest, hl, hraised, Ex.check_nil hr.full, hsome, hfind, if_neg hfull, hr.state]
    rfl
  | some p =>
    have hp : (p.2 == x.ag) = true := by simpa using hturn p hfind
    simp only [Ex.wltake, Ex.lowest, hl, hraised, Ex.check_nil hr.full, hsome, hfind, hp, if_neg hfull, hr.state]
    rfl

end

end Sys2Proof.Machine

/-! ## ACCRD's wait (R277) -/

namespace Sys2Proof.Machine

/-! ### New poison changes no agent (R88, R332) -/

theorem State.sameAgents_writeI (s : State) (r : CoreRef) (d : DWrite) : SameAgents s (s.writeI r d) := by
  unfold State.writeI
  split
  · exact SameAgents.trans (.of_cores rfl) (State.sameAgents_trigger _ _ _ _ _)
  · split
    · exact s.sameAgents_performI _ _
    · exact .refl s

/-- What writes of a doubleword of the log keep: what a write at I keeps. -/
theorem State.polStore_keeps {P : State → Prop} {s t : State} {ch : Charge} {va v : Dword} (h : s.polStore ch va v = some t)
    (hcore : ∀ u r d, P u → P (u.writeI r d)) (hsite : ∀ u site d, P u → P (u.performI site d)) (h0 : P s) : P t := by
  unfold State.polStore at h
  split at h
  · split at h
    · cases h
    · split at h
      · cases h
        exact hcore _ _ _ (hcore _ _ _ h0)
      · cases h
  · split at h
    · cases h
    · split at h
      · cases h
      · split at h
        · cases h
          exact hsite _ _ _ (hsite _ _ _ h0)
        · cases h

/-- What an entry of the log keeps: what its writes keep, and its loss. -/
theorem State.polEntry_keeps {P : State → Prop} {s : State} {ch : Charge} (hcore : ∀ u r d, P u → P (u.writeI r d))
    (hsite : ∀ u site d, P u → P (u.performI site d)) (hlost : P s → P (s.losePol ch)) (h0 : P s) (e : Nat) (dws : List Dword) :
    P (s.polEntry ch e dws) := by
  have hfold (l : List Dword) (p : Option State × Nat) (hp : ∀ t, p.1 = some t → P t) (a : Dword) (t : State)
      (ht : (l.foldl (fun (p : Option State × Nat) v =>
        (p.1.bind fun t => t.polStore ch (a + BitVec.ofNat 64 (8 * p.2)) v, p.2 + 1)) p).1 = some t) : P t := by
    induction l generalizing p with
    | nil => exact hp t ht
    | cons v l ih =>
      refine ih _ (fun u hu => ?_) ht
      obtain ⟨t', ht', hstore⟩ := Option.bind_eq_some_iff.mp hu
      exact State.polStore_keeps hstore hcore hsite (hp t' ht')
  unfold State.polEntry
  dsimp only
  split
  next t ht => exact hfold dws (some s, 0) (fun t ht => by cases ht; exact h0) _ t ht
  next => exact hlost h0

theorem State.sameAgents_losePol (s : State) (ch : Charge) : SameAgents s (s.losePol ch) := by
  unfold State.losePol
  split
  · exact .refl s
  · exact .of_cores (State.report_cores _ _ _)

theorem State.sameAgents_polEntry (s : State) (ch : Charge) (e : Nat) (dws : List Dword) : SameAgents s (s.polEntry ch e dws) :=
  State.polEntry_keeps (P := SameAgents s) (fun u r d h => h.trans (u.sameAgents_writeI r d))
    (fun u site d h => h.trans (u.sameAgents_performI site d)) (fun _ => s.sameAgents_losePol ch) (.refl s) e dws

section
variable {s : State} {ch : Charge} (h : (s.core? (ch.core.getD (.steward ch.site))).isSome)
include h

theorem State.sameAgents_setPolHead (head : Nat) (seen : Bool) : SameAgents s (s.setPolHead ch head seen) := by
  unfold State.setPolHead
  split
  · exact State.sameAgents_modCore (fun _ => rfl) h
  · exact .of_cores rfl

/-- A new origin changes no agent. -/
theorem State.sameAgents_newOrigin (kind : Nat) (addr : Dword) : SameAgents s (s.newOrigin ch kind addr).2 := by
  have hset (e : Nat) (dws : List Dword) (head : Nat) (seen : Bool) : SameAgents s ((s.polEntry ch e dws).setPolHead ch head seen) :=
    (s.sameAgents_polEntry ch e dws).trans
      (State.sameAgents_setPolHead (by rwa [(s.sameAgents_polEntry ch e dws).core_isSome]) _ _)
  unfold State.newOrigin State.newOriginFrom
  dsimp only
  split
  · exact hset _ _ _ _
  · split
    · exact hset _ _ _ _
    · exact s.sameAgents_polEntry ch _ _

theorem State.sameAgents_tileRead (tile i : Nat) (l : Lanes) : SameAgents s (s.tileRead ch tile i l).2 := by
  unfold State.tileRead
  split
  · next rest _ => exact SameAgents.trans (.of_cores rfl) (State.sameAgents_newOrigin (s := { s with phys := rest }) h _ _)
  · exact .refl s

theorem State.sameAgents_partRead (tile i : Nat) (l : List Word) : SameAgents s (s.partRead ch tile i l).2 := by
  unfold State.partRead
  dsimp only
  split
  · next rest _ => exact SameAgents.trans (.of_cores rfl) (State.sameAgents_newOrigin (s := { s with phys := rest }) h _ _)
  · exact .refl s

theorem sameAgents_settleRow (n : Nat) (es : List Elem) : SameAgents s (settleRow ch n es s).2 := by
  induction es generalizing s with
  | nil => exact .refl s
  | cons e es ih =>
    unfold settleRow
    dsimp only
    split
    · exact ih h
    · split
      · have ho := State.sameAgents_newOrigin h 0 0
        exact ho.trans (ih (by rwa [ho.core_isSome]))
      · exact ih h

theorem TileRow.sameAgents_read (r : TileRow) (tile i : Nat) : SameAgents s (r.read ch tile i s).2 := by
  have ht := State.sameAgents_tileRead h tile i r.t
  exact ht.trans (State.sameAgents_partRead (by rwa [ht.core_isSome]) tile i r.s)

theorem TileRow.sameAgents_readPromoted (r : TileRow) (tile i : Nat) :
    SameAgents s ((r.read ch tile i s).1.promote ch (r.read ch tile i s).2).2 := by
  have hread := r.sameAgents_read h tile i
  exact hread.trans (sameAgents_settleRow (by rwa [hread.core_isSome]) 0 _)

end

/-- Reading a row of a tile changes no agent (R277). -/
theorem Ex.sameAgents_accrdLane {x : Ex} {s : State} (h : (s.core? x.ag.core).isSome) (mode : AccMode) (i t : Nat) :
    SameAgents s (x.accrdLane mode i t s).2 := by
  cases mode with
  | val => exact State.sameAgents_tileRead (ch := x.charge i) h _ _ _
  | part => exact State.sameAgents_partRead (ch := x.charge i) h _ _ _
  | cnt => exact State.sameAgents_tileRead (ch := x.charge i) h _ _ _
  | fp =>
    have hread := TileRow.sameAgents_readPromoted (ch := x.charge i) h ((((s.core x.ag.core).wg x.g.wg).tile t).getD (i % 8) .zero)
      t (i % 8)
    exact hread.trans (State.sameAgents_modCore (fun _ => rfl) (by rw [hread.core_isSome]; exact h))

theorem sameAgents_eachLane {f : Nat → State → List LV × State} {r : CoreRef}
    (hf : ∀ i s, (s.core? r).isSome → SameAgents s (f i s).2) (l : List Nat) {s : State} (h : (s.core? r).isSome) :
    SameAgents s (eachLane f l s).2 := by
  induction l generalizing s with
  | nil => exact .refl s
  | cons i l ih => exact (hf i s h).trans (ih (by rwa [(hf i s h).core_isSome]))

/-! ### The wait's end -/

theorem Waiting.accrd_wakes {s : State} {ag : AgentRef} {g : Gang} {fl : Flow} {h : Hdr} {m : AccMode} {d a : Opnd} {x : Ex}
    (hw : Waiting s ag g fl .accrd (.accrd h m d a)) (hr : Ready (.accrd h m d a) (s.again ag) x) (hj : x.b.parted = false)
    (hidle : ∀ o ∈ x.core.tops, o.gang ≠ x.g.uid)
    (htile : ∀ l ∈ x.set, (x.lv 1 ((x.set.find? fun j => j / 8 == l / 8).getD 0)).p = false ∧
      (x.lv 1 ((x.set.find? fun j => j / 8 == l / 8).getD 0)).v.toNat < x.wg.acc) :
    Leaves s ag (exec (.accrdWake ag) s) .ready x.next := by
  have hraised : firstOf [x.whole 4, x.quarters.flatMap fun p => x.tileRaised 1 [] p.2] = [] := by
    rw [Ex.whole_of_joined hj]
    refine firstOf_nil ?_
    simp only [List.mem_cons, List.not_mem_nil, or_false, forall_eq_or_imp, forall_eq, true_and, List.flatMap_eq_nil_iff]
    intro p hp
    obtain ⟨q, -, hq⟩ := List.mem_filterMap.mp hp
    obtain ⟨k, hk, rfl⟩ := Option.map_eq_some_iff.mp hq
    have hkq : k / 8 = q := by simpa using List.find?_some hk
    obtain ⟨hclean, hacc⟩ := htile k (List.mem_of_find?_eq_some hk)
    rw [hkq, hk, Option.getD_some] at hclean hacc
    rw [Ex.tileRaised, poisons_of_clean _ _ _ (by simpa using hclean), if_neg (by simpa using hacc)]
    rfl
  have hbusy : (x.core.tops.any fun t => t.gang == x.g.uid && x.quarters.any fun p => (x.lv 1 p.2).v.toNat == t.tile) = false := by
    rw [List.any_eq_false]
    intro t ht
    simp [hidle t ht]
  have hcore : ((s.again ag).core? x.ag.core).isSome := hr.core_some
  have hexec : exec (.accrd h m d a) (s.again ag) = x.accrd m := issue_of_ready hr (Ex.accrd m)
  rw [Ex.accrd, hraised, Ex.check_nil hr.full, if_neg (by simp [hbusy]), hr.state] at hexec
  exact hw.accrd.written hr ((sameAgents_eachLane (fun i _ h => Ex.sameAgents_accrdLane h m i _) x.set hcore).course hr.course) hexec

end Sys2Proof.Machine

/-! ## Requests for channel entries and remote operations (R290, R379) -/

namespace Sys2Proof.Machine

/-- Mapped pages park nobody (R224). -/
theorem Ex.parkOn_mapped {x : Ex} {l : List (Nat × Dword × Access)}
    (h : ∀ p ∈ l, ∃ pa cp, translate x.tlbs x.g.ctx x.g.pl p.2.2 p.2.1 = .ok pa cp) (k : Res) : x.parkOn l k = k := by
  have hwalks : (l.find? fun p => x.walks p.2.1 p.2.2) = none := by
    rw [List.find?_eq_none]
    intro p hp
    obtain ⟨pa, cp, ht⟩ := h p hp
    simp [Ex.walks, ht]
  simp only [Ex.parkOn, hwalks]
  split
  next p hp =>
    obtain ⟨pa, cp, ht⟩ := h _ (List.mem_of_find?_eq_some hp)
    have hmiss := List.find?_some hp
    rw [ht] at hmiss
    cases hmiss
  next => rfl

/-! ### Copies -/

theorem Ex.issueCopy_course {x : Ex} (dsp ssp : Space) (segs : Bool) (ch i : Nat) {t : State} {c : Bool × List (Run × Dword)}
    (hc : t.course x.ag = some c) : (x.issueCopy dsp ssp segs ch t i).course x.ag = some c := by
  unfold Ex.issueCopy State.modWg
  have hfresh : t.fresh.2.course x.ag = some c := hc
  refine State.course_modCore ?_ ?_ (fun _ => rfl) (fun _ => rfl)
  · exact State.course_modCore hfresh (State.core_isSome_of_course hfresh) (fun _ => rfl) (fun _ => rfl)
  · refine State.core_isSome_of_course (c := c) (State.course_modCore hfresh ?_ (fun _ => rfl) (fun _ => rfl))
    exact State.core_isSome_of_course hfresh

theorem Ex.issueCopies_course {x : Ex} {dsp ssp : Space} {segs : Bool} {ch : Nat} (l : List Nat) {t : State}
    {c : Bool × List (Run × Dword)} (hc : t.course x.ag = some c) :
    (l.foldl (x.issueCopy dsp ssp segs ch) t).course x.ag = some c := by
  induction l generalizing t with
  | nil => exact hc
  | cons i l ih => exact ih (Ex.issueCopy_course dsp ssp segs ch i hc)

/-- What a copy that passes its checks, whose turn it is and for which its channel has room comes to (R289, R290). -/
theorem Ex.copy_issues {x : Ex} {dsp ssp : Space} {segs : Bool} {ch : Nat} (hfull : x.full = []) (hpass : x.CopyPasses dsp ssp segs)
    (hturn : x.core.copyTurn ch x.ag = true)
    (hroom : (x.core.chan ch).length + (x.set.filter fun l => (x.copyReq dsp ssp segs l).bytes != 0).length ≤
      Config.channelEntries) (hc : x.s.course x.ag = some x.b.course) :
    ∃ t, x.copy dsp ssp segs ch = x.done t ∧ t.course x.ag = some x.b.course := by
  have hraised : x.set.flatMap (x.copyRaised dsp ssp segs) = [] := List.flatMap_eq_nil_iff.mpr fun l hl => (hpass l hl).1
  have hpages : ∀ p ∈ x.set.flatMap (x.copyReach dsp ssp segs),
      ∃ pa cp, translate x.tlbs x.g.ctx x.g.pl p.2.2 p.2.1 = .ok pa cp := by
    intro p hp
    obtain ⟨l, hl, hpl⟩ := List.mem_flatMap.mp hp
    simp only [Ex.copyReach] at hpl
    split at hpl
    · cases hpl
    · next hbytes =>
      obtain ⟨q, hq, rfl⟩ := List.mem_map.mp hpl
      exact (hpass l hl).2.2 (by simpa using hbytes) q hq
  have hhole : x.set.findSome? (x.copyHole dsp ssp segs) = none := List.findSome?_eq_none_iff.mpr fun l hl => (hpass l hl).2.1
  simp only [Ex.copy, hraised, Ex.check_nil hfull, Ex.parkOn_mapped hpages, hhole, hturn, Bool.true_and]
  split
  · exact ⟨_, rfl, hc⟩
  · rw [if_pos (decide_eq_true hroom)]
    exact ⟨_, rfl, Ex.issueCopies_course _ (State.course_modCore hc (State.core_isSome_of_course hc) (fun _ => rfl) (fun _ => rfl))⟩

section
variable {s : State} {ag : AgentRef} {g : Gang} {fl : Flow} {i : Instr} {x : Ex}

theorem Waiting.copyWaits_again {w : Wait} (hw : Waiting s ag g fl w i) :
    ((s.again ag).core ag.core).copyWaits = (s.core ag.core).copyWaits := by
  have hcore : (s.core? ag.core).isSome := by simp [State.core?_of_gang? hw.gang]
  obtain ⟨c, hc⟩ := Option.isSome_iff_exists.mp hcore
  have hreq := State.core?_modCore s ag.core ag.core (fun c => c.modGang ag.slot fun g => { g with trapReq := none })
    (fun _ => rfl) hcore
  rw [hc, Option.map_some, if_pos rfl] at hreq
  have hs : s.core ag.core = c := by
    rw [State.core, hc]
    rfl
  rw [hs]
  exact (congrArg Core.copyWaits (State.core_modCore (fun c => c.modGang ag.slot fun g => g.modAct fun b =>
    b.modFlow (b.fi ag.slice) fun f => { f with run := .ready }) (fun _ => rfl) hreq) :)

theorem Waiting.copy_wakes (hw : Waiting s ag g fl .copyEntry i) (hr : Ready i (s.again ag) x) {dsp ssp : Space} {segs : Bool}
    {ch : Nat}
    (hi : copyAgain i = some (exec i)) (hexec : exec i (s.again ag) = x.copy dsp ssp segs ch)
    (hfirst : ((s.core ag.core).copyWaits.find? fun p => p.1 == ch) = some (ch, ag)) (hpass : x.CopyPasses dsp ssp segs)
    (hroom : (x.core.chan ch).length + (x.set.filter fun l => (x.copyReq dsp ssp segs l).bytes != 0).length ≤ 128) :
    Leaves s ag (exec (.copyEntryGrant ag.core ch) s) .ready x.next := by
  have hag : x.ag = ag := hr.ag
  have hturn : x.core.copyTurn ch x.ag = true := by
    rw [Ex.core, hr.state, hag, Core.copyTurn, hw.copyWaits_again, hfirst]
    exact beq_self_eq_true ag
  obtain ⟨t, ht, hc⟩ := Ex.copy_issues hr.full hpass hturn hroom (hr.state ▸ hr.course)
  exact (hw.copyEntry hfirst hi).ended hr hc (hexec.trans ht)

end

/-! ### Remote operations -/

theorem Ex.issueRmts_course {x : Ex} {req : Nat → RmtReq} (l : List Nat) (t : State) :
    (l.foldl (fun s i => x.issueRmt s i (req i)) t).course x.ag = t.course x.ag := by
  induction l generalizing t with
  | nil => rfl
  | cons i l ih => exact ih _

/-- What a remote instruction that can be sent comes to (R378, R379). -/
theorem Ex.remote_sends {x : Ex} {req : Nat → RmtReq} {words : Nat → List LV} (hfull : x.full = []) (hsends : x.Sends req words)
    (hc : x.s.course x.ag = some x.b.course) (k : State → Nat → Res) :
    ∃ t n, x.remote req words k = k t n ∧ n ≠ 0 ∧ t.course x.ag = some x.b.course := by
  obtain ⟨hlanes, hsome, hroom⟩ := hsends
  have hraised : (x.set.flatMap fun i => x.rmtRaised (req i) (words i) i) = [] :=
    List.flatMap_eq_nil_iff.mpr fun l hl => (hlanes l hl).1
  have hpages : ∀ p ∈ x.set.flatMap (fun i => x.rmtPages (req i) i),
      ∃ pa cp, translate x.tlbs x.g.ctx x.g.pl p.2.2 p.2.1 = .ok pa cp := by
    intro p hp
    obtain ⟨l, hl, hpl⟩ := List.mem_flatMap.mp hp
    rw [Ex.rmtPages] at hpl
    split at hpl
    · next hissues =>
      obtain ⟨q, hq, rfl⟩ := List.mem_map.mp hpl
      exact (hlanes l hl).2.2 hissues q hq
    · cases hpl
  simp only [Ex.remote, hraised, Ex.check_nil hfull, Ex.parkOn_mapped hpages]
  rw [if_pos (by simp [hroom])]
  refine ⟨_, _, rfl, by simpa using hsome, ?_⟩
  rw [Ex.issueRmts_course]
  refine State.course_modGang (b := x.b) (b' := x.b) ?_ ?_ ?_
  · exact State.course_modCore hc (State.core_isSome_of_course hc) (fun _ => rfl) fun _ => rfl
  · exact fun _ => rfl
  · exact fun _ hg => hg

/-- An instruction that may wait for room is executed again as itself. -/
theorem slotAgain_eq {i : Instr} (h : (slotAgain i).isSome = true) : slotAgain i = some (exec i) := by
  cases i with
  | put | putn | get | ratom | rcas | notify => rfl
  | _ => cases h

section
variable {s : State} {ag : AgentRef} {g : Gang} {fl : Flow} {x : Ex} {i : Instr} (hw : Waiting s ag g fl .remoteSlot i)
  (hr : Ready i (s.again ag) x) (hfirst : (s.core ag.core).remoteWaits.head? = some ag)
  (hi : slotAgain i = some (exec i))
include hw hr hfirst hi

/-- PUT, PUTN and GET go on once their operations are sent (R380). -/
theorem Waiting.transfer_wakes {kind : RopKind} {sp : Space} {nt : Bool} (hexec : exec i (s.again ag) = x.transfer kind sp nt)
    (hsends : x.Sends (x.transferReq kind sp nt) fun l => [x.one 0 l, x.one 1 l, x.one 2 l, x.one 3 l]) :
    Leaves s ag (exec (.remoteSlotGrant ag.core) s) .ready x.next := by
  obtain ⟨t, n, ht, -, hc⟩ := Ex.remote_sends hr.full hsends (hr.state ▸ hr.course) fun s _ => x.done s
  exact (hw.remoteSlot hfirst hi).ended hr hc (hexec.trans ht)

/-- NOTIFY goes on, its release done (R382). -/
theorem Waiting.notify_wakes {nt : Bool} (hexec : exec i (s.again ag) = x.notify nt)
    (hsends : x.Sends (x.postedReq nt) fun l => [x.one 0 l, x.one 1 l]) :
    Leaves s ag (exec (.remoteSlotGrant ag.core) s) .ready x.next := by
  obtain ⟨t, n, ht, hn, hc⟩ := Ex.remote_sends hr.full hsends (hr.state ▸ hr.course)
    fun s n => x.done (if n == 0 then s else s.release x.ag.core .i)
  rw [if_neg (by simpa using hn)] at ht
  exact (hw.remoteSlot hfirst hi).ended hr ((State.sameAgents_release (State.core_isSome_of_course hc) .i).course hc) (hexec.trans ht)

/-- A remote atomic waits for its replies then (R381). -/
theorem Waiting.atomic_wakes {kind : RopKind} {k : Nat} {nt ret : Bool} (hexec : exec i (s.again ag) = x.ratom kind k nt ret)
    (hnone : x.answers = [])
    (hsends : x.Sends (x.atomicReq kind k nt ret) fun l => [x.one ((if ret then 1 else 0) + 1) l, x.one (if ret then 1 else 0) l]) :
    Leaves s ag (exec (.remoteSlotGrant ag.core) s) (.wait .reply i) fl.pc := by
  have hag : x.ag = ag := hr.ag
  obtain ⟨t, n, ht, hn, hc⟩ := Ex.remote_sends hr.full hsends (hr.state ▸ hr.course)
    fun s n => if n == 0 then x.atomDone s ret k
      else x.wait (s.modGang x.ag.core x.ag.slot fun g => { g with region := none }) .reply
  rw [if_neg (show ¬ (n == 0) = true by simpa using hn)] at ht
  have hexec' : x.ratom kind k nt ret = x.wait (t.modGang x.ag.core x.ag.slot fun g => { g with region := none }) .reply := by
    rw [← ht, Ex.ratom, hnone]
    rfl
  have hc' : (t.modGang x.ag.core x.ag.slot fun g => { g with region := none }).course x.ag = some x.b.course :=
    State.course_modGang (f := fun g => { g with region := none }) hc (fun _ => rfl) fun _ hg => hg
  have hstands := hr.stands (hr.waits_course (w := .reply) hc' rfl)
  rw [hag, hw.flow_again hr] at hstands
  exact (hw.remoteSlot hfirst hi).leaves (hexec.trans hexec') (hag ▸ hstands) (by simp)

end

/-! ### The statement -/

/-- Settles O45: each wait by its own lemma above. -/
theorem waitsEnd : Obligations.WaitsEnd := by
  intro s t ag g fl w i x ready goesOn inOrder hg hfl htrap hmiss hrun
  have hw : Waiting s ag g fl w i := ⟨hg, hfl, htrap, hmiss, hrun⟩
  refine ⟨fun ht hon => ⟨?_, ?_, ?_, ?_, ?_, ?_, ?_, ?_, ?_, ?_⟩, fun hr => ?_⟩
  · rintro rfl ⟨h, a, rfl⟩
    exact hw.bwait t ht hon
  · rintro rfl ⟨h, a, b, rfl⟩
    exact hw.cpwait t ht hon
  · rintro rfl ⟨h, a, b, rfl⟩
    exact hw.nwait t ht hon
  · rintro rfl ⟨h, d, a, rfl⟩
    exact hw.wltake t ht hon
  · rintro rfl ⟨h, rfl⟩
    exact hw.mxwait t ht hon
  · rintro rfl ⟨h, m, d, a, rfl⟩
    exact hw.accrd t ht hon
  · rintro rfl ⟨h, nt, d, rfl⟩
    exact hw.rquiet t ht hon
  · rintro ⟨n, p, rfl⟩ ⟨h, mx, a, b, rfl⟩ ⟨hdue, hfirst⟩
    exact hw.barw hdue hfirst t ht hon
  · rintro ch rfl hfirst (⟨h, dsp, ssp, c, d, a, b, rfl⟩ | ⟨h, dsp, ssp, c, d, a, b, e, rfl⟩)
    · exact hw.copyEntry hfirst rfl t ht hon
    · exact hw.copyEntry hfirst rfl t ht hon
  · rintro rfl hfirst hagain
    exact hw.remoteSlot hfirst (slotAgain_eq hagain) t ht hon
  intro low clean out wakes idle read
  refine ⟨?_, ?_, ?_, ?_, ?_, ?_, ?_, ?_, ?_, ?_, ?_⟩
  · rintro h a rfl rfl hj hclean hnext hdone hfail
    exact hw.bwait_wakes hr hj hclean hnext hdone hfail
  · rintro h a b rfl rfl hclean0 hclean1 hchan hreached
    exact hw.cpwait_wakes hr hclean0 hclean1 hchan hreached
  · rintro h a b l rfl rfl hl hclean hcounter hone hreached
    exact hw.nwait_wakes hr hl hclean hcounter hone hreached
  · rintro h d a l rfl rfl hl hclean hlist hsome hturn hout
    exact hw.wltake_wakes hr hl hclean hlist hsome hturn hout
  · rintro h rfl rfl hidle
    exact hw.mxwait_wakes hr hidle
  · rintro h m d a rfl rfl hj hidle - - htile
    exact hw.accrd_wakes hr hj hidle htile
  · rintro h nt d rfl rfl hquiet hok
    exact hw.rquiet_wakes hr hquiet hok
  · rintro h mx a b z p rfl rfl hj hz hclean0 hclean1 hwhole hphase hread ⟨hdue, hfirst⟩
    exact hw.barw_wakes hr hj hz hclean0 hclean1 hwhole hphase hread hdue hfirst
  · rintro n p mx h a rfl rfl hwhole hphase hread ⟨hdue, hfirst⟩
    exact hw.bar_wakes hr hwhole hphase hread hdue hfirst
  · rintro h dsp ssp c d a b e segs rfl (⟨rfl, rfl⟩ | ⟨rfl, rfl⟩) hfirst hpass hroom
    · exact hw.copy_wakes hr rfl (issue_of_ready hr _) hfirst hpass hroom
    · exact hw.copy_wakes hr rfl (issue_of_ready hr _) hfirst hpass hroom
  · rintro rfl hfirst hnone
    refine ⟨?_, ?_, ?_⟩
    · rintro h sp nt d a b c kind (⟨rfl, rfl⟩ | ⟨rfl, rfl⟩ | ⟨rfl, rfl⟩) hsends
      · exact hw.transfer_wakes hr hfirst rfl (issue_of_ready hr _) hsends
      · exact hw.transfer_wakes hr hfirst rfl (issue_of_ready hr _) hsends
      · exact hw.transfer_wakes hr hfirst rfl (issue_of_ready hr _) hsends
    · rintro h nt d a rfl hsends
      exact hw.notify_wakes hr hfirst rfl (issue_of_ready hr _) hsends
    · rintro h op cw nt ret d a b c kind k (⟨rfl, rfl, rfl⟩ | ⟨rfl, rfl, rfl⟩) hsends
      · exact hw.atomic_wakes hr hfirst rfl (issue_of_ready hr _) hnone hsends
      · exact hw.atomic_wakes hr hfirst rfl (issue_of_ready hr _) hnone hsends

end Sys2Proof.Machine

/-! ## What no access, trap or end of a gang changes of a device interface (R399) -/

namespace Sys2Proof.Machine

/-! ### Updates of the state -/

/-- The state of every device interface (R399). -/
def State.tdisps (s : State) (n : Nat) : Option Tdisp := (s.iface? n).map fun i => i.st

theorem State.tdisps_of {s t : State} (hi : t.ifaces = s.ifaces) (hr : t.reeves = s.reeves) : t.tdisps = s.tdisps := by
  funext n
  simp only [State.tdisps, State.iface?, State.reeve?, hi, hr]
  rfl

theorem find_upsert {α : Type} (p : α → Bool) {x : α} (hx : p x = true) (l : List α) : (upsert p x l).find? p = some x := by
  induction l with
  | nil => simp [upsert, hx]
  | cons y l ih =>
    unfold upsert
    split
    · simp [hx]
    · next hy => rw [List.find?_cons_of_neg hy, ih]

theorem find_upsert_other {α : Type} {p q : α → Bool} {x : α} (hx : q x = false) (hpq : ∀ y, p y = true → q y = false)
    (l : List α) : (upsert p x l).find? q = l.find? q := by
  induction l with
  | nil => simp [upsert, hx]
  | cons y l ih =>
    unfold upsert
    split
    · next hy => rw [List.find?_cons_of_neg (by simp [hx]), List.find?_cons_of_neg (by simp [hpq y hy])]
    · rw [List.find?_cons, List.find?_cons, ih]

theorem State.iface?_num {s : State} {n : Nat} {i : Iface} (h : s.iface? n = some i) : i.num = n := by
  unfold State.iface? at h
  split at h
  · cases h
  · split at h
    · next j hj =>
      cases h
      simpa using List.find?_some hj
    · cases h
      rfl

/-- An interface after an update of an interface that keeps its number. -/
theorem State.iface?_modIface {s : State} {n : Nat} {f : Iface → Iface} (hf : ∀ i, (f i).num = i.num) (m : Nat) :
    (s.modIface n f).iface? m = if m = n then (s.iface? n).map f else s.iface? m := by
  cases hi : s.iface? n with
  | none =>
    have hsame : s.modIface n f = s := by simp only [State.modIface, hi]
    rw [hsame]
    split
    · next h => rw [h, hi]; rfl
    · rfl
  | some i =>
    have hmod : s.modIface n f = { s with ifaces := upsert (fun j => j.num == n) (f i) s.ifaces } := by
      simp only [State.modIface, hi]
    rw [hmod]
    have hnum : (f i).num = n := (hf i).trans (State.iface?_num hi)
    by_cases hm : m = n
    · subst hm
      have hlt : ¬ 1536 ≤ m := fun h => by simp [State.iface?, h] at hi
      simp only [State.iface?, if_neg hlt, if_true, find_upsert (fun j : Iface => j.num == m) (beq_iff_eq.mpr hnum)]
      rfl
    · have hother : (upsert (fun j : Iface => j.num == n) (f i) s.ifaces).find? (fun j => j.num == m) =
          s.ifaces.find? fun j => j.num == m :=
        find_upsert_other (by simpa [hnum] using fun h => hm h.symm)
          (fun y hy => by simp only [beq_iff_eq] at hy; simpa [hy] using fun h => hm h.symm) _
      rw [if_neg hm]
      simp only [State.iface?, hother]
      rfl

section
variable (s : State)

@[simp] theorem State.tdisps_report (ctx : Option Nat) (m : Message) : (s.report ctx m).tdisps = s.tdisps := by
  unfold State.report
  split
  · next k _ =>
    funext n
    rw [State.tdisps, State.iface?_modIface (f := fun i => { i with out := i.out ++ [m] }) fun _ => rfl]
    split
    · next h => rw [Option.map_map, h]; rfl
    · rfl
  · rfl

theorem State.tdisps_modReeve {n : Nat} {f : Reeve → Reeve} (hnum : ∀ v, (f v).num = v.num) (hf : ∀ v, (f v).failed = v.failed) :
    (s.modReeve n f).tdisps = s.tdisps := by
  have hreeve (m : Nat) : ((s.modReeve n f).reeve? m).any (fun r => r.failed) = (s.reeve? m).any fun r => r.failed := by
    unfold State.reeve? State.modReeve
    rw [find_modify _ _ _ fun v => by rw [hnum]]
    cases s.reeves.find? fun r => r.num == m with
    | none => rfl
    | some v => simp only [Option.map_some]; split <;> simp [hf]
  funext m
  simp only [State.tdisps, State.iface?, hreeve]
  rfl

@[simp] theorem State.tdisps_modCore (r : CoreRef) (f : Core → Core) : (s.modCore r f).tdisps = s.tdisps :=
  State.tdisps_of (s.modCore_ifaces r f) (s.modCore_reeves r f)
@[simp] theorem State.tdisps_modGang (r : CoreRef) (slot : Nat) (f : Gang → Gang) : (s.modGang r slot f).tdisps = s.tdisps :=
  s.tdisps_modCore r _
@[simp] theorem State.tdisps_modWg (r : CoreRef) (id : Nat) (f : Wg → Wg) : (s.modWg r id f).tdisps = s.tdisps :=
  s.tdisps_modCore r _
@[simp] theorem State.tdisps_modFlow (ag : AgentRef) (f : Flow → Flow) : (s.modFlow ag f).tdisps = s.tdisps :=
  s.tdisps_modCore ag.core _
@[simp] theorem State.tdisps_modIsland (site : Nat) (f : Island → Island) : (s.modIsland site f).tdisps = s.tdisps := rfl
@[simp] theorem State.tdisps_modCtxAt (site ctx : Nat) (f : CtxIsland → CtxIsland) : (s.modCtxAt site ctx f).tdisps = s.tdisps := rfl
@[simp] theorem State.tdisps_phys (l : List Phys) : State.tdisps { s with phys := l } = s.tdisps := rfl
@[simp] theorem State.tdisps_fresh : s.fresh.2.tdisps = s.tdisps := rfl
@[simp] theorem State.tdisps_dropRop (id : Nat) : (s.dropRop id).tdisps = s.tdisps := rfl
@[simp] theorem State.tdisps_modRop (id : Nat) (f : Rop → Rop) : (s.modRop id f).tdisps = s.tdisps := rfl

/-! ### Memory (R249 to R253) -/

@[simp] theorem State.tdisps_trigger (onCore : CoreRef → Bool) (onGang : Gang → Bool) (sp : Space) (w : Nat) :
    (s.trigger onCore onGang sp w).tdisps = s.tdisps := rfl
@[simp] theorem State.tdisps_performI (site : Nat) (d : DWrite) : (s.performI site d).tdisps = s.tdisps := rfl

@[simp] theorem State.tdisps_drainDie (site die n : Nat) : (s.drainDie site die n).tdisps = s.tdisps := by
  induction n generalizing s with
  | zero => rfl
  | succ n ih =>
    unfold State.drainDie
    split
    · rfl
    · exact ih _

@[simp] theorem State.tdisps_drainLine (site die line : Nat) : (s.drainLine site die line).tdisps = s.tdisps := by
  unfold State.drainLine
  split <;> simp

@[simp] theorem State.tdisps_pushD (site die : Nat) (ws : List DWrite) : (s.pushD site die ws).tdisps = s.tdisps := by
  unfold State.pushD State.roomD
  split <;> simp

@[simp] theorem State.tdisps_flushL1 (r : CoreRef) (p : Sector → Bool) : (s.flushL1 r p).tdisps = s.tdisps := by
  unfold State.flushL1
  split
  · rfl
  · dsimp only
    split <;> simp

@[simp] theorem State.tdisps_dropL1 (r : CoreRef) (p : Sector → Bool) : (s.dropL1 r p).tdisps = s.tdisps := s.tdisps_modCore r _

@[simp] theorem State.tdisps_leaveLine (r : CoreRef) (line : Nat) : (s.leaveLine r line).tdisps = s.tdisps := by
  unfold State.leaveLine
  split <;> simp

@[simp] theorem State.tdisps_makeRoom (r : CoreRef) (keep : List Nat) (line : Nat) : (s.makeRoom r keep line).tdisps = s.tdisps := by
  unfold State.makeRoom
  dsimp only
  split
  · rfl
  · split <;> simp

@[simp] theorem State.tdisps_fill (r : CoreRef) (w : Nat) (keep : List Nat) : (s.fill r w keep).tdisps = s.tdisps := by
  unfold State.fill
  split
  · rfl
  · dsimp only
    split <;> simp

@[simp] theorem State.tdisps_readG (r : CoreRef) (l : Lvl) (w : Nat) : (s.readG r l w).2.tdisps = s.tdisps := by
  unfold State.readG
  split
  · rfl
  · cases l <;> simp

@[simp] theorem State.tdisps_writeI (r : CoreRef) (d : DWrite) : (s.writeI r d).tdisps = s.tdisps := by
  unfold State.writeI
  split
  · exact (State.tdisps_trigger _ _ _ _ _).trans (s.tdisps_modReeve (fun _ => rfl) fun _ => rfl)
  · split <;> simp

@[simp] theorem State.tdisps_release (r : CoreRef) (l : Lvl) : (s.release r l).tdisps = s.tdisps := by
  unfold State.release
  split
  · rfl
  · cases l with
    | c => rfl
    | d => simp
    | i =>
      dsimp only
      split <;> simp

@[simp] theorem State.tdisps_readLoc (x : Who) (l : Loc) : (s.readLoc x l).2.tdisps = s.tdisps := by
  cases l with
  | global l w => exact s.tdisps_readG _ _ _
  | scratch w => rfl
  | commons w => rfl

/-! ### New poison (R88, R332) -/

@[simp] theorem State.tdisps_losePol (ch : Charge) : (s.losePol ch).tdisps = s.tdisps := by
  unfold State.losePol
  split <;> simp

@[simp] theorem State.tdisps_polEntry (ch : Charge) (e : Nat) (dws : List Dword) : (s.polEntry ch e dws).tdisps = s.tdisps :=
  State.polEntry_keeps (P := fun t => t.tdisps = s.tdisps) (fun u r d h => (u.tdisps_writeI r d).trans h) (fun _ _ _ h => h)
    (fun _ => s.tdisps_losePol ch) rfl e dws

@[simp] theorem State.tdisps_setPolHead (ch : Charge) (head : Nat) (seen : Bool) : (s.setPolHead ch head seen).tdisps = s.tdisps := by
  unfold State.setPolHead
  split <;> simp

@[simp] theorem State.tdisps_newOrigin (ch : Charge) (kind : Nat) (addr : Dword) : (s.newOrigin ch kind addr).2.tdisps = s.tdisps := by
  unfold State.newOrigin State.newOriginFrom
  dsimp only
  split
  · simp
  · split <;> simp

@[simp] theorem State.tdisps_chargeReplay (ch : Charge) (origin : Nat) : (s.chargeReplay ch origin).tdisps = s.tdisps := by
  unfold State.chargeReplay
  dsimp only
  split
  · rfl
  · split
    · rfl
    · next v _ _ =>
      cases h : s.polStore ch ((s.polRegs ch).1 + BitVec.ofNat 64 (32 * origin + 16)) (v + 0x20000) with
      | none => rfl
      | some t =>
        exact State.polStore_keeps (P := fun t => t.tdisps = s.tdisps) h (fun u r d h => (u.tdisps_writeI r d).trans h)
          (fun _ _ _ h => h) rfl

/-! ### Reads that may meet an error (R231, R349) -/

@[simp] theorem State.tdisps_approach (r : CoreRef) (l : Loc) : (s.approach r l).tdisps = s.tdisps := by
  unfold State.approach
  split
  · split <;> simp
  · split <;> simp
  · rfl

@[simp] theorem State.tdisps_refetch (r : CoreRef) (l : Loc) : (s.refetch r l).tdisps = s.tdisps := by
  unfold State.refetch
  split <;> simp

@[simp] theorem State.tdisps_spoil (x : Who) (l : Loc) (lv : LV) : (s.spoil x l lv).tdisps = s.tdisps := by
  cases l with
  | scratch w => exact s.tdisps_modWg _ _ _
  | commons w =>
    unfold State.spoil
    dsimp only
    split <;> rfl
  | global l w =>
    unfold State.spoil
    dsimp only
    split
    · simp
    · split
      · rfl
      · split
        · simp
        · split
          · exact s.tdisps_modReeve (fun _ => rfl) fun _ => rfl
          · rfl

@[simp] theorem State.tdisps_readUe (x : Who) (ch : Charge) (l : Loc) (addr : Dword) (pay : Bool) (seen : Seen) :
    (s.readUe x ch l addr pay seen).2.1.tdisps = s.tdisps := by
  unfold State.readUe
  split
  · rfl
  · dsimp only
    split
    · split
      · simp
      · split
        · simp
        · split <;> simp
    · simp

end

end Sys2Proof.Machine

/-! ## What a failed operation changes of a device interface (R384, R399) -/

namespace Sys2Proof.Machine

/-! ### Traps and the end of a gang -/

section
variable (s : State)

@[simp] theorem State.tdisps_slotRead (ch : Charge) (c : Nat → Bool) (slot : Lanes) : (s.slotRead ch c slot).2.tdisps = s.tdisps := by
  unfold State.slotRead
  split <;> simp

@[simp] theorem State.tdisps_readB (r : CoreRef) (op : TileOp) : (s.readB r op).2.tdisps = s.tdisps := by
  have hread (who : Who) (ch : Charge) (loc : Nat → Loc) (b0 : Nat) (l : List Nat) (p : Lanes × State × Seen) :
      (l.foldl (fun (p : Lanes × State × Seen) k =>
        let w := b0 / 4 + k
        let a := p.2.1.readUe who ch (loc w) (BitVec.ofNat 64 (4 * w)) true p.2.2
        (p.1 ++ [a.1.asProv], a.2.1, a.2.2)) p).2.1.tdisps = p.2.1.tdisps :=
    foldl_keeps (fun p : Lanes × State × Seen => p.2.1.tdisps) _ (fun p k => p.2.1.tdisps_readUe _ _ _ _ _ _) l p
  unfold State.readB
  split
  · next bf commons b0 _ _ =>
    have h := hread ⟨r, op.wg, op.charge.ctx⟩ op.charge (fun w => if commons then .commons w else .scratch w) b0
      (upTo (bf.extent / 4)) ([], s, [])
    dsimp only
    split
    · exact (State.tdisps_slotRead _ _ _ _).trans h
    · exact h
  · rfl

@[simp] theorem State.tdisps_readRest (r : CoreRef) (p : TileOp → Bool) : (s.readRest r p).tdisps = s.tdisps := by
  refine foldl_keeps State.tdisps _ (fun t q => ?_) _ s
  dsimp only
  split <;> simp

@[simp] theorem State.tdisps_leaveTakers (r : CoreRef) (slot : Nat) : (s.leaveTakers r slot).tdisps = s.tdisps := by
  unfold State.leaveTakers
  split <;> rfl

@[simp] theorem State.tdisps_freeSlot (r : CoreRef) (slot : Nat) : (s.freeSlot r slot).tdisps = s.tdisps :=
  (State.tdisps_leaveTakers _ r slot).trans (s.tdisps_modCore r _)

@[simp] theorem State.tdisps_releaseBar (r : CoreRef) (wg b : Nat) : (s.releaseBar r wg b).tdisps = s.tdisps :=
  (State.tdisps_modCore _ r _).trans (s.tdisps_modWg r wg _)

@[simp] theorem State.tdisps_leaveBars (r : CoreRef) (wg gix : Nat) : (s.leaveBars r wg gix).tdisps = s.tdisps := by
  refine foldl_keeps State.tdisps _ (fun t b => ?_) _ s
  dsimp only
  split <;> simp

@[simp] theorem State.tdisps_settleWg (r : CoreRef) (id : Nat) : (s.settleWg r id).tdisps = s.tdisps := by
  unfold State.settleWg
  split
  · rfl
  · dsimp only
    split
    · split <;> simp
    · split
      · split <;> simp
      · rfl

@[simp] theorem State.tdisps_requestHandler (r : CoreRef) (slot : Nat) (q : TrapReq) :
    (s.requestHandler r slot q).tdisps = s.tdisps :=
  (State.tdisps_modCore _ r _).trans (s.tdisps_modGang r slot _)

@[simp] theorem State.tdisps_enterTrap (r : CoreRef) (slot : Nat) : (s.enterTrap r slot).tdisps = s.tdisps := by
  unfold State.enterTrap
  split
  · rfl
  · split <;> simp

/-- A trap, where the kill of a gang at S level changes no interface (R326). -/
theorem State.tdisps_trapOr {kill : State → State} (hkill : ∀ t, (kill t).tdisps = t.tdisps) (r : CoreRef) (slot fi : Nat)
    (cause : Cause) (lane : Nat) (epc tval : Dword) (pended : Bool) :
    (s.trapOr kill r slot fi cause lane epc tval pended).tdisps = s.tdisps := by
  unfold State.trapOr
  split
  · rfl
  · split
    · simp [hkill]
    · split
      · simp
      · split
        · simp
        · dsimp only
          split <;> simp

theorem State.tdisps_breakBars {kill : Nat → State → State} (hkill : ∀ k t, (kill k t).tdisps = t.tdisps) (r : CoreRef)
    (wg gix : Nat) : (s.breakBars kill r wg gix).tdisps = s.tdisps := by
  refine foldl_keeps State.tdisps _ (fun t b => ?_) _ s
  dsimp only
  split
  · rfl
  · refine (foldl_keeps State.tdisps _ (fun t old => ?_) _ _).trans (t.tdisps_modWg r wg _)
    split
    · rfl
    · exact (State.tdisps_trapOr _ (hkill _) _ _ _ _ _ _ _ _).trans (t.tdisps_modGang _ _ _)

theorem State.tdisps_endGangN (n : Nat) (r : CoreRef) (slot : Nat) (killed : Bool) :
    (s.endGangN n r slot killed).tdisps = s.tdisps := by
  induction n generalizing s slot killed with
  | zero => rfl
  | succ n ih =>
    unfold State.endGangN
    split
    · rfl
    · dsimp only
      split
      · simp [State.tdisps_breakBars _ (fun k t => ih t k true)]
      · simp

@[simp] theorem State.tdisps_endGang (r : CoreRef) (slot : Nat) (killed : Bool) : (s.endGang r slot killed).tdisps = s.tdisps :=
  s.tdisps_endGangN 33 r slot killed

@[simp] theorem State.tdisps_takeTrap (r : CoreRef) (slot fi : Nat) (cause : Cause) (lane : Nat) (epc tval : Dword) (pended : Bool) :
    (s.takeTrap r slot fi cause lane epc tval pended).tdisps = s.tdisps :=
  s.tdisps_trapOr (fun t => t.tdisps_endGang r slot true) r slot fi cause lane epc tval pended

@[simp] theorem State.tdisps_startReplay (r : CoreRef) (slot : Nat) : (s.startReplay r slot).tdisps = s.tdisps := by
  unfold State.startReplay State.leaveWaits
  simp

end

/-! ### Outcomes -/

/-- The state that an outcome goes on with, if there is one, has the interfaces of another. -/
def Res.SameTdisps (s : State) (r : Res) : Prop := ∀ t, r = .next t → t.tdisps = s.tdisps

theorem Res.sameTdisps_next {s t : State} (h : t.tdisps = s.tdisps) : Res.SameTdisps s (.next t) := by
  rintro u ⟨⟩
  exact h

theorem Res.sameTdisps_ite {s : State} {c : Bool} {r q : Res} (hr : Res.SameTdisps s r) (hq : Res.SameTdisps s q) :
    Res.SameTdisps s (if c then r else q) := by
  cases c
  · exact hq
  · exact hr

section
variable {s : State} {x : Ex} (hx : x.s.tdisps = s.tdisps)
include hx

theorem Ex.sameTdisps_stopped {rs : List Raised} {r : Res} (h : x.stopped rs = some r) : Res.SameTdisps s r := by
  unfold Ex.stopped at h
  split at h
  · cases h
  · cases h
    exact Res.sameTdisps_next ((State.tdisps_takeTrap ..).trans hx)
  · cases h
    refine Res.sameTdisps_next ?_
    split <;> simp [hx]

theorem Ex.sameTdisps_check {rs : List Raised} {k : Res} (hk : Res.SameTdisps s k) : Res.SameTdisps s (x.check rs k) := by
  unfold Ex.check
  cases h : x.stopped rs with
  | none => exact hk
  | some r => exact Ex.sameTdisps_stopped hx h

theorem Ex.sameTdisps_parkOn {l : List (Nat × Dword × Access)} {k : Res} (hk : Res.SameTdisps s k) :
    Res.SameTdisps s (x.parkOn l k) := by
  have hpark (va : Dword) (kind : Access) (lane : Nat) (t : Tr) : Res.SameTdisps s (x.parkAt va kind lane t) := by
    unfold Ex.parkAt
    refine Res.sameTdisps_next ?_
    split <;> simp [hx]
  unfold Ex.parkOn
  dsimp only
  split
  · exact hpark _ _ _ _
  · split
    · exact hpark _ _ _ _
    · exact hk

end

/-! ### A remote atomic, executed again -/

theorem Ex.tdisps_guardRead {x : Ex} (lanes : List Nat) : (x.guardRead lanes).2.tdisps = x.s.tdisps := by
  unfold Ex.guardRead
  dsimp only
  split <;> simp

theorem Ex.tdisps_readPool {x : Ex} : x.readPool.s.tdisps = x.s.tdisps := by
  unfold Ex.readPool
  dsimp only
  split <;> simp

/-- A preparation leaves the interfaces alone: the state of an outcome that ends the instruction, and that it goes on with. -/
def SamePrepared (s : State) (p : Except Res Ex) : Prop :=
  (∀ x, p = .ok x → x.s.tdisps = s.tdisps) ∧ ∀ r, p = .error r → Res.SameTdisps s r

theorem samePrepared_error {s : State} {r : Res} (h : Res.SameTdisps s r) : SamePrepared s (.error r) := by
  constructor
  · intro x hx
    cases hx
  · intro r' hr
    cases hr
    exact h

theorem samePrepared_ok {s : State} {x : Ex} (h : x.s.tdisps = s.tdisps) : SamePrepared s (.ok x) := by
  constructor
  · intro x' hx
    cases hx
    exact h
  · intro r hr
    cases hr

theorem samePrepared_orStop {s : State} {o : Option Res} {p : Except Res Ex} (ho : ∀ r, o = some r → Res.SameTdisps s r)
    (hp : SamePrepared s p) : SamePrepared s (orStop o p) := by
  cases o with
  | none => exact hp
  | some r => exact samePrepared_error (ho r rfl)

theorem Ex.sameTdisps_mismatch {s : State} (x : Ex) (lane : Nat) {t : State} (ht : t.tdisps = s.tdisps) :
    Res.SameTdisps s (x.mismatch lane t) := by
  have hagain (f : Gang → Gang) : (t.modGang x.ag.core x.ag.slot f).tdisps = s.tdisps := (t.tdisps_modGang _ _ f).trans ht
  refine Res.sameTdisps_ite (Res.sameTdisps_next ?_) (Res.sameTdisps_ite (Res.sameTdisps_next ?_) (Res.sameTdisps_next ?_))
  · exact (State.tdisps_takeTrap ..).trans (hagain _)
  · exact (State.tdisps_startReplay ..).trans (hagain _)
  · exact hagain _

theorem samePrepared_prepare (i : Instr) (s : State) : SamePrepared s (prepare i s) := by
  unfold prepare
  split
  · dsimp only
    split
    · exact samePrepared_error (Res.sameTdisps_next (State.tdisps_takeTrap ..))
    · split
      · exact samePrepared_error (Res.sameTdisps_next (by simp))
      · split
        · exact samePrepared_error (Res.sameTdisps_next (State.tdisps_takeTrap ..))
        · refine samePrepared_orStop (fun r h => Ex.sameTdisps_stopped (s := s) rfl h) ?_
          refine samePrepared_orStop (fun r h => Ex.sameTdisps_stopped (s := s) rfl h) ?_
          refine samePrepared_orStop (fun r h => Ex.sameTdisps_stopped (s := s) rfl h) ?_
          refine samePrepared_orStop (fun r h => Ex.sameTdisps_stopped (s := s) (Ex.tdisps_guardRead _) h) ?_
          refine samePrepared_orStop (fun r h => Ex.sameTdisps_stopped (s := s) (Ex.tdisps_guardRead _) h) ?_
          split
          · split
            · exact samePrepared_error (Ex.sameTdisps_mismatch _ _ (Ex.tdisps_guardRead _))
            · exact samePrepared_ok (Ex.tdisps_readPool.trans (Ex.tdisps_guardRead _))
          · exact samePrepared_ok (Ex.tdisps_readPool.trans (Ex.tdisps_guardRead _))
  · exact samePrepared_error fun t h => by cases h

theorem sameTdisps_issue {i : Instr} {s : State} {own : Ex → Res} (h : ∀ x, x.s.tdisps = s.tdisps → Res.SameTdisps s (own x)) :
    Res.SameTdisps s (issue i s own) := by
  obtain ⟨hok, herror⟩ := samePrepared_prepare i s
  unfold issue
  split
  · next x hx => exact h x (hok x hx)
  · next r hr => exact herror r hr

theorem Ex.sameTdisps_atomDone {s t : State} (x : Ex) (ht : t.tdisps = s.tdisps) (ret : Bool) (regs : Nat) :
    Res.SameTdisps s (x.atomDone t ret regs) := by
  unfold Ex.atomDone
  dsimp only
  split
  · exact Res.sameTdisps_next ((State.tdisps_modGang _ _ _ _).trans ht)
  · exact Res.sameTdisps_next ((State.tdisps_modGang _ _ _ _).trans ht)

theorem Ex.sameTdisps_wait {s t : State} (x : Ex) (ht : t.tdisps = s.tdisps) (w : Wait) : Res.SameTdisps s (x.wait t w) :=
  Res.sameTdisps_next ((t.tdisps_modFlow _ _).trans ht)

theorem Ex.sameTdisps_remote {s : State} {x : Ex} (hx : x.s.tdisps = s.tdisps) (req : Nat → RmtReq) (words : Nat → List LV)
    {k : State → Nat → Res} (hk : ∀ t n, t.tdisps = s.tdisps → Res.SameTdisps s (k t n)) :
    Res.SameTdisps s (x.remote req words k) := by
  unfold Ex.remote
  refine Ex.sameTdisps_check hx (Ex.sameTdisps_parkOn hx ?_)
  split
  · refine hk _ _ ((foldl_keeps State.tdisps _ (by exact fun _ _ => rfl) _ _).trans ?_)
    exact (State.tdisps_modGang _ _ _ _).trans ((x.s.tdisps_modCore _ _).trans hx)
  · exact x.sameTdisps_wait ((x.s.tdisps_modCore _ _).trans hx) _

theorem Ex.sameTdisps_ratom {s : State} {x : Ex} (hx : x.s.tdisps = s.tdisps) (kind : RopKind) (regs : Nat) (nt ret : Bool) :
    Res.SameTdisps s (x.ratom kind regs nt ret) := by
  unfold Ex.ratom
  dsimp only
  split
  · exact x.sameTdisps_atomDone hx _ _
  · refine Ex.sameTdisps_remote hx _ _ fun t n ht => ?_
    split
    · exact x.sameTdisps_atomDone ht _ _
    · exact x.sameTdisps_wait ((t.tdisps_modGang _ _ _).trans ht) _

theorem sameTdisps_replyAgain {i : Instr} {m : State → Res} (h : replyAgain i = some m) (s : State) : Res.SameTdisps s (m s) := by
  unfold replyAgain at h
  split at h
  · cases h
    exact sameTdisps_issue fun x hx => Ex.sameTdisps_ratom hx _ _ _ _
  · cases h
    exact sameTdisps_issue fun x hx => Ex.sameTdisps_ratom hx _ _ _ _
  · cases h

/-- A step out of a wait whose instruction leaves the interfaces alone does so too. -/
theorem State.sameTdisps_wake {s : State} (name : String) (ag : AgentRef) {f : Wait → Instr → Option (State → Res)}
    (hf : ∀ w i m, f w i = some m → ∀ s, Res.SameTdisps s (m s)) : Res.SameTdisps s (s.wake name ag f) := by
  have hnone : Res.SameTdisps s (notEnabled name) := fun t h => by cases h
  unfold State.wake
  split
  · split
    · split
      · next hm =>
        split
        · exact hnone
        · dsimp only
          split
          · next t ht =>
            have ht : t.tdisps = s.tdisps := (hf _ _ _ hm _ t ht).trans ((State.tdisps_modFlow _ _ _).trans (s.tdisps_modGang _ _ _))
            split
            · exact hnone
            · split
              · unfold when
                split
                · exact Res.sameTdisps_next (s.tdisps_modCore _ _)
                · exact hnone
              · exact Res.sameTdisps_next ((t.tdisps_modGang _ _ _).trans ht)
          · exact fun t h => by cases h
          · exact hnone
      · exact hnone
    · exact hnone
  · exact hnone

/-! ### Failed operations -/

theorem State.tdisps_resumed {s t : State} {o : Rop} (h : s.resumed o = some t) : t.tdisps = s.tdisps := by
  unfold State.resumed at h
  split at h
  · cases h
  · split at h
    · next u hu =>
      cases h
      refine State.sameTdisps_wake _ _ ?_ t hu
      intro w i m hm
      split at hm
      · exact sameTdisps_replyAgain hm
      · cases hm
    · cases h

theorem State.tdisps_answer (s : State) (o : Rop) (data : Lanes) : (s.answer o data).tdisps = s.tdisps := by
  unfold State.answer
  split
  · rfl
  · dsimp only
    cases h : (s.modRop o.id fun x => { x with st := .answered, data := data }).resumed o with
    | none => rfl
    | some t => exact (State.tdisps_resumed h).trans (s.tdisps_modRop _ _)

theorem State.tdisps_failRop (s : State) (o : Rop) (cause : Cause) : (s.failRop o cause).tdisps = s.tdisps := by
  unfold State.failRop
  dsimp only
  split
  · exact (State.tdisps_answer _ _ _).trans (s.tdisps_modCore _ _)
  · exact s.tdisps_modCore _ _

/-- Operations that fail change no interface (R384). -/
theorem State.tdisps_failRops (s : State) (c : Rop → Bool) (cause : Cause) : (s.failRops c cause).tdisps = s.tdisps :=
  foldl_keeps State.tdisps _ (fun t o => t.tdisps_failRop o cause) _ s

end Sys2Proof.Machine

/-! ## Containment (R177, R330, R345 to R348, R399) -/

namespace Sys2Proof.Machine

/-! ### A core's reset (R330) -/

/-- An update of a core goes by the core of that name alone. -/
theorem State.modCore_congr {s : State} {r : CoreRef} {f f' : Core → Core} (h : ∀ c : Core, c.ref = r → f c = f' c) :
    s.modCore r f = s.modCore r f' := by
  have hmap : modify (fun c : Core => c.ref == r) f s.cores = modify (fun c : Core => c.ref == r) f' s.cores := by
    refine List.map_congr_left fun c _ => ?_
    by_cases hc : c.ref = r
    · simp [hc, h c hc]
    · simp [hc]
  simp only [State.modCore, hmap, h (.idle r) rfl]

/-- A halted core that is reset has its first gang alone. -/
theorem exec_coreReset {s : State} {r : CoreRef} (hhalt : (s.core r).halted = true) (hcompute : r.isCompute = false) :
    ∃ t g, exec (.coreReset r) s = .next t ∧ (t.core r).gangs = [g] ∧ g.pl = .m ∧ g.width = 8 ∧ g.body.frame.ngr = 4 ∧
      (t.core r).halted = false := by
  obtain ⟨c, hc⟩ : ∃ c, s.core? r = some c := by
    cases hc : s.core? r with
    | none =>
      rw [State.core, hc] at hhalt
      cases hhalt
    | some c => exact ⟨c, rfl⟩
  have hstep (entry : Dword) : (s.fresh.2.modCore r fun _ => .booted r s.fresh.1 entry).core r =
      { Core.booted r s.fresh.1 entry with ref := c.ref } := by
    have hsame : (s.fresh.2.modCore r fun _ => .booted r s.fresh.1 entry) =
        s.fresh.2.modCore r fun c => { Core.booted r s.fresh.1 entry with ref := c.ref } :=
      State.modCore_congr fun c hc => by rw [hc]; rfl
    rw [hsame]
    exact State.core_modCore (f := fun c => { Core.booted r s.fresh.1 entry with ref := c.ref }) (fun _ => rfl) hc
  refine ⟨_, .firmware s.fresh.1 0 8 0 0 4 256 (match r.site.bind s.island? with | some x => x.fwEntry | none => 0),
    if_pos (by simp [hhalt, hcompute]), ?_, rfl, rfl, rfl, ?_⟩
  · exact (congrArg Core.gangs (hstep _)).trans rfl
  · exact (congrArg Core.halted (hstep _)).trans rfl

/-! ### A context that is killed (R345, R346) -/

/-- What of a state the quarantine of pages keeps: its remote operations, its contexts, the agents of its cores. -/
def State.works (s : State) : List Rop × List Context × List (CoreRef × List Gang × List (Nat × List Copy)) :=
  (s.rops, s.contexts, s.cores.map Core.staff)

theorem State.works_of {s t : State} (hr : t.rops = s.rops) (hc : t.contexts = s.contexts) (h : SameAgents s t) :
    t.works = s.works := by
  rw [State.works, State.works, hr, hc]
  exact congrArg (fun l => (s.rops, s.contexts, l)) h

theorem State.sameAgents_dropTlb (s : State) (site : Nat) (p : TlbEntry → Bool) : SameAgents s (s.dropTlb site p) := by
  rw [SameAgents, State.dropTlb, State.modIsland_cores, modify, List.map_map]
  refine List.map_congr_left fun c _ => ?_
  dsimp only [Function.comp_apply]
  split <;> rfl

theorem State.works_quarantine (s : State) (site : Nat) (k : CtxIsland) (va : Dword) : (s.quarantine site k va).works = s.works := by
  unfold State.quarantine
  split
  · rfl
  · split
    · rfl
    · refine State.works_of rfl rfl ?_
      exact (s.sameAgents_performI site _).trans (State.sameAgents_dropTlb _ _ _)

theorem State.works_quarantineAll (s : State) (k : CtxIsland) : (s.quarantineAll k).works = s.works := by
  refine foldl_keeps State.works _ (fun t e => ?_) _ s
  dsimp only
  split
  · split
    · exact t.works_quarantine _ _ _
    · rfl
  · rfl

/-- A context that is killed: its queues are halted with code 7, it has no group. -/
def Context.ended (k : Context) : Context := { k.haltQueues 7 with groups := [], killed := true }

theorem State.works_killWork (s : State) (ctx : Nat) : (s.killWork ctx).works =
    ((s.dropTransfers ctx).rops, modify (fun k => k.num == ctx) Context.ended s.contexts,
      (s.dropTransfers ctx).cores.map Core.staff) := by
  unfold State.killWork
  refine (State.works_of (State.report_rops _ _ _) (State.report_contexts _ _ _) (.of_cores (State.report_cores _ _ _))).trans ?_
  exact foldl_keeps State.works _ State.works_quarantineAll _ _

theorem State.killWork_rops (s : State) (ctx : Nat) : (s.killWork ctx).rops = s.rops.filter fun o => o.charge.ctx != some ctx :=
  congrArg Prod.fst (s.works_killWork ctx)

theorem State.killWork_contexts (s : State) (ctx : Nat) :
    (s.killWork ctx).contexts = modify (fun k => k.num == ctx) Context.ended s.contexts :=
  congrArg (fun p => p.2.1) (s.works_killWork ctx)

/-- No flow of a gang waits for a transfer. -/
def Gang.letGo (g : Gang) : Prop :=
  ∀ f ∈ g.act.flows, ∀ i, f.run ≠ .wait .reply i ∧ f.run ≠ .wait .copyEntry i ∧ f.run ≠ .wait .remoteSlot i

/-- A core has no transfer of a context, and its gangs have been told to end. -/
def Core.Rid (ctx : Nat) (c : Core) : Prop :=
  (∀ q ∈ c.chans, ∀ y ∈ q.2, y.charge.ctx ≠ some ctx) ∧
    ∀ g ∈ c.gangs, g.ctx = some ctx → g.pend.any (fun p => p.cause == .vacate) = true ∧ g.letGo

theorem Flow.letGo_run (f : Flow) (i : Instr) : f.letGo.run ≠ .wait .reply i ∧ f.letGo.run ≠ .wait .copyEntry i ∧
    f.letGo.run ≠ .wait .remoteSlot i := by
  unfold Flow.letGo
  split
  · exact ⟨nofun, nofun, nofun⟩
  · exact ⟨nofun, nofun, nofun⟩
  · exact ⟨nofun, nofun, nofun⟩
  · next h1 h2 h3 => exact ⟨h1 i, h2 i, h3 i⟩

theorem Gang.Alike.letGo {g g' : Gang} (h : g.Alike g') (hg : g.letGo) : g'.letGo := by
  intro f' hf'
  have hmem : f'.unseen ∈ g.act.flows.map Flow.unseen := h.act.2 ▸ List.mem_map_of_mem hf'
  obtain ⟨f, hf, hunseen⟩ := List.mem_map.mp hmem
  have hrun : f'.run = f.run := (congrArg Flow.run hunseen.symm :)
  rw [hrun]
  exact hg f hf

theorem Core.Rid.of_staff {ctx : Nat} {c c' : Core} (h : c.Rid ctx) (hs : c'.staff = c.staff) : c'.Rid ctx := by
  obtain ⟨hchans, hgangs⟩ := h
  simp only [Core.staff, Prod.mk.injEq] at hs
  obtain ⟨-, hg, hc⟩ := hs
  refine ⟨hc ▸ hchans, fun g' hg' hctx => ?_⟩
  have hmem : g'.unseen ∈ c.gangs.map Gang.unseen := hg ▸ List.mem_map_of_mem hg'
  obtain ⟨g, hgm, hunseen⟩ := List.mem_map.mp hmem
  have halike : g.Alike g' := ⟨hunseen.symm⟩
  have hgctx : g.ctx = g'.ctx := (congrArg Gang.ctx hunseen :)
  have hpend : g.pend = g'.pend := (congrArg Gang.pend hunseen :)
  obtain ⟨hvacate, hgo⟩ := hgangs g hgm (hgctx.trans hctx)
  exact ⟨hpend ▸ hvacate, halike.letGo hgo⟩

theorem Gang.addPending_pend (g : Gang) (c : Cause) (v : Dword) : (g.addPending c v).pend.any (fun p => p.cause == c) = true := by
  unfold Gang.addPending
  split
  · assumption
  · simp

/-- A gang to which the end of a context is told where it is the context's (R345). -/
def Gang.vacated (ctx : Nat) (g : Gang) : Gang := if g.ctx == some ctx then g.addPending .vacate 1 else g

/-- A gang whose transfers are dropped where it is a context's (R345, R347). -/
def Gang.dropped (ctx : Nat) (g : Gang) : Gang :=
  if g.ctx == some ctx then g.modAct fun b => { b with flows := b.flows.map Flow.letGo } else g

theorem Gang.vacated_rid (g : Gang) {ctx : Nat} (hctx : ((g.vacated ctx).dropped ctx).ctx = some ctx) :
    ((g.vacated ctx).dropped ctx).pend.any (fun p => p.cause == .vacate) = true ∧ ((g.vacated ctx).dropped ctx).letGo := by
  by_cases h : g.ctx = some ctx
  · have hvac : g.vacated ctx = g.addPending .vacate 1 := if_pos (by simpa using h)
    have hsame : (g.addPending .vacate 1).ctx = some ctx := by
      rw [← h]
      unfold Gang.addPending
      split <;> rfl
    have hdrop : (g.vacated ctx).dropped ctx =
        (g.addPending .vacate 1).modAct fun b => { b with flows := b.flows.map Flow.letGo } := by
      rw [hvac]
      exact if_pos (by simpa using hsame)
    rw [hdrop]
    refine ⟨?_, fun f hf i => ?_⟩
    · rw [Gang.modAct_pend]
      exact g.addPending_pend _ _
    · rw [Gang.act_modAct] at hf
      obtain ⟨f0, -, rfl⟩ := List.mem_map.mp hf
      exact f0.letGo_run i
  · have hvac : g.vacated ctx = g := if_neg (by simpa using h)
    have hdrop : g.dropped ctx = g := if_neg (by simpa using h)
    rw [hvac, hdrop] at hctx
    exact absurd hctx h

/-- After the vacating cause has been raised and the transfers have been dropped, every core is rid of the context. -/
theorem State.rid_dropTransfers (s : State) (ctx : Nat) :
    ∀ c ∈ ((s.raiseIn ctx .vacate 1).dropTransfers ctx).cores, c.Rid ctx := by
  intro c hc
  obtain ⟨c1, hc1, rfl⟩ := List.mem_map.mp hc
  obtain ⟨c0, -, rfl⟩ := List.mem_map.mp hc1
  constructor
  · intro q hq y hy
    obtain ⟨q0, -, rfl⟩ := List.mem_map.mp hq
    simpa using (List.mem_filter.mp hy).2
  · intro g hg hctx
    obtain ⟨g1, hg1, rfl⟩ := List.mem_map.mp hg
    obtain ⟨g0, -, rfl⟩ := List.mem_map.mp hg1
    exact g0.vacated_rid hctx

theorem State.killContext_rid (s : State) (ctx : Nat) : ∀ c ∈ (s.killContext ctx).cores, c.Rid ctx := by
  intro c hc
  have hstaff : (s.killContext ctx).cores.map Core.staff = ((s.raiseIn ctx .vacate 1).dropTransfers ctx).cores.map Core.staff :=
    congrArg (fun p => p.2.2) ((s.raiseIn ctx .vacate 1).works_killWork ctx)
  obtain ⟨c', hc', hs⟩ := List.mem_map.mp (hstaff ▸ List.mem_map_of_mem hc)
  exact (s.rid_dropTransfers ctx c' hc').of_staff hs.symm

/-- CONTEXT_KILL of a context that is not killed (R345). -/
theorem exec_contextKill {s : State} {ctx : Nat} {k : Context} (hk : s.context? ctx = some k) (hkilled : k.killed = false) :
    exec (.contextKill ctx) s = .next (s.killContext ctx) := by
  have hnum : k.num = ctx := by simpa using List.find?_some hk
  have hany : (s.contexts.any fun k => k.num == ctx && !k.killed) = true :=
    List.any_eq_true.mpr ⟨k, List.mem_of_find?_eq_some hk, by simp [hnum, hkilled]⟩
  exact if_pos hany

theorem State.killContext_context? (s : State) (ctx : Nat) :
    (s.killContext ctx).context? ctx = (s.context? ctx).map Context.ended := by
  have hctx : (s.killContext ctx).contexts = modify (fun k => k.num == ctx) Context.ended s.contexts :=
    (s.raiseIn ctx .vacate 1).killWork_contexts ctx
  unfold State.context?
  rw [hctx, find_modify _ _ Context.ended fun _ => rfl]
  cases hk : s.contexts.find? fun k => k.num == ctx with
  | none => rfl
  | some k =>
    have hnum : k.num = ctx := by simpa using List.find?_some hk
    simp [hnum]

/-! ### An interface in error (R347, R399) -/

/-- Operations of contexts whose work is ended are gone. -/
theorem State.killWorks_rops (c : Cause) (v : Dword) (l : List Nat) (s : State) {o : Rop}
    (ho : o ∈ (l.foldl (fun s n => (s.raiseIn n c v).killWork n) s).rops) : o ∈ s.rops ∧ ∀ n ∈ l, o.charge.ctx ≠ some n := by
  induction l generalizing s with
  | nil => exact ⟨ho, nofun⟩
  | cons n l ih =>
    obtain ⟨hmem, hl⟩ := ih _ ho
    rw [State.killWork_rops] at hmem
    obtain ⟨hs, hn⟩ := List.mem_filter.mp hmem
    exact ⟨hs, List.forall_mem_cons.mpr ⟨by simpa using hn, hl⟩⟩

theorem State.failRop_rops {s : State} {o : Rop} (ho : o.kind.atomic = false) (c : Cause) :
    (s.failRop o c).rops = s.rops.filter fun p => p.id != o.id := by
  unfold State.failRop
  dsimp only
  rw [if_neg (by simp [ho])]
  exact congrArg (List.filter fun p : Rop => p.id != o.id) (s.modCore_rops _ _)

/-- Operations that fail, none of them atomic, are gone; no other one comes. -/
theorem State.failRops_rops {s : State} (hs : ∀ o ∈ s.rops, o.kind.atomic = false) (p : Rop → Bool) (c : Cause) {o : Rop}
    (ho : o ∈ (s.failRops p c).rops) : o ∈ s.rops ∧ (p o = true → o.st = .answered) := by
  have hfold (l : List Rop) (hl : ∀ q ∈ l, q.kind.atomic = false) (t : State) (h : o ∈ (l.foldl (fun s q => s.failRop q c) t).rops) :
      o ∈ t.rops ∧ ∀ q ∈ l, o.id ≠ q.id := by
    induction l generalizing t with
    | nil => exact ⟨h, fun q hq => absurd hq List.not_mem_nil⟩
    | cons q l ih =>
      obtain ⟨hq, hl⟩ := List.forall_mem_cons.mp hl
      obtain ⟨hmem, hrest⟩ := ih hl _ h
      rw [State.failRop_rops hq] at hmem
      obtain ⟨ht, hne⟩ := List.mem_filter.mp hmem
      exact ⟨ht, List.forall_mem_cons.mpr ⟨by simpa using hne, hrest⟩⟩
  obtain ⟨hmem, hne⟩ := hfold _ (fun q hq => hs q (List.mem_of_mem_filter hq)) s ho
  refine ⟨hmem, fun hp => ?_⟩
  by_contra hst
  exact hne o (List.mem_filter.mpr ⟨hmem, by simp [hp, hst]⟩) rfl

theorem State.iface?_isSome {s : State} {n : Nat} (h : n < 1536) : (s.iface? n).isSome = true := by
  unfold State.iface?
  rw [if_neg (by omega)]
  split <;> rfl

/-- The state of an interface whose header has failed, its partition contained (R347). -/
def State.headerLost (s : State) (iface : Nat) : State :=
  ((s.partition iface).foldl (fun s n => (s.raiseIn n .mcHeaderUe 0).killWork n) s).modIface iface
    fun i => { i with st := .error, out := i.out ++ [.interfaceError] }

theorem State.headerLost_error (s : State) {iface : Nat} (h : iface < 1536) : (s.headerLost iface).tdisps iface = some .error := by
  rw [State.tdisps, State.headerLost,
    State.iface?_modIface (f := fun i => { i with st := .error, out := i.out ++ [.interfaceError] }) fun _ => rfl, if_pos rfl]
  obtain ⟨i, hi⟩ := Option.isSome_iff_exists.mp (State.iface?_isSome
    (s := (s.partition iface).foldl (fun s n => (s.raiseIn n .mcHeaderUe 0).killWork n) s) h)
  rw [hi]
  rfl

theorem State.headerLost_rops {s : State} {iface : Nat} {o : Rop} (ho : o ∈ (s.headerLost iface).rops) :
    o ∈ s.rops ∧ ∀ k ∈ s.contexts, k.iface = iface → o.charge.ctx ≠ some k.num := by
  rw [State.headerLost, State.modIface_rops] at ho
  obtain ⟨hmem, hn⟩ := State.killWorks_rops _ _ _ _ ho
  refine ⟨hmem, fun k hk hi => hn _ (List.mem_map_of_mem (List.mem_filter.mpr ⟨hk, by simpa using hi⟩))⟩

/-- Whether an operation in flight goes over a link, by the port at either end (R384). -/
def Rop.over (h : Nat × Nat) (o : Rop) : Bool :=
  let ends := h :: ((hopTo h.1 h.2).map fun t => (t, farPort h.2)).toList
  o.st != .held && o.path.any fun y => ends.contains y

theorem Rop.over_of_mem {h : Nat × Nat} {o : Rop} (hpath : h ∈ o.path) (hheld : o.st ≠ .held) : o.over h = true := by
  rw [Rop.over, Bool.and_eq_true]
  exact ⟨by simpa using hheld, List.any_eq_true.mpr ⟨h, hpath, by simp⟩⟩

/-- HEADER_UE of an interface, and of a link where the header was a flit's (R347, R384). -/
theorem exec_headerUe {s : State} {iface : Nat} (h : iface < 1536) (hop : Option (Nat × Nat)) :
    ∃ t, exec (.headerUe ⟨iface, hop⟩) s = .next t ∧ (t.iface? iface).map (fun i => i.st) = some .error ∧
      ((∀ o ∈ s.rops, o.kind.atomic = false) → (∀ k ∈ s.contexts, k.iface = iface → ∀ o ∈ t.rops, o.charge.ctx ≠ some k.num) ∧
        ∀ h, hop = some h → ∀ o ∈ t.rops, h ∈ o.path → o.st = .held ∨ o.st = .answered) := by
  cases hop with
  | none =>
    refine ⟨s.headerLost iface, if_pos (State.iface?_isSome h), s.headerLost_error h, fun _ => ⟨fun k hk hi o ho => ?_, nofun⟩⟩
    exact (State.headerLost_rops ho).2 k hk hi
  | some hop =>
    refine ⟨(s.headerLost iface).failRops (Rop.over hop) .siteLost, if_pos (State.iface?_isSome h), ?_, fun hatomic => ?_⟩
    · exact (congrFun (State.tdisps_failRops _ _ _) iface).trans (s.headerLost_error h)
    · have hrops {o : Rop} (ho : o ∈ ((s.headerLost iface).failRops (Rop.over hop) .siteLost).rops) :=
        State.failRops_rops (fun o ho => hatomic o (State.headerLost_rops ho).1) (Rop.over hop) .siteLost ho
      refine ⟨fun k hk hi o ho => (State.headerLost_rops (hrops ho).1).2 k hk hi, ?_⟩
      intro h' hh o ho hpath
      obtain rfl : hop = h' := Option.some.inj hh
      by_cases hheld : o.st = .held
      · exact .inl hheld
      · exact .inr ((hrops ho).2 (Rop.over_of_mem hpath hheld))

/-! ### A grid's watchdog (R348) -/

/-- A grid whose watchdog has fired. -/
def Grid.late (g : Grid) : Grid := { g with watched := true }

theorem Island.grid?_modGrid {y : Island} {n : Nat} {f : Grid → Grid} (hf : ∀ g, (f g).num = g.num) :
    (y.modGrid n f).grid? n = (y.grid? n).map f := by
  unfold Island.grid? Island.modGrid
  rw [find_modify _ _ _ fun g => by rw [hf]]
  cases hg : y.grids.find? fun g => g.num == n with
  | none => rfl
  | some g =>
    have hnum : g.num = n := by simpa using List.find?_some hg
    simp [hnum]

/-- The state after a grid's watchdog: the grid is marked, the cause is pending in its gangs, its age with it (R348). -/
def State.watch (s : State) (site ctx grid : Nat) (age : Dword) : State :=
  (s.modGangs (fun r y => r.site == some site && y.ctx == some ctx && ((s.core r).wg? y.wg).any fun w => w.grid == some grid)
    fun y => y.addPending .watchdog age).modIsland site fun x => x.modGrid grid Grid.late

/-- WATCHDOG of a grid that has run for too long marks it. -/
theorem exec_watchdog {s : State} {site grid : Nat} {y : Island} {g : Grid} {k : CtxIsland} {at' : Dword}
    (hy : s.island? site = some y) (hg : y.grid? grid = some g) (hk : y.ctx? g.ctx = some k) (hat : g.released = some at')
    (hset : k.watchdog ≠ 0) (hlate : k.watchdog * 2 ^ 20 < (y.clock - at').toNat) (hfirst : g.watched = false)
    (hopen : g.complete = false) : ∃ t, exec (.watchdog site grid) s = .next t ∧
      (((t.island? site).bind fun y => y.grid? grid).map fun g => g.watched) = some true := by
  have hexec : exec (.watchdog site grid) s = .next (s.watch site g.ctx grid (y.clock - at')) := by
    change execWatchdog site grid s = _
    simp only [execWatchdog, hy, hg, hat, hk]
    refine if_pos ?_
    rw [Bool.and_eq_true, Bool.and_eq_true, Bool.and_eq_true]
    exact ⟨⟨⟨by simpa using hset, decide_eq_true hlate⟩, by simp [hfirst]⟩, by simp [hopen]⟩
  refine ⟨_, hexec, ?_⟩
  rw [State.watch, State.island?_modIsland (s := s.modGangs _ _) (Island.modGrid · grid Grid.late) (fun _ => rfl) hy,
    Option.bind_some, Island.grid?_modGrid (f := Grid.late) fun _ => rfl, hg]
  rfl

/-! ### The statement -/

/-- Settles O48: each step by its own lemma above. -/
theorem containmentSteps : Obligations.ContainmentSteps := by
  intro s r ctx iface site grid
  refine ⟨?_, ?_, ?_, fun hhalt hcompute => exec_coreReset hhalt hcompute, ?_, fun hop hn => exec_headerUe hn hop, ?_⟩
  · intro hcore hstop
    exact if_pos (by simp [hcore, hstop])
  · rintro ag rfl hnone hstop pass
    change execDebugResume ag s = _
    simp only [execDebugResume, hnone, Option.bind_none]
    exact if_pos hstop
  · intro hcore
    exact ⟨_, if_pos hcore⟩
  · intro k hk hkilled
    have hctx : (s.killContext ctx).context? ctx = some k.ended := by rw [State.killContext_context?, hk]; rfl
    refine ⟨_, exec_contextKill hk hkilled, fun o ho => ?_, by rw [hctx]; rfl, fun c hc q hq => ?_, s.killContext_rid ctx⟩
    · rw [State.killContext, State.killWork_rops] at ho
      simpa using (List.mem_filter.mp ho).2
    · obtain rfl : k.ended = c := Option.some.inj (hctx.symm.trans hc)
      obtain ⟨q0, -, rfl⟩ := List.mem_map.mp hq
      rfl
  · intro y g k at' hy hg hk hat hset hlate hfirst hopen
    exact exec_watchdog hy hg hk hat hset hlate hfirst hopen

end Sys2Proof.Machine

/-! ## Values between lanes and votes (R180 to R187) -/

namespace Sys2Proof.Machine

/-! ### Sub-groups (R180) -/

theorem Ex.inSet_iff {x : Ex} {k : Nat} : x.inSet k = true ↔ k ∈ x.set := by rw [Ex.inSet, List.contains_iff_mem]

/-- The participants of a lane's sub-group are the lanes of the lane set with its base. -/
theorem Ex.mem_parts {x : Ex} {sz i k : Nat} : k ∈ x.parts sz i ↔ k ∈ x.set ∧ baseOf sz k = baseOf sz i := by
  rw [Ex.parts, List.mem_filter, beq_iff_eq]

/-- A lane of the lane set takes part in its own sub-group. -/
theorem Ex.self_mem_parts {x : Ex} (sz : Nat) {l : Nat} (hl : l ∈ x.set) : l ∈ x.parts sz l := Ex.mem_parts.mpr ⟨hl, rfl⟩

/-- The lowest participant of a lane's sub-group. -/
theorem Ex.parts_head? {x : Ex} (sz : Nat) {l : Nat} (hl : l ∈ x.set) : (x.parts sz l).head? = some ((x.parts sz l).headD l) := by
  cases h : x.parts sz l with
  | nil => exact absurd (x.self_mem_parts sz hl) (h ▸ List.not_mem_nil)
  | cons k r => rfl

/-- A completion with one value in each lane of the lane set. -/
theorem Ex.lanes1_row (x : Ex) (s : State) (f : Nat → LV) :
    ∃ row : Lanes, x.lanes1 s f = .next (x.written s x.inSet [row]) ∧ ∀ l ∈ x.set, l < x.w → laneAt row l = f l :=
  ⟨_, rfl, fun l hl hw => by rw [laneAt_map _ _ _ hw, if_pos (Ex.inSet_iff.mpr hl)]⟩

/-- The lane a value is taken from: a lane of the lane set, else the lane's own (R183, R184). -/
theorem Ex.lv_from (x : Ex) (j k l : Nat) : x.lv j (if x.inSet k then k else l) = x.lv j (if k ∈ x.set then k else l) := by
  simp only [Ex.inSet_iff]

section
variable {i : Instr} {s : State} {x : Ex} (hr : Ready i s x)
include hr

/-! ### SHFL and BCAST (R183, R184) -/

/-- The position that SHFL's mode names, before it is brought into the sub-group (R183). -/
def shflAt (mode : ShflMode) (j t : Nat) : Int :=
  match mode with
  | .idx => t
  | .up => (j : Int) - t
  | .down => (j : Int) + t
  | .xorm => (j ^^^ t : Nat)

/-- That position brought into a sub-group of n lanes (R183). -/
def shflInto (mode : ShflMode) (edge : Bool) (n : Nat) (u : Int) : Int :=
  if u < 0 ∨ (n : Int) ≤ u then (if edge then (if mode = .up then 0 else (n : Int) - 1) else u % n) else u

omit hr in
theorem shflPos_eq (mode : ShflMode) (edge : Bool) (n j t : Nat) :
    shflPos mode edge n j t = (shflInto mode edge n (shflAt mode j t)).toNat := by
  have hpos : shflPos mode edge n j t = if shflAt mode j t < 0 || (n : Int) ≤ shflAt mode j t then
      (if edge then (if mode == .up then 0 else n - 1) else (shflAt mode j t % n).toNat) else (shflAt mode j t).toNat := by
    cases mode <;> rfl
  have hlast : n - 1 = ((n : Int) - 1).toNat := by omega
  simp only [hpos, shflInto, hlast, Bool.or_eq_true, decide_eq_true_eq, beq_iff_eq, apply_ite Int.toNat, Int.toNat_zero]

/-- SHFL with the lane numbers t (R183). -/
theorem Ready.shuffles {sw : SubW} {mode : ShflMode} {edge : Bool} (hexec : exec i s = issue i s (Ex.shfl sw mode edge))
    {t : Nat → Nat} (ht : ∀ l < x.w, (x.lv 2 l).v.toNat = t l) (hclean : ∀ l ∈ x.set, (x.lv 2 l).p = false) :
    ∃ row : Lanes, exec i s = .next (x.written s x.inSet [row]) ∧ ∀ l ∈ x.set, l < x.w →
      let k := l - l % x.sub sw + (shflInto mode edge (x.sub sw) (shflAt mode (l % x.sub sw) (t l))).toNat
      laneAt row l = x.lv 1 (if k ∈ x.set then k else l) := by
  obtain ⟨row, hrow, hlane⟩ := x.lanes1_row s fun l =>
    let k := baseOf (x.sub sw) l + shflPos mode edge (x.sub sw) (l % x.sub sw) (x.lv 2 l).v.toNat
    x.lv 1 (if x.inSet k then k else l)
  have hraised : (x.set.flatMap fun l => poisons 0 .poisonLaneIndex l [x.lv 2 l]) = [] :=
    List.flatMap_eq_nil_iff.mpr fun l hl => poisons_of_clean _ _ _ (by simpa using hclean l hl)
  refine ⟨row, ?_, fun l hl hw => ?_⟩
  · rw [hexec, issue_of_ready hr, Ex.shfl, hraised, Ex.check_nil hr.full, hr.state, ← hrow]
  · rw [hlane l hl hw]
    dsimp only
    rw [Ex.lv_from, shflPos_eq, ht l hw]
    rfl

/-- A shuffle whose lane numbers are an immediate reads it in every lane that the gang has. -/
theorem Ready.lit_toNat {imm : BitVec 5} (hop : i.operand 2 = some (.lit, .src 1)) (hlit : i.literal = some (imm.setWidth 32))
    (l : Nat) (hl : l < x.w) : (x.lv 2 l).v.toNat = imm.toNat := by
  rw [hr.lv_lit hop hlit hl, BitVec.toNat_setWidth]
  have := imm.isLt
  omega

/-- BCAST (R184). -/
theorem Ready.broadcasts {sw : SubW} (hexec : exec i s = issue i s (Ex.bcast sw))
    (hclean : ∀ l ∈ x.set, (x.parts (x.sub sw) l).head? = some l → (x.lv 2 l).p = false) :
    ∃ row : Lanes, exec i s = .next (x.written s x.inSet [row]) ∧ ∀ l ∈ x.set, l < x.w →
      ∀ low, (x.parts (x.sub sw) l).head? = some low →
        let k := l - l % x.sub sw + (x.lv 2 low).v.toNat % x.sub sw
        laneAt row l = x.lv 1 (if k ∈ x.set then k else l) := by
  obtain ⟨row, hrow, hlane⟩ := x.lanes1_row s fun l =>
    let k := baseOf (x.sub sw) l + (x.lv 2 ((x.parts (x.sub sw) l).headD l)).v.toNat % x.sub sw
    x.lv 1 (if x.inSet k then k else l)
  have hraised : (x.set.flatMap fun l => if (x.parts (x.sub sw) l).headD l == l then poisons 0 .poisonLaneIndex l [x.lv 2 l]
      else []) = [] := by
    refine List.flatMap_eq_nil_iff.mpr fun l hl => ?_
    split
    · next hlow =>
      have hhead := x.parts_head? (x.sub sw) hl
      rw [eq_of_beq hlow] at hhead
      exact poisons_of_clean _ _ _ (by simpa using hclean l hl hhead)
    · rfl
  refine ⟨row, ?_, fun l hl hw low hlow => ?_⟩
  · rw [hexec, issue_of_ready hr, Ex.bcast, hraised, Ex.check_nil hr.full, hr.state, ← hrow]
  · rw [x.parts_head? (x.sub sw) hl, Option.some.injEq] at hlow
    rw [hlane l hl hw]
    dsimp only
    rw [Ex.lv_from, hlow]
    rfl

/-! ### VOTE, MATCH and ELECT (R182, R185 to R187) -/

/-- A result over the participants of each lane's sub-group, or the merge of their values (R182). -/
theorem Ready.polls {sw : SubW} {own : Ex → Res} {f : List Nat → Nat → Word} (hexec : exec i s = issue i s own)
    (hown : own x = x.overParts sw f) : ∃ row : Lanes, exec i s = .next (x.written s x.inSet [row]) ∧ ∀ l ∈ x.set, l < x.w →
      (∀ w, merge ((x.parts (x.sub sw) l).map (x.lv 1)) = some w → laneAt row l = ⟨w, true⟩) ∧
      (merge ((x.parts (x.sub sw) l).map (x.lv 1)) = none → laneAt row l = ⟨f (x.parts (x.sub sw) l) l, false⟩) := by
  obtain ⟨row, hrow, hlane⟩ := x.lanes1_row s fun l => match merge ((x.parts (x.sub sw) l).map (x.lv 1)) with
    | some w => ⟨w, true⟩
    | none => ⟨f (x.parts (x.sub sw) l) l, false⟩
  refine ⟨row, ?_, fun l hl hw => ⟨fun w h => ?_, fun h => ?_⟩⟩
  · rw [hexec, issue_of_ready hr, hown, Ex.overParts, Ex.check_nil hr.full, hr.state, ← hrow] <;> rfl
  · rw [hlane l hl hw, h]
  · rw [hlane l hl hw, h]

end

/-- All ones or 0, by a test. -/
theorem allOnes_cases {b : Bool} {t : Prop} (h : b = true ↔ t) :
    (t → allOnes b = BitVec.allOnes 32) ∧ (¬ t → allOnes b = 0) := by
  cases b with
  | true => exact ⟨fun _ => rfl, fun ht => absurd (h.mp rfl) ht⟩
  | false => exact ⟨fun ht => Bool.noConfusion (h.mpr ht), fun _ => rfl⟩

theorem getLsbD_maskBy (f : Nat → Bool) {k : Nat} (hk : k < 32) : (maskBy f).getLsbD k = f k := by
  rw [BitVec.getLsbD_eq_getElem hk, getElem_maskBy f hk]

/-- Every value of a list is the first one exactly when all are equal. -/
theorem filter_head_length {A : Nat → Word} {ps : List Nat} (l : Nat) :
    ((ps.filter fun k => A k == A (ps.headD l)).length == ps.length) = true ↔ ∀ j ∈ ps, ∀ k ∈ ps, A j = A k := by
  rw [beq_iff_eq, List.length_filter_eq_length_iff]
  cases ps with
  | nil => simp
  | cons a r =>
    simp only [List.headD_cons, beq_iff_eq]
    exact ⟨fun h j hj k hk => (h j hj).trans (h k hk).symm, fun h j hj => h j hj a List.mem_cons_self⟩

/-- MATCH's equality of two keys: as words, or as binary32 values, a NaN being equal to every NaN (R186). -/
def SameKey (f : Bool) (u v : Word) : Prop :=
  if f then
    let p := lf32.decode u.toNat
    let q := lf32.decode v.toNat
    p.isNan = true ∧ q.isNan = true ∨ p.isNan = false ∧ q.isNan = false ∧ Num.cmp p q = 0
  else u = v

theorem keyEq_iff (f : Bool) (u v : Word) : keyEq f u v = true ↔ SameKey f u v := by
  cases f with
  | false => exact beq_iff_eq
  | true =>
    simp only [keyEq, SameKey, Bool.not_true, Bool.false_eq_true, if_false, if_true]
    cases (lf32.decode u.toNat).isNan <;> cases (lf32.decode v.toNat).isNan <;> simp

end Sys2Proof.Machine

namespace Sys2Proof.Machine

/-- Settles O14: every lane takes the value that stands at SHFL's or BCAST's position of its sub-group, or its own. -/
theorem shuffleAndBroadcast : Obligations.ShuffleAndBroadcast := by
  refine ⟨fun h sw mode edge d a b imm s x => ⟨?_, ?_, ?_, ?_, ?_, ?_⟩, fun h sw d a b s x => ⟨?_, ?_⟩⟩
  · exact fun hr hc => hr.shuffles rfl (fun _ _ => rfl) hc
  · exact fun hr hc => hr.shuffles rfl (fun _ _ => rfl) hc
  · exact fun hr hc => hr.shuffles rfl (fun _ _ => rfl) hc
  · exact fun hr hc => hr.shuffles rfl (hr.lit_toNat rfl rfl) hc
  · exact fun hr hc => hr.shuffles rfl (hr.lit_toNat rfl rfl) hc
  · exact fun hr hc => hr.shuffles rfl (hr.lit_toNat rfl rfl) hc
  · exact fun hr hc => hr.broadcasts rfl hc
  · exact fun hr hc => hr.broadcasts rfl hc

section
variable {x : Ex} (ps : List Nat) (l : Nat)

/-- The participants whose A is not 0. -/
def Ex.yeas (x : Ex) (ps : List Nat) : List Nat := ps.filter fun k => (x.lv 1 k).v != 0

/-- The participants whose A is that of the lowest one. -/
def Ex.alike (x : Ex) (ps : List Nat) (l : Nat) : List Nat := ps.filter fun k => (x.lv 1 k).v == (x.lv 1 (ps.headD l)).v

theorem Ex.yeas_nonempty : (!(x.yeas ps).isEmpty) = true ↔ ∃ k ∈ ps, (x.lv 1 k).v ≠ 0 := by
  simp [Ex.yeas]

theorem Ex.yeas_all : ((x.yeas ps).length == ps.length) = true ↔ ∀ k ∈ ps, (x.lv 1 k).v ≠ 0 := by
  simp [Ex.yeas]

theorem Ex.mem_yeas {k : Nat} : (x.yeas ps).contains k = true ↔ k ∈ ps ∧ (x.lv 1 k).v ≠ 0 := by
  simp [Ex.yeas]

theorem Ex.alike_length : (x.alike ps l).length =
    ps.countP fun k => some (x.lv 1 k).v == ps.head?.map fun k => (x.lv 1 k).v := by
  rw [Ex.alike, ← List.countP_eq_length_filter]
  cases ps with
  | nil => rfl
  | cons a r => simp

end

/-- The value of VOTE over some participants (R185). -/
def Ex.Voted (x : Ex) (kind : VoteKind) (cnt : Bool) (ps : List Nat) (v : Word) : Prop :=
  match kind, cnt with
  | .any, false => ((∃ k ∈ ps, (x.lv 1 k).v ≠ 0) → v = BitVec.allOnes 32) ∧ (¬ (∃ k ∈ ps, (x.lv 1 k).v ≠ 0) → v = 0)
  | .all, false => ((∀ k ∈ ps, (x.lv 1 k).v ≠ 0) → v = BitVec.allOnes 32) ∧ (¬ (∀ k ∈ ps, (x.lv 1 k).v ≠ 0) → v = 0)
  | .same, false => ((∀ j ∈ ps, ∀ k ∈ ps, (x.lv 1 j).v = (x.lv 1 k).v) → v = BitVec.allOnes 32) ∧
      (¬ (∀ j ∈ ps, ∀ k ∈ ps, (x.lv 1 j).v = (x.lv 1 k).v) → v = 0)
  | .ballot, false => ∀ k < 32, v.getLsbD k = true ↔ k ∈ ps ∧ (x.lv 1 k).v ≠ 0
  | .same, true => v = BitVec.ofNat 32 (ps.countP fun k => some (x.lv 1 k).v == ps.head?.map fun k => (x.lv 1 k).v)
  | _, true => v = BitVec.ofNat 32 (ps.countP fun k => (x.lv 1 k).v != 0)

theorem Ex.voted (x : Ex) (kind : VoteKind) (cnt : Bool) (ps : List Nat) (l : Nat) :
    x.Voted kind cnt ps (voteResult kind cnt (x.yeas ps) (x.alike ps l) ps.length) := by
  have hcount : BitVec.ofNat 32 (x.yeas ps).length = BitVec.ofNat 32 (ps.countP fun k => (x.lv 1 k).v != 0) := by
    rw [Ex.yeas, ← List.countP_eq_length_filter]
  cases kind <;> cases cnt
  case any.false => exact allOnes_cases (Ex.yeas_nonempty ps)
  case all.false => exact allOnes_cases (Ex.yeas_all ps)
  case same.false => exact allOnes_cases (filter_head_length l)
  case ballot.false => exact fun k hk => by rw [← Ex.mem_yeas, voteResult, getLsbD_maskBy _ hk]
  case same.true => exact congrArg (BitVec.ofNat 32) (Ex.alike_length ps l)
  all_goals exact hcount

section
variable {i : Instr} {s : State} {x : Ex} (hr : Ready i s x)
include hr

/-- A poll of the participants, with what its result says of their values (R182). -/
theorem Ready.polled {sw : SubW} {own : Ex → Res} {f : List Nat → Nat → Word} (hexec : exec i s = issue i s own)
    (hown : own x = x.overParts sw f) {P : List Nat → Nat → Word → Prop} (hP : ∀ ps l, P ps l (f ps l)) :
    ∃ row : Lanes, exec i s = .next (x.written s x.inSet [row]) ∧ ∀ l ∈ x.set, l < x.w →
      match merge ((x.parts (x.sub sw) l).map (x.lv 1)) with
      | some w => laneAt row l = ⟨w, true⟩
      | none => (laneAt row l).p = false ∧ P (x.parts (x.sub sw) l) l (laneAt row l).v := by
  obtain ⟨row, hrow, hlane⟩ := hr.polls hexec hown
  refine ⟨row, hrow, fun l hl hw => ?_⟩
  obtain ⟨hsome, hnone⟩ := hlane l hl hw
  split
  · next w hm => exact hsome w hm
  · next hm =>
    rw [hnone hm]
    exact ⟨rfl, hP _ _⟩

/-- ELECT (R187). -/
theorem Ready.elects {sw : SubW} (hexec : exec i s = issue i s (Ex.elect sw)) : ∃ row : Lanes,
    exec i s = .next (x.written s x.inSet [row]) ∧ ∀ l ∈ x.set, l < x.w →
      laneAt row l = ⟨allOnes ((x.parts (x.sub sw) l).head? == some l), false⟩ := by
  obtain ⟨row, hrow, hlane⟩ := x.lanes1_row s fun l => ⟨allOnes ((x.parts (x.sub sw) l).head? == some l), false⟩
  exact ⟨row, by rw [hexec, issue_of_ready hr, Ex.elect, Ex.check_nil hr.full, hr.state, ← hrow], hlane⟩

end

/-- Settles O15: the results of VOTE and MATCH over the participants of a sub-group, and ELECT's, which reads none. -/
theorem votes : Obligations.Votes := by
  intro h sw kind cnt f d a s x
  refine ⟨fun hr => ?_, fun hr => ?_, fun hr => ?_, fun hr => ?_⟩
  · exact hr.polled rfl rfl (x.voted kind cnt)
  · exact hr.polled rfl rfl (x.voted .ballot false)
  · refine hr.polled rfl rfl (P := fun ps l v => ∀ k < 32, v.getLsbD k = true ↔ k ∈ ps ∧ SameKey f (x.lv 1 l).v (x.lv 1 k).v)
      fun ps l k hk => ?_
    rw [getLsbD_maskBy _ hk, Bool.and_eq_true, List.contains_iff_mem, keyEq_iff]
  · obtain ⟨row, hrow, hlane⟩ := hr.elects rfl
    refine ⟨row, hrow, fun l hl hw => ?_⟩
    rw [hlane l hl hw]
    exact ⟨rfl, allOnes_cases beq_iff_eq⟩

end Sys2Proof.Machine

/-! ## REDG and SCAN (R182, R188, R189) -/

namespace Sys2Proof.Machine

/-! ### Nodes and levels of the tree (R188) -/

/-- The value of a node on clean values (R188). -/
def redNode (op : RedOp) (u v : Word) : Word :=
  let p := lf32.decode u.toNat
  let q := lf32.decode v.toNat
  let rne : FpMod := ⟨.rne, false⟩
  match op with
  | .addi => u + v
  | .mins => if u.toInt ≤ v.toInt then u else v
  | .maxs => if v.toInt ≤ u.toInt then u else v
  | .minn => if u.toNat ≤ v.toNat then u else v
  | .maxn => if v.toNat ≤ u.toNat then u else v
  | .andb => u &&& v | .orb => u ||| v | .xorb => u ^^^ v
  | .addf => BitVec.ofNat 32 (lf32.answer rne (Num.add .rne p q))
  | .minf => BitVec.ofNat 32 (lf32.answer rne (some (Num.pick true p q)))
  | .maxf => BitVec.ofNat 32 (lf32.answer rne (some (Num.pick false p q)))

theorem nodeEl_code (op : RedOp) (u v : Word) : BitVec.ofNat 32 (nodeEl op u v).code = redNode op u v := by
  have hmin : min u.toNat v.toNat = (if u.toNat ≤ v.toNat then u else v).toNat := by rw [min_def, apply_ite BitVec.toNat]
  have hmax : max u.toNat v.toNat = (if v.toNat ≤ u.toNat then u else v).toNat := by
    rw [max_comm, max_def, apply_ite BitVec.toNat]
  cases op with
  | addf | minf | maxf => exact congrArg (BitVec.ofNat 32) (Layout.code_el lf32 ⟨.rne, false⟩ _ _)
  | minn => exact (congrArg (BitVec.ofNat 32) hmin).trans (BitVec.ofNat_toNat _ _)
  | maxn => exact (congrArg (BitVec.ofNat 32) hmax).trans (BitVec.ofNat_toNat _ _)
  | _ => exact BitVec.ofNat_toNat _ _

/-- A clean value, if there is one. -/
def cleanly (v : Option Word) : Option LV := v.map fun v => ⟨v, false⟩

/-- The value of two halves, an empty one giving way. -/
def joinHalves (f : Word → Word → Word) (a b : Option Word) : Option Word :=
  match a, b with
  | none, v => v
  | u, none => u
  | some u, some v => some (f u v)

theorem halves_succ (f : Word → Word → Word) (n : Nat) (l : List (Option Word)) :
    halves f (n + 1) l = joinHalves f (halves f n (l.take (2 ^ n))) (halves f n (l.drop (2 ^ n))) := by
  rw [halves]
  cases halves f n (l.take (2 ^ n)) <;> cases halves f n (l.drop (2 ^ n)) <;> rfl

/-- A level of the tree, neighbours in pairs. -/
def pairLevel (f : Word → Word → Word) : List (Option Word) → List (Option Word)
  | a :: b :: r => joinHalves f a b :: pairLevel f r
  | l => l

theorem pairLevel_append (f : Word → Word → Word) (n : Nat) (l r : List (Option Word)) (hl : l.length = 2 * n) :
    pairLevel f (l ++ r) = pairLevel f l ++ pairLevel f r ∧ (pairLevel f l).length = n := by
  induction n generalizing l with
  | zero =>
    rw [List.length_eq_zero_iff.mp hl]
    exact ⟨rfl, rfl⟩
  | succ n ih =>
    match l, hl with
    | a :: b :: l, hl =>
      obtain ⟨happ, hlen⟩ := ih l (by simpa [Nat.mul_add] using hl)
      exact ⟨congrArg (joinHalves f a b :: ·) happ, congrArg Nat.succ hlen⟩

theorem pairLevel_length (f : Word → Word → Word) {n : Nat} {l : List (Option Word)} (hl : l.length = 2 ^ (n + 1)) :
    (pairLevel f l).length = 2 ^ n := (pairLevel_append f _ l [] (by rw [hl, Nat.pow_succ']) ).2

/-- The tree over the values of a level is the tree. -/
theorem halves_pairLevel (f : Word → Word → Word) (n : Nat) (l : List (Option Word)) (hl : l.length = 2 ^ (n + 1)) :
    halves f n (pairLevel f l) = halves f (n + 1) l := by
  induction n generalizing l with
  | zero =>
    match l, hl with
    | [a, b], _ => rw [halves_succ]; rfl
  | succ n ih =>
    have hpow : 2 ^ (n + 1 + 1) = 2 ^ (n + 1) + 2 ^ (n + 1) := by rw [Nat.pow_succ, Nat.mul_two]
    have htake : (l.take (2 ^ (n + 1))).length = 2 ^ (n + 1) := by rw [List.length_take, hl, hpow]; omega
    have hdrop : (l.drop (2 ^ (n + 1))).length = 2 ^ (n + 1) := by rw [List.length_drop, hl, hpow]; omega
    obtain ⟨happ, hlen⟩ := pairLevel_append f (2 ^ n) (l.take (2 ^ (n + 1))) (l.drop (2 ^ (n + 1)))
      (by rw [htake, Nat.pow_succ'])
    rw [List.take_append_drop] at happ
    rw [halves_succ, halves_succ f (n + 1), ← ih _ htake, ← ih _ hdrop, happ, List.take_left' hlen, List.drop_left' hlen]

/-- The tree has a value where one of its leaves has. -/
theorem halves_isSome (f : Word → Word → Word) (n : Nat) (l : List (Option Word)) (hl : l.length = 2 ^ n) {v : Word}
    (hv : some v ∈ l) : (halves f n l).isSome = true := by
  induction n generalizing l with
  | zero =>
    match l, hl with
    | [a], _ =>
      obtain rfl := List.mem_singleton.mp hv
      rfl
  | succ n ih =>
    have hpow : 2 ^ (n + 1) = 2 ^ n + 2 ^ n := by rw [Nat.pow_succ, Nat.mul_two]
    rw [← List.take_append_drop (2 ^ n) l, List.mem_append] at hv
    have hjoin : ∀ a b : Option Word, a.isSome = true ∨ b.isSome = true → (joinHalves f a b).isSome = true := by
      intro a b h
      cases a <;> cases b <;> simp_all [joinHalves]
    rw [halves_succ]
    refine hjoin _ _ (hv.imp (ih _ ?_) (ih _ ?_))
    · rw [List.length_take, hl, hpow]; omega
    · rw [List.length_drop, hl, hpow]; omega

/-! ### The tree with poison mode off (R188) -/

section
variable {ch : Charge} (hpsn : ch.psn = false) (op : RedOp)
include hpsn

theorem node_clean (a b : Option Word) (s : State) :
    node op ch (cleanly a) (cleanly b) s = (cleanly (joinHalves (redNode op) a b), s) := by
  cases a with
  | none => rfl
  | some u =>
    cases b with
    | none => rfl
    | some v =>
      have hword : wordsOf 1 (joinEls 32 ([nodeEl op u v].map El.code)) = [redNode op u v] := by
        rw [← nodeEl_code]
        simp only [List.map_cons, List.map_nil, joinEls, wordsOf, Nat.mul_zero, Nat.add_zero, List.cons.injEq, and_true]
        exact BitVec.eq_of_toNat_eq (by simp)
      simp only [cleanly, Option.map_some, node, State.tag_clean s ch _ 1 32 _ (.inl hpsn), hword]
      rfl

theorem node_state (a b : Option LV) (s : State) : (node op ch a b s).2 = s := by
  cases a with
  | none => rfl
  | some u =>
    cases b with
    | none => rfl
    | some v => exact State.tag_state hpsn _ _ _ _

theorem treeLevel_clean (l : List (Option Word)) (s : State) :
    treeLevel op ch (l.map cleanly) s = ((pairLevel (redNode op) l).map cleanly, s) := by
  induction l using pairLevel.induct with
  | case1 a b r ih => simp only [List.map_cons, treeLevel, node_clean hpsn, ih, pairLevel]
  | case2 l hl =>
    match l, hl with
    | [], _ => rfl
    | [a], _ => rfl
    | a :: b :: r, hl => exact absurd rfl (hl a b r)

theorem treeLevel_state (l : List (Option LV)) (s : State) : (treeLevel op ch l s).2 = s := by
  fun_induction treeLevel op ch l s with
  | case1 a b r s p q ih => exact ih.trans (node_state hpsn op a b s)
  | case2 => rfl

theorem tree_clean {n m : Nat} {l : List (Option Word)} (hl : l.length = 2 ^ m) (hm : m ≤ n) (s : State) :
    tree op ch n (l.map cleanly) s = (cleanly (halves (redNode op) m l), s) := by
  induction n generalizing m l with
  | zero =>
    obtain rfl : m = 0 := by omega
    match l, hl with
    | [a], _ => rfl
  | succ n ih =>
    rw [tree, treeLevel_clean hpsn]
    dsimp only
    cases m with
    | zero =>
      match l, hl with
      | [a], hl => exact ih (m := 0) hl (Nat.zero_le n)
    | succ m => rw [ih (pairLevel_length _ hl) (by omega), halves_pairLevel _ _ _ hl]

theorem tree_state (n : Nat) (l : List (Option LV)) (s : State) : (tree op ch n l s).2 = s := by
  induction n generalizing l s with
  | zero => rfl
  | succ n ih => exact (ih _ _).trans (treeLevel_state hpsn op l s)

end

/-! ### Poison in the tree (R182) -/

/-- A value that is poisoned. -/
def Tainted (v : Option LV) : Prop := ∃ y, v = some y ∧ y.p = true

theorem merge_of_poisoned {l : List LV} {y : LV} (hy : y ∈ l) (hp : y.p = true) : ∃ w, merge l = some w := by
  unfold merge
  cases hf : l.filter fun x => x.p with
  | nil => exact absurd (List.mem_filter.mpr ⟨hy, hp⟩) (hf ▸ List.not_mem_nil)
  | cons f r => exact ⟨_, rfl⟩

theorem node_tainted (op : RedOp) (ch : Charge) {a b : Option LV} (h : Tainted a ∨ Tainted b) (s : State) :
    Tainted (node op ch a b s).1 := by
  cases a with
  | none => exact h.resolve_left fun ⟨_, h, _⟩ => nomatch h
  | some u =>
    cases b with
    | none => exact h.resolve_right fun ⟨_, h, _⟩ => nomatch h
    | some v =>
      have hp : ∃ y ∈ [u, v], y.p = true := by
        obtain ⟨y, hy, hp⟩ | ⟨y, hy, hp⟩ := h
        · exact ⟨u, by simp, Option.some.inj hy ▸ hp⟩
        · exact ⟨v, by simp, Option.some.inj hy ▸ hp⟩
      obtain ⟨y, hy, hp⟩ := hp
      obtain ⟨w, hw⟩ := merge_of_poisoned hy hp
      exact ⟨⟨w, true⟩, by simp only [node, State.tag_merged hw]; rfl, rfl⟩

theorem treeLevel_tainted (op : RedOp) (ch : Charge) (l : List (Option LV)) (s : State) (h : ∃ v ∈ l, Tainted v) :
    ∃ v ∈ (treeLevel op ch l s).1, Tainted v := by
  fun_induction treeLevel op ch l s with
  | case1 a b r s p q ih =>
    obtain ⟨v, hv, ht⟩ := h
    obtain rfl | rfl | hv : v = a ∨ v = b ∨ v ∈ r := by simpa using hv
    · exact ⟨_, List.mem_cons_self, node_tainted op ch (.inl ht) s⟩
    · exact ⟨_, List.mem_cons_self, node_tainted op ch (.inr ht) s⟩
    · obtain ⟨z, hz, ht⟩ := ih ⟨v, hv, ht⟩
      exact ⟨z, List.mem_cons_of_mem _ hz, ht⟩
  | case2 => exact h

theorem treeLevel_length (op : RedOp) (ch : Charge) (n : Nat) (l : List (Option LV)) (hl : l.length = 2 * n) (s : State) :
    (treeLevel op ch l s).1.length = n := by
  induction n generalizing l s with
  | zero => rw [List.length_eq_zero_iff.mp hl]; rfl
  | succ n ih =>
    match l, hl with
    | a :: b :: l, hl => exact congrArg Nat.succ (ih l (by simpa [Nat.mul_add] using hl) _)

/-- A poisoned leaf poisons the tree. -/
theorem tree_tainted (op : RedOp) (ch : Charge) {n m : Nat} {l : List (Option LV)} (hl : l.length = 2 ^ m) (hm : m ≤ n)
    (s : State) (h : ∃ v ∈ l, Tainted v) : Tainted (tree op ch n l s).1 := by
  induction n generalizing m l s with
  | zero =>
    obtain rfl : m = 0 := by omega
    obtain ⟨v, hv, ht⟩ := h
    match l, hl with
    | [a], _ => exact List.mem_singleton.mp hv ▸ ht
  | succ n ih =>
    rw [tree]
    have hlevel := treeLevel_tainted op ch l s h
    cases m with
    | zero =>
      match l, hl with
      | [a], hl => exact ih (m := 0) hl (Nat.zero_le n) s h
    | succ m => exact ih (treeLevel_length op ch (2 ^ m) l (by rw [hl, Nat.pow_succ']) s) (Nat.le_of_succ_le_succ hm) _ hlevel

/-! ### Sub-groups and their leaves (R180, R188, R189) -/

/-- A sub-group has 2 to 32 lanes, a power of two. -/
theorem Ex.sub_pow {x : Ex} (sw : SubW) (hw : x.w = 8 ∨ x.w = 16 ∨ x.w = 32) : ∃ m ≤ 5, x.sub sw = 2 ^ m := by
  have hall : ∀ w ∈ [4, 8, 16, 32], ∃ m ≤ 5, min sw.lanes w = 2 ^ m := by cases sw <;> decide
  refine hall _ ?_
  split
  · decide
  · obtain h | h | h := hw <;> rw [h] <;> decide

theorem baseOf_baseOf (sz l : Nat) : baseOf sz (baseOf sz l) = baseOf sz l := by
  have h : (l - l % sz) % sz = 0 := Nat.mod_eq_zero_of_dvd (Nat.dvd_sub_mod l)
  simp only [baseOf, alignDown, h, Nat.sub_zero]

theorem baseOf_add_mod (sz l : Nat) : baseOf sz l + l % sz = l := Nat.sub_add_cancel (Nat.mod_le l sz)

section
variable {x : Ex} (base sz top : Nat)

theorem Ex.leavesOf_length : (x.leavesOf base sz top).length = sz := by simp [Ex.leavesOf]

theorem Ex.leaves_length : (x.leaves base sz top).length = sz := by simp [Ex.leaves, upTo]

theorem Ex.leaves_clean (hclean : ∀ l ∈ x.set, (x.lv 1 l).p = false) :
    x.leaves base sz top = (x.leavesOf base sz top).map cleanly := by
  rw [Ex.leaves, Ex.leavesOf, List.map_map]
  refine List.map_congr_left fun j _ => ?_
  simp only [Bool.and_eq_true, decide_eq_true_eq, Ex.inSet_iff, Function.comp_apply]
  split
  · next h => exact congrArg some (congrArg (LV.mk _) (hclean _ h.2))
  · rfl

variable {base sz top}

/-- A participant in reach is a leaf. -/
theorem Ex.mem_leaves {k : Nat} (hk : k ∈ x.set) (hbase : baseOf sz k = base) (hsz : 0 < sz) (htop : k % sz < top) :
    some (x.lv 1 k) ∈ x.leaves base sz top := by
  refine List.mem_map.mpr ⟨k % sz, List.mem_range.mpr (Nat.mod_lt k hsz), ?_⟩
  rw [← hbase, baseOf_add_mod, if_pos (by rw [decide_eq_true htop, Ex.inSet_iff.mpr hk]; rfl)]

theorem Ex.mem_leavesOf {k : Nat} (hk : k ∈ x.set) (hbase : baseOf sz k = base) (hsz : 0 < sz) (htop : k % sz < top) :
    some (x.lv 1 k).v ∈ x.leavesOf base sz top := by
  refine List.mem_map.mpr ⟨k % sz, List.mem_range.mpr (Nat.mod_lt k hsz), ?_⟩
  rw [← hbase, baseOf_add_mod, if_pos ⟨htop, hk⟩]

end

/-! ### REDG (R188) -/

/-- What a sub-group gives each of its participants. -/
def Ex.redgGroup (x : Ex) (sz : Nat) (op : RedOp) (b : Nat) (s : State) : List (Nat × List LV) × State :=
  let ps := x.parts sz b
  let t := tree op (x.charge (ps.headD b)) 5 (x.leaves b sz sz) s
  (ps.map fun k => (k, [t.1.getD ⟨0, false⟩]), t.2)

/-- The bases of the sub-groups with a participant. -/
def Ex.bases (x : Ex) (sz : Nat) : List Nat := (x.set.map (baseOf sz)).eraseDups

/-- The results of every sub-group, and the state that they leave. -/
def Ex.redgGroups (x : Ex) (sw : SubW) (op : RedOp) : List (Nat × List LV) × State :=
  eachGroup (x.redgGroup (x.sub sw) op) (x.bases (x.sub sw)) x.s

theorem Ex.mem_bases {x : Ex} {sz b : Nat} : b ∈ x.bases sz ↔ ∃ l ∈ x.set, baseOf sz l = b := by
  rw [Ex.bases, List.mem_eraseDups, List.mem_map]

/-- A participant finds the value that its sub-group gives in some state. -/
theorem Ex.eachGroup_lane {x : Ex} {sz l : Nat} (op : RedOp) (hl : l ∈ x.set) {bs : List Nat} (hb : baseOf sz l ∈ bs)
    (hbs : ∀ b ∈ bs, baseOf sz b = b) (s : State) : ∃ u, lookupD l [] (eachGroup (x.redgGroup sz op) bs s).1 =
      [(tree op (x.charge ((x.parts sz (baseOf sz l)).headD (baseOf sz l))) 5 (x.leaves (baseOf sz l) sz sz) u).1.getD ⟨0, false⟩] := by
  induction bs generalizing s with
  | nil => cases hb
  | cons b bs ih =>
    obtain ⟨hbase, hbases⟩ := List.forall_mem_cons.mp hbs
    rw [eachGroup]
    dsimp only
    by_cases h : b = baseOf sz l
    · subst h
      exact ⟨s, lookupD_append_of_mem (j := l) (Ex.mem_parts.mpr ⟨hl, (baseOf_baseOf sz l).symm⟩) fun _ _ => Iff.rfl⟩
    · obtain ⟨u, hu⟩ := ih ((List.mem_cons.mp hb).resolve_left (Ne.symm h)) hbases (x.redgGroup sz op b s).2
      refine ⟨u, (lookupD_append_of_not_mem fun k hk e => h ?_).trans hu⟩
      rw [← hbase, ← (Ex.mem_parts.mp hk).2]
      exact congrArg (baseOf sz) e

theorem Ex.eachGroup_state {x : Ex} (hpsn : x.g.psn = false) (sz : Nat) (op : RedOp) (bs : List Nat) (s : State) :
    (eachGroup (x.redgGroup sz op) bs s).2 = s := by
  induction bs generalizing s with
  | nil => rfl
  | cons b bs ih =>
    rw [eachGroup]
    dsimp only
    rw [ih]
    exact tree_state hpsn op _ _ _

/-! ### The results (R188, R189) -/

section
variable {s : State} {x : Ex} {h : Hdr} {sw : SubW} {op : RedOp} {excl : Bool} {d a : Opnd}

/-- The rows of REDG, by lane: the tree of the lane's sub-group in some state. -/
theorem Ready.redg_lanes (hr : Ready (.redg h sw op d a) s x) : ∃ (t : State) (row : Lanes),
    exec (.redg h sw op d a) s = .next (x.written t x.inSet [row]) ∧ (x.g.psn = false → t = s) ∧
      ∀ l ∈ x.set, l < x.w → ∃ ch : Charge, ch.psn = x.g.psn ∧ ∃ u, laneAt row l =
        (tree op ch 5 (x.leaves (baseOf (x.sub sw) l) (x.sub sw) (x.sub sw)) u).1.getD ⟨0, false⟩ := by
  refine ⟨(x.redgGroups sw op).2, _, (issue_of_ready hr (Ex.redg sw op)).trans (Ex.check_nil hr.full _), fun hpsn => ?_,
    fun l hl hw => ⟨x.charge ((x.parts (x.sub sw) (baseOf (x.sub sw) l)).headD (baseOf (x.sub sw) l)), rfl, ?_⟩⟩
  · exact (Ex.eachGroup_state hpsn _ _ _ _).trans hr.state
  · obtain ⟨u, hu⟩ := Ex.eachGroup_lane (sz := x.sub sw) op hl (bs := x.bases (x.sub sw)) (Ex.mem_bases.mpr ⟨l, hl, rfl⟩) (fun b hb => by
      obtain ⟨k, -, rfl⟩ := Ex.mem_bases.mp hb
      exact baseOf_baseOf _ k) x.s
    refine ⟨u, (laneAt_map _ _ _ hw).trans ?_⟩
    exact congrArg (laneAt · 0) hu

/-- The rows of SCAN, by lane: the tree of the positions in reach in some state. -/
theorem Ready.scan_lanes (hr : Ready (.scan h sw op excl d a) s x) : ∃ (t : State) (row : Lanes),
    exec (.scan h sw op excl d a) s = .next (x.written t x.inSet [row]) ∧ (x.g.psn = false → t = s) ∧
      ∀ l ∈ x.set, l < x.w → ∃ ch : Charge, ch.psn = x.g.psn ∧ ∃ u, laneAt row l =
        (tree op ch 5 (x.leaves (baseOf (x.sub sw) l) (x.sub sw) (l % x.sub sw + if excl then 0 else 1)) u).1.getD
          ⟨op.identity, false⟩ := by
  refine ⟨_, _, (issue_of_ready hr (Ex.scan sw op excl)).trans ((Ex.check_nil hr.full _).trans (x.lanewise_eq 1 _)), fun hpsn => ?_,
    fun l hl hw => ⟨x.charge l, rfl, ?_⟩⟩
  · exact (eachLane_state fun i _ => tree_state hpsn op _ _ _).trans hr.state
  · obtain ⟨u, hu⟩ := eachLane_mem (fun i s =>
      let t := tree op (x.charge i) 5 (x.leaves (baseOf (x.sub sw) i) (x.sub sw) (i % x.sub sw + (if excl then 0 else 1))) s
      ([t.1.getD ⟨op.identity, false⟩], t.2)) x.set x.s l hl
    refine ⟨u, (laneAt_map _ _ _ hw).trans ?_⟩
    exact congrArg (laneAt · 0) hu

/-! ### Clean values, and poisoned ones -/

section
variable (hw : x.w = 8 ∨ x.w = 16 ∨ x.w = 32)
include hw

omit hw in
/-- The model's tree over clean leaves is the tree by halves. -/
theorem Ex.tree_leaves {m : Nat} (hm : m ≤ 5) (hn : x.sub sw = 2 ^ m) (hclean : ∀ l ∈ x.set, (x.lv 1 l).p = false) {ch : Charge}
    (hpsn : ch.psn = false) (base top : Nat) (u : State) : (tree op ch 5 (x.leaves base (x.sub sw) top) u).1 =
      cleanly (halves (redNode op) (x.sub sw).log2 (x.leavesOf base (x.sub sw) top)) := by
  rw [Ex.leaves_clean _ _ _ hclean, tree_clean hpsn op ((x.leavesOf_length _ _ _).trans hn) hm, hn, Nat.log2_two_pow]

theorem Ready.redg_clean (hr : Ready (.redg h sw op d a) s x) (hpsn : x.g.psn = false) (hclean : ∀ l ∈ x.set, (x.lv 1 l).p = false) :
    ∃ row : Lanes, exec (.redg h sw op d a) s = .next (x.written s x.inSet [row]) ∧ ∀ l ∈ x.set, l < x.w →
      some (laneAt row l) = cleanly (halves (redNode op) (x.sub sw).log2 (x.leavesOf (baseOf (x.sub sw) l) (x.sub sw) (x.sub sw))) := by
  obtain ⟨m, hm, hn⟩ := x.sub_pow sw hw
  obtain ⟨t, row, hexec, ht, hlane⟩ := hr.redg_lanes
  refine ⟨row, ht hpsn ▸ hexec, fun l hl hlw => ?_⟩
  obtain ⟨ch, hch, u, hrow⟩ := hlane l hl hlw
  have hpos : 0 < x.sub sw := hn ▸ Nat.two_pow_pos m
  have hsome := halves_isSome (redNode op) m _ ((x.leavesOf_length _ _ _).trans hn) (Ex.mem_leavesOf hl rfl hpos (Nat.mod_lt l hpos))
  obtain ⟨v, hv⟩ := Option.isSome_iff_exists.mp hsome
  rw [hrow, Ex.tree_leaves hm hn hclean (hch.trans hpsn), hn, Nat.log2_two_pow, ← hn, hv]
  rfl

theorem Ready.scan_clean (hr : Ready (.scan h sw op excl d a) s x) (hpsn : x.g.psn = false)
    (hclean : ∀ l ∈ x.set, (x.lv 1 l).p = false) :
    ∃ row : Lanes, exec (.scan h sw op excl d a) s = .next (x.written s x.inSet [row]) ∧ ∀ l ∈ x.set, l < x.w →
      laneAt row l = ⟨(halves (redNode op) (x.sub sw).log2 (x.leavesOf (baseOf (x.sub sw) l) (x.sub sw)
        (l % x.sub sw + if excl then 0 else 1))).getD op.identity, false⟩ := by
  obtain ⟨m, hm, hn⟩ := x.sub_pow sw hw
  obtain ⟨t, row, hexec, ht, hlane⟩ := hr.scan_lanes
  refine ⟨row, ht hpsn ▸ hexec, fun l hl hlw => ?_⟩
  obtain ⟨ch, hch, u, hrow⟩ := hlane l hl hlw
  rw [hrow, Ex.tree_leaves hm hn hclean (hch.trans hpsn)]
  cases halves (redNode op) (x.sub sw).log2 (x.leavesOf (baseOf (x.sub sw) l) (x.sub sw) (l % x.sub sw + if excl then 0 else 1)) <;> rfl

/-- A poisoned participant in reach poisons the tree (R182). -/
theorem Ex.tree_poisoned {base top k : Nat} (hk : k ∈ x.set) (hbase : baseOf (x.sub sw) k = base)
    (htop : k % x.sub sw < top) (hp : (x.lv 1 k).p = true) (ch : Charge) (u : State) (z : LV) :
    ((tree op ch 5 (x.leaves base (x.sub sw) top) u).1.getD z).p = true := by
  obtain ⟨m, hm, hn⟩ := x.sub_pow sw hw
  obtain ⟨y, hy, hyp⟩ := tree_tainted op ch ((x.leaves_length _ _ _).trans hn) hm u
    ⟨_, Ex.mem_leaves hk hbase (hn ▸ Nat.two_pow_pos m) htop, _, rfl, hp⟩
  rw [hy]
  exact hyp

theorem Ready.redg_poisoned (hr : Ready (.redg h sw op d a) s x) : ∃ (t : State) (row : Lanes),
    exec (.redg h sw op d a) s = .next (x.written t x.inSet [row]) ∧ (x.g.psn = false → t = s) ∧
      ∀ l ∈ x.set, l < x.w → ∀ k ∈ x.set, baseOf (x.sub sw) k = baseOf (x.sub sw) l → (x.lv 1 k).p = true →
        (laneAt row l).p = true := by
  obtain ⟨t, row, hexec, ht, hlane⟩ := hr.redg_lanes
  refine ⟨t, row, hexec, ht, fun l hl hlw k hk hbase hp => ?_⟩
  obtain ⟨ch, -, u, hrow⟩ := hlane l hl hlw
  obtain ⟨m, -, hn⟩ := x.sub_pow sw hw
  rw [hrow]
  exact Ex.tree_poisoned hw hk hbase (Nat.mod_lt k (hn ▸ Nat.two_pow_pos m)) hp ch u _

theorem Ready.scan_poisoned (hr : Ready (.scan h sw op excl d a) s x) : ∃ (t : State) (row : Lanes),
    exec (.scan h sw op excl d a) s = .next (x.written t x.inSet [row]) ∧ (x.g.psn = false → t = s) ∧
      ∀ l ∈ x.set, l < x.w → ∀ k ∈ x.set, baseOf (x.sub sw) k = baseOf (x.sub sw) l → (if excl then k < l else k ≤ l) →
        (x.lv 1 k).p = true → (laneAt row l).p = true := by
  obtain ⟨t, row, hexec, ht, hlane⟩ := hr.scan_lanes
  refine ⟨t, row, hexec, ht, fun l hl hlw k hk hbase hreach hp => ?_⟩
  obtain ⟨ch, -, u, hrow⟩ := hlane l hl hlw
  have htop : k % x.sub sw < l % x.sub sw + if excl then 0 else 1 := by
    have hkmod := baseOf_add_mod (x.sub sw) k
    have hlmod := baseOf_add_mod (x.sub sw) l
    cases excl <;> simp only [Bool.false_eq_true, if_false, if_true] at hreach ⊢ <;> omega
  rw [hrow]
  exact Ex.tree_poisoned hw hk hbase htop hp ch u _

end

end

/-- Settles O16: level by level the model's tree is R188's tree by halves, and a poisoned leaf poisons every node above it. -/
theorem reductions : Obligations.Reductions :=
  ⟨fun _ _ _ _ _ _ _ _ hw hpsn hclean => ⟨fun hr => hr.redg_clean hw hpsn hclean, fun hr => hr.scan_clean hw hpsn hclean⟩,
    fun _ _ _ _ _ _ _ _ hw => ⟨fun hr => hr.redg_poisoned hw, fun hr => hr.scan_poisoned hw⟩⟩

end Sys2Proof.Machine

/-! ## A stored literal in a lane that the gang does not have (R43, R205) -/

namespace Sys2Proof.Machine

/-- The agents of two states of which one differs in a memory, its caches and the triggers of monitors are the same. -/
theorem SpaceOnly.sameAgents {w : Who} {sp : Space} {s t : State} (h : SpaceOnly w sp s t) : SameAgents s t := by
  have hstaff : Core.staff = (fun c : Core => (c.ref, c.gangs, c.chans)) ∘ Core.beside w sp := rfl
  rw [SameAgents, hstaff, ← List.map_map, ← List.map_map, h.cores]

/-- STL.B32 v0, v1, 1 in its short-B form: its operand B reads 4. -/
def strayStore : Instr := .stlB32ShortB (.v 0) (.v 1) 1

/-- It is the turn of the third slice of a gang of 8 lanes, whose only lane is lane 8. -/
def strayStl : Ex :=
  { strayLdl with
    i := strayStore
    n := ⟨⟨some 4, .z, false, false⟩, true, false, true, [(.v 0, .src 1), (.v 1, .src 1), (.lit, .src 1)]⟩ }

theorem strayStl_ready : Ready strayStore stray strayStl where
  wf := rfl
  agent := ⟨_, rfl⟩
  info := rfl
  state := rfl
  ag := rfl
  instr := rfl
  body := rfl
  flow := rfl
  decode := rfl
  awake := by decide
  joined := by decide
  storage := rfl
  guardThere := rfl
  guardClean := by decide
  slot := rfl
  sources := rfl
  room := rfl
  set := by decide
  src := rfl
  pops := rfl
  full := rfl
  quiet := nofun

theorem stray_canonical : stray.canonical :=
  List.all_eq_true.mp (show stray.memories.all Mem.wf = true by decide +kernel)

/-- Where the flows of the gang stand after an outcome. -/
def strayCourse : Res → Option (Bool × List (Run × Dword))
  | .next t => t.course ⟨.reeve 0, 0, 2⟩
  | _ => none

/-- In lane 8 operand B reads 0, so that the address is 0xFFFFFFFC, out of range: the store traps, and the gang is in its handler. -/
theorem strayStore_traps : (strayCourse (exec strayStore stray)).map (fun c => c.1) = some false := by decide +kernel

/-- Refutes O25: it takes the immediate of STL's short-B form for operand B in every lane of the lane set, also in one that the
gang does not have, which `Ready` leaves open. There the operand reads 0: in lane 8 the address is A, 0xFFFFFFFC and out of
range, while A + 4 is 0 and in range, and the store traps where the statement lets it complete. -/
theorem not_localStores : ¬ Obligations.LocalStores := by
  rintro ⟨hstores, -⟩
  obtain ⟨-, -, -, -, hshort⟩ := hstores .plain .b32 false (.v 0) (.v 1) .z 1 stray strayStl
  obtain ⟨t, hexec, honly, -⟩ := hshort strayStl_ready stray_canonical (by decide +kernel)
  have hended : strayCourse (exec strayStore stray) = _ :=
    (congrArg strayCourse hexec).trans (Ex.ended_course (x := strayStl) (honly.sameAgents.course strayStl_ready.course) strayStl.next)
  have hparted := strayStore_traps
  rw [hended] at hparted
  exact absurd hparted (by decide)

end Sys2Proof.Machine

/-! ## Named barriers (R190 to R193, R361, R362) -/

namespace Sys2Proof.Machine

/-! ### The barriers of a workgroup -/

theorem Wg.barrier_of_getElem? {w : Wg} {n : Nat} {z : Barrier} (h : w.barriers[n]? = some z) : w.barrier n = z := by
  rw [Wg.barrier, List.getD_eq_getElem?_getD, h]
  rfl

theorem Wg.barriers_modBarrier {w : Wg} {n : Nat} {z : Barrier} (h : w.barriers[n]? = some z) (f : Barrier → Barrier) :
    (w.modBarrier n f).barriers[n]? = some (f z) := by
  rw [Wg.modBarrier, modNth_getElem?, if_pos rfl, h]
  rfl

/-- A workgroup with a barrier stands in the core's list: firmware's own has none. -/
theorem Core.wg?_of_barrier {c : Core} {id n : Nat} {z : Barrier} (h : (c.wg id).barriers[n]? = some z) :
    c.wg? id = some (c.wg id) := by
  unfold Core.wg at h ⊢
  cases hw : c.wg? id with
  | some w => rfl
  | none => rw [hw] at h; cases h

theorem Core.wg_modWg {c : Core} {id : Nat} {w : Wg} {f : Wg → Wg} (hf : ∀ w, (f w).id = w.id) (h : c.wg? id = some w) :
    (c.modWg id f).wg id = f w := by
  have hid : w.id = id := by simpa using List.find?_some h
  unfold Core.wg Core.wg? Core.modWg at *
  rw [find_modify _ _ _ (fun w => by rw [hf]), h]
  simp [hid]

/-- A barrier after an update of it. -/
theorem Core.barrier_modBarrier {c : Core} {id n : Nat} {z : Barrier} (h : (c.wg id).barriers[n]? = some z)
    (f : Barrier → Barrier) : ((c.modWg id fun w => w.modBarrier n f).wg id).barriers[n]? = some (f z) := by
  rw [Core.wg_modWg (f := fun w => w.modBarrier n f) (fun _ => rfl) (Core.wg?_of_barrier h), Wg.barriers_modBarrier h]

/-! ### An arrival (R192) -/

/-- The gang that has arrived at a barrier: its latches released, its region closed. -/
def Gang.arrived (g : Gang) : Gang := { (g.modAct fun b => { b with trail := [] }).freeLatches with region := none }

theorem Gang.arrived_slot (g : Gang) : g.arrived.slot = g.slot := g.modAct_slot _

theorem Gang.arrived_act (g : Gang) : g.arrived.act = { g.act with trail := [] } :=
  g.act_modAct _

/-- The barrier at which a gang has arrived. -/
def Barrier.arrived (gix : Nat) (z : Barrier) : Barrier := { z with arr := z.arr ||| oneBit gix }

/-- The barrier in its next phase. -/
def Barrier.advanced (z : Barrier) : Barrier := { z with arr := 0, phase := z.phase + 1 }

/-- The core that holds a gang and its barrier after the gang's arrival, before a release. -/
def Core.arrive (c : Core) (slot wg n gix : Nat) : Core :=
  (c.modGang slot Gang.arrived).modWg wg fun w => w.modBarrier n (Barrier.arrived gix)

section
variable {s : State} {r : CoreRef} {slot wg n gix : Nat} {g : Gang} {z : Barrier}

theorem State.modCore_id (h : (s.core? r).isSome) : s.modCore r (fun c => c) = s := by
  have hany : (s.cores.any fun c => c.ref == r) = true := by
    rw [State.core?, List.find?_isSome] at h
    simpa using h
  rw [State.modCore, if_pos hany]
  simp [modify]

/-- A release without SLW only advances its barrier: it delays no gang (R192, R318). -/
theorem State.releaseBar_of_slw (hc : (s.core? r).isSome) (h : s.slw r = 0) :
    s.releaseBar r wg n = s.modWg r wg fun w => w.modBarrier n Barrier.advanced := by
  have hsome : ((s.modWg r wg fun w => w.modBarrier n Barrier.advanced).core? r).isSome := by
    rw [State.modWg, State.core?_modCore s r r (fun c => c.modWg wg _) (fun _ => rfl) hc]
    simpa using hc
  refine Eq.trans ?_ (State.modCore_id hsome)
  simp only [State.releaseBar, h, Nat.mul_zero, Nat.zero_div, bne_self_eq_false, Bool.and_false, Bool.false_eq_true, if_false,
    List.map_id']
  rfl

/-- A release advances its barrier and updates gangs. -/
theorem State.releaseBar_eq : ∃ f : Gang → Gang, s.releaseBar r wg n =
    (s.modWg r wg fun w => w.modBarrier n Barrier.advanced).modCore r fun c => { c with gangs := c.gangs.map f } :=
  ⟨_, rfl⟩

/-- A release changes one core only, and advances the barrier there. -/
theorem State.releaseBar_only (hc : (s.core? r).isSome) : OnlyCore r s (s.releaseBar r wg n) := by
  have hwg := State.only_modCore (s := s) (fun c => c.modWg wg fun w => w.modBarrier n Barrier.advanced) (fun _ => rfl) hc
  obtain ⟨f, hf⟩ := State.releaseBar_eq (s := s) (r := r) (wg := wg) (n := n)
  rw [hf]
  refine hwg.trans (State.only_modCore _ (fun _ => rfl) ?_)
  rw [State.core?_modCore s r r (fun c => c.modWg wg _) (fun _ => rfl) hc]
  simpa using hc

theorem State.releaseBar_barrier (hc : s.core? r = some (s.core r)) (hz : ((s.core r).wg wg).barriers[n]? = some z) :
    (((s.releaseBar r wg n).core r).wg wg).barriers[n]? = some z.advanced := by
  have hwg := State.core?_modCore_same (f := fun c => c.modWg wg fun w => w.modBarrier n Barrier.advanced) hc fun _ => rfl
  obtain ⟨f, hf⟩ := State.releaseBar_eq (s := s) (r := r) (wg := wg) (n := n)
  rw [hf, State.modWg, State.core_modCore (fun c => { c with gangs := c.gangs.map f }) (fun _ => rfl) hwg]
  exact Core.barrier_modBarrier hz _

theorem State.gang?_modWg {k id : Nat} {f : Wg → Wg} (hc : (s.core? r).isSome) : (s.modWg r id f).gang? r k = s.gang? r k :=
  State.gang?_modCore _ _ _ _ (fun c => c.modWg id f) (fun _ => rfl) (fun _ => rfl) hc

/-- SLW stands in the island registers. -/
theorem State.slw_of_islands {t : State} (h : t.islands = s.islands) : t.slw r = s.slw r := by
  have hisland : t.island? = s.island? := funext fun _ => by rw [State.island?, State.island?, h]
  rw [State.slw, State.slw, hisland]

/-- The state in which a gang has arrived, before a release. -/
def State.awaiting (s : State) (r : CoreRef) (slot wg n gix : Nat) : State :=
  (s.modGang r slot Gang.arrived).modWg r wg fun w => w.modBarrier n (Barrier.arrived gix)

section
variable (hg : s.gang? r slot = some g) (hz : ((s.core r).wg wg).barriers[n]? = some z)
include hg

theorem State.core?_awaiting :
    (s.awaiting r slot wg n gix).core? r = some ((s.awaiting r slot wg n gix).core r) := by
  have h := State.core?_modCore_same (f := fun c => c.modWg wg fun w => w.modBarrier n (Barrier.arrived gix))
    (State.core?_modGang_same hg Gang.arrived) fun _ => rfl
  exact h.trans (congrArg some (State.core_of_core? h).symm)

theorem State.awaiting_only : OnlyCore r s (s.awaiting r slot wg n gix) := by
  have hgang := State.only_modCore (fun c => c.modGang slot Gang.arrived) (fun _ => rfl)
    (Option.isSome_of_eq_some (State.core?_of_gang? hg))
  refine hgang.trans (State.only_modCore _ (fun _ => rfl) ?_)
  exact Option.isSome_of_eq_some (State.core?_modGang_same hg Gang.arrived)

theorem State.gang?_awaiting : (s.awaiting r slot wg n gix).gang? r slot = some g.arrived := by
  rw [State.awaiting, State.gang?_modWg (Option.isSome_of_eq_some (State.core?_modGang_same hg Gang.arrived))]
  exact State.gang?_modGang_same hg Gang.arrived_slot

include hz

theorem State.awaiting_barrier : (((s.awaiting r slot wg n gix).core r).wg wg).barriers[n]? = some (z.arrived gix) := by
  have hcore := State.core_modCore (fun c => c.modWg wg fun w => w.modBarrier n (Barrier.arrived gix)) (fun _ => rfl)
    (State.core?_modGang_same hg Gang.arrived)
  rw [State.awaiting, State.modWg, hcore]
  exact Core.barrier_modBarrier (c := (s.core r).modGang slot Gang.arrived) hz _

/-- An arrival releases its barrier when no member is missing any more. -/
theorem State.arriveBar_eq : s.arriveBar r slot wg n gix =
    if z.arr ||| oneBit gix = z.mbr then (s.awaiting r slot wg n gix).releaseBar r wg n else s.awaiting r slot wg n gix := by
  have hbar := Wg.barrier_of_getElem? (State.awaiting_barrier (gix := gix) hg hz)
  change (if ((((s.awaiting r slot wg n gix).core r).wg wg).barrier n).arr ==
    ((((s.awaiting r slot wg n gix).core r).wg wg).barrier n).mbr then _ else _) = _
  simp only [hbar, beq_iff_eq]
  rfl

/-- What an arrival does to its core: the barrier (R192). -/
theorem State.arriveBar_only : OnlyCore r s (s.arriveBar r slot wg n gix) := by
  rw [State.arriveBar_eq hg hz]
  split
  · exact (State.awaiting_only hg).trans (State.releaseBar_only (Option.isSome_of_eq_some (State.core?_awaiting hg)))
  · exact State.awaiting_only hg

theorem State.arriveBar_barrier : (((s.arriveBar r slot wg n gix).core r).wg wg).barriers[n]? =
    some (if z.arr ||| oneBit gix = z.mbr then z.advanced else z.arrived gix) := by
  rw [State.arriveBar_eq hg hz]
  split
  · exact State.releaseBar_barrier (z := z.arrived gix) (State.core?_awaiting hg) (State.awaiting_barrier hg hz)
  · exact State.awaiting_barrier hg hz

/-- The gang that arrives, where no release delays it. -/
theorem State.arriveBar_gang (h : z.arr ||| oneBit gix = z.mbr → s.slw r = 0) :
    (s.arriveBar r slot wg n gix).gang? r slot = some g.arrived := by
  rw [State.arriveBar_eq hg hz]
  have hsome := Option.isSome_of_eq_some (State.core?_awaiting (wg := wg) (n := n) (gix := gix) hg)
  have hgang := State.gang?_awaiting (wg := wg) (n := n) (gix := gix) hg
  split
  · next hfull =>
    have hslw : (s.awaiting r slot wg n gix).slw r = 0 := by
      rw [State.slw_of_islands (s := s) (by simp [State.awaiting]), h hfull]
    rw [State.releaseBar_of_slw hsome hslw, State.gang?_modWg hsome]
    exact hgang
  · exact hgang

end
end

/-! ### The end of a barrier instruction -/

section
variable {i : Instr} {s t : State} {x : Ex} {g : Gang}

/-- A barrier wait that is over. -/
theorem Ex.barEnd_over {z : Barrier} {mx : Bool} {n lane : Nat} {p : Word} {w : Wait}
    (hz : ((t.core x.ag.core).wg x.g.wg).barriers[n]? = some z) (hwhole : z.bkn = false) (hphase : z.phase ≠ p)
    (hg : t.gang? x.ag.core x.ag.slot = some g) (hdue : (g.act.flow x.fi).due = none)
    (hread : mx = true → ∀ o ∈ x.core.tops, o.gang = x.g.uid → o.unread = false) : x.barEnd t mx n p lane w = x.done t := by
  have hunread : (mx && x.unreads) = false := by
    cases mx with
    | false => rfl
    | true => simpa [Ex.unreads] using hread rfl
  have hphase : (z.phase != p) = true := by simpa using hphase
  simp only [Ex.barEnd, Wg.barrier_of_getElem? hz, hwhole, hphase, hg, Option.bind_some, hdue, hunread]
  rfl

/-- A barrier wait in the phase that it names. -/
theorem Ex.barEnd_on {z : Barrier} {mx : Bool} {n lane : Nat} {w : Wait}
    (hz : ((t.core x.ag.core).wg x.g.wg).barriers[n]? = some z) (hwhole : z.bkn = false) :
    x.barEnd t mx n z.phase lane w = x.wait t w := by
  simp only [Ex.barEnd, Wg.barrier_of_getElem? hz, hwhole]
  simp

theorem State.only_modGang {r : CoreRef} {slot : Nat} (hg : t.gang? r slot = some g) (f : Gang → Gang) :
    OnlyCore r t (t.modGang r slot f) :=
  State.only_modCore (fun c => c.modGang slot f) (fun _ => rfl) (Option.isSome_of_eq_some (State.core?_of_gang? hg))

/-- An update of a gang keeps the workgroups. -/
theorem State.wg_modGang {r : CoreRef} {slot : Nat} (hg : t.gang? r slot = some g) (f : Gang → Gang) (id : Nat) :
    ((t.modGang r slot f).core r).wg id = (t.core r).wg id := by
  rw [State.core_of_core? (State.core?_modGang_same hg f)]
  rfl

section
variable (hg : t.gang? x.ag.core x.ag.slot = some g) (hlt : x.fi < g.act.flows.length)
include hg hlt

/-- The flow of the agent after an update of it. -/
theorem Ex.flowAfter_modFlow (hfi : g.act.fi x.ag.slice = x.fi) (f : Flow → Flow) :
    x.flowAfter (t.modFlow x.ag f) = f (g.act.flow x.fi) := by
  rw [Ex.flowAfter, State.modFlow, Ex.after_of_gang (State.gang?_modGang_same hg fun g => Gang.modAct_slot g _), Gang.act_modAct, hfi,
    Body.flow_modFlow _ _ _ _ hlt, if_pos rfl]

/-- The flow of the agent after its instruction's end. -/
theorem Ex.flowAfter_ended (pc : Dword) : (x.flowAfter (x.ended t pc)).run = .ready ∧ (x.flowAfter (x.ended t pc)).pc = pc := by
  have hlt' (tr : List Trail) : x.fi < ({ g.act.pops x.pops with trail := tr } : Body).flows.length := by simpa using hlt
  rw [Ex.flowAfter, Ex.ended, Ex.after_of_gang (State.gang?_modGang_same hg fun g => Gang.finish_slot g x pc), Gang.finish_act]
  change ((({ g.act.pops x.pops with trail := _ } : Body).modFlow x.fi _).flow x.fi).run = _ ∧
    ((({ g.act.pops x.pops with trail := _ } : Body).modFlow x.fi _).flow x.fi).pc = _
  rw [Body.flow_modFlow _ _ _ _ (hlt' _), if_pos rfl]
  exact ⟨rfl, rfl⟩

end

/-- A flow that begins a wait. -/
def Flow.beginsWait (w : Wait) (i : Instr) (f : Flow) : Flow := { f with run := .wait w i, readyFor := 0, aged := false }

/-- A ready instruction that waits, its agent else as it was but for a region and latches. -/
theorem Ready.waits_wait (hr : Ready i s x) (ht : OnlyCore x.ag.core s t) (hg : t.gang? x.ag.core x.ag.slot = some g)
    (hact : g.act = x.b) (w : Wait) :
    ∃ u, x.wait t w = .next u ∧ (x.after u).region = g.region ∧ x.waits u w := by
  have hfi : g.act.fi x.ag.slice = x.fi := by rw [hact, hr.fi_eq]
  have hafter : x.after (t.modFlow x.ag (Flow.beginsWait w x.i)) = g.modAct fun b => b.modFlow (b.fi x.ag.slice) (Flow.beginsWait w x.i) :=
    Ex.after_of_gang (State.gang?_modGang_same hg fun g => Gang.modAct_slot g _)
  have hbody : (x.after (t.modFlow x.ag (Flow.beginsWait w x.i))).act = x.b.modFlow x.fi (Flow.beginsWait w x.i) := by
    rw [hafter, Gang.act_modAct, hfi, hact]
  have hflow : x.flowAfter (t.modFlow x.ag (Flow.beginsWait w x.i)) = x.fl.beginsWait w x.i := by
    rw [Ex.flowAfter_modFlow hg (hact ▸ hr.flow_lt) hfi, hact, hr.flow]
  refine ⟨t.modFlow x.ag (Flow.beginsWait w x.i), rfl, by rw [hafter, Gang.modAct_region],
    hr.state ▸ ht.trans (State.only_modGang hg _), ?_⟩
  rw [hflow, hbody]
  exact ⟨rfl, rfl, rfl, rfl, rfl⟩

end

/-! ### Checks (R192, R362) -/

section
variable {x : Ex} {z : Barrier}

/-- A clean number of a barrier that the workgroup has raises nothing. -/
theorem Ex.barRaised_nil {b : LV} {lane : Nat} {poison own : List Raised} (hj : x.b.parted = false)
    (hz : x.wg.barriers[b.v.toNat]? = some z) (hb : b.p = false) (hpoison : poison = []) (hown : own = []) :
    x.barRaised b lane poison own = [] := by
  rw [Ex.barRaised, poisons_of_clean _ _ _ (by simpa using hb), hpoison, hown, Ex.whole_of_joined hj,
    if_neg (Nat.not_le.mpr (List.getElem?_eq_some_iff.mp hz).1)]
  rfl

/-- A member of an unbroken barrier that has not arrived may. -/
theorem Ex.arriveRaised_nil {b : Word} {lane : Nat} (hz : x.wg.barriers[b.toNat]? = some z) (hwhole : z.bkn = false)
    (hmember : z.mbr.getLsbD x.g.gix = true) (hnew : z.arr.getLsbD x.g.gix = false) : x.arriveRaised b lane = [] := by
  simp [Ex.arriveRaised, Wg.barrier_of_getElem? hz, hwhole, hmember, hnew, bitOf, firstOf]

end

/-! ### BAR and BARA (R192) -/

/-- The state in which the agent of BAR waits. -/
def Ex.held (x : Ex) (w : Wait) : State := x.s.modFlow x.ag fun f => { f with run := .wait w x.i }

/-- The gang there. -/
def Ex.heldGang (x : Ex) (w : Wait) : Gang := x.g.modAct fun b => b.modFlow (b.fi x.ag.slice) fun f => { f with run := .wait w x.i }

/-- The state in which the gang of BAR has arrived. -/
def Ex.barArrived (x : Ex) (n : Nat) (w : Wait) : State := (x.held w).arriveBar x.ag.core x.ag.slot x.g.wg n x.g.gix

section
variable {i : Instr} {s : State} {x : Ex} {z : Barrier} {n : Nat} (hr : Ready i s x) (w : Wait)
include hr

theorem Ready.held_gang : (x.held w).gang? x.ag.core x.ag.slot = some (x.heldGang w) :=
  State.gang?_modGang_same (hr.state ▸ hr.gang_eq) fun g => Gang.modAct_slot g _

theorem Ready.heldGang_act : (x.heldGang w).act = x.b.modFlow x.fi fun f => { f with run := .wait w x.i } := by
  rw [Ex.heldGang, Gang.act_modAct, ← hr.body, ← hr.fi_eq]

theorem Ready.heldGang_arrived : (x.heldGang w).arrived.act =
    { x.b.modFlow x.fi fun f => { f with run := .wait w x.i } with trail := [] } := by
  rw [Gang.arrived_act, hr.heldGang_act]

theorem Ready.held_only : OnlyCore x.ag.core s (x.held w) := by
  rw [Ex.held, hr.state]
  exact hr.only_modGang _

variable (hz : x.wg.barriers[n]? = some z)
include hz

theorem Ready.held_barrier : (((x.held w).core x.ag.core).wg x.g.wg).barriers[n]? = some z := by
  rw [Ex.held, State.modFlow, State.wg_modGang (hr.state ▸ hr.gang_eq)]
  exact hz

theorem Ready.barArrived_only : OnlyCore x.ag.core s (x.barArrived n w) :=
  (hr.held_only w).trans (State.arriveBar_only (hr.held_gang w) (hr.held_barrier w hz))

theorem Ready.barArrived_barrier : (((x.barArrived n w).core x.ag.core).wg x.g.wg).barriers[n]? =
    some (if z.arr ||| oneBit x.g.gix = z.mbr then z.advanced else z.arrived x.g.gix) :=
  State.arriveBar_barrier (hr.held_gang w) (hr.held_barrier w hz)

theorem Ready.barArrived_gang (h : z.arr ||| oneBit x.g.gix = z.mbr → s.slw x.ag.core = 0) :
    (x.barArrived n w).gang? x.ag.core x.ag.slot = some (x.heldGang w).arrived := by
  refine State.arriveBar_gang (hr.held_gang w) (hr.held_barrier w hz) fun hfull => ?_
  rw [State.slw_of_islands (s := s) (by simp [Ex.held, hr.state]), h hfull]

end

section
variable {h : Hdr} {mx : Bool} {d a : Opnd} {s : State} {x : Ex} {z : Barrier}
  (hj : x.b.parted = false) (hwhole : z.bkn = false) (hmember : z.mbr.getLsbD x.g.gix = true)
  (hnew : z.arr.getLsbD x.g.gix = false)
include hj hwhole hmember hnew

section
variable (hr : Ready (.bar h mx a) s x) (hz : x.wg.barriers[(x.lv 0 x.fl.lowXm).v.toNat]? = some z)
  (hclean : (x.lv 0 x.fl.lowXm).p = false)
include hr hz hclean

theorem Ready.exec_bar : let n := (x.lv 0 x.fl.lowXm).v.toNat
    let w : Wait := .bar n z.phase mx
    exec (.bar h mx a) s = x.barEnd (x.barArrived n w) mx n z.phase x.fl.lowXm w := by
  refine (issue_of_ready hr (Ex.bar mx)).trans ?_
  rw [Ex.bar, Ex.barRaised_nil hj hz hclean rfl (Ex.arriveRaised_nil hz hwhole hmember hnew), Ex.check_nil hr.full,
    Wg.barrier_of_getElem? hz]
  rfl

/-- BAR waits while members are missing. -/
theorem Ready.bar_waits (hmissing : z.arr ||| oneBit x.g.gix ≠ z.mbr) :
    let n := (x.lv 0 x.fl.lowXm).v.toNat
    let w : Wait := .bar n z.phase mx
    ∃ t, exec (.bar h mx a) s = .next t ∧ OnlyCore x.ag.core s t ∧
      ((t.core x.ag.core).wg x.g.wg).barriers[n]? = some (z.arrived x.g.gix) ∧ (x.flowAfter t).run = .wait w x.i := by
  intro n w
  have hgang := hr.barArrived_gang w hz fun h => absurd h hmissing
  have hbar := hr.barArrived_barrier w hz
  rw [if_neg hmissing] at hbar
  have hact := hr.heldGang_arrived w
  refine ⟨_, (hr.exec_bar hj hwhole hmember hnew hz hclean).trans (Ex.barEnd_on (z := z.arrived x.g.gix) hbar hwhole),
    (hr.barArrived_only w hz).trans (State.only_modGang hgang _), ?_, ?_⟩
  · rw [State.modFlow, State.wg_modGang hgang]
    exact hbar
  · rw [Ex.flowAfter_modFlow hgang (by rw [hact]; simpa using hr.flow_lt) (by rw [hact, hr.fi_eq]; rfl)]

/-- BAR of the last member goes on. -/
theorem Ready.bar_goes (hfull : z.arr ||| oneBit x.g.gix = z.mbr) (hslw : s.slw x.ag.core = 0) (hdue : x.fl.due = none)
    (hread : mx = true → ∀ o ∈ x.core.tops, o.gang = x.g.uid → o.unread = false) :
    let n := (x.lv 0 x.fl.lowXm).v.toNat
    ∃ t, exec (.bar h mx a) s = .next t ∧ OnlyCore x.ag.core s t ∧
      ((t.core x.ag.core).wg x.g.wg).barriers[n]? = some z.advanced ∧ (x.flowAfter t).run = .ready ∧
      (x.flowAfter t).pc = x.next := by
  intro n
  let w : Wait := .bar n z.phase mx
  have hgang := hr.barArrived_gang w hz fun _ => hslw
  have hbar := hr.barArrived_barrier w hz
  rw [if_pos hfull] at hbar
  have hact := hr.heldGang_arrived w
  have hflow : ((x.heldGang w).arrived.act.flow x.fi).due = none := by
    rw [hact, ← hdue, hr.flow]
    exact Body.flow_modFlow_keeps (fun f => f.due) (f := fun f => { f with run := .wait w x.i }) (fun _ => rfl) x.b x.fi x.fi
  have hphase : z.advanced.phase ≠ z.phase := by
    change z.phase + 1 ≠ z.phase
    bv_omega
  obtain ⟨hrun, hpc⟩ := Ex.flowAfter_ended hgang (by rw [hact]; simpa using hr.flow_lt) x.next
  refine ⟨_, (hr.exec_bar hj hwhole hmember hnew hz hclean).trans (Ex.barEnd_over hbar hwhole hphase hgang hflow hread),
    (hr.barArrived_only w hz).trans (State.only_modGang hgang _), ?_, hrun, hpc⟩
  rw [State.wg_modGang hgang]
  exact hbar

end

/-- BARA answers the phase. -/
theorem Ready.exec_bara (hr : Ready (.bara h d a) s x) (hz : x.wg.barriers[(x.lv 1 x.fl.lowXm).v.toNat]? = some z)
    (hclean : (x.lv 1 x.fl.lowXm).p = false) : let n := (x.lv 1 x.fl.lowXm).v.toNat
    ∃ t, exec (.bara h d a) s =
        .next (x.written t (fun l => x.fl.xm.getLsbD l) [List.replicate x.w ⟨z.phase, false⟩]) ∧
      OnlyCore x.ag.core s t ∧ ((t.core x.ag.core).wg x.g.wg).barriers[n]? =
        some (if z.arr ||| oneBit x.g.gix = z.mbr then z.advanced else z.arrived x.g.gix) := by
  intro n
  have hcore : ((s.core x.ag.core).wg x.g.wg).barriers[n]? = some z := hr.state ▸ hz
  refine ⟨_, (issue_of_ready hr Ex.bara).trans ?_, State.arriveBar_only hr.gang_eq hcore,
    State.arriveBar_barrier hr.gang_eq hcore⟩
  rw [Ex.bara, Ex.barRaised_nil hj hz hclean rfl (Ex.arriveRaised_nil hz hwhole hmember hnew), Ex.check_nil hr.full,
    Wg.barrier_of_getElem? hz, hr.state]
  rfl

end

/-! ### BARINIT and BARW (R192, R193) -/

section
variable {h : Hdr} {mx : Bool} {a b : Opnd} {s : State} {x : Ex} {z : Barrier} (hj : x.b.parted = false)
  (hz : x.wg.barriers[(x.lv 0 x.fl.lowXm).v.toNat]? = some z) (hclean : (x.lv 0 x.fl.lowXm).p = false)
  (hclean' : (x.lv 1 x.fl.lowXm).p = false)
include hj hz hclean hclean'

theorem Ready.exec_barinit (hr : Ready (.barinit h a b) s x)
    (hin : (x.lv 1 x.fl.lowXm).v &&& ~~~(BitVec.ofNat 32 (2 ^ x.wg.gangs - 1)) = 0)
    (hsome : (x.lv 1 x.fl.lowXm).v &&& x.wg.live ≠ 0) (hidle : z.arr = 0) :
    exec (.barinit h a b) s = .next (x.ended (s.modWg x.ag.core x.g.wg fun w =>
      w.modBarrier (x.lv 0 x.fl.lowXm).v.toNat fun z => { z with mbr := (x.lv 1 x.fl.lowXm).v &&& x.wg.live, bkn := false }) x.next) := by
  refine (issue_of_ready hr Ex.barinit).trans ?_
  have hfits : ((x.lv 1 x.fl.lowXm).v &&& ~~~maskOf x.wg.gangs != 0) = false := by simpa [maskOf] using hin
  have hmem : ((x.lv 1 x.fl.lowXm).v &&& x.wg.live == 0) = false := by simpa using hsome
  have harr : ((x.wg.barrier (x.lv 0 x.fl.lowXm).v.toNat).arr != 0) = false := by
    simp [Wg.barrier_of_getElem? hz, hidle]
  rw [Ex.barinit, Ex.barRaised_nil hj hz hclean (poisons_of_clean _ _ _ (by simpa using hclean'))
    (by rw [hfits, hmem, harr]; rfl), Ex.check_nil hr.full, hr.state]
  rfl

theorem Ready.exec_barw (hr : Ready (.barw h mx a b) s x) : let n := (x.lv 0 x.fl.lowXm).v.toNat
    exec (.barw h mx a b) s = x.barEnd s mx n (x.lv 1 x.fl.lowXm).v x.fl.lowXm (.barw n (x.lv 1 x.fl.lowXm).v) := by
  refine (issue_of_ready hr (Ex.barw mx)).trans ?_
  rw [Ex.barw, Ex.barRaised_nil hj hz hclean (poisons_of_clean _ _ _ (by simpa using hclean')) rfl, Ex.check_nil hr.full, hr.state]

variable (hwhole : z.bkn = false)
include hwhole

theorem Ready.barw_goes (hr : Ready (.barw h mx a b) s x) (hphase : (x.lv 1 x.fl.lowXm).v ≠ z.phase) (hdue : x.fl.due = none)
    (hread : mx = true → ∀ o ∈ x.core.tops, o.gang = x.g.uid → o.unread = false) :
    exec (.barw h mx a b) s = .next (x.ended s x.next) := by
  rw [hr.exec_barw hj hz hclean hclean']
  exact Ex.barEnd_over (hr.state ▸ hz) hwhole hphase.symm hr.gang_eq (by rw [← hr.body, ← hr.flow, hdue]) hread

theorem Ready.barw_waits (hr : Ready (.barw h mx a b) s x) (hphase : (x.lv 1 x.fl.lowXm).v = z.phase) :
    ∃ t, exec (.barw h mx a b) s = .next t ∧ x.waits t (.barw (x.lv 0 x.fl.lowXm).v.toNat z.phase) := by
  obtain ⟨u, hu, -, hw⟩ := hr.waits_wait (OnlyCore.refl _ _) hr.gang_eq hr.body.symm (.barw (x.lv 0 x.fl.lowXm).v.toNat z.phase)
  refine ⟨u, ?_, hw⟩
  rw [hr.exec_barw hj hz hclean hclean', hphase, ← hu]
  exact Ex.barEnd_on (hr.state ▸ hz) hwhole

end

/-! ### The doublewords of a barrier (R190, R362) -/

section
variable {h : Hdr} {live sel : Bool} {d a : Opnd} {s : State} {x : Ex} (hj : x.b.parted = false)
include hj

theorem Ready.barrd_empty (hr : Ready (.barrd h live sel d a) s x) (hset : x.set = []) :
    exec (.barrd h live sel d a) s = .next (x.written s x.inSet (pairRows x.w 0)) := by
  refine (issue_of_ready hr (Ex.barrd live sel)).trans ?_
  rw [Ex.barrd, show x.lowest = none by simp [Ex.lowest, hset]]
  dsimp only
  rw [Ex.whole_of_joined hj, Ex.check_nil hr.full, hr.state]
  rfl

theorem Ready.barwr_empty (hr : Ready (.barwr h sel d a) s x) (hset : x.set = []) :
    exec (.barwr h sel d a) s = .next (x.ended s x.next) := by
  refine (issue_of_ready hr (Ex.barwr sel)).trans ?_
  rw [Ex.barwr, show x.lowest = none by simp [Ex.lowest, hset]]
  dsimp only
  rw [Ex.whole_of_joined hj, Ex.check_nil hr.full, hr.state]
  rfl

variable {l : Nat} (hl : x.set.head? = some l)
include hl

theorem Ready.barrd_live (hr : Ready (.barrd h true sel d a) s x) :
    exec (.barrd h true sel d a) s = .next (x.written s x.inSet (pairRows x.w (x.wg.live.setWidth 64))) := by
  refine (issue_of_ready hr (Ex.barrd true sel)).trans ?_
  rw [Ex.barrd, show x.lowest = some l from hl]
  dsimp only
  rw [if_pos rfl, Ex.whole_of_joined hj, Ex.check_nil hr.full, hr.state]
  rfl

variable {z : Barrier} (hz : x.wg.barriers[(x.lv 1 l).v.toNat]? = some z) (hclean : (x.lv 1 l).p = false)
include hz hclean

theorem Ready.exec_barrd (hr : Ready (.barrd h false sel d a) s x) :
    exec (.barrd h false sel d a) s = .next (x.written s x.inSet (pairRows x.w (z.dword sel))) := by
  refine (issue_of_ready hr (Ex.barrd false sel)).trans ?_
  rw [Ex.barrd, show x.lowest = some l from hl]
  dsimp only
  rw [if_neg Bool.false_ne_true, Ex.barRaised_nil hj hz hclean rfl rfl, Ex.check_nil hr.full, hr.state, Wg.barrier_of_getElem? hz]
  rfl

theorem Ready.exec_barwr (hr : Ready (.barwr h sel d a) s x) (hdata : ∀ r ∈ x.regs 0 l, r.p = false)
    (hgood : barDwordBad x.wg.live sel (x.pair 0 l) = false) : exec (.barwr h sel d a) s =
      .next (x.ended (s.modWg x.ag.core x.g.wg fun w =>
        w.modBarrier (x.lv 1 l).v.toNat fun z => z.setDword sel (x.pair 0 l)) x.next) := by
  refine (issue_of_ready hr (Ex.barwr sel)).trans ?_
  rw [Ex.barwr, show x.lowest = some l from hl]
  dsimp only
  rw [Ex.barRaised_nil hj hz hclean rfl (by rw [poisons_of_clean _ _ _ hdata, hgood]; rfl), Ex.check_nil hr.full, hr.state]
  rfl

end

/-- BARWR's check of its doubleword, by halves. -/
theorem barDwordBad_eq_false {live : Word} {sel : Bool} {d : Dword}
    (h : if sel then hiWord d &&& 0xFFFFFFFE = 0
      else loWord d &&& ~~~live = 0 ∧ hiWord d &&& ~~~loWord d = 0 ∧ (hiWord d = loWord d → loWord d = 0)) :
    barDwordBad live sel d = false := by
  cases sel with
  | true =>
    have hmask : ∀ k < 31, (0xFFFFFFFE#32).getLsbD (k + 1) = true := by decide
    have hrest : d.extractLsb' 33 31 = 0 := BitVec.eq_of_getLsbD_eq fun k hk => by
      have hbit : (hiWord d).getLsbD (k + 1) = false := by
        rw [← Bool.and_true ((hiWord d).getLsbD (k + 1)), ← hmask k hk, ← BitVec.getLsbD_and]
        exact (congrArg (fun v : Word => v.getLsbD (k + 1)) h).trans BitVec.getLsbD_zero
      simpa [hk, show k + 1 < 32 by omega, show 32 + (k + 1) = 33 + k by omega] using hbit
    simp [barDwordBad, hrest]
  | false =>
    obtain ⟨hmember, harr, hopen⟩ := h
    simp only [barDwordBad, hmember, harr]
    simpa using hopen

/-- The broken bit of a written doubleword. -/
theorem Barrier.setDword_eq (z : Barrier) (sel : Bool) (d : Dword) : z.setDword sel d =
    if sel then { z with phase := loWord d, bkn := (hiWord d).getLsbD 0 } else { z with mbr := loWord d, arr := hiWord d } := by
  have hbit : (hiWord d).getLsbD 0 = d.getLsbD 32 := by simp
  rw [Barrier.setDword, hbit]

end Sys2Proof.Machine

/-! ## Monitors and the clock (R201 to R204) -/

namespace Sys2Proof.Machine

/-! ### Accesses that nothing stops (R229) -/

section
variable {x : Ex} {a : Acc} (hpass : x.Passes a)
include hpass

/-- A lane of an access whose checks pass has a translation. -/
theorem Ex.Passes.tr_ok {l : Nat} (hl : l ∈ x.set) : ∃ pa cp, x.tr a l = .ok pa cp := by
  by_cases hsp : a.sp = some .global
  · exact hpass.mapped hsp l hl
  · exact ⟨_, _, if_neg (by simpa using hsp)⟩

theorem Ex.Passes.rangeRaised_nil {l : Nat} (hl : l ∈ x.set) (ord : Nat) :
    x.rangeRaised ord l a.sp (x.ea a l).toNat a.n = [] := by
  have hrange := hpass.range l hl
  unfold Ex.rangeRaised
  by_cases hsp : a.sp = some .global
  · rw [if_pos hsp] at hrange
    rw [if_pos (by simpa using hsp), if_neg]
    rcases hrange with h | h <;> simp [h]
  · rw [if_neg hsp] at hrange
    rw [if_neg (by simpa using hsp), if_neg (by omega)]

/-- A lane raises nothing. -/
theorem Ex.Passes.accRaised_nil {data : Nat → List LV} {l : Nat} (hl : l ∈ x.set) (hdata : ∀ v ∈ data l, v.p = false) :
    x.accRaised a data l = [] := by
  obtain ⟨hclean, hclean'⟩ := hpass.clean l hl
  obtain ⟨pa, cp, htr⟩ := hpass.tr_ok hl
  have haddr : ∀ v ∈ [x.one a.ja l, x.one (a.ja + 1) l], v.p = false := by simp [hclean, hclean']
  have haligned : ((x.ea a l).toNat % a.n != 0) = false := by simp [hpass.aligned l hl]
  simp only [Ex.accRaised, poisons_of_clean _ _ _ haddr, haligned, hpass.rangeRaised_nil hl, poisons_of_clean _ _ _ hdata, htr]
  rfl

/-- No lane names an address without memory. -/
theorem Ex.Passes.hole_none {l : Nat} (hl : l ∈ x.set) : x.hole a l = false := by
  by_cases hsp : a.sp = some .global
  · cases hctx : x.g.ctx with
    | some c => simp [Ex.hole, hctx]
    | none =>
      rcases hpass.there hsp hctx l hl with hwin | hmem
      · simp [Ex.hole, Ex.winOff, hsp, hctx, hwin]
      · simp [Ex.hole, hmem]
  · simp [Ex.hole, hsp]

/-- An access whose checks pass is performed. -/
theorem Ex.Passes.access {data : Nat → List LV} (hfull : x.full = []) (hdata : ∀ l ∈ x.set, ∀ v ∈ data l, v.p = false) (k : Res) :
    x.access a data k = k := by
  have hraised : x.set.flatMap (x.accRaised a data) = [] :=
    List.flatMap_eq_nil_iff.mpr fun l hl => hpass.accRaised_nil hl (hdata l hl)
  have hhole : x.set.find? (x.hole a) = none := List.find?_eq_none.mpr fun l hl => by simp [hpass.hole_none hl]
  rw [Ex.access, hraised, Ex.check_nil hfull, Ex.parkOn_mapped, hhole]
  intro p hp
  split at hp
  · next hsp =>
    obtain ⟨l, hl, rfl⟩ := List.mem_map.mp hp
    obtain ⟨pa, cp, htr⟩ := hpass.tr_ok hl
    exact ⟨pa, cp, by rwa [Ex.tr, if_pos hsp] at htr⟩
  · cases hp

end

/-! ### MON (R201) -/

/-- A flow with a monitor on a line. -/
def Flow.armed (sp : Space) (line : Nat) (f : Flow) : Flow := { f with mon := some ⟨sp, line, false, false⟩ }

section
variable {h : Hdr} {sp : Space} {d a : Opnd} {s : State} {x : Ex}

theorem Ready.mon_empty (hr : Ready (.mon h sp a) s x) (hset : x.set = []) :
    exec (.mon h sp a) s = .next (x.ended s x.next) := by
  refine (issue_of_ready hr (Ex.mon sp)).trans ?_
  rw [Ex.mon, show x.lowest = none by simp [Ex.lowest, hset]]
  dsimp only
  rw [Ex.check_nil hr.full, hr.state]
  rfl

/-- MON arms the monitor on the 128-byte line of its lowest lane. -/
theorem Ready.mon_arms (hr : Ready (.mon h sp a) s x) {l : Nat} (hl : x.set.head? = some l) :
    let q : Acc := ⟨some sp, 4, .read, .c, 0, 0⟩
    ({ x with set := [l] } : Ex).Passes q →
    ∃ t, exec (.mon h sp a) s = .next (x.ended t x.next) ∧ OnlyCore x.ag.core s t ∧
      (x.flowAfter t).mon = some ⟨sp, x.pa q l / 128, false, false⟩ ∧ (x.after t).act.grans = x.b.grans := by
  intro q hpass
  have hgang := hr.gang_eq
  have hlt : x.fi < x.g.act.flows.length := hr.body ▸ hr.flow_lt
  have hfi : x.g.act.fi x.ag.slice = x.fi := by rw [← hr.body, hr.fi_eq]
  refine ⟨s.modFlow x.ag (Flow.armed sp (x.pa q l / 128)), (issue_of_ready hr (Ex.mon sp)).trans ?_, hr.only_modGang _, ?_, ?_⟩
  · rw [Ex.mon, show x.lowest = some l from hl]
    dsimp only
    rw [hpass.access hr.full (fun _ _ v hv => absurd hv (List.not_mem_nil (a := v))), Nat.div_div_eq_div_mul]
    exact congrArg (fun u : State => x.done (u.modFlow x.ag (Flow.armed sp (x.pa q l / 128)))) hr.state
  · exact congrArg Flow.mon (Ex.flowAfter_modFlow hgang hlt hfi _)
  · rw [State.modFlow, hr.after_modGang _ fun g => Gang.modAct_slot g _, Gang.act_modAct, hr.body]
    rfl

/-! ### CLOCK (R204) -/

theorem Ready.exec_clock (hr : Ready (.clock h d) s x) {n : Nat} (hn : x.ag.core.site = some n) :
    exec (.clock h d) s = .next (x.written s x.inSet (pairRows x.w (s.clockAt n))) := by
  refine (issue_of_ready hr Ex.clock).trans ?_
  rw [Ex.clock, hn]
  dsimp only
  rw [Ex.check_nil hr.full, hr.state]
  rfl

/-- CLOCK gives values; a reeve core's are free. -/
theorem Ready.clock_some (hr : Ready (.clock h d) s x) :
    ∃ t rows, exec (.clock h d) s = .next (x.written t x.inSet rows) ∧ OnlyCore x.ag.core s t := by
  cases hn : x.ag.core.site with
  | some n => exact ⟨_, _, hr.exec_clock hn, OnlyCore.refl _ _⟩
  | none =>
    refine ⟨s.freeD.2, pairRows x.w s.freeD.1, (issue_of_ready hr Ex.clock).trans ?_, State.freeD_only x.ag.core s⟩
    rw [Ex.clock, hn]
    dsimp only
    rw [Ex.check_nil hr.full, hr.state]
    rfl

end
end Sys2Proof.Machine

/-! ## The end of an MWAIT (R26, R144, R202, R203) -/

namespace Sys2Proof.Machine

/-! ### What the end leaves of the gang -/

/-- The gang of an MWAIT, its timeout popped if a queue gave it. -/
def Gang.mwaitPopped (g : Gang) (a : Opnd) : Gang :=
  match g.act.queueNamed a with
  | some q => g.modAct fun b => b.pop q.1 q.2
  | none => g

/-- A row with the status in the lanes of a mask. -/
def statusRow (xm status : Word) (row : Lanes) : Lanes := row.mapIdx fun k x => if bitOf xm k then ⟨status, false⟩ else x

/-- The gang of an MWAIT, D written. -/
def Gang.mwaitPut (g : Gang) (width : Nat) (xm : Word) (nw : Bool) (d : Opnd) (status : Word) : Gang :=
  match d with
  | .v n =>
    if nw then g
    else match g.act.queueNamed d with
      | some q => g.modAct fun b => b.push q.1 q.2 (bitOf xm) (List.replicate width ⟨status, false⟩)
      | none => g.modAct fun b => b.setRow n.val (statusRow xm status (b.row n.val))
  | _ => g

/-- The flow of an MWAIT of `f` that ends: past the instruction, disarmed, the status pushed and the window then reset. -/
def Flow.mwaitEnds (f : Flow) (len width : Nat) (status : Word) (y : Flow) : Flow :=
  { y with
    pc := f.pc + BitVec.ofNat 64 len, run := .ready, mon := none,
    win := resetWin (pushWin f.win (bitOf f.xm) (List.replicate width ⟨status, false⟩)),
    due := none, readyFor := 0, aged := false, passBp := false }

section
variable (g : Gang) (fi width : Nat) (h : Hdr) (d a : Opnd) (xm status : Word) (nw : Bool)

theorem Gang.mwaitPopped_flows : (g.mwaitPopped a).act.flows = g.act.flows := by
  unfold Gang.mwaitPopped
  split
  · rw [Gang.act_modAct, Body.pop_flows]
  · rfl

theorem Gang.mwaitPopped_parted : (g.mwaitPopped a).act.parted = g.act.parted := by
  unfold Gang.mwaitPopped
  split
  · rw [Gang.act_modAct, Body.pop_parted]
  · rfl

theorem Gang.mwaitPut_flows : (g.mwaitPut width xm nw d status).act.flows = g.act.flows := by
  unfold Gang.mwaitPut
  split
  · split
    · rfl
    split
    · rw [Gang.act_modAct, Body.push_flows]
    · rw [Gang.act_modAct]
      rfl
  · rfl

theorem Gang.mwaitPut_parted : (g.mwaitPut width xm nw d status).act.parted = g.act.parted := by
  unfold Gang.mwaitPut
  split
  · split
    · rfl
    split
    · rw [Gang.act_modAct, Body.push_parted]
    · rw [Gang.act_modAct]
      rfl
  · rfl

/-- The body after the end of an MWAIT. -/
theorem Gang.mwaitDone_act : (g.mwaitDone fi h d a status).act =
    { ((g.mwaitPopped a).mwaitPut g.width (g.act.flow fi).xm h.nw d status).act.modFlow fi
        ((g.act.flow fi).mwaitEnds (Instr.mwait h d a).len g.width status) with trail := [] } := by
  have hend (k : Gang) : (if g.sstep && g.pl == .u then k.addPending .singleStep (g.act.flow fi).pc else k).act = k.act := by
    split
    · exact Gang.addPending_act _ _ _
    · rfl
  unfold Gang.mwaitDone
  extract_lets f put g0 g1 pc win up g2
  rw [hend]
  exact Gang.act_modAct g1 _

theorem Gang.mwaitDone_latches : (g.mwaitDone fi h d a status).latches = [] := by
  unfold Gang.mwaitDone
  extract_lets
  split
  · unfold Gang.addPending
    split <;> rfl
  · rfl

theorem Gang.mwaitDone_flows : (g.mwaitDone fi h d a status).act.flows =
    modNth ((g.act.flow fi).mwaitEnds (Instr.mwait h d a).len g.width status) g.act.flows fi := by
  rw [Gang.mwaitDone_act, Body.modFlow_flows, Gang.mwaitPut_flows, Gang.mwaitPopped_flows]

theorem Gang.mwaitDone_parted : (g.mwaitDone fi h d a status).act.parted = g.act.parted := by
  rw [Gang.mwaitDone_act]
  exact (Gang.mwaitPut_parted _ _ _ _ _ _).trans (Gang.mwaitPopped_parted g a)

/-- The flow after the end of its MWAIT. -/
theorem Gang.mwaitDone_flow (hlt : fi < g.act.flows.length) : (g.mwaitDone fi h d a status).act.flow fi =
    (g.act.flow fi).mwaitEnds (Instr.mwait h d a).len g.width status (g.act.flow fi) := by
  rw [Body.flow, Gang.mwaitDone_flows, List.getD_eq_getElem?_getD, modNth_getElem?, if_pos rfl, Body.flow,
    List.getD_eq_getElem?_getD, List.getElem?_eq_getElem hlt]
  rfl

/-- A plain register that the end of an MWAIT names takes the status in the lanes of xm (R26, R202). -/
theorem Gang.mwaitDone_row {g : Gang} {w : Nat} (hs : g.act.Sound w) (hpop : g.act.queueNamed a = none) {r : Fin 240}
    (hin : r.val < 8 * g.act.frame.ngr) (hplain : g.act.frame.role r.val = .plain) (hnw : h.nw = false) {l : Nat} (hl : l < w) :
    laneAt ((g.mwaitDone fi h (.v r) a status).act.row r.val) l =
      if bitOf (g.act.flow fi).xm l then ⟨status, false⟩ else laneAt (g.act.row r.val) l := by
  have hpopped : g.mwaitPopped a = g := by rw [Gang.mwaitPopped, hpop]
  have hname : g.act.queueNamed (.v r) = none := by simp only [Body.queueNamed, hplain]
  have hput : g.mwaitPut g.width (g.act.flow fi).xm h.nw (.v r) status =
      g.modAct fun b => b.setRow r.val (statusRow (g.act.flow fi).xm status (b.row r.val)) := by
    rw [Gang.mwaitPut, hnw, hname]
    rfl
  have hrow : (g.mwaitDone fi h (.v r) a status).act.row r.val =
      (g.act.setRow r.val (statusRow (g.act.flow fi).xm status (g.act.row r.val))).row r.val := by
    rw [Gang.mwaitDone_act, hpopped, hput, Gang.act_modAct]
    rfl
  have hlane : laneAt (statusRow (g.act.flow fi).xm status (g.act.row r.val)) l = _ :=
    laneAt_mapIdx _ (by rw [hs.row_length hin]; exact hl)
  rw [hrow, hs.row_setRow hin hin, if_pos rfl, hlane]

end
end Sys2Proof.Machine

/-! ## MWAIT (R201 to R203) -/

namespace Sys2Proof.Machine

/-- The status that a monitor gives MWAIT at once (R202, R203). -/
theorem Flow.mwaitStatus_some {f : Flow} {status : Word} (h : match f.mon with
    | none => status = 3
    | some m => if m.restored then status = 2 else m.trigger = true ∧ status = 0) : f.mwaitStatus = some status := by
  unfold Flow.mwaitStatus
  cases hm : f.mon with
  | none =>
    rw [hm] at h
    exact congrArg some (Eq.symm h)
  | some m =>
    rw [hm] at h
    dsimp only at h ⊢
    split at h
    · next hres => rw [if_pos hres, h]
    · next hres =>
      obtain ⟨htrigger, rfl⟩ := h
      rw [if_neg hres, if_pos htrigger]

section
variable {i : Instr} {s : State} {x : Ex} (hr : Ready i s x) (hpops : x.pops = [])
include hr hpops

/-- Where nothing is popped no source of one register names a queue (R144). -/
theorem Ready.queueNamed_none {a : Opnd} (ha : (a, Role.src 1) ∈ x.n.sources i) : x.b.queueNamed a = none := by
  have hnil : ((x.n.h.g, 1) :: (x.n.sources i).map fun p => (p.1, p.2.span)).filterMap (fun p => queueOf x.b p.1 p.2) = [] := by
    rw [hr.pops, popsOf] at hpops
    cases hq : ((x.n.h.g, 1) :: (x.n.sources i).map fun p => (p.1, p.2.span)).filterMap (fun p => queueOf x.b p.1 p.2) with
    | nil => rfl
    | cons q l =>
      rw [hq, List.eraseDups_cons] at hpops
      cases hpops
  have hnone := List.filterMap_eq_nil_iff.mp hnil (a, 1) (List.mem_cons_of_mem _ (List.mem_map.mpr ⟨_, ha, rfl⟩))
  exact hnone

end

section
variable {h : Hdr} {d a : Opnd} {s : State} {x : Ex} (hr : Ready (.mwait h d a) s x)
include hr

theorem Ready.exec_mwait_done (hclean : (x.lv 1 x.fl.lowXm).p = false) {status : Word} (hst : x.fl.mwaitStatus = some status) :
    exec (.mwait h d a) s = .next (s.modGang x.ag.core x.ag.slot fun g => g.mwaitDone (g.act.fi x.ag.slice) h d a status) := by
  refine (issue_of_ready hr (Ex.mwait h d a)).trans ?_
  rw [Ex.mwait, poisons_of_clean _ _ _ (by simpa using hclean), Ex.check_nil hr.full, hst, hr.state]
  rfl

/-- The gang of an MWAIT that goes on at once. -/
theorem Ready.after_mwait {status : Word} :
    x.after (s.modGang x.ag.core x.ag.slot fun g => g.mwaitDone (g.act.fi x.ag.slice) h d a status) =
      x.g.mwaitDone x.fi h d a status := by
  rw [hr.after_modGang _ fun g => Gang.mwaitDone_slot g _ h d a status, hr.fi_eq, hr.body]

theorem Ready.mwait_flow (status : Word) :
    (x.g.mwaitDone x.fi h d a status).act.flow x.fi = x.fl.mwaitEnds x.i.len x.w status x.fl := by
  rw [Gang.mwaitDone_flow _ _ _ _ _ _ (hr.body ▸ hr.flow_lt), ← hr.body, ← hr.flow, hr.instr]
  rfl

theorem Ready.mwait_waits (hclean : (x.lv 1 x.fl.lowXm).p = false) {m : Monitor} (hm : x.fl.mon = some m)
    (htrigger : m.trigger = false) (hrestored : m.restored = false) :
    ∃ t, exec (.mwait h d a) s = .next t ∧ (x.after t).region = none ∧ x.waits t (.mwait
      (if (x.lv 1 x.fl.lowXm).v = 0 then none
       else x.ag.core.site.map fun n => s.clockAt n + (x.lv 1 x.fl.lowXm).v.setWidth 64)) := by
  have hst : x.fl.mwaitStatus = none := by simp [Flow.mwaitStatus, hm, htrigger, hrestored]
  have hgang := hr.gang_after (fun g => { g with region := none }) fun _ => rfl
  obtain ⟨u, hu, hregion, hw⟩ := hr.waits_wait (hr.only_modGang _) hgang (show x.g.act = x.b from hr.body.symm) (.mwait
    (if (x.lv 1 x.fl.lowXm).v = 0 then none
     else x.ag.core.site.map fun n => s.clockAt n + (x.lv 1 x.fl.lowXm).v.setWidth 64))
  refine ⟨u, (issue_of_ready hr (Ex.mwait h d a)).trans ?_, hregion, hw⟩
  rw [Ex.mwait, poisons_of_clean _ _ _ (by simpa using hclean), Ex.check_nil hr.full, hst, hr.state, ← hu]
  simp only [beq_iff_eq]

end

/-- Settles O32: each instruction by what it makes of the barrier, the monitor and its flow. -/
theorem barriersAndMonitors : Obligations.BarriersAndMonitors := by
  unfold Obligations.BarriersAndMonitors
  refine ⟨?_, ?_⟩
  · intro h mx live sel d a b s x n z low upd bit barrier arrives names hj hz
    refine ⟨?_, ?_⟩
    · rintro hr ⟨hclean, rfl⟩ hclean' hin hsome hidle
      exact hr.exec_barinit hj hz hclean hclean' hin hsome hidle
    intro read
    refine ⟨?_, ?_, ?_, ?_, ?_, ?_⟩
    · rintro hr ⟨hclean, rfl⟩ ⟨hwhole, hmember, hnew⟩
      exact ⟨fun hmissing => hr.bar_waits hj hwhole hmember hnew hz hclean hmissing,
        fun hfull hslw hdue hread => hr.bar_goes hj hwhole hmember hnew hz hclean hfull hslw hdue hread⟩
    · rintro hr ⟨hclean, rfl⟩ ⟨hwhole, hmember, hnew⟩
      exact hr.exec_bara hj hwhole hmember hnew hz hclean
    · rintro hr ⟨hclean, rfl⟩ hclean' hwhole
      exact ⟨fun hphase hdue hread => hr.barw_goes hj hz hclean hclean' hwhole hphase hdue hread,
        fun hphase => hr.barw_waits hj hz hclean hclean' hwhole hphase⟩
    · exact fun hr hset => hr.barrd_empty hj hset
    · exact fun hr hset => hr.barwr_empty hj hset
    · intro l hl
      refine ⟨fun hr => hr.barrd_live hj hl, ?_, ?_⟩
      · rintro hr ⟨hclean, rfl⟩
        exact hr.exec_barrd hj hl hz hclean
      · rintro hr ⟨hclean, rfl⟩ hdata lo hi hgood
        rw [hr.exec_barwr hj hl hz hclean hdata (barDwordBad_eq_false hgood)]
        simp only [Barrier.setDword_eq]
        rfl
  · intro h sp d a s x q
    refine ⟨fun hr hset => hr.mon_empty hset, fun hr l hl => hr.mon_arms hl, ?_, fun hr n hn => hr.exec_clock hn,
      fun hr => hr.clock_some⟩
    intro hr hclean
    refine ⟨fun status hstatus => ?_, fun m hm htrigger hrestored => hr.mwait_waits hclean hm htrigger hrestored⟩
    have hflow := hr.mwait_flow status
    refine ⟨_, hr.exec_mwait_done hclean (Flow.mwaitStatus_some hstatus), hr.only_modGang _, ?_⟩
    simp only [Ex.flowAfter, hr.after_mwait, hflow]
    refine ⟨rfl, rfl, rfl, Gang.mwaitDone_latches _ _ _ _ _ _, rfl, ?_⟩
    rintro r rfl hnw hsound hin hplain hpops l hl -
    have hname : x.b.queueNamed a = none := by
      refine hr.queueNamed_none hpops ?_
      rw [hr.info_eq (i := .mwait h (.v r) a) rfl]
      exact List.mem_cons_self
    rw [hr.body] at hsound hin hplain hname
    rw [Gang.mwaitDone_row _ _ _ _ hsound hname hin hplain hnw hl, ← hr.body, ← hr.flow]
    rfl

end Sys2Proof.Machine

/-! ## The end of a walk (R223, R224, R246) -/

namespace Sys2Proof.Machine

/-! ### What an agent does, after an update of a flow -/

/-- What an agent does. -/
def State.run? (s : State) (ag : AgentRef) : Option Run := (s.flow? ag).map fun f => f.run

section
variable {t : State} {ag a : AgentRef} {g : Gang} {F : Flow → Flow}

theorem State.flow?_of_cores {s t : State} (h : t.cores = s.cores) : t.flow? ag = s.flow? ag := by
  rw [State.flow?, State.flow?, State.gang?_of_cores h]

/-- A flow after an update of its gang. -/
theorem State.flow?_modGang (hg : t.gang? ag.core ag.slot = some g) {f : Gang → Gang} (hf : ∀ g, (f g).slot = g.slot) :
    (t.modGang ag.core ag.slot f).flow? ag = (f g).act.flows[(f g).act.fi ag.slice]? := by
  rw [State.flow?, State.gang?_modGang_same hg hf]
  rfl

theorem State.flow?_modFlow_same (hg : t.gang? ag.core ag.slot = some g) : (t.modFlow ag F).flow? ag = (t.flow? ag).map F := by
  rw [State.modFlow, State.flow?_modGang hg fun g => Gang.modAct_slot g _, Gang.act_modAct, Body.modFlow_flows, State.flow?, hg]
  exact (modNth_getElem? _ _ _ _).trans (if_pos rfl)

/-- An update of a flow meets an agent whose flow it is, and no other. -/
theorem State.flow?_modFlow (ha : (t.core? a.core).isSome) : (t.modFlow a F).flow? ag = t.flow? ag ∨
    (t.modFlow a F).flow? ag = (t.flow? ag).map F ∧ ag.core = a.core ∧ t.flow? ag = t.flow? a := by
  have hgang := State.gang?_modGang t a.core ag.core a.slot ag.slot (fun g => g.modAct fun b => b.modFlow (b.fi a.slice) F)
    (fun g => Gang.modAct_slot g _) ha
  cases hg : t.gang? ag.core ag.slot with
  | none =>
    left
    rw [State.flow?, State.flow?, State.modFlow, hgang, hg]
    rfl
  | some g =>
    rw [hg, Option.map_some] at hgang
    by_cases hsame : ag.core = a.core ∧ ag.slot = a.slot
    · obtain ⟨hcore, hslot⟩ := hsame
      rw [if_pos ⟨hcore, hslot⟩] at hgang
      have hflow : (t.modFlow a F).flow? ag = (modNth F g.act.flows (g.act.fi a.slice))[g.act.fi ag.slice]? := by
        rw [State.flow?, State.modFlow, hgang, Option.bind_some, Gang.act_modAct]
        rfl
      have hold : t.flow? ag = g.act.flows[g.act.fi ag.slice]? := by rw [State.flow?, hg, Option.bind_some]
      rw [hflow, modNth_getElem?]
      split
      · next hfi =>
        refine .inr ⟨by rw [hold], hcore, ?_⟩
        rw [hold, hfi, State.flow?, ← hcore, ← hslot, hg, Option.bind_some]
      · exact .inl hold.symm
    · left
      rw [State.flow?, State.flow?, State.modFlow, hgang, if_neg hsame, hg]

theorem State.run?_of_flow? {s : State} {b : AgentRef} (h : t.flow? ag = s.flow? b) : t.run? ag = s.run? b := by
  rw [State.run?, h, State.run?]

/-- The same for what agents do, where the update gives the flow a thing to do. -/
theorem State.run?_modFlow {v : Run} (hF : ∀ f, (F f).run = v) (ha : (t.core? a.core).isSome) :
    (t.modFlow a F).run? ag = t.run? ag ∨
      (t.modFlow a F).run? ag = (t.run? ag).map (fun _ => v) ∧ ag.core = a.core ∧ t.run? ag = t.run? a := by
  rcases State.flow?_modFlow (F := F) (ag := ag) ha with h | ⟨h, hcore, hflow⟩
  · exact .inl (State.run?_of_flow? h)
  · refine .inr ⟨?_, hcore, State.run?_of_flow? hflow⟩
    rw [State.run?, h, State.run?]
    cases t.flow? ag with
    | none => rfl
    | some f => exact congrArg some (hF f)

theorem State.run?_modFlow_same {v r : Run} (hF : ∀ f, (F f).run = v) (hr : t.run? ag = some r) :
    (t.modFlow ag F).run? ag = some v := by
  obtain ⟨f, hf, -⟩ := Option.map_eq_some_iff.mp hr
  obtain ⟨g, hg, -⟩ := Option.bind_eq_some_iff.mp hf
  rw [State.run?, State.flow?_modFlow_same hg, hf]
  exact congrArg some (hF f)

/-- An agent that does something has its gang. -/
theorem State.gang?_of_run? {r : Run} (hr : t.run? ag = some r) : ∃ g, t.gang? ag.core ag.slot = some g := by
  obtain ⟨f, hf, -⟩ := Option.map_eq_some_iff.mp hr
  obtain ⟨g, hg, -⟩ := Option.bind_eq_some_iff.mp hf
  exact ⟨g, hg⟩

theorem State.park?_eq_some {p : Park} : t.park? ag = some p ↔ t.run? ag = some (.parked p) := by
  unfold State.park? State.run?
  cases t.flow? ag with
  | none => simp
  | some f => cases h : f.run <;> simp [h]

end

/-! ### TLBs -/

theorem fillTlb_of_mem {size : Nat} {e : TlbEntry} {l : List TlbEntry} (h : e ∈ l) : fillTlb size e l = l :=
  if_pos (List.contains_iff_mem.mpr h)

/-- A TLB that holds anything holds the entry that fills it. -/
theorem mem_fillTlb {size : Nat} (hsize : 0 < size) (e : TlbEntry) (l : List TlbEntry) : e ∈ fillTlb size e l := by
  unfold fillTlb
  split
  · next h => exact List.contains_iff_mem.mp h
  · have hle : (l ++ [e]).length - size ≤ l.length := by simp; omega
    rw [List.drop_append_of_le_length hle]
    exact List.mem_append_right _ (List.mem_singleton_self e)

/-- A state whose core has an entry in its TLB. -/
def State.fillCore (s : State) (r : CoreRef) (e : TlbEntry) : State :=
  s.modCore r fun c => { c with tlb := fillTlb Config.coreTlb e c.tlb }

section
variable {t : State} {r q : CoreRef} {ag a : AgentRef} {e : TlbEntry} {p : Park}

theorem State.fillCore_flow (hr : (t.core? r).isSome) : (t.fillCore r e).flow? ag = t.flow? ag := by
  rw [State.flow?, State.fillCore, State.gang?_modCore t r ag.core ag.slot
    (fun c => { c with tlb := fillTlb Config.coreTlb e c.tlb }) (fun _ => rfl) (fun _ => rfl) hr]
  rfl

theorem State.modFlow_tlb (ha : (t.core? a.core).isSome) (F : Flow → Flow) : ((t.modFlow a F).core q).tlb = (t.core q).tlb := by
  rw [State.core, State.core, State.modFlow, State.modGang, State.core?_modCore t a.core q (fun c => c.modGang a.slot _)
    (fun _ => rfl) ha]
  cases t.core? q with
  | none => rfl
  | some c =>
    rw [Option.map_some]
    split <;> rfl

theorem State.core?_fillCore (hr : (t.core? r).isSome) : ((t.fillCore r e).core? q).isSome = (t.core? q).isSome := by
  rw [State.fillCore, State.core?_modCore t r q (fun c => { c with tlb := fillTlb Config.coreTlb e c.tlb }) (fun _ => rfl) hr]
  simp

theorem State.mem_fillCore (hr : (t.core? r).isSome) : e ∈ ((t.fillCore r e).core r).tlb := by
  obtain ⟨c, hc⟩ := Option.isSome_iff_exists.mp hr
  rw [State.fillCore, State.core_modCore (fun c => { c with tlb := fillTlb Config.coreTlb e c.tlb }) (fun _ => rfl) hc]
  exact mem_fillTlb (by decide) e _

theorem State.mem_fillCore_of_mem (hr : (t.core? r).isSome) (h : e ∈ (t.core q).tlb) : e ∈ ((t.fillCore r e).core q).tlb := by
  by_cases hq : q = r
  · subst hq
    exact State.mem_fillCore hr
  · have honly := (State.only_modCore (fun c => { c with tlb := fillTlb Config.coreTlb e c.tlb }) (fun _ => rfl) hr).1 q hq
    rw [State.core, State.fillCore, honly]
    exact h

/-! ### The end of a walk for one agent -/

/-- A walk ends for parked agents alone. -/
theorem State.walkEnd_of_not_parked {d : Option TlbEntry} (h : ∀ p, t.run? a ≠ some (.parked p)) : t.walkEnd d a = t := by
  have hnone : t.park? a = none := Option.eq_none_iff_forall_ne_some.mpr fun p hp => h p (State.park?_eq_some.mp hp)
  simp only [State.walkEnd, hnone]

theorem State.walkEnd_found (h : t.run? a = some (.parked p)) : t.walkEnd (some e) a = (t.fillCore a.core e).unpark a := by
  obtain ⟨g, hg⟩ := State.gang?_of_run? h
  simp only [State.walkEnd, State.park?_eq_some.mpr h, hg]
  rfl

/-- What an agent does after a walk that found nothing. -/
def Park.missed (p : Park) : Run := if p.access = .control then .ready else .parked { p with fault := some .pageNotPresent }

theorem State.walkEnd_missed (h : t.run? a = some (.parked p)) : ∃ F : Flow → Flow, (∀ f, (F f).run = p.missed) ∧
    (t.walkEnd none a).cores = (t.modFlow a F).cores := by
  obtain ⟨g, hg⟩ := State.gang?_of_run? h
  simp only [State.walkEnd, State.park?_eq_some.mpr h, hg, Park.missed]
  by_cases hc : p.access = .control
  · exact ⟨fun f => { f with run := .ready, noLeaf := pageNo false p.va :: f.noLeaf }, fun _ => by rw [if_pos hc],
      by rw [if_pos (by simp [hc])]⟩
  · exact ⟨fun f => { f with run := .parked { p with fault := some .pageNotPresent } }, fun _ => by rw [if_neg hc],
      by rw [if_neg (by simp [hc]), State.report_cores]⟩

/-- Where a walk has found an entry the agent is still parked, or goes on with the entry in its core's TLB. -/
def Found (ag : AgentRef) (e : TlbEntry) (p : Park) (t : State) : Prop :=
  t.run? ag = some (.parked p) ∨ t.run? ag = some .ready ∧ e ∈ (t.core ag.core).tlb

theorem Found.walkEnd (h : Found ag e p t) (a : AgentRef) : Found ag e p (t.walkEnd (some e) a) := by
  by_cases hpark : ∃ q, t.run? a = some (.parked q)
  · obtain ⟨q, hq⟩ := hpark
    obtain ⟨g, hg⟩ := State.gang?_of_run? hq
    have hcore : (t.core? a.core).isSome := Option.isSome_of_eq_some (State.core?_of_gang? hg)
    have hcore' : ((t.fillCore a.core e).core? a.core).isSome := (State.core?_fillCore hcore).trans hcore
    have hrun (b : AgentRef) : (t.fillCore a.core e).run? b = t.run? b := State.run?_of_flow? (State.fillCore_flow hcore)
    have htlb : ((t.walkEnd (some e) a).core ag.core).tlb = ((t.fillCore a.core e).core ag.core).tlb := by
      rw [State.walkEnd_found hq]
      exact State.modFlow_tlb hcore' _
    have hsteps := State.run?_modFlow (ag := ag) (F := fun f => { f with run := .ready }) (fun _ => rfl) hcore'
    rw [hrun, hrun] at hsteps
    rw [Found, htlb, State.walkEnd_found hq, State.unpark]
    rcases hsteps with hkept | ⟨hready, hsame, -⟩
    · rw [hkept]
      exact h.imp_right fun ⟨hready, he⟩ => ⟨hready, State.mem_fillCore_of_mem hcore he⟩
    · refine .inr ⟨?_, ?_⟩
      · rw [hready]
        rcases h with h | ⟨h, -⟩
        · rw [h]
          rfl
        · rw [h]
          rfl
      · rw [hsame]
        exact State.mem_fillCore hcore
  · rw [State.walkEnd_of_not_parked fun q hq => hpark ⟨q, hq⟩]
    exact h

theorem Found.walkEnd_self (h : Found ag e p t) :
    (t.walkEnd (some e) ag).run? ag = some .ready ∧ e ∈ ((t.walkEnd (some e) ag).core ag.core).tlb := by
  rcases h with h | ⟨hready, he⟩
  · obtain ⟨g, hg⟩ := State.gang?_of_run? h
    have hcore : (t.core? ag.core).isSome := Option.isSome_of_eq_some (State.core?_of_gang? hg)
    have hcore' : ((t.fillCore ag.core e).core? ag.core).isSome := (State.core?_fillCore hcore).trans hcore
    have hrun : (t.fillCore ag.core e).run? ag = some (.parked p) := (State.run?_of_flow? (State.fillCore_flow hcore)).trans h
    rw [State.walkEnd_found h, State.unpark, State.modFlow_tlb hcore']
    exact ⟨State.run?_modFlow_same (fun _ => rfl) hrun, State.mem_fillCore hcore⟩
  · rw [State.walkEnd_of_not_parked fun q hq => by rw [hready] at hq; cases hq]
    exact ⟨hready, he⟩

/-- Where a walk has found nothing the agent is still parked, or has its fault, or goes on. -/
def Missed (ag : AgentRef) (p : Park) (t : State) : Prop := t.run? ag = some (.parked p) ∨ t.run? ag = some p.missed

/-- A second miss of the same access changes nothing. -/
theorem Missed.parked (h : Missed ag p t) {q : Park} (hq : t.run? ag = some (.parked q)) : q.missed = p.missed := by
  rcases h with h | h
  · rw [hq] at h
    cases h
    rfl
  · rw [hq, Park.missed] at h
    split at h
    · cases h
    · next hc =>
      cases h
      exact (if_neg hc).trans (if_neg hc).symm

theorem Missed.walkEnd (h : Missed ag p t) (a : AgentRef) : Missed ag p (t.walkEnd none a) := by
  by_cases hpark : ∃ q, t.run? a = some (.parked q)
  · obtain ⟨q, hq⟩ := hpark
    obtain ⟨g, hg⟩ := State.gang?_of_run? hq
    obtain ⟨F, hF, hcores⟩ := State.walkEnd_missed hq
    have hflow : (t.walkEnd none a).run? ag = (t.modFlow a F).run? ag :=
      State.run?_of_flow? (State.flow?_of_cores hcores)
    rw [Missed, hflow]
    rcases State.run?_modFlow (ag := ag) hF (Option.isSome_of_eq_some (State.core?_of_gang? hg)) with hkept | ⟨hnew, -, hsame⟩
    · rw [hkept]
      exact h
    · rw [hsame, hq] at hnew
      exact .inr (hnew.trans (congrArg some (h.parked (hsame.trans hq))))
  · rw [State.walkEnd_of_not_parked fun q hq => hpark ⟨q, hq⟩]
    exact h

theorem Missed.walkEnd_self (h : Missed ag p t) : (t.walkEnd none ag).run? ag = some p.missed := by
  by_cases hpark : ∃ q, t.run? ag = some (.parked q)
  · obtain ⟨q, hq⟩ := hpark
    obtain ⟨F, hF, hcores⟩ := State.walkEnd_missed hq
    rw [State.run?, State.flow?_of_cores hcores]
    exact (State.run?_modFlow_same hF hq).trans (congrArg some (h.parked hq))
  · rw [State.walkEnd_of_not_parked fun q hq => hpark ⟨q, hq⟩]
    exact h.resolve_left fun h => hpark ⟨p, h⟩

end

/-! ### The end of a walk for all who share it -/

section
variable {s : State} {ag : AgentRef} {g : Gang} {p : Park} {y : Island} {k : CtxIsland}
  (hg : s.gang? ag.core ag.slot = some g) (hrun : s.run? ag = some (.parked p)) (hfault : p.fault = none)
  (hy : (ag.core.site.bind s.island?) = some y) (hk : g.ctx.bind y.ctx? = some k)
include hg hrun hfault hy hk

theorem exec_tlbWalkDone {e : Option TlbEntry} (he : y.seek ag.core k p.va = e) : exec (.tlbWalkDone ag) s =
    .next (((s.sharers ag k.ctx ((e.map fun e => e.large).getD false) p.va).foldl (fun s a => s.walkEnd e a)
      (e.elim s fun e => s.modIsland y.site fun y => y.fillTlbs ag.core e)).walkEnd e ag) := by
  change execTlbWalkDone ag s = _
  simp only [execTlbWalkDone, State.park?_eq_some.mpr hrun, hg, hy, hfault, hk, he]
  cases e with
  | none => rfl
  | some e => rfl

theorem tlbWalkDone_found {e : TlbEntry} (he : y.seek ag.core k p.va = some e) :
    ∃ t, exec (.tlbWalkDone ag) s = .next t ∧ e ∈ (t.core ag.core).tlb ∧ t.run? ag = some .ready := by
  have hfirst : Found ag e p (s.modIsland y.site fun y => y.fillTlbs ag.core e) := .inl hrun
  have hall : Found ag e p _ :=
    List.foldlRecOn (s.sharers ag k.ctx e.large p.va) (fun s a => s.walkEnd (some e) a) hfirst fun _ h a _ => h.walkEnd a
  obtain ⟨hready, hmem⟩ := hall.walkEnd_self
  exact ⟨_, exec_tlbWalkDone hg hrun hfault hy hk he, hmem, hready⟩

theorem tlbWalkDone_missed (he : y.seek ag.core k p.va = none) :
    ∃ t, exec (.tlbWalkDone ag) s = .next t ∧ t.run? ag = some p.missed := by
  have hfirst : Missed ag p s := .inl hrun
  have hall : Missed ag p _ :=
    List.foldlRecOn (s.sharers ag k.ctx false p.va) (fun s a => s.walkEnd none a) hfirst fun _ h a _ => h.walkEnd a
  exact ⟨_, exec_tlbWalkDone hg hrun hfault hy hk he, hall.walkEnd_self⟩

end
end Sys2Proof.Machine

/-! ## Faults that the host serves, monitors, replays and aging (R202, R224, R292, R316, R340, R344, R354, R379) -/

namespace Sys2Proof.Machine

/-! ### The host's service of a fault (R224, R292) -/

section
variable {s t : State} {site : Nat} {ctx : Option Nat} {writes : List (Nat × Dword)} {y : Island}

theorem SameAgents.run? {ag : AgentRef} (h : SameAgents s t) {r : Run} (hr : s.run? ag = some r) : t.run? ag = some r := by
  obtain ⟨g, hg⟩ := State.gang?_of_run? hr
  have hold : s.course ag = some g.act.course := by rw [State.course, hg]; rfl
  have hrun (u : State) (hu : u.course ag = some g.act.course) : u.run? ag = (g.act.flows[g.act.fi ag.slice]?).map fun f => f.run := by
    have hflow := congrArg (Option.map Prod.fst) (State.flow?_of_course hu)
    rwa [Option.map_map, Option.map_map] at hflow
  rw [hrun t (h.course hold), ← hrun s hold, hr]

/-- A page table's doubleword written at I. -/
def State.putEntry (site : Nat) (s : State) (p : Nat × Dword) : State :=
  (s.performI site (wholeWrite (p.1 / 4) ⟨loWord p.2, false⟩)).performI site (wholeWrite (p.1 / 4 + 1) ⟨hiWord p.2, false⟩)

/-- The state after the host's writes and the invalidation of a context's translations. -/
def State.mapped (s : State) (site : Nat) (ctx : Option Nat) (writes : List (Nat × Dword)) : State :=
  (writes.foldl (State.putEntry site) s).dropTlb site fun e => some e.ctx == ctx

/-- Writes within an island's memory, while no page is held, are done. -/
theorem State.mapPages_eq (hy : s.island? site = some y) (hfits : ∀ w ∈ writes, w.1 % 8 = 0 ∧ w.1 + 8 ≤ y.bytes)
    (hheld : s.heldPages site = []) : s.mapPages site ctx writes = some (s.mapped site ctx writes) := by
  have hall : (writes.all fun p => p.1 % 8 == 0 && (s.island? site).any fun x => p.1 + 8 ≤ x.bytes) = true := by
    rw [List.all_eq_true]
    intro w hw
    obtain ⟨haligned, hin⟩ := hfits w hw
    simp [haligned, hy, hin]
  have hchanges (t : State) : s.changesHeld t site = false := by
    rw [State.changesHeld, hheld]
    rfl
  rw [State.mapPages, hall, hchanges]
  rfl

theorem State.sameAgents_mapped : SameAgents s (s.mapped site ctx writes) := by
  have hwrites : SameAgents s (writes.foldl (State.putEntry site) s) :=
    List.foldlRecOn writes _ (SameAgents.refl s) fun u h w _ =>
      (h.trans (State.sameAgents_performI u site _)).trans (State.sameAgents_performI _ site _)
  exact hwrites.trans (State.sameAgents_dropTlb _ site _)

theorem State.mapped_rops : (s.mapped site ctx writes).rops = s.rops :=
  foldl_keeps (fun u : State => u.rops) (State.putEntry site) (fun _ _ => rfl) writes s

/-- No core of the island holds a translation of the context. -/
theorem State.mapped_tlb : ∀ c ∈ (s.mapped site ctx writes).cores, c.ref.site = some site → ∀ e ∈ c.tlb, some e.ctx ≠ ctx := by
  intro c hc hsite e he
  rw [State.mapped, State.dropTlb, State.modIsland_cores, modify, List.mem_map] at hc
  obtain ⟨k, -, rfl⟩ := hc
  split at hsite
  · next hcut =>
    rw [if_pos hcut, List.mem_filter] at he
    simpa using he.2
  · next hcut => exact absurd (by simpa using hsite) hcut

end

section
variable {s : State} {ag : AgentRef} {g : Gang} {p : Park} {c : Cause} {writes : List (Nat × Dword)} {y : Island}
  (hg : s.gang? ag.core ag.slot = some g)
include hg

theorem exec_pageFaultServiced {site : Nat} (hrun : s.run? ag = some (.parked p)) (hfault : p.fault = some c)
    (hsite : ag.core.site = some site) (hy : s.island? site = some y) (hfits : ∀ w ∈ writes, w.1 % 8 = 0 ∧ w.1 + 8 ≤ y.bytes)
    (hheld : s.heldPages site = []) :
    exec (.pageFaultServiced (.agent ag) writes) s = .next ((s.mapped site g.ctx writes).unpark ag) := by
  change execPageFaultServiced (.agent ag) writes s = _
  simp only [execPageFaultServiced, hg, hsite, Option.getD_some, State.mapPages_eq hy hfits hheld, State.park?_eq_some.mpr hrun,
    Option.bind_some, hfault]

theorem exec_pageFaultRefused {f : Flow} (hf : s.flow? ag = some f) (hrun : f.run = .parked p) (hfault : p.fault = some c)
    (hdbg : g.dbgHeld = none) : exec (.pageFaultRefused (.agent ag)) s = .next ((s.unpark ag).takeTrap ag.core ag.slot
      (g.act.fi ag.slice) c p.lane f.pc p.va) := by
  obtain ⟨va, access, lane, fault⟩ := p
  subst hfault
  change execPageFaultRefused (.agent ag) s = _
  simp only [execPageFaultRefused, hg, hf, hrun]
  exact if_pos (by rw [hdbg]; rfl)

end

/-- An update of a flow keeps every core's TLB. -/
theorem State.tlb_of_mem_modFlow {t : State} {ag : AgentRef} {F : Flow → Flow} (ht : (t.core? ag.core).isSome) {k : Core}
    (hk : k ∈ (t.modFlow ag F).cores) : ∃ c ∈ t.cores, c.ref = k.ref ∧ c.tlb = k.tlb := by
  have hany : (t.cores.any fun c => c.ref == ag.core) = true := by
    rw [State.core?, List.find?_isSome] at ht
    simpa using ht
  rw [State.modFlow, State.modGang, State.modCore, if_pos hany] at hk
  obtain ⟨c, hc, rfl⟩ := List.mem_map.mp hk
  refine ⟨c, hc, ?_⟩
  split <;> exact ⟨rfl, rfl⟩

/-- The host's service lets the parked agent go on, the context's translations forgotten. -/
theorem pageFaultServiced_agent {s : State} {ag : AgentRef} {g : Gang} {p : Park} {c : Cause} {writes : List (Nat × Dword)} {y : Island}
    {site : Nat} (hg : s.gang? ag.core ag.slot = some g) (hrun : s.run? ag = some (.parked p)) (hfault : p.fault = some c)
    (hsite : ag.core.site = some site) (hy : s.island? site = some y) (hfits : ∀ w ∈ writes, w.1 % 8 = 0 ∧ w.1 + 8 ≤ y.bytes)
    (hheld : s.heldPages site = []) : ∃ t, exec (.pageFaultServiced (.agent ag) writes) s = .next t ∧ t.run? ag = some .ready ∧
      ∀ k ∈ t.cores, k.ref.site = some site → ∀ e ∈ k.tlb, some e.ctx ≠ g.ctx := by
  have hsame : SameAgents s (s.mapped site g.ctx writes) := State.sameAgents_mapped
  have hcore : ((s.mapped site g.ctx writes).core? ag.core).isSome :=
    (hsame.core_isSome _).trans (Option.isSome_of_eq_some (State.core?_of_gang? hg))
  refine ⟨_, exec_pageFaultServiced hg hrun hfault hsite hy hfits hheld, State.run?_modFlow_same (fun _ => rfl) (hsame.run? hrun), ?_⟩
  intro k hk hksite e he
  obtain ⟨d, hd, href, htlb⟩ := State.tlb_of_mem_modFlow hcore hk
  exact State.mapped_tlb d hd (href ▸ hksite) e (htlb ▸ he)

/-! ### Remote operations that wait at their target (R379) -/

section
variable {s : State} {n : Nat} {o : Rop} {c : Cause} (ho : s.rop? n = some o) (hserve : o.serve = some c)
include ho

theorem State.rop?_modRop {f : Rop → Rop} (hf : ∀ o, (f o).id = o.id) : (s.modRop n f).rop? n = some (f o) := by
  have hid : o.id = n := by simpa using List.find?_some ho
  unfold State.rop? State.modRop at *
  rw [find_modify _ _ _ (fun o => by rw [hf]), ho]
  simp [hid]

include hserve

theorem pageFaultServiced_op {writes : List (Nat × Dword)} {y : Island} (hy : s.island? o.target = some y)
    (hfits : ∀ w ∈ writes, w.1 % 8 = 0 ∧ w.1 + 8 ≤ y.bytes) (hheld : s.heldPages o.target = []) :
    ∃ t, exec (.pageFaultServiced (.op n) writes) s = .next t ∧ t.rop? n = some { o with serve := none } := by
  have hrop : (s.mapped o.target o.charge.ctx writes).rop? n = some o := by
    rw [State.rop?, State.mapped_rops]
    exact ho
  refine ⟨_, ?_, State.rop?_modRop (f := fun o => { o with serve := none }) hrop fun _ => rfl⟩
  change execPageFaultServiced (.op n) writes s = _
  simp only [execPageFaultServiced, ho, State.mapPages_eq hy hfits hheld, hserve]

theorem pageFaultRefused_op : exec (.pageFaultRefused (.op n)) s =
    .next (s.modRop n fun o => { o with serve := none, refused := true }) := by
  change execPageFaultRefused (.op n) s = _
  simp only [execPageFaultRefused, ho, Option.bind_some, hserve]

end

/-! ### The end of a waiting MWAIT (R202) -/

section
variable {s : State} {ag : AgentRef} {g : Gang} {f : Flow} {d : Option Dword} {h : Hdr} {dst a : Opnd}
  (hg : s.gang? ag.core ag.slot = some g) (hf : s.flow? ag = some f) (hrun : f.run = .wait (.mwait d) (.mwait h dst a))
  (hfree : s.free? ag = true) (hthere : g.act.missing = [])
include hg hf

/-- The agent goes on past its MWAIT, disarmed. -/
theorem State.mwaitDone_ends (status : Word) : let t := s.mwaitDone ag h dst a status
    OnlyCore ag.core s t ∧ t.run? ag = some .ready ∧
      (t.flow? ag).map (fun f => (f.mon, f.pc)) = some (none, f.pc + BitVec.ofNat 64 (Instr.mwait h dst a).len) := by
  have hold : g.act.flows[g.act.fi ag.slice]? = some f := by rwa [State.flow?, hg] at hf
  have hflow : (g.act.flow (g.act.fi ag.slice)) = f := by
    rw [Body.flow, List.getD_eq_getElem?_getD, hold]
    rfl
  have hfi : (g.mwaitDone (g.act.fi ag.slice) h dst a status).act.fi ag.slice = g.act.fi ag.slice := by
    rw [Body.fi, Body.fi, Gang.mwaitDone_parted]
  have hnew : (s.mwaitDone ag h dst a status).flow? ag =
      some (f.mwaitEnds (Instr.mwait h dst a).len g.width status f) := by
    rw [State.mwaitDone, State.flow?_modGang hg fun g => Gang.mwaitDone_slot g _ h dst a status, hfi, Gang.mwaitDone_flows, hflow,
      modNth_getElem?, if_pos rfl, hold]
    rfl
  refine ⟨State.only_modGang hg _, ?_, ?_⟩
  · rw [State.run?, hnew]
    rfl
  · rw [hnew]
    rfl

include hrun hfree hthere

theorem State.mwaitEnd_eq (name : String) (status : Word) {c : Flow → Bool} (hc : c f = true) :
    s.mwaitEnd name ag status c = .next (s.mwaitDone ag h dst a status) := by
  have hwait : f.inMwait = some (.mwait h dst a) := by rw [Flow.inMwait, hrun]
  have hbare : ((s.gang? ag.core ag.slot).map fun g => !g.act.missing.isEmpty).getD false = false := by
    rw [hg, Option.map_some, hthere]
    rfl
  simp only [State.mwaitEnd, hf, hwait, hbare, hfree, hc]
  rfl

end

/-! ### A gang that the debugger lets go on (R354) -/

/-- The flow that the debugger held stands at sy.epc, whether its wait goes on or not. -/
theorem Flow.resumeAt_pc (f : Flow) (epc : Dword) : (f.resumeAt epc).pc = epc := by
  unfold Flow.resumeAt
  split
  · split
    · next h => exact beq_iff_eq.mp h
    · rfl
  · split
    · next h => exact beq_iff_eq.mp h
    · rfl
  · rfl

/-- A gang that the debugger lets go on. -/
def Gang.resumed (fi : Nat) (g : Gang) : Gang :=
  { g.modAct (fun b => (b.modFlow fi fun f => f.resumeAt g.epc).passBps) with dbgHeld := none }

theorem Gang.resumed_pc {g : Gang} {fi : Nat} (h : g.act.flows[fi]? ≠ none) : ((g.resumed fi).act.flow fi).pc = g.epc := by
  obtain ⟨f, hf⟩ := Option.ne_none_iff_exists'.mp h
  have hact : (g.resumed fi).act = (g.act.modFlow fi fun f => f.resumeAt g.epc).passBps := Gang.act_modAct g _
  have hflow : (g.resumed fi).act.flow fi = { f.resumeAt g.epc with passBp := true } := by
    rw [hact, Body.flow, Body.passBps, List.getD_eq_getElem?_getD, List.getElem?_map, Body.modFlow_flows, modNth_getElem?,
      if_pos rfl, hf]
    rfl
  rw [hflow]
  exact f.resumeAt_pc g.epc

/-! ### A replay whose tile operations have settled (R340) -/

section
variable {s : State} {ag : AgentRef} {g : Gang} {f : Flow} {region : Region} (hg : s.gang? ag.core ag.slot = some g)

/-- A flow at the start of its region. -/
def Flow.restarted (r : Region) (f : Flow) : Flow :=
  { f with pc := r.entry, xm := r.xm, stack := r.stack, win := resetWin f.win, run := .ready, due := none }

theorem Gang.replayed_flows (g : Gang) (r : Region) : (g.replayed r).act.flows = g.act.flows.map (Flow.restarted r) := by
  have hact : (g.replayed r).act.flows = _ := congrArg Body.flows (Gang.act_modAct g _)
  exact hact.trans (foldl_keeps (fun b : Body => b.flows) (fun b p => b.setRow p.1 p.2) (fun _ _ => rfl) r.rows _)

theorem Gang.replayed_slot (g : Gang) (r : Region) : (g.replayed r).slot = g.slot := Gang.modAct_slot g _

include hg

theorem exec_regionReplay (hf : s.flow? ag = some f) (hregion : g.region = some region) (hrun : f.run = .replay)
    (hthere : g.act.missing = []) (hidle : ∀ o ∈ (s.core ag.core).tops, o.gang ≠ g.uid) :
    exec (.regionReplay ag) s = .next (s.modGang ag.core ag.slot fun g => g.replayed region) := by
  have hsettled : ((s.core ag.core).tops.any fun t => t.gang == g.uid) = false := by simpa using hidle
  change execRegionReplay ag s = _
  simp only [execRegionReplay, hg, hf, hregion, hthere, hrun, hsettled]
  rfl

theorem regionReplay_restarts (hf : s.flow? ag = some f) (hregion : g.region = some region) (hrun : f.run = .replay)
    (hthere : g.act.missing = []) (hidle : ∀ o ∈ (s.core ag.core).tops, o.gang ≠ g.uid) :
    ∃ t g', exec (.regionReplay ag) s = .next t ∧ OnlyCore ag.core s t ∧ t.gang? ag.core ag.slot = some g' ∧
      g'.region = some { region with replays := region.replays + 1 } ∧
      ∀ y ∈ g'.act.flows, y.pc = region.entry ∧ y.xm = region.xm ∧ y.stack = region.stack ∧ y.run = .ready ∧
        ∀ z ∈ y.win, z.full = false := by
  refine ⟨_, _, exec_regionReplay hg hf hregion hrun hthere hidle, State.only_modGang hg _,
    State.gang?_modGang_same hg fun g => g.replayed_slot region, rfl, fun y hy => ?_⟩
  rw [Gang.replayed_flows] at hy
  obtain ⟨f, -, rfl⟩ := List.mem_map.mp hy
  refine ⟨rfl, rfl, rfl, rfl, fun z hz => ?_⟩
  obtain ⟨w, -, rfl⟩ := List.mem_map.mp hz
  rfl

/-! ### State errors, aging and the debugger's resume (R316, R344, R354) -/

theorem mcStateUe_pends : ∃ t g', exec (.mcStateUe ag) s = .next t ∧ OnlyCore ag.core s t ∧
    t.gang? ag.core ag.slot = some g' ∧ g'.pend.any (fun p => p.cause == .mcStateUe) = true ∧ g'.act = g.act :=
  ⟨_, _, if_pos (Option.isSome_of_eq_some hg), State.only_modGang hg _,
    State.gang?_modGang_same hg fun g => g.addPending_slot _ _, g.addPending_pend _ _, g.addPending_act _ _⟩

theorem agedPromotion_ages (hf : s.flow? ag = some f) (hrun : f.run = .ready) (hlong : Config.agedCycles ≤ f.readyFor)
    (hyoung : f.aged = false) : ∃ t, exec (.agedPromotion ag) s = .next t ∧ OnlyCore ag.core s t ∧
      (t.flow? ag).map (fun f => f.aged) = some true := by
  refine ⟨s.modFlow ag fun f => { f with aged := true }, ?_, State.only_modGang hg _, ?_⟩
  · change execAgedPromotion ag s = _
    simp only [execAgedPromotion, hf]
    exact if_pos (by simp [hlong, hyoung, hrun])
  · rw [State.flow?_modFlow_same hg, hf]
    rfl

theorem debugResume_resumes {fi : Nat} (hheld : g.dbgHeld = some fi) : ∃ t g', exec (.debugResume ag) s = .next t ∧
    OnlyCore ag.core s t ∧ t.gang? ag.core ag.slot = some g' ∧ g'.dbgHeld = none ∧
    (g.act.flows[fi]? ≠ none → (g'.act.flow fi).pc = g.epc) := by
  refine ⟨s.modGang ag.core ag.slot (Gang.resumed fi), g.resumed fi, ?_, State.only_modGang hg _,
    State.gang?_modGang_same hg fun g => Gang.modAct_slot g _, rfl, Gang.resumed_pc⟩
  change execDebugResume ag s = _
  simp only [execDebugResume, hg, Option.bind_some, hheld]
  rfl

end

/-- Settles O47: each step by what it makes of the agent's flow, its gang or the operation. -/
theorem agentSteps : Obligations.AgentSteps := by
  intro s ag g f r now hg hf
  have hnow {t : State} : now t = t.run? ag := rfl
  have hrun {v : Run} (h : f.run = v) : s.run? ag = some v := by rw [State.run?, hf, Option.map_some, h]
  refine ⟨?_, ?_, ?_, ?_, ?_, ?_, mcStateUe_pends hg, ?_, fun fi hheld => debugResume_resumes hg hheld⟩
  · intro p y k hpark hfault hy hk
    exact ⟨fun e he => tlbWalkDone_found hg (hrun hpark) hfault hy hk he,
      fun he => tlbWalkDone_missed hg (hrun hpark) hfault hy hk he⟩
  · intro p c writes site y hpark hfault hsite hy hfits hheld
    exact pageFaultServiced_agent hg (hrun hpark) hfault hsite hy hfits hheld
  · intro p c hpark hfault hdbg
    exact exec_pageFaultRefused hg hf hpark hfault hdbg
  · intro n o c y writes ho hserve
    exact ⟨fun hy hfits hheld => pageFaultServiced_op ho hserve hy hfits hheld, pageFaultRefused_op ho hserve⟩
  · intro d h dst a hwait hfree hthere ended
    refine ⟨⟨_, ?_, State.mwaitDone_ends hg hf 1⟩, fun m hm htrigger => ⟨_, ?_, State.mwaitDone_ends hg hf 0⟩⟩
    · exact State.mwaitEnd_eq hg hf hwait hfree hthere "MWAIT_TIMEOUT" 1 rfl
    · exact State.mwaitEnd_eq hg hf hwait hfree hthere "MWAIT_WAKE" 0 (by rw [hm]; exact htrigger)
  · intro region hregion hreplay hthere hidle
    exact regionReplay_restarts hg hf hregion hreplay hthere hidle
  · intro hready hlong hyoung
    exact agedPromotion_ages hg hf hready hlong hyoung
end Sys2Proof.Machine
